-- ==== Sys2Proof/Word.lean ====
section
/-! DEFINITION. The word types of the LK7-2408 and their plainest arithmetic (spec/00_scope.md R2, R3). -/

namespace Sys2Proof

/-- A 64-bit scalar value (R81). -/
abbrev Word := BitVec 64

/-- One byte (R3). -/
abbrev Byte := BitVec 8

/-- A vector register of 1,024 bits (R128). -/
abbrev VWord := BitVec 1024

/-- A list of (key, value) pairs: how the state holds anything sparse. -/
abbrev Assoc (α : Type) := List (Nat × α)

end Sys2Proof
end

