-- ==== Sys2Proof/Syntax.lean ====
section
/-! DEFINITION. The instructions and events of spec/opcode_table.json, one constructor a row, over typed operands
(spec/02_encoding_and_assembly.md R23 to R38 and the encoding table of each chapter). -/

namespace Sys2Proof

/-- The guard of an instruction (R24): predicate `pred`, negated when `neg`. -/
structure Guard where
  pred : BitVec 3
  neg : Bool
  deriving DecidableEq, Repr

/-- A scalar source specifier (R34). -/
inductive SSrc where
  | g (n : BitVec 6) | o (n : BitVec 3) | lat | zr | q (n : BitVec 3) | i (n : BitVec 2)
  deriving DecidableEq, Repr

/-- A scalar destination specifier (R34). -/
inductive SDst where
  | g (n : BitVec 6) | o (n : BitVec 3) | zr | q (n : BitVec 3)
  deriving DecidableEq, Repr

/-- A vector source specifier (R34). -/
inductive VSrc where
  | v (n : BitVec 5) | o (n : BitVec 2) | lat | zr
  deriving DecidableEq, Repr

/-- A vector destination specifier (R34). -/
inductive VDst where
  | v (n : BitVec 5) | o (n : BitVec 2) | zr
  deriving DecidableEq, Repr

/-- An integer type (R38 codes 0x0 to 0x7, R110). -/
inductive IntTy where
  | s8 | s16 | s32 | s64 | n8 | n16 | n32 | n64
  deriving DecidableEq, Repr

/-- The floating-point types of arithmetic (R112). -/
inductive FTy where
  | f32 | f64
  deriving DecidableEq, Repr

/-- The floating-point formats (R56). -/
inductive FpTy where
  | f32 | f64 | bf16 | e4m3 | e5m2
  deriving DecidableEq, Repr

/-- A type code of R38: an integer type, a floating-point format or a weight integer. -/
inductive ElemTy where
  | int (t : IntTy) | fp (t : FpTy) | q3 | q4
  deriving DecidableEq, Repr

/-- A rounding mode as an instruction names it (R63). -/
inductive RMode where
  | rne | rtz | rup | rdn | srd | dyn
  deriving DecidableEq, Repr

/-- Conditions of integer comparisons (R118). -/
inductive ICond where
  | eq | ne | lt | le | gt | ge | tst | ntst
  deriving DecidableEq, Repr

/-- Conditions of floating-point comparisons (R124). -/
inductive FCond where
  | eq | ne | lt | le | gt | ge | uno | ord
  deriving DecidableEq, Repr

/-- Access sizes of format M (R29). -/
inductive Size where
  | b | h | w | d | q
  deriving DecidableEq, Repr

/-- The ordering attribute ORD (R29). -/
inductive MemOrd where
  | plain | acq | rel | sc
  deriving DecidableEq, Repr

/-- A memory operand of format M (R30). -/
structure MemOp where
  base : SSrc
  index : SSrc
  scl : BitVec 2
  disp : BitVec 32
  deriving DecidableEq, Repr

/-- The mask of a vector instruction: mask register and zeroing (R129, R132). -/
structure VCtl where
  mask : BitVec 3
  zm : Bool
  deriving DecidableEq, Repr

/-- The four kinds of `pmov` (R104). -/
inductive PmovForm where
  | toPred (a : SSrc) | fromPred (d : SDst) | toMask (a : SSrc) | fromMask (d : SDst)
  deriving DecidableEq, Repr

/-- The operations of `vred` and `vscan` (R134). -/
inductive RedOp where
  | add | min | max | and | or | xor
  deriving DecidableEq, Repr

/-- The operations of `vfred` (R142). -/
inductive FRedOp where
  | add | min | max
  deriving DecidableEq, Repr

/-- The operations of `amo` and `red` (R221). -/
inductive AmoOp where
  | add | smin | smax | nmin | nmax | and | or | xor | swap | fadd
  deriving DecidableEq, Repr

/-- What `cwait` and `cread` read: a counter in memory at a scope, or a timeline (R221). -/
inductive CtrSrc where
  | mem (m : MemOp) (scope : BitVec 5) | copyTl | matTl
  deriving DecidableEq, Repr

/-- The kinds of `nmop` (R323). -/
inductive NmKind where
  | add32 | addf | addx | cx | axpy
  deriving DecidableEq, Repr

/-- The kinds of `mtrs` (R259). -/
inductive SolveKind where
  | l | lt | l1 | u
  deriving DecidableEq, Repr

/-- What `cancel` names (R366). -/
inductive CancelSel where
  | launch (a : SSrc) | graph (a : SSrc) | phase (a : SSrc) | job
  deriving DecidableEq, Repr

/-- The three message networks (R295). -/
inductive Net where
  | request | reply | class0
  deriving DecidableEq, Repr

/-- Where a message leaves from (R288, R299). -/
inductive Outlet where
  | sendQueue | replyBuffer | noticeBuffer
  deriving DecidableEq, Repr

/-- The three paths of a matrix unit (R241). -/
inductive MPath where
  | bPath | macArray | outPath
  deriving DecidableEq, Repr

/-- How a host completion of CXL.io ends (R235, R391). -/
inductive CplStatus where
  | ok | poisoned | abort
  deriving DecidableEq, Repr

/-- The units whose error events start a self-test (R386). -/
inductive ErrUnit where
  | plate | array | logic | link | dramRow | bondGroup
  deriving DecidableEq, Repr

/-- The instructions of R36 and the events of spec/95_what_each_step_holds.md, in the table's order. Device tiles,
cores, contexts and list positions are plain numbers; a position that names nothing makes the event idle. -/
inductive Instr where
  -- control, R98
  | nop (g : Guard) (hdr : Option (BitVec 6))
  | brk (g : Guard) (code : BitVec 16)
  | br (g : Guard) (neg : Bool) (p : BitVec 3) (ofs : BitVec 34)
  | jmp (g : Guard) (ofs : BitVec 34)
  | call (g : Guard) (link : BitVec 6) (ofs : BitVec 34)
  | jr (g : Guard) (a : SSrc)
  | callr (g : Guard) (link : BitVec 6) (a : SSrc)
  | ret (g : Guard) (a : SSrc)
  | plog (g : Guard) (pd pa pb : BitVec 3) (tt : BitVec 4)
  | pmov (g : Guard) (n : BitVec 3) (f : PmovForm)
  | nest (g : Guard) (ps : BitVec 3) (a b c : SSrc) (stp : BitVec 32)
  | iter (g : Guard) (ofs : BitVec 34)
  | align (g : Guard) (k : BitVec 4)
  | alignTimeout (tile core ctx : Nat)
  | done (g : Guard)
  | doneComplete (tile core ctx : Nat)
  | who (g : Guard) (d : SDst) (sel : BitVec 2)
  -- scalar integer, R114
  | li (g : Guard) (d : SDst) (imm : BitVec 64)
  | mov (g : Guard) (d : SDst) (a : SSrc)
  | add (g : Guard) (ty : IntTy) (d : SDst) (a b : SSrc)
  | addi (g : Guard) (d : SDst) (a : SSrc) (imm : BitVec 28)
  | sub (g : Guard) (ty : IntTy) (d : SDst) (a b : SSrc)
  | mul (g : Guard) (ty : IntTy) (d : SDst) (a b : SSrc)
  | muli (g : Guard) (d : SDst) (a : SSrc) (imm : BitVec 28)
  | mulh (g : Guard) (ty : IntTy) (d : SDst) (a b : SSrc)
  | div (g : Guard) (ty : IntTy) (d : SDst) (a b : SSrc)
  | rem (g : Guard) (ty : IntTy) (d : SDst) (a b : SSrc)
  | and (g : Guard) (ty : IntTy) (d : SDst) (a b : SSrc)
  | andi (g : Guard) (d : SDst) (a : SSrc) (imm : BitVec 28)
  | or (g : Guard) (ty : IntTy) (d : SDst) (a b : SSrc)
  | ori (g : Guard) (d : SDst) (a : SSrc) (imm : BitVec 28)
  | xor (g : Guard) (ty : IntTy) (d : SDst) (a b : SSrc)
  | xori (g : Guard) (d : SDst) (a : SSrc) (imm : BitVec 28)
  | andn (g : Guard) (ty : IntTy) (d : SDst) (a b : SSrc)
  | shl (g : Guard) (ty : IntTy) (d : SDst) (a b : SSrc)
  | shli (g : Guard) (d : SDst) (a : SSrc) (imm : BitVec 28)
  | shr (g : Guard) (ty : IntTy) (d : SDst) (a b : SSrc)
  | shri (g : Guard) (d : SDst) (a : SSrc) (imm : BitVec 28)
  | sar (g : Guard) (ty : IntTy) (d : SDst) (a b : SSrc)
  | sari (g : Guard) (d : SDst) (a : SSrc) (imm : BitVec 28)
  | rol (g : Guard) (ty : IntTy) (d : SDst) (a b : SSrc)
  | roli (g : Guard) (d : SDst) (a : SSrc) (imm : BitVec 28)
  | min (g : Guard) (ty : IntTy) (d : SDst) (a b : SSrc)
  | max (g : Guard) (ty : IntTy) (d : SDst) (a b : SSrc)
  | abs (g : Guard) (ty : IntTy) (d : SDst) (a : SSrc)
  | neg (g : Guard) (ty : IntTy) (d : SDst) (a : SSrc)
  | sel (g : Guard) (n : BitVec 3) (d : SDst) (a b : SSrc)
  | cmp (g : Guard) (ty : IntTy) (cc : ICond) (pd : BitVec 3) (a b : SSrc)
  | cmpi (g : Guard) (cc : ICond) (pd : BitVec 3) (a : SSrc) (imm : BitVec 28)
  | clz (g : Guard) (ty : IntTy) (d : SDst) (a : SSrc)
  | ctz (g : Guard) (ty : IntTy) (d : SDst) (a : SSrc)
  | popc (g : Guard) (ty : IntTy) (d : SDst) (a : SSrc)
  | brev (g : Guard) (ty : IntTy) (d : SDst) (a : SSrc)
  | bfx (g : Guard) (signed : Bool) (d : SDst) (a : SSrc) (pos lm1 : BitVec 6)
  | bfi (g : Guard) (d : SDst) (a b : SSrc) (pos lm1 : BitVec 6)
  | ext (g : Guard) (ty : IntTy) (d : SDst) (a : SSrc)
  | lea (g : Guard) (d : SDst) (a b : SSrc) (scl : BitVec 2) (disp : BitVec 15)
  -- scalar floating point, R121
  | fadd (g : Guard) (ty : FTy) (rm : RMode) (d : SDst) (a b : SSrc)
  | fsub (g : Guard) (ty : FTy) (rm : RMode) (d : SDst) (a b : SSrc)
  | fmul (g : Guard) (ty : FTy) (rm : RMode) (d : SDst) (a b : SSrc)
  | fma (g : Guard) (ty : FTy) (rm : RMode) (d : SDst) (a b c : SSrc)
  | fdiv (g : Guard) (ty : FTy) (rm : RMode) (d : SDst) (a b : SSrc)
  | fsqrt (g : Guard) (ty : FTy) (rm : RMode) (d : SDst) (a : SSrc)
  | frcp (g : Guard) (ty : FTy) (rm : RMode) (d : SDst) (a : SSrc)
  | frsq (g : Guard) (ty : FTy) (rm : RMode) (d : SDst) (a : SSrc)
  | fmin (g : Guard) (ty : FTy) (d : SDst) (a b : SSrc)
  | fmax (g : Guard) (ty : FTy) (d : SDst) (a b : SSrc)
  | fabs (g : Guard) (ty : FpTy) (d : SDst) (a : SSrc)
  | fneg (g : Guard) (ty : FpTy) (d : SDst) (a : SSrc)
  | fcmp (g : Guard) (ty : FTy) (cc : FCond) (pd : BitVec 3) (a b : SSrc)
  | fclass (g : Guard) (ty : FpTy) (d : SDst) (a : SSrc)
  | fcvt (g : Guard) (ty dty : ElemTy) (rm : RMode) (d : SDst) (a : SSrc)
  | faddi (g : Guard) (d : SDst) (a : SSrc) (imm : BitVec 16)
  | fmuli (g : Guard) (d : SDst) (a : SSrc) (imm : BitVec 16)
  -- vector integer, R134
  | vadd (g : Guard) (ty : IntTy) (c : VCtl) (d : VDst) (a b : VSrc)
  | vsub (g : Guard) (ty : IntTy) (c : VCtl) (d : VDst) (a b : VSrc)
  | vmul (g : Guard) (ty : IntTy) (c : VCtl) (d : VDst) (a b : VSrc)
  | vmad (g : Guard) (ty : IntTy) (c : VCtl) (d : VDst) (a b x : VSrc)
  | vmin (g : Guard) (ty : IntTy) (c : VCtl) (d : VDst) (a b : VSrc)
  | vmax (g : Guard) (ty : IntTy) (c : VCtl) (d : VDst) (a b : VSrc)
  | vabs (g : Guard) (ty : IntTy) (c : VCtl) (d : VDst) (a : VSrc)
  | vneg (g : Guard) (ty : IntTy) (c : VCtl) (d : VDst) (a : VSrc)
  | vand (g : Guard) (ty : IntTy) (c : VCtl) (d : VDst) (a b : VSrc)
  | vor (g : Guard) (ty : IntTy) (c : VCtl) (d : VDst) (a b : VSrc)
  | vxor (g : Guard) (ty : IntTy) (c : VCtl) (d : VDst) (a b : VSrc)
  | vshl (g : Guard) (ty : IntTy) (c : VCtl) (d : VDst) (a b : VSrc)
  | vshr (g : Guard) (ty : IntTy) (c : VCtl) (d : VDst) (a b : VSrc)
  | vsar (g : Guard) (ty : IntTy) (c : VCtl) (d : VDst) (a b : VSrc)
  | vcmp (g : Guard) (signed : Bool) (c : VCtl) (cc : ICond) (md : BitVec 3) (a b : VSrc)
  | vsel (g : Guard) (mk : BitVec 3) (d : VDst) (a b : VSrc)
  | vaddi (g : Guard) (d : VDst) (a : VSrc) (imm : BitVec 28)
  | vred (g : Guard) (ty : IntTy) (op : RedOp) (c : VCtl) (d : SDst) (a : VSrc)
  | vscan (g : Guard) (ty : IntTy) (op : RedOp) (c : VCtl) (d : VDst) (a : VSrc)
  | vperm (g : Guard) (ty : IntTy) (c : VCtl) (d : VDst) (a b x : VSrc)
  | vbcast (g : Guard) (ty : IntTy) (c : VCtl) (d : VDst) (a : SSrc)
  | vextr (g : Guard) (ty : IntTy) (d : SDst) (a : VSrc) (b : SSrc)
  | vins (g : Guard) (ty : IntTy) (d : VDst) (a b : SSrc)
  | vmov (g : Guard) (c : VCtl) (d : VDst) (a : VSrc)
  | vmovFromIndex (g : Guard) (d : VDst) (b : SSrc)
  | vmovToIndex (g : Guard) (a : VSrc) (b : SSrc)
  | vmpop (g : Guard) (d : SDst) (n : BitVec 3) (first : Bool)
  | vmlog (g : Guard) (md ma mb : BitVec 3) (tt : BitVec 4)
  -- vector floating point and wide accumulator, R142
  | vfadd (g : Guard) (ty : FTy) (rm : RMode) (c : VCtl) (d : VDst) (a b : VSrc)
  | vfsub (g : Guard) (ty : FTy) (rm : RMode) (c : VCtl) (d : VDst) (a b : VSrc)
  | vfmul (g : Guard) (ty : FTy) (rm : RMode) (c : VCtl) (d : VDst) (a b : VSrc)
  | vfma (g : Guard) (ty : FTy) (rm : RMode) (c : VCtl) (d : VDst) (a b x : VSrc)
  | vfmin (g : Guard) (ty : FTy) (c : VCtl) (d : VDst) (a b : VSrc)
  | vfmax (g : Guard) (ty : FTy) (c : VCtl) (d : VDst) (a b : VSrc)
  | vfabs (g : Guard) (ty : FpTy) (inv : Bool) (c : VCtl) (d : VDst) (a : VSrc)
  | vfcmp (g : Guard) (ty : FTy) (c : VCtl) (cc : FCond) (md : BitVec 3) (a b : VSrc)
  | vfcvt (g : Guard) (ty dty : ElemTy) (part : BitVec 3) (rm : RMode) (c : VCtl) (d : VDst) (a : VSrc) (row : SSrc)
  | vexp2 (g : Guard) (rm : RMode) (c : VCtl) (d : VDst) (a : VSrc)
  | vlog2 (g : Guard) (rm : RMode) (c : VCtl) (d : VDst) (a : VSrc)
  | vrcp (g : Guard) (rm : RMode) (c : VCtl) (d : VDst) (a : VSrc)
  | vrsq (g : Guard) (rm : RMode) (c : VCtl) (d : VDst) (a : VSrc)
  | vfred (g : Guard) (ty : FTy) (op : FRedOp) (rm : RMode) (c : VCtl) (d : SDst) (a : VSrc)
  | wclr (g : Guard) (a : SSrc)
  | wadd (g : Guard) (ty : FTy) (m : MemOp) (c : SSrc)
  | wrd (g : Guard) (ty : FTy) (rm : RMode) (d : SDst) (a : SSrc)
  | wideUpdate (tile : Nat)
  | rng (g : Guard) (c : VCtl) (d : VDst)
  -- loads, stores, tensors, R179
  | ld (g : Guard) (sz : Size) (o : Bool) (ord : MemOrd) (rep : Bool) (scope : BitVec 5) (sx : Bool) (d : SDst)
      (m : MemOp)
  | st (g : Guard) (sz : Size) (o : Bool) (ord : MemOrd) (scope : BitVec 5) (m : MemOp) (c : SSrc)
  | vld (g : Guard) (sz : Size) (o : Bool) (acq rep : Bool) (scope : BitVec 5) (c : VCtl) (d : VDst) (m : MemOp)
  | vst (g : Guard) (sz : Size) (o : Bool) (rel : Bool) (scope : BitVec 5) (mk : BitVec 3) (m : MemOp) (c : VSrc)
  | vldx (g : Guard) (sz : Size) (o : Bool) (acq rep : Bool) (scope : BitVec 5) (sx : Bool) (c : VCtl) (d : VDst)
      (base : SSrc) (idx : VSrc) (scl : BitVec 2) (disp : BitVec 32)
  | vstx (g : Guard) (sz : Size) (o : Bool) (rel : Bool) (scope : BitVec 5) (mk : BitVec 3)
      (base : SSrc) (idx : VSrc) (scl : BitVec 2) (disp : BitVec 32) (c : VSrc)
  | tld (g : Guard) (o acq rep : Bool) (id : BitVec 8) (scope : BitVec 5) (c : VCtl) (d : VDst) (a b : SSrc)
  | tst (g : Guard) (o rel : Bool) (id : BitVec 8) (scope : BitVec 5) (mk : BitVec 3) (a b : SSrc) (c : VSrc)
  | pf (g : Guard) (rep sector : Bool) (m : MemOp)
  | tdef (g : Guard) (a b : SSrc)
  | tdefBroadcast (slot : Nat)
  | tget (g : Guard) (w : BitVec 3) (d : SDst) (a : SSrc)
  | taddr (g : Guard) (o : Bool) (id : BitVec 8) (d : SDst) (a b : SSrc)
  -- hashed grids, R341
  | hgl (g : Guard) (acq rep : Bool) (id : BitVec 8) (scope : BitVec 5) (c : VCtl) (d a : BitVec 5) (b : SSrc)
  | hgs (g : Guard) (id : BitVec 8) (scope : BitVec 5) (mk : BitVec 3) (ctr : SSrc) (a : BitVec 5) (b : SSrc)
      (c : BitVec 5)
  | hgw (g : Guard) (id : BitVec 8) (c : VCtl) (d a : BitVec 5) (b corner : SSrc)
  -- near memory and caches, R323, R327
  | nmop (g : Guard) (kind : NmKind) (nm1 : BitVec 12) (scope : BitVec 5) (aval : BitVec 32) (d : SDst) (a b c : SSrc)
  | nmopLineUpdate (tile core : Nat)
  | cinv (g : Guard) (all : Bool) (m : MemOp)
  | cwb (g : Guard) (drop : Bool) (m : MemOp)
  -- matrix units, R251
  | mwl (g : Guard) (slot o af8 : Bool) (id : BitVec 8) (d : SDst) (a b : SSrc)
  | mma (g : Guard) (acc slot o : Bool) (id : BitVec 8) (d : SDst) (a b : SSrc)
  | mst (g : Guard) (acc o clr fz8 : Bool) (rm : RMode) (id : BitVec 8) (d : SDst) (a b c : SSrc)
  | mclr (g : Guard) (acc : Bool) (d : SDst)
  | mclrLoad (g : Guard) (acc o : Bool) (id : BitVec 8) (d : SDst) (a b : SSrc)
  | mfac (g : Guard) (acc lu ptrap : Bool) (status : Option (BitVec 2)) (num : SDst) (a c : SSrc)
  | mtrs (g : Guard) (acc : Bool) (kind : SolveKind) (id : BitVec 8) (status : Option (BitVec 2)) (num : SDst)
      (a b : SSrc)
  | matrixTileStep (tile unit : Nat) (path : MPath)
  -- copy engine, rings, programs, R269
  | cpy (g : Guard) (tr o d4 : Bool) (sid did : BitVec 8) (mcax : BitVec 2) (mcmap : BitVec 24) (d : SDst)
      (a b c : SSrc)
  | cpyk (g : Guard) (d : SDst) (a b c : SSrc)
  | cfill (g : Guard) (d : SDst) (a b c : SSrc)
  | cring (g : Guard) (id : BitVec 8) (d : SDst) (a b c : SSrc)
  | copyGranule (tile core k : Nat)
  | fillCountUpdate (tile core : Nat)
  | rclaim (g : Guard) (cons : Bool) (id : BitVec 8) (scope : BitVec 5) (d : SDst)
  | rclaimNb (g : Guard) (ps : BitVec 3) (cons : Bool) (id : BitVec 8) (scope : BitVec 5) (d : SDst)
  | rclaimTimeout (tile core ctx : Nat)
  | rfree (g : Guard) (id : BitVec 8) (scope : BitVec 5) (a : SSrc)
  | fork (g : Guard) (a : SSrc) (ofs : BitVec 34)
  | rdv (g : Guard) (d : SDst)
  | programEnd (tile core ctx : Nat)
  | qpush (g : Guard) (qn : BitVec 3) (a : SSrc)
  | qpushNb (g : Guard) (ps qn : BitVec 3) (a : SSrc)
  | qpop (g : Guard) (qn : BitVec 3) (d : SDst)
  | qpopNb (g : Guard) (ps qn : BitVec 3) (d : SDst)
  -- atomics, fences, counters, R221
  | amo (g : Guard) (op : AmoOp) (dbl : Bool) (ord : MemOrd) (scope : BitVec 5) (d : SDst) (m : MemOp) (c : SSrc)
  | cas (g : Guard) (sz : Size) (ord : MemOrd) (scope : BitVec 5) (ps : BitVec 3) (d : SDst) (m : MemOp) (c : SSrc)
  | red (g : Guard) (op : AmoOp) (dbl rel : Bool) (scope : BitVec 5) (ctr : SSrc) (m : MemOp) (c : SSrc)
  | redVector (g : Guard) (op : AmoOp) (rel : Bool) (scope : BitVec 5) (ctr : SSrc) (m : MemOp) (c : VSrc)
  | fenceAcq (g : Guard) (scope : BitVec 5)
  | fenceRel (g : Guard) (scope : BitVec 5)
  | fenceSc (g : Guard) (scope : BitVec 5)
  | cadd (g : Guard) (ord : MemOrd) (scope : BitVec 5) (m : MemOp) (c : SSrc)
  | cwait (g : Guard) (src : CtrSrc) (d : SDst) (c : SSrc)
  | cwaitNb (g : Guard) (ps : BitVec 3) (src : CtrSrc) (d : SDst) (c : SSrc)
  | cwaitReread (tile core ctx : Nat)
  | cread (g : Guard) (acq : Bool) (src : CtrSrc) (d : SDst)
  | claim (g : Guard) (ord : MemOrd) (scope : BitVec 5) (d : BitVec 6) (m : MemOp) (c : SSrc)
  -- messages, R289
  | send (g : Guard) (delay : BitVec 20) (a : SSrc) (b : Option (BitVec 6)) (c : SSrc)
  | sendNb (g : Guard) (ps : BitVec 3) (delay : BitVec 20) (a : SSrc) (b : Option (BitVec 6)) (c : SSrc)
  | sendTrapping (g : Guard) (delay : BitVec 20) (a : SSrc) (b : Option (BitVec 6)) (c : SSrc)
  | sendOutcome (tile core ctx : Nat)
  | reply (g : Guard) (a : SSrc) (b : Option (BitVec 6)) (c : SSrc)
  | spawn (g : Guard) (det : Bool) (a : SSrc) (b : Option (BitVec 6)) (c : SSrc)
  | spawnNb (g : Guard) (ps : BitVec 3) (det : Bool) (a : SSrc) (b : Option (BitVec 6)) (c : SSrc)
  | mspill (g : Guard) (d : SDst) (a : SSrc)
  | mreplay (g : Guard) (d : SDst) (a : SSrc)
  | mstat (g : Guard) (sel : BitVec 3) (d : SDst)
  -- launches, traps, system registers, R366, R374
  | launch (g : Guard) (d : SDst) (a : SSrc)
  | cancel (g : Guard) (sel : CancelSel)
  | trap (g : Guard) (code : BitVec 16)
  | eret (g : Guard)
  | csrr (g : Guard) (d : SDst) (num : BitVec 12)
  | csrw (g : Guard) (num : BitVec 12) (a : SSrc)
  -- events of a core, a tile and the networks
  | asyncTrap (tile core ctx : Nat)
  | fetchDelivery (tile : Nat)
  | icacheFill (tile : Nat) (asid : BitVec 16) (block : BitVec 64)
  | accessPerform (tile k : Nat)
  | faultResolution (k : Nat) (resolved : Bool)
  | sideLogReplay (tile k : Nat)
  | arrival (tile k : Nat)
  | messageInjection (tile core : Nat) (out : Outlet)
  | delayExpiry (tile core : Nat)
  | messageArrival (tile core : Nat) (net : Net)
  | deferredAdmission (tile core : Nat) (net : Net)
  | creditedAdmission (tile core : Nat)
  | activationStart (tile core : Nat)
  | bitternStart (tile core : Nat)
  | governorCheck (tile : Nat)
  | governorMove (tile : Nat)
  -- events of dispatch
  | launchPortLaunch (w : BitVec 64)
  | launchPortCancel (w : BitVec 64)
  | dispatchLaunch (slot : Nat)
  | graphNodeFire (slot serial : Nat)
  | graphComplete (slot serial : Nat)
  | launchComplete (slot serial : Nat)
  | phaseEnd (slot : Nat)
  -- management
  | bind
  | preemptionComplete (tile : Nat)
  | unbind
  | unbindRelease (slot : Nat)
  | foldSwitch (tile : Nat)
  | map
  | unmap (asid : BitVec 16) (va : BitVec 64) (n : Nat)
  | halt (slot : Nat)
  | status
  | logread
  | logclr
  | monread
  | attest (nonce : BitVec 256)
  | update (image : BitVec 256) (version : Nat)
  | switch
  | switchReady
  | switchTimeout
  | egress
  | unknownCommand
  | mailboxResponse
  | bar0Write (ofs size : Nat) (val : BitVec 64)
  -- host, fabric, Ethernet
  | hostMemAccess (dpa : Nat) (len : Nat) (write : Option (List (BitVec 8)))
  | hostCompletion (k : Nat) (st : CplStatus) (data : List (BitVec 8))
  | hostRequestTimeout (k : Nat)
  | peerAccess (dpa : Nat) (len : Nat) (write : Option (List (BitVec 8)))
  | peerAtomic (dpa : Nat) (sz : Size) (op : Option AmoOp) (x y : BitVec 128)
  | frameIngress (port : Nat) (fcsOk : Bool) (stamp : BitVec 96) (frame : List (BitVec 8))
  | sluiceDelivery
  | egressTransmit (port : Nat) (stamp : BitVec 96)
  -- thermal, boot, power, monitors
  | thermalThrottle
  | thermalRaise
  | thermalTrip
  | coldReset
  | boot
  | monitorSample (temps : List (Nat × Nat)) (volts : List (Nat × Nat)) (procs : List (Nat × Nat))
  | voltageExcursion (tile : Nat)
  -- errors and maintenance
  | errorEvent (unit : ErrUnit) (place loc : Nat) (fixable : Bool)
  | busParityFail (home seg beat lane retries : Nat) (failed : Bool)
  | selfTestDone (k : Nat) (passed : Bool)
  | swapStart (home set member : Nat)
  | swapComplete (home set : Nat)
  | wsRefresh (tile bank : Nat)
  | wsDeadline (tile unit : Nat)
  | powerLoss
  deriving DecidableEq, Repr

end Sys2Proof
end

