-- ==== Sys2Proof/WellFormed.lean ====
section
/-! DEFINITION. Which instructions the scanner accepts (R33, R42 and the encoding tables): the checks that the typed
operands of Syntax do not already make. -/

namespace Sys2Proof

/-- Width in bits of an integer type (R110). -/
def IntTy.width : IntTy → Nat
  | .s8 | .n8 => 8
  | .s16 | .n16 => 16
  | .s32 | .n32 => 32
  | .s64 | .n64 => 64

/-- Whether an integer type is signed (R60). -/
def IntTy.signed : IntTy → Bool
  | .s8 | .s16 | .s32 | .s64 => true
  | _ => false

/-- Width in bits of a floating-point format (R56). -/
def FpTy.width : FpTy → Nat
  | .f32 => 32
  | .f64 => 64
  | .bf16 => 16
  | .e4m3 | .e5m2 => 8

/-- Width in bits of an element type; a packed q3 element counts its 3 bits (R60). -/
def ElemTy.width : ElemTy → Nat
  | .int t => t.width
  | .fp t => t.width
  | .q3 => 3
  | .q4 => 4

/-- The integer codes of R121: the integer types and the weight integers. -/
def ElemTy.isInt : ElemTy → Bool
  | .fp _ => false
  | _ => true

/-- Log2 of an access size in bytes (R29). -/
def Size.log : Size → Nat
  | .b => 0
  | .h => 1
  | .w => 2
  | .d => 3
  | .q => 4

/-- An access size in bytes (R29). -/
def Size.bytes (s : Size) : Nat := 2 ^ s.log

/-- The guard that means "never" is refused (R24). -/
def Guard.ok (g : Guard) : Bool := !(g.pred == 0 && g.neg)

/-- A destination the encoding tables restrict to 0x00-0x47 or `zr`: no queue (R251, R269, R121). -/
def SDst.notQ : SDst → Bool
  | .q _ => false
  | _ => true

/-- A destination of `csrr`: 0x00-0x47 only (R374). -/
def SDst.isReg : SDst → Bool
  | .g _ | .o _ => true
  | _ => false

/-- A source restricted to 0x00-0x47 or `zr` (R341). -/
def SSrc.isRegOrZr : SSrc → Bool
  | .g _ | .o _ | .zr => true
  | _ => false

/-- An even g register from g0 to g62 as a destination pair (R179, R221). -/
def SDst.evenG : SDst → Bool
  | .g n => n.toNat % 2 == 0
  | _ => false

/-- An even g register from g0 to g62 as a source pair (R179, R221). -/
def SSrc.evenG : SSrc → Bool
  | .g n => n.toNat % 2 == 0
  | _ => false

/-- The vector integer types NI of R134. -/
def IntTy.isNI (t : IntTy) : Bool := t.width ≤ 32

/-- The vector types of `vfcvt` (R145). -/
def ElemTy.vcvtOk : ElemTy → Bool
  | .int t => t.isNI
  | .fp _ => true
  | .q4 => true
  | .q3 => false

/-- The part limits of `vfcvt` (R145). -/
def vcvtPartOk (ty dty : ElemTy) (part : BitVec 3) : Bool :=
  let r := (Nat.max ty.width dty.width) / (Nat.min ty.width dty.width)
  r ≤ 8 && part.toNat < r

/-- The fields that a timeline source fixes are checked by the decoder; a memory source has none left (R221). -/
def CtrSrc.ok : CtrSrc → Bool := fun _ => true

/-- The ordering attributes of a load (R179). -/
def MemOrd.loadOk : MemOrd → Bool
  | .rel => false
  | _ => true

/-- The ordering attributes of a store (R179). -/
def MemOrd.storeOk : MemOrd → Bool
  | .acq => false
  | _ => true

/-- The addresses `cancel` may name (R366). -/
def CancelSel.ok : CancelSel → Bool
  | .launch a | .graph a | .phase a => a != .zr
  | .job => true

/-- The system registers of R377. -/
def csrNumbers : List Nat :=
  [0x000, 0x001, 0x002, 0x003, 0x010, 0x011, 0x012, 0x013, 0x014, 0x015, 0x016, 0x017, 0x018, 0x019, 0x01A, 0x01B]
    ++ [0x020, 0x021, 0x022, 0x023, 0x024, 0x025, 0x026, 0x027, 0x028, 0x029, 0x02A, 0x02B, 0x02C, 0x02D, 0x02E, 0x02F]
    ++ [0x030, 0x031, 0x032, 0x033, 0x034, 0x036, 0x037, 0x038, 0x039, 0x03A, 0x03B]

/-- The guard of an instruction; an event has none. -/
def Instr.guard? : Instr → Option Guard
  | .nop g _ | .brk g _ | .br g .. | .jmp g _ | .call g .. | .jr g _ | .callr g .. | .ret g _ | .plog g .. | .pmov g ..
  | .nest g .. | .iter g _ | .align g _ | .done g | .who g .. | .li g .. | .mov g .. | .add g .. | .addi g .. | .sub g ..
  | .mul g .. | .muli g .. | .mulh g .. | .div g .. | .rem g .. | .and g .. | .andi g .. | .or g .. | .ori g ..
  | .xor g .. | .xori g .. | .andn g .. | .shl g .. | .shli g .. | .shr g .. | .shri g .. | .sar g .. | .sari g ..
  | .rol g .. | .roli g .. | .min g .. | .max g .. | .abs g .. | .neg g .. | .sel g .. | .cmp g .. | .cmpi g ..
  | .clz g .. | .ctz g .. | .popc g .. | .brev g .. | .bfx g .. | .bfi g .. | .ext g .. | .lea g .. | .fadd g ..
  | .fsub g .. | .fmul g .. | .fma g .. | .fdiv g .. | .fsqrt g .. | .frcp g .. | .frsq g .. | .fmin g .. | .fmax g ..
  | .fabs g .. | .fneg g .. | .fcmp g .. | .fclass g .. | .fcvt g .. | .faddi g .. | .fmuli g .. | .vadd g .. | .vsub g ..
  | .vmul g .. | .vmad g .. | .vmin g .. | .vmax g .. | .vabs g .. | .vneg g .. | .vand g .. | .vor g .. | .vxor g ..
  | .vshl g .. | .vshr g .. | .vsar g .. | .vcmp g .. | .vsel g .. | .vaddi g .. | .vred g .. | .vscan g .. | .vperm g ..
  | .vbcast g .. | .vextr g .. | .vins g .. | .vmov g .. | .vmovFromIndex g .. | .vmovToIndex g .. | .vmpop g ..
  | .vmlog g .. | .vfadd g .. | .vfsub g .. | .vfmul g .. | .vfma g .. | .vfmin g .. | .vfmax g .. | .vfabs g ..
  | .vfcmp g .. | .vfcvt g .. | .vexp2 g .. | .vlog2 g .. | .vrcp g .. | .vrsq g .. | .vfred g .. | .wclr g .. | .wadd g ..
  | .wrd g .. | .rng g .. | .ld g .. | .st g .. | .vld g .. | .vst g .. | .vldx g .. | .vstx g .. | .tld g .. | .tst g ..
  | .pf g .. | .tdef g .. | .tget g .. | .taddr g .. | .hgl g .. | .hgs g .. | .hgw g .. | .nmop g .. | .cinv g ..
  | .cwb g .. | .mwl g .. | .mma g .. | .mst g .. | .mclr g .. | .mclrLoad g .. | .mfac g .. | .mtrs g .. | .cpy g ..
  | .cpyk g .. | .cfill g .. | .cring g .. | .rclaim g .. | .rclaimNb g .. | .rfree g .. | .fork g .. | .rdv g ..
  | .qpush g .. | .qpushNb g .. | .qpop g .. | .qpopNb g .. | .amo g .. | .cas g .. | .red g .. | .redVector g ..
  | .fenceAcq g .. | .fenceRel g .. | .fenceSc g .. | .cadd g .. | .cwait g .. | .cwaitNb g .. | .cread g .. | .claim g ..
  | .send g .. | .sendNb g .. | .sendTrapping g .. | .reply g .. | .spawn g .. | .spawnNb g .. | .mspill g ..
  | .mreplay g .. | .mstat g .. | .launch g .. | .cancel g .. | .trap g .. | .eret g | .csrr g .. | .csrw g .. => some g
  | .alignTimeout .. | .doneComplete .. | .wideUpdate .. | .tdefBroadcast .. | .nmopLineUpdate .. | .matrixTileStep ..
  | .copyGranule .. | .fillCountUpdate .. | .rclaimTimeout .. | .programEnd .. | .cwaitReread .. | .sendOutcome ..
  | .asyncTrap .. | .fetchDelivery .. | .icacheFill .. | .accessPerform .. | .faultResolution .. | .sideLogReplay ..
  | .arrival .. | .messageInjection .. | .delayExpiry .. | .messageArrival .. | .deferredAdmission ..
  | .creditedAdmission .. | .activationStart .. | .bitternStart .. | .governorCheck .. | .governorMove ..
  | .launchPortLaunch .. | .launchPortCancel .. | .dispatchLaunch .. | .graphNodeFire .. | .graphComplete ..
  | .launchComplete .. | .phaseEnd .. | .bind | .preemptionComplete .. | .unbind | .unbindRelease .. | .foldSwitch ..
  | .map | .unmap .. | .halt .. | .status | .logread | .logclr | .monread | .attest .. | .update .. | .switch
  | .switchReady | .switchTimeout | .egress | .unknownCommand | .mailboxResponse | .bar0Write .. | .hostMemAccess ..
  | .hostCompletion .. | .hostRequestTimeout .. | .peerAccess .. | .peerAtomic .. | .frameIngress .. | .sluiceDelivery
  | .egressTransmit .. | .thermalThrottle | .thermalRaise | .thermalTrip | .coldReset | .boot | .monitorSample ..
  | .voltageExcursion .. | .errorEvent .. | .busParityFail .. | .selfTestDone .. | .swapStart .. | .swapComplete ..
  | .wsRefresh .. | .wsDeadline .. | .powerLoss => none

/-- An event of the device, which no word encodes. -/
def Instr.isEvent (i : Instr) : Bool := i.guard?.isNone

/-- The checks of each entry on field values that the typed operands leave open. -/
def Instr.fieldsOk : Instr → Bool
  | .nop g (some h) => g.pred == 0 && !g.neg && (h.getLsbD 4 == false || h.extractLsb' 2 2 == 0)
  | .br _ ng p _ => !(ng && p == 0)
  | .nest _ _ _ _ _ stp => stp != 0
  | .bfx _ _ _ _ pos lm1 => pos.toNat + lm1.toNat ≤ 63
  | .bfi _ _ _ _ pos lm1 => pos.toNat + lm1.toNat ≤ 63
  | .abs _ ty _ _ => ty.signed
  | .fadd _ _ _ d _ _ | .fsub _ _ _ d _ _ | .fmul _ _ _ d _ _ | .fdiv _ _ _ d _ _ => d.notQ
  | .fma _ _ _ d _ _ _ => d.notQ
  | .fsqrt _ _ _ d _ | .frcp _ _ _ d _ | .frsq _ _ _ d _ => d.notQ
  | .fmin _ _ d _ _ | .fmax _ _ d _ _ => d.notQ
  | .fcvt _ ty dty rm d _ => d.notQ && (!(ty.isInt && dty.isInt) || rm == .rne)
  | .faddi _ d _ _ | .fmuli _ d _ _ => d.notQ
  | .vadd _ ty .. | .vsub _ ty .. | .vmul _ ty .. | .vmad _ ty .. | .vmin _ ty .. | .vmax _ ty .. | .vneg _ ty ..
  | .vand _ ty .. | .vor _ ty .. | .vxor _ ty .. | .vshl _ ty .. | .vshr _ ty .. | .vsar _ ty .. | .vred _ ty ..
  | .vperm _ ty .. | .vbcast _ ty .. | .vextr _ ty .. | .vins _ ty .. => ty.isNI
  | .vabs _ ty .. => ty.isNI && ty.signed
  | .vscan _ ty op .. => ty.isNI && (op == .add || op == .min || op == .max)
  | .vfcvt _ ty dty part rm _ _ _ _ =>
    ty.vcvtOk && dty.vcvtOk && (!(ty.isInt && dty.isInt) || rm == .rne) && vcvtPartOk ty dty part
  | .vfred _ _ op rm .. => op == .add || rm == .rne
  | .ld _ sz _ ord _ _ _ d _ => ord.loadOk && (sz != .q || d.evenG)
  | .st _ sz _ ord _ _ c => ord.storeOk && (sz != .q || c.evenG)
  | .vld _ sz o .. => sz != .q && (sz != .d || !o)
  | .vst _ sz o .. => sz != .q && (sz != .d || !o)
  | .vldx _ sz .. => sz == .b || sz == .h || sz == .w
  | .vstx _ sz .. => sz == .b || sz == .h || sz == .w
  | .hgl _ acq rep .. => !(acq && rep)
  | .hgs _ _ _ _ ctr .. => ctr.isRegOrZr
  | .nmop _ kind _ _ aval d .. => d.notQ && (kind == .axpy || aval == 0)
  | .mwl _ _ _ _ _ d .. => d.notQ
  | .mma _ _ _ _ _ d .. => d.notQ
  | .mst _ _ _ _ _ rm _ d .. => d.notQ && rm != .dyn
  | .mclr _ _ d => d.notQ
  | .mclrLoad _ _ _ _ d .. => d.notQ
  | .mfac _ _ _ _ _ num .. => num.notQ
  | .mtrs _ _ _ _ _ num .. => num.notQ
  | .cpy _ _ _ _ _ _ mcax mcmap d .. => d.notQ && (mcax != 0 || mcmap == 0)
  | .cpyk _ d .. | .cfill _ d .. => d.notQ
  | .cring _ _ d .. => d.notQ
  | .rclaimNb _ ps .. => ps != 0
  | .qpushNb _ ps .. => ps != 0
  | .qpopNb _ ps .. => ps != 0
  | .cwaitNb _ ps .. => ps != 0
  | .sendNb _ ps .. => ps != 0
  | .spawnNb _ ps .. => ps != 0
  | .amo _ op .. => op != .fadd
  | .cas _ sz _ _ _ d _ c => (sz == .w || sz == .d || sz == .q) && (sz != .q || (d.evenG && c.evenG))
  | .red _ op .. => op != .swap
  | .redVector _ op .. => op != .swap
  | .claim _ _ _ d .. => d.toNat % 2 == 0
  | .mstat _ k _ => k.toNat ≤ 5
  | .launch _ d _ => d.notQ
  | .cancel _ k => k.ok
  | .csrr _ d num => d.isReg && csrNumbers.contains num.toNat
  | .csrw _ num _ => csrNumbers.contains num.toNat
  | _ => true

/-- A well-formed instruction: one that some word of an accepted page encodes. An event is not one. -/
def Instr.wf (i : Instr) : Bool :=
  match i.guard? with
  | none => false
  | some g => g.ok && i.fieldsOk

end Sys2Proof
end

