-- ==== Sys2Proof/Machine/Float.lean ====
section
/-! DEFINITION. Number formats, rounding, flags and floating-point operations (spec/03_number_formats.md R56 to R71,
spec/05_scalar_arithmetic.md R122 to R126, spec/06_vector_lanes_and_wide_accumulators.md R143). -/

namespace Sys2Proof.Machine

/-- The five flags of R65: NX bit 0, UF bit 1, OF bit 2, DZ bit 3, NV bit 4. -/
abbrev Flags := BitVec 5

/-- The inexact flag (R66). -/
def fNX : Flags := 1
/-- The underflow flag (R66). -/
def fUF : Flags := 2
/-- The overflow flag (R66). -/
def fOF : Flags := 4
/-- The division-by-zero flag (R66). -/
def fDZ : Flags := 8
/-- The invalid flag (R66). -/
def fNV : Flags := 16

/-- A floating-point layout (R56): fraction bits, exponent bits, bias, and whether it has infinities (R57). -/
structure Fmt where
  mb : Nat
  eb : Nat
  bias : Nat
  hasInf : Bool
  deriving DecidableEq, Repr

/-- The layouts of R56. -/
def fmtOf : FpTy → Fmt
  | .f32 => ⟨23, 8, 127, true⟩
  | .f64 => ⟨52, 11, 1023, true⟩
  | .bf16 => ⟨7, 8, 127, true⟩
  | .e4m3 => ⟨3, 4, 7, false⟩
  | .e5m2 => ⟨2, 5, 15, true⟩

/-- The format of an arithmetic type (R112). -/
def ftyFp : FTy → FpTy
  | .f32 => .f32
  | .f64 => .f64

/-- Exponent of the smallest subnormal (R57). -/
def Fmt.qmin (f : Fmt) : Int := 1 - (f.bias : Int) - (f.mb : Int)

/-- Encoding of the largest finite magnitude (R56). -/
def Fmt.maxEnc (f : Fmt) : Nat := if f.hasInf then (2 ^ f.eb - 1) * 2 ^ f.mb - 1 else 2 ^ (f.eb + f.mb) - 2

/-- Encoding of positive infinity; E4M3 has none (R57). -/
def Fmt.infEnc (f : Fmt) : Nat := (2 ^ f.eb - 1) * 2 ^ f.mb

/-- The canonical NaN (R58). -/
def Fmt.nan (f : Fmt) : Nat := if f.hasInf then f.infEnc + 2 ^ (f.mb - 1) else 2 ^ (f.eb + f.mb) - 1

/-- Puts the sign bit on a magnitude encoding. -/
def Fmt.signed (f : Fmt) (neg : Bool) (enc : Nat) : Nat := if neg then enc + 2 ^ (f.eb + f.mb) else enc

/-- What an encoding means (R57): a NaN, an infinity, or a sign and magnitude `m * 2 ^ e`. -/
inductive FVal where
  | nan (signalling : Bool)
  | inf (neg : Bool)
  | fin (neg : Bool) (m : Nat) (e : Int)
  deriving DecidableEq, Repr

/-- The sign bit of an encoding. -/
def Fmt.sign (f : Fmt) (x : Nat) : Bool := x / 2 ^ (f.eb + f.mb) % 2 == 1

/-- The value of an encoding (R57); bits above the format are ignored (R112). -/
def Fmt.val (f : Fmt) (x : Nat) : FVal :=
  let frac := x % 2 ^ f.mb
  let ex := x / 2 ^ f.mb % 2 ^ f.eb
  let neg := f.sign x
  if f.hasInf && ex == 2 ^ f.eb - 1 then
    if frac = 0 then .inf neg else .nan (decide (frac < 2 ^ (f.mb - 1)))
  else if !f.hasInf && ex == 2 ^ f.eb - 1 && frac == 2 ^ f.mb - 1 then .nan false
  else if ex = 0 then .fin neg frac f.qmin
  else .fin neg (frac + 2 ^ f.mb) (f.qmin + (ex - 1 : Nat))

/-- Is the value a NaN. -/
def FVal.isNan : FVal → Bool
  | .nan _ => true
  | _ => false

/-- Is the value a signalling NaN. -/
def FVal.isSig : FVal → Bool
  | .nan b => b
  | _ => false

/-- The sign of a value. -/
def FVal.neg : FVal → Bool
  | .nan _ => false
  | .inf n => n
  | .fin n _ _ => n

/-- The value with its sign inverted. -/
def FVal.opp : FVal → FVal
  | .nan b => .nan b
  | .inf n => .inf (!n)
  | .fin n m e => .fin (!n) m e

/-- The threshold of R68 by its formula. -/
def dither (row col : Nat) : Nat :=
  let code (r c : Nat) : Nat := if r = 0 then c * 2 else 3 - c * 2
  code (row % 2) (col % 2) * 64 + code (row / 2 % 2) (col / 2 % 2) * 16 + code (row / 4 % 2) (col / 4 % 2) * 4
    + code (row / 8 % 2) (col / 8 % 2)

/-- Drops `sh` low bits of a magnitude under a mode (R63, R67): the kept integer, and whether anything was dropped.
`st` says that the exact value lies strictly between `m` and `m + 1`. -/
def roundKeep (rm : RMode) (t : Nat) (neg : Bool) (m : Nat) (st : Bool) (sh : Nat) : Nat × Bool :=
  let k := m / 2 ^ sh
  let r := m % 2 ^ sh
  let inexact := r != 0 || st
  let up :=
    match rm with
    | .rtz => false
    | .rup => inexact && !neg
    | .rdn => inexact && neg
    | .srd =>
      let w := r * 256 / 2 ^ sh
      let w := if r * 256 % 2 ^ sh ≠ 0 ∨ st then (if w % 2 = 0 then w + 1 else w) else w
      inexact && decide (t < w)
    | .rne | .dyn =>
      if 2 * r > 2 ^ sh then true
      else if 2 * r = 2 ^ sh ∧ sh ≠ 0 then (st || k % 2 == 1)
      else false
  (if up then k + 1 else k, inexact)

/-- What overflow delivers (R64). -/
def Fmt.ovf (f : Fmt) (rm : RMode) (neg : Bool) : Nat :=
  if !f.hasInf then f.signed neg f.maxEnc
  else
    match rm, neg with
    | .rtz, _ => f.signed neg f.maxEnc
    | .rup, true => f.signed true f.maxEnc
    | .rdn, false => f.maxEnc
    | _, _ => f.signed neg f.infEnc

/-- Rounds a non-negative magnitude `m * 2 ^ e` (with a sticky bit) to a format (R63, R64, R66, R67): the encoding and
the flags OF, UF and NX. `t` is the dither threshold. A sticky magnitude must have more bits than the format keeps. -/
def Fmt.round (f : Fmt) (rm : RMode) (t : Nat) (fz8 : Bool) (neg : Bool) (m : Nat) (e : Int) (st : Bool) : Nat × Flags :=
  if m = 0 ∧ st = false then (f.signed neg 0, 0)
  else
    let top := (Nat.log2 m : Int) + e
    let emin : Int := 1 - (f.bias : Int)
    if fz8 && !f.hasInf && decide (top < emin) then (f.signed neg 0, fUF ||| fNX)
    else
      let q := max (top - (f.mb : Int)) f.qmin
      let (k, inexact) := if e ≤ q then roundKeep rm t neg m st (q - e).toNat else (m * 2 ^ (e - q).toNat, false)
      let enc := (q - f.qmin).toNat * 2 ^ f.mb + k
      let trunc := (q - f.qmin).toNat * 2 ^ f.mb + (if e ≤ q then m / 2 ^ (q - e).toNat else m * 2 ^ (e - q).toNat)
      let past := decide (f.maxEnc < enc) || (rm == .srd && (decide (f.maxEnc < trunc) || (trunc == f.maxEnc && inexact)))
      if past then (f.ovf rm neg, fOF ||| fNX)
      else
        let full := top - (f.mb : Int)
        let kf := if e ≤ full then (roundKeep rm t neg m st (full - e).toNat).1 else m * 2 ^ (e - full).toNat
        let tiny := decide ((if kf = 2 ^ (f.mb + 1) then top + 1 else top) < emin)
        (f.signed neg enc, if inexact then (if tiny then fUF ||| fNX else fNX) else 0)

/-- A NaN result: the canonical NaN, with NV when asked (R58). -/
def Fmt.nanRes (f : Fmt) (inv : Bool) : Nat × Flags := (f.nan, if inv then fNV else 0)

/-- An infinite result. E4M3 has no infinity: the delivered value is its NaN with NV (R64). -/
def Fmt.infRes (f : Fmt) (neg : Bool) : Nat × Flags :=
  if f.hasInf then (f.signed neg f.infEnc, 0) else (f.nan, fNV)

/-- The exact sum of two finite magnitudes as a sign and magnitude at the lower exponent. -/
def exactSum (n₁ : Bool) (m₁ : Nat) (e₁ : Int) (n₂ : Bool) (m₂ : Nat) (e₂ : Int) : Int × Int :=
  let e := min e₁ e₂
  let a : Int := (m₁ * 2 ^ (e₁ - e).toNat : Nat)
  let b : Int := (m₂ * 2 ^ (e₂ - e).toNat : Nat)
  ((if n₁ then -a else a) + (if n₂ then -b else b), e)

/-- The sum of two values, rounded once (R122, R63 for the sign of a zero sum). -/
def addVal (f : Fmt) (rm : RMode) (t : Nat) (x y : FVal) : Nat × Flags :=
  match x, y with
  | .nan a, y => f.nanRes (a || y.isSig)
  | x, .nan b => f.nanRes (b || x.isSig)
  | .inf a, .inf b => if a = b then f.infRes a else f.nanRes true
  | .inf a, .fin _ _ _ => f.infRes a
  | .fin _ _ _, .inf b => f.infRes b
  | .fin n₁ m₁ e₁, .fin n₂ m₂ e₂ =>
    let s := exactSum n₁ m₁ e₁ n₂ m₂ e₂
    if s.1 = 0 then
      (f.signed (if n₁ = n₂ ∧ m₁ = 0 ∧ m₂ = 0 then n₁ else rm == .rdn) 0, 0)
    else f.round rm t false (decide (s.1 < 0)) s.1.natAbs s.2 false

/-- The product of two finite or infinite values; none for an invalid product. -/
def mulExact (x y : FVal) : Option FVal :=
  match x, y with
  | .nan _, _ | _, .nan _ => none
  | .inf a, .inf b => some (.inf (a != b))
  | .inf a, .fin n m _ => if m = 0 then none else some (.inf (a != n))
  | .fin n m _, .inf b => if m = 0 then none else some (.inf (n != b))
  | .fin n₁ m₁ e₁, .fin n₂ m₂ e₂ => some (.fin (n₁ != n₂) (m₁ * m₂) (e₁ + e₂))

/-- Delivers an exact value in a format. -/
def Fmt.deliver (f : Fmt) (rm : RMode) (t : Nat) (fz8 : Bool) : FVal → Nat × Flags
  | .nan a => f.nanRes a
  | .inf n => f.infRes n
  | .fin n m e => f.round rm t fz8 n m e false

/-- The product, rounded once (R122). -/
def mulVal (f : Fmt) (rm : RMode) (t : Nat) (x y : FVal) : Nat × Flags :=
  if x.isNan || y.isNan then f.nanRes (x.isSig || y.isSig)
  else
    match mulExact x y with
    | none => f.nanRes true
    | some v => f.deliver rm t false v

/-- `x * y + z`, rounded once; 0 × ∞ raises NV even when `z` is a quiet NaN (R122). -/
def fmaVal (f : Fmt) (rm : RMode) (t : Nat) (x y z : FVal) : Nat × Flags :=
  if x.isNan || y.isNan then f.nanRes (x.isSig || y.isSig || z.isSig)
  else
    match mulExact x y with
    | none => f.nanRes true
    | some v => addVal f rm t v z

/-- Bits that a quotient or root keeps beyond any format. -/
def guardBits : Nat := 140

/-- The quotient, rounded once (R122). -/
def divVal (f : Fmt) (rm : RMode) (t : Nat) (x y : FVal) : Nat × Flags :=
  match x, y with
  | .nan a, y => f.nanRes (a || y.isSig)
  | x, .nan b => f.nanRes (b || x.isSig)
  | .inf _, .inf _ => f.nanRes true
  | .inf a, .fin n _ _ => f.infRes (a != n)
  | .fin n _ _, .inf b => (f.signed (n != b) 0, 0)
  | .fin n₁ m₁ e₁, .fin n₂ m₂ e₂ =>
    let n := n₁ != n₂
    if m₂ = 0 then
      if m₁ = 0 then f.nanRes true else (f.signed n f.infEnc, fDZ)
    else if m₁ = 0 then (f.signed n 0, 0)
    else
      let k := guardBits + Nat.log2 m₂
      f.round rm t false n (m₁ * 2 ^ k / m₂) (e₁ - e₂ - (k : Int)) (m₁ * 2 ^ k % m₂ != 0)

/-- The integer square root below `2 ^ b`, bit by bit. -/
def isqrtAux (x : Nat) : Nat → Nat → Nat
  | 0, r => r
  | b + 1, r =>
    let r' := r + 2 ^ b
    isqrtAux x b (if r' * r' ≤ x then r' else r)

/-- The floor of the square root. -/
def isqrt (x : Nat) : Nat := isqrtAux x (Nat.log2 x / 2 + 1) 0

/-- The square root, rounded once (R122). -/
def sqrtVal (f : Fmt) (rm : RMode) (t : Nat) (x : FVal) : Nat × Flags :=
  match x with
  | .nan a => f.nanRes a
  | .inf n => if n then f.nanRes true else f.infRes false
  | .fin n m e =>
    if m = 0 then (f.signed n 0, 0)
    else if n then f.nanRes true
    else
      let odd := (e % 2).toNat
      let mm := m * 2 ^ (odd + 2 * guardBits)
      let r := isqrt mm
      f.round rm t false false r ((e - (odd : Int)) / 2 - (guardBits : Int)) (r * r != mm)

/-- The reciprocal, rounded once (R122). -/
def rcpVal (f : Fmt) (rm : RMode) (t : Nat) (x : FVal) : Nat × Flags := divVal f rm t (.fin false 1 0) x

/-- The reciprocal square root, rounded once (R122). -/
def rsqVal (f : Fmt) (rm : RMode) (t : Nat) (x : FVal) : Nat × Flags :=
  match x with
  | .nan a => f.nanRes a
  | .inf n => if n then f.nanRes true else (0, 0)
  | .fin n m e =>
    if m = 0 then (f.signed n f.infEnc, fDZ)
    else if n then f.nanRes true
    else
      let odd := (e % 2).toNat
      let mm := m * 2 ^ odd
      let k := guardBits + Nat.log2 mm
      let r := isqrt (2 ^ (2 * k) / mm)
      f.round rm t false false r (-((e - (odd : Int)) / 2) - (k : Int)) (r * r * mm != 2 ^ (2 * k))

/-- Fixed-point bits of the series below: every FP32 argument is at least 2^-150 away from a rounding boundary, so the
results are correctly rounded. -/
def seriesBits : Nat := 320

/-- Sum over k of `term_k`, where `term_(k+1) = term_k * num / (den * (k+1))`, in fixed point. -/
def expSum (y : Nat) : Nat → Nat → Nat → Nat → Nat
  | 0, _, _, acc => acc
  | fuel + 1, k, term, acc => expSum y fuel (k + 1) (term * y / (2 ^ seriesBits * (k + 1))) (acc + term)

/-- Sum of `z ^ (2k+1) / (2k+1)` in fixed point: the area hyperbolic tangent. -/
def atanhSum (z2 : Nat) : Nat → Nat → Nat → Nat → Nat
  | 0, _, _, acc => acc
  | fuel + 1, k, pow, acc => atanhSum z2 fuel (k + 1) (pow * z2 / 2 ^ seriesBits) (acc + pow / (2 * k + 1))

/-- The natural logarithm of 2 in fixed point: 2 atanh (1/3). -/
def ln2Fix : Nat := 2 * atanhSum (2 ^ seriesBits / 9) 104 0 (2 ^ seriesBits / 3) 0

/-- 2 ^ x for FP32, rounded once (R143). -/
def exp2Val (f : Fmt) (rm : RMode) (t : Nat) (x : FVal) : Nat × Flags :=
  match x with
  | .nan a => f.nanRes a
  | .inf n => if n then (0, 0) else f.infRes false
  | .fin n m e =>
    if m = 0 then f.round rm t false false 1 0 false
    else if (Nat.log2 m : Int) + e ≥ 12 then
      if n then f.round rm t false false (2 ^ 64) (-4096) true else f.round rm t false false 1 4096 false
    else
      let fx : Nat := if e ≥ 0 then m * 2 ^ (seriesBits + e.toNat) else m * 2 ^ seriesBits / 2 ^ (-e).toNat
      let v : Int := if n then -(fx : Int) else (fx : Int)
      let ip : Int := v / (2 ^ seriesBits : Nat)
      let fr : Nat := (v % (2 ^ seriesBits : Nat)).toNat
      if fr = 0 then f.round rm t false false 1 ip false
      else
        let s := expSum (fr * ln2Fix / 2 ^ seriesBits) 72 0 (2 ^ seriesBits) 0
        f.round rm t false false (s / 2 ^ 64) (ip - ((seriesBits - 64 : Nat) : Int)) true

/-- log2 x for FP32, rounded once (R143). -/
def log2Val (f : Fmt) (rm : RMode) (t : Nat) (x : FVal) : Nat × Flags :=
  match x with
  | .nan a => f.nanRes a
  | .inf n => if n then f.nanRes true else f.infRes false
  | .fin n m e =>
    if m = 0 then (f.signed true f.infEnc, fDZ)
    else if n then f.nanRes true
    else
      let l := Nat.log2 m
      let ex : Int := (l : Int) + e
      let d := m - 2 ^ l
      if d = 0 then f.round rm t false (decide (ex < 0)) ex.natAbs 0 false
      else
        let z := d * 2 ^ seriesBits / (m + 2 ^ l)
        let ln := 2 * atanhSum (z * z / 2 ^ seriesBits) 104 0 z 0
        let fr : Int := (ln * 2 ^ seriesBits / ln2Fix : Nat)
        let v : Int := ex * (2 ^ seriesBits : Nat) + fr
        f.round rm t false (decide (v < 0)) (v.natAbs / 2 ^ 64) (-((seriesBits - 64 : Nat) : Int)) true

/-- Orders two finite values. -/
def finLt (n₁ : Bool) (m₁ : Nat) (e₁ : Int) (n₂ : Bool) (m₂ : Nat) (e₂ : Int) : Bool :=
  decide ((exactSum n₁ m₁ e₁ (!n₂) m₂ e₂).1 < 0)

/-- `x < y` for values that are not NaN; −0 equals +0 here. -/
def FVal.lt (x y : FVal) : Bool :=
  match x, y with
  | .inf true, .inf true => false
  | .inf true, _ => true
  | _, .inf true => false
  | .inf false, _ => false
  | _, .inf false => true
  | .fin n₁ m₁ e₁, .fin n₂ m₂ e₂ => finLt n₁ m₁ e₁ n₂ m₂ e₂
  | _, _ => false

/-- The lesser or greater operand, bit for bit (R123). -/
def minMaxVal (f : Fmt) (isMax : Bool) (a b : Nat) : Nat × Flags :=
  let w := f.eb + f.mb + 1
  let a := a % 2 ^ w
  let b := b % 2 ^ w
  let x := f.val a
  let y := f.val b
  let fl : Flags := if x.isSig || y.isSig then fNV else 0
  if x.isNan && y.isNan then (f.nan, fl)
  else if x.isNan then (b, fl)
  else if y.isNan then (a, fl)
  else
    let less := x.lt y || (!(y.lt x) && x.neg && !y.neg)
    (if less != isMax then a else b, fl)

/-- The comparison of R124: the result and NV. -/
def fcmpVal (c : FCond) (x y : FVal) : Bool × Flags :=
  let un := x.isNan || y.isNan
  let sig := x.isSig || y.isSig
  let eq := !x.lt y && !y.lt x
  match c with
  | .eq => (!un && eq, if sig then fNV else 0)
  | .ne => (un || !eq, if sig then fNV else 0)
  | .lt => (!un && x.lt y, if un then fNV else 0)
  | .le => (!un && !y.lt x, if un then fNV else 0)
  | .gt => (!un && y.lt x, if un then fNV else 0)
  | .ge => (!un && !x.lt y, if un then fNV else 0)
  | .uno => (un, if sig then fNV else 0)
  | .ord => (!un, if sig then fNV else 0)

/-- The class mask of R125. -/
def fclassVal (f : Fmt) (x : Nat) : Nat :=
  match f.val x with
  | .nan s => if s then 2 ^ 8 else 2 ^ 9
  | .inf n => if n then 2 ^ 0 else 2 ^ 7
  | .fin n m _ =>
    if m = 0 then (if n then 2 ^ 3 else 2 ^ 4)
    else if m < 2 ^ f.mb then (if n then 2 ^ 2 else 2 ^ 5)
    else (if n then 2 ^ 1 else 2 ^ 6)

/-- Whether an integer code is signed; the weight integers are (R60). -/
def elemSigned : ElemTy → Bool
  | .int t => t.signed
  | _ => true

/-- Least value of an integer code (R60). -/
def elemLo (t : ElemTy) : Int := if elemSigned t then -(2 ^ (t.width - 1) : Nat) else 0

/-- Greatest value of an integer code (R60). -/
def elemHi (t : ElemTy) : Int := if elemSigned t then (2 ^ (t.width - 1) : Nat) - 1 else (2 ^ t.width : Nat) - 1

/-- The integer that a pattern of an integer code stands for (R60, R110). -/
def intVal (signed : Bool) (w x : Nat) : Int :=
  let p := x % 2 ^ w
  if signed && decide (2 ^ w ≤ 2 * p) then (p : Int) - (2 ^ w : Nat) else (p : Int)

/-- A real rounded to an integer under a mode, and whether it was inexact. -/
def roundToInt (rm : RMode) (t : Nat) (n : Bool) (m : Nat) (e : Int) : Int × Bool :=
  let (k, inexact) := if e ≥ 0 then (m * 2 ^ e.toNat, false) else roundKeep rm t n m false (-e).toNat
  (if n then -(k : Int) else (k : Int), inexact)

/-- The conversions of R69 and R126 on one element: the bits in the destination's width and the flags. Integers are
patterns of the destination's width. -/
def convert (ty dty : ElemTy) (rm : RMode) (t : Nat) (fz8 : Bool) (x : Nat) : Nat × Flags :=
  match ty, dty with
  | .fp a, .fp b =>
    let fa := fmtOf a
    let fb := fmtOf b
    if a = b then
      match fa.val x with
      | .nan s => fb.nanRes s
      | _ => (x % 2 ^ a.width, 0)
    else fb.deliver rm t fz8 (fa.val x)
  | .fp a, d =>
    match (fmtOf a).val x with
    | .nan _ => (0, fNV)
    | .inf n => (((if n then elemLo d else elemHi d) % (2 ^ d.width : Nat)).toNat, fNV)
    | .fin n m e =>
      let r := roundToInt rm t n m e
      if r.1 < elemLo d then ((elemLo d % (2 ^ d.width : Nat)).toNat, fNV)
      else if elemHi d < r.1 then ((elemHi d % (2 ^ d.width : Nat)).toNat, fNV)
      else ((r.1 % (2 ^ d.width : Nat)).toNat, if r.2 then fNX else 0)
  | s, .fp b =>
    let v := intVal (elemSigned s) s.width x
    (fmtOf b).round rm t fz8 (decide (v < 0)) v.natAbs 0 false
  | s, d => ((intVal (elemSigned s) s.width x % (2 ^ d.width : Nat)).toNat, 0)

/-- The immediate of `faddi` and `fmuli` as a value of the operation's type: exact for FP32 and FP64 (R71). -/
def immVal (imm : BitVec 16) : FVal :=
  match (fmtOf .bf16).val imm.toNat with
  | .nan _ => .nan false
  | v => v

/-- One term of the grid fixed point (R62). -/
def fixFromFP32 (x : Nat) (sc : Int) : Nat × Flags :=
  match (fmtOf .f32).val x with
  | .nan _ | .inf _ => (0, fNV)
  | .fin n m e => (((roundToInt .rne 0 n m (e + sc)).1 % (2 ^ 96 : Nat)).toNat, 0)

/-- A grid fixed-point entry as FP32 (R62). -/
def fixToFP32 (n : Nat) (sc : Int) (rm : RMode) (t : Nat) : Nat × Flags :=
  let v := intVal true 96 n
  (fmtOf .f32).round rm t false (decide (v < 0)) v.natAbs (-sc) false

end Sys2Proof.Machine
end

