-- ==== Sys2Proof/Config.lean ====
section
/-! DEFINITION. What an implementation fixes and the free values: constants without a body, so that no proof can see
what they are (notes/assumptions/10.md). -/

namespace Sys2Proof.Config

/-- The free values the step draws, one fresh value for each count of the state's `pick` counter. -/
opaque freeWord : Nat → BitVec 64

/-- The value by which a tile's cycle counter is ahead of the module's clock count: tiles' counters are not aligned
with each other (R109). -/
opaque cycleSkew : Nat → BitVec 64

/-- The public key and the HSS signature that a firmware image of a digest and version carries (R399). -/
opaque imageParts : BitVec 256 → Nat → List (BitVec 8) × List (BitVec 8)

/-- The identifier of the identity key's tree, the starts of the hash chains of each leaf, and the random value of each
leaf's signature (R400): secrets of the part. -/
opaque identityId : BitVec 128
opaque identityChain : Nat → Nat → BitVec 256
opaque identityRandom : Nat → BitVec 256

/-- The bytes in which a management command reports a list of numbers: the spec says what is reported and gives no
layout (R389, R400, R402). -/
opaque reportLayout : Nat → List Nat → List (BitVec 8)

/-- What host memory holds at a host physical address, for code that is mapped executable there (R42: it never
changes). -/
opaque hostCode : Nat → BitVec 8

/-- Spare lanes of a lateral link; the spec gives the number only for the vertical bus (R6, R386). -/
opaque lateralSpares : Nat

/-- The nominal tile voltage in mV (R402). -/
opaque nominalMv : Nat


/-- The set of an LLC slice, modulo 64, in which a sector of an address space lies: the spec gives the number of sets and
not the choice (R319). -/
opaque sliceSet : Nat → Nat → Nat

end Sys2Proof.Config
end

