-- ==== Sys2Proof/Decode.lean ====
section
/-! DEFINITION. The decoder, the scanner's checks in REASON order (spec/02_encoding_and_assembly.md R20 to R47) and the
encoder, from the encoding tables R98, R114, R121, R134, R142, R149, R179, R221, R251, R269, R289, R323, R327, R341,
R366 and R374. -/

namespace Sys2Proof

/-- Why a word is refused: the REASON codes of R45. -/
inductive Reason where
  | lengthCode | crossesBlock | tailWord | opcode | format | specifier | allotment | guardNever | twinP0 | reserved
  | value | header | handlerPage
  deriving DecidableEq, Repr

/-- The REASON code of R45. -/
def Reason.code : Reason → Nat
  | .lengthCode => 0x01
  | .crossesBlock => 0x02
  | .tailWord => 0x03
  | .opcode => 0x04
  | .format => 0x05
  | .specifier => 0x06
  | .allotment => 0x07
  | .guardNever => 0x08
  | .twinP0 => 0x09
  | .reserved => 0x0A
  | .value => 0x0B
  | .header => 0x0C
  | .handlerPage => 0x0D

/-- The fields of word 0 in the layout of format S, and word 1 (R23, R26, R31). -/
structure Raw where
  len : Nat
  op : Nat
  gp : Nat
  gn : Nat
  d : Nat
  a : Nat
  b : Nat
  c : Nat
  fn : Nat
  w1 : Nat
  deriving DecidableEq, Repr

/-- Bits [lo+n-1:lo] of a number. -/
def bits (x lo n : Nat) : Nat := x / 2 ^ lo % 2 ^ n

/-- Splits an instruction's bits into its fields (R23). -/
def Raw.unpack (w : Nat) : Raw where
  len := w % 4
  op := bits w 2 9
  gp := bits w 11 3
  gn := bits w 14 1
  d := bits w 15 7
  a := bits w 22 7
  b := bits w 29 7
  c := bits w 36 7
  fn := bits w 43 21
  w1 := bits w 64 64

/-- Joins the fields of an instruction into its bits (R23). -/
def Raw.pack (r : Raw) : Nat :=
  r.len + r.op * 2 ^ 2 + r.gp * 2 ^ 11 + r.gn * 2 ^ 14 + r.d * 2 ^ 15 + r.a * 2 ^ 22 + r.b * 2 ^ 29 + r.c * 2 ^ 36
    + r.fn * 2 ^ 43 + r.w1 * 2 ^ 64

/-- The six formats (R25 to R31). -/
inductive Format where
  | S | I | B | M | T | L
  deriving DecidableEq, Repr

/-- The length code of a format (R25). -/
def Format.len : Format → Nat
  | .S | .I | .B => 0
  | .M => 1
  | .T | .L => 2

/-- Bytes of an instruction by its length code (R20); 0 for the code that has no length. -/
def lenBytes : Nat → Nat
  | 0 => 8
  | 1 => 12
  | 2 => 16
  | _ => 0

/-- The operand classes of R34. -/
inductive SpecClass where
  | ssrc | sdst | vsrc | vdst
  deriving DecidableEq, Repr

/-- A scalar source specifier (R34). -/
def sSrc (c : Nat) : Option SSrc :=
  if c < 0x40 then some (.g (BitVec.ofNat 6 c))
  else if c < 0x48 then some (.o (BitVec.ofNat 3 c))
  else if c = 0x48 then some .lat
  else if c = 0x49 then some .zr
  else if c < 0x50 then none
  else if c < 0x58 then some (.q (BitVec.ofNat 3 c))
  else if c < 0x5C then some (.i (BitVec.ofNat 2 c))
  else none

/-- A scalar destination specifier (R34). -/
def sDst (c : Nat) : Option SDst :=
  if c < 0x40 then some (.g (BitVec.ofNat 6 c))
  else if c < 0x48 then some (.o (BitVec.ofNat 3 c))
  else if c = 0x49 then some .zr
  else if c < 0x50 then none
  else if c < 0x58 then some (.q (BitVec.ofNat 3 c))
  else none

/-- A vector source specifier (R34). -/
def vSrc (c : Nat) : Option VSrc :=
  if c < 0x20 then some (.v (BitVec.ofNat 5 c))
  else if c < 0x40 then none
  else if c < 0x44 then some (.o (BitVec.ofNat 2 c))
  else if c = 0x48 then some .lat
  else if c = 0x49 then some .zr
  else none

/-- A vector destination specifier (R34). -/
def vDst (c : Nat) : Option VDst :=
  if c < 0x20 then some (.v (BitVec.ofNat 5 c))
  else if c < 0x40 then none
  else if c < 0x44 then some (.o (BitVec.ofNat 2 c))
  else if c = 0x49 then some .zr
  else none

/-- Whether R34 accepts a code in an operand position of a class. -/
def SpecClass.accepts (k : SpecClass) (c : Nat) : Bool :=
  match k with
  | .ssrc => (sSrc c).isSome
  | .sdst => (sDst c).isSome
  | .vsrc => (vSrc c).isSome
  | .vdst => (vDst c).isSome

/-- Whether a page of allotment `n` admits a vector-class code (R44). -/
def SpecClass.admits (k : SpecClass) (n c : Nat) : Bool :=
  match k with
  | .ssrc | .sdst => true
  | .vsrc | .vdst => if c < 0x20 then c < n else c == 0x49 || 8 ≤ n

/-- The code of a scalar source (R34). -/
def SSrc.code : SSrc → Nat
  | .g n => n.toNat
  | .o n => 0x40 + n.toNat
  | .lat => 0x48
  | .zr => 0x49
  | .q n => 0x50 + n.toNat
  | .i n => 0x58 + n.toNat

/-- The code of a scalar destination (R34). -/
def SDst.code : SDst → Nat
  | .g n => n.toNat
  | .o n => 0x40 + n.toNat
  | .zr => 0x49
  | .q n => 0x50 + n.toNat

/-- The code of a vector source (R34). -/
def VSrc.code : VSrc → Nat
  | .v n => n.toNat
  | .o n => 0x40 + n.toNat
  | .lat => 0x48
  | .zr => 0x49

/-- The code of a vector destination (R34). -/
def VDst.code : VDst → Nat
  | .v n => n.toNat
  | .o n => 0x40 + n.toNat
  | .zr => 0x49

/-- Type codes 0x0 to 0x7 (R38). -/
def intTy : Nat → Option IntTy
  | 0 => some .s8
  | 1 => some .s16
  | 2 => some .s32
  | 3 => some .s64
  | 4 => some .n8
  | 5 => some .n16
  | 6 => some .n32
  | 7 => some .n64
  | _ => none

/-- The type code (R38). -/
def IntTy.code : IntTy → Nat
  | .s8 => 0
  | .s16 => 1
  | .s32 => 2
  | .s64 => 3
  | .n8 => 4
  | .n16 => 5
  | .n32 => 6
  | .n64 => 7

/-- Type codes 0x8 to 0xC (R38). -/
def fpTy : Nat → Option FpTy
  | 8 => some .f32
  | 9 => some .f64
  | 10 => some .bf16
  | 11 => some .e4m3
  | 12 => some .e5m2
  | _ => none

/-- The type code (R38). -/
def FpTy.code : FpTy → Nat
  | .f32 => 8
  | .f64 => 9
  | .bf16 => 10
  | .e4m3 => 11
  | .e5m2 => 12

/-- Type codes 0x8 and 0x9 (R121). -/
def fTy : Nat → Option FTy
  | 8 => some .f32
  | 9 => some .f64
  | _ => none

/-- The type code (R38). -/
def FTy.code : FTy → Nat
  | .f32 => 8
  | .f64 => 9

/-- Any type code but 0xF (R38). -/
def elemTy (c : Nat) : Option ElemTy :=
  if c < 8 then (intTy c).map .int
  else if c < 13 then (fpTy c).map .fp
  else if c = 13 then some .q3
  else if c = 14 then some .q4
  else none

/-- The type code (R38). -/
def ElemTy.code : ElemTy → Nat
  | .int t => t.code
  | .fp t => t.code
  | .q3 => 13
  | .q4 => 14

/-- Rounding codes 0 to 5 (R63). -/
def rMode : Nat → Option RMode
  | 0 => some .rne
  | 1 => some .rtz
  | 2 => some .rup
  | 3 => some .rdn
  | 4 => some .srd
  | 5 => some .dyn
  | _ => none

/-- The rounding code (R63). -/
def RMode.code : RMode → Nat
  | .rne => 0
  | .rtz => 1
  | .rup => 2
  | .rdn => 3
  | .srd => 4
  | .dyn => 5

/-- Conditions 0 to 7 of R118. -/
def iCond : Nat → Option ICond
  | 0 => some .eq
  | 1 => some .ne
  | 2 => some .lt
  | 3 => some .le
  | 4 => some .gt
  | 5 => some .ge
  | 6 => some .tst
  | 7 => some .ntst
  | _ => none

/-- The condition code (R118). -/
def ICond.code : ICond → Nat
  | .eq => 0
  | .ne => 1
  | .lt => 2
  | .le => 3
  | .gt => 4
  | .ge => 5
  | .tst => 6
  | .ntst => 7

/-- Conditions 0 to 7 of R124. -/
def fCond : Nat → Option FCond
  | 0 => some .eq
  | 1 => some .ne
  | 2 => some .lt
  | 3 => some .le
  | 4 => some .gt
  | 5 => some .ge
  | 6 => some .uno
  | 7 => some .ord
  | _ => none

/-- The condition code (R124). -/
def FCond.code : FCond → Nat
  | .eq => 0
  | .ne => 1
  | .lt => 2
  | .le => 3
  | .gt => 4
  | .ge => 5
  | .uno => 6
  | .ord => 7

/-- Size codes 0 to 4 (R29). -/
def size5 : Nat → Option Size
  | 0 => some .b
  | 1 => some .h
  | 2 => some .w
  | 3 => some .d
  | 4 => some .q
  | _ => none

/-- ORD codes (R29). -/
def memOrd : Nat → Option MemOrd
  | 0 => some .plain
  | 1 => some .acq
  | 2 => some .rel
  | 3 => some .sc
  | _ => none

/-- The ORD code (R29). -/
def MemOrd.code : MemOrd → Nat
  | .plain => 0
  | .acq => 1
  | .rel => 2
  | .sc => 3

/-- A one-bit field whose two codes are a plain access and `one` (R179). -/
def ordBit (one c : Nat) : Option Bool :=
  if c = 0 then some false else if c = one then some true else none

/-- A field that must hold 0 or 1. -/
def flag (c : Nat) : Option Bool := ordBit 1 c

/-- The bit as a number. -/
def b2n (b : Bool) : Nat := if b then 1 else 0

/-- OPC codes of `amo` and `red` (R221). -/
def amoOp : Nat → Option AmoOp
  | 0 => some .add
  | 1 => some .smin
  | 2 => some .smax
  | 3 => some .nmin
  | 4 => some .nmax
  | 5 => some .and
  | 6 => some .or
  | 7 => some .xor
  | 8 => some .swap
  | 9 => some .fadd
  | _ => none

/-- The OPC code (R221). -/
def AmoOp.code : AmoOp → Nat
  | .add => 0
  | .smin => 1
  | .smax => 2
  | .nmin => 3
  | .nmax => 4
  | .and => 5
  | .or => 6
  | .xor => 7
  | .swap => 8
  | .fadd => 9

/-- Reduction codes of `vred` (R134). -/
def redOp : Nat → Option RedOp
  | 0 => some .add
  | 1 => some .min
  | 2 => some .max
  | 3 => some .and
  | 4 => some .or
  | 5 => some .xor
  | _ => none

/-- The reduction code (R134). -/
def RedOp.code : RedOp → Nat
  | .add => 0
  | .min => 1
  | .max => 2
  | .and => 3
  | .or => 4
  | .xor => 5

/-- Reduction codes of `vfred` (R142). -/
def fRedOp : Nat → Option FRedOp
  | 0 => some .add
  | 1 => some .min
  | 2 => some .max
  | _ => none

/-- The reduction code (R142). -/
def FRedOp.code : FRedOp → Nat
  | .add => 0
  | .min => 1
  | .max => 2

/-- Kinds of `nmop` (R323). -/
def nmKind : Nat → Option NmKind
  | 0 => some .add32
  | 1 => some .addf
  | 2 => some .addx
  | 3 => some .cx
  | 4 => some .axpy
  | _ => none

/-- The kind code (R323). -/
def NmKind.code : NmKind → Nat
  | .add32 => 0
  | .addf => 1
  | .addx => 2
  | .cx => 3
  | .axpy => 4

/-- Kinds of `mtrs` (R259). -/
def solveKind : Nat → Option SolveKind
  | 0 => some .l
  | 1 => some .lt
  | 2 => some .l1
  | 3 => some .u
  | _ => none

/-- The kind code (R259). -/
def SolveKind.code : SolveKind → Nat
  | .l => 0
  | .lt => 1
  | .l1 => 2
  | .u => 3

/-- A payload base: a main register or `zr` (R289). -/
def payBase (c : Nat) : Option (Option (BitVec 6)) :=
  if c < 0x40 then some (some (BitVec.ofNat 6 c)) else if c = 0x49 then some none else none

/-- The code of a payload base (R289). -/
def payCode : Option (BitVec 6) → Nat
  | some n => n.toNat
  | none => 0x49

/-- A status destination of `mfac` and `mtrs`: q4 to q7 or `zr` (R251). -/
def statusDst (c : Nat) : Option (Option (BitVec 2)) :=
  if c = 0x49 then some none
  else if 0x54 ≤ c ∧ c < 0x58 then some (some (BitVec.ofNat 2 c))
  else none

/-- The code of a status destination (R251). -/
def statusCode : Option (BitVec 2) → Nat
  | some n => 0x54 + n.toNat
  | none => 0x49

/-- What an opcode's entry says of one word: its format, the operand positions with their classes, whether a reserved
field is non-zero, whether the word is the twin of its form, whether it is a blocking form refused in handler pages, and
the instruction where every value is accepted. -/
structure Entry where
  fmt : Format
  specs : List (SpecClass × Nat) := []
  rsv : List Nat := []
  twin : Bool := false
  blocking : Bool := false
  instr : Option Instr

/-- The guard of the word (R23). -/
def Raw.guard (r : Raw) : Guard := ⟨BitVec.ofNat 3 r.gp, r.gn == 1⟩

/-- IMM28 of format I: bits [63:36] (R27). -/
def Raw.imm28 (r : Raw) : Nat := r.c + r.fn * 2 ^ 7

/-- OFS of format B: bits [63:30] (R28). -/
def Raw.ofs (r : Raw) : Nat := r.b / 2 + r.c * 2 ^ 6 + r.fn * 2 ^ 13

/-- The offset field as a bit vector (R28). -/
def Raw.ofsBv (r : Raw) : BitVec 34 := BitVec.ofNat 34 r.ofs

/-- The mask fields of a vector instruction (R132). -/
def Raw.vctl (r : Raw) : VCtl := ⟨BitVec.ofNat 3 (bits r.fn 7 3), bits r.fn 10 1 == 1⟩

/-- The mask fields that format-M vector memory instructions carry in TW (R179). -/
def Raw.twctl (r : Raw) : VCtl := ⟨BitVec.ofNat 3 (bits r.fn 0 3), bits r.fn 3 1 == 1⟩

/-- The memory operand of format M (R29, R30). -/
def Raw.mem (r : Raw) : Option MemOp := do
  let a ← sSrc r.a
  let b ← sSrc r.b
  some ⟨a, b, BitVec.ofNat 2 (bits r.fn 15 2), BitVec.ofNat 32 r.w1⟩

/-- The scope field of format M (R29). -/
def Raw.scope (r : Raw) : BitVec 5 := BitVec.ofNat 5 (bits r.fn 10 5)

/-- The scope field in word 1 of the T-format entries that have one. -/
def Raw.scope1 (r : Raw) : BitVec 5 := BitVec.ofNat 5 (bits r.w1 8 5)

/-- The tensor identifier in word 1 (R179). -/
def Raw.tid (r : Raw) : BitVec 8 := BitVec.ofNat 8 (bits r.w1 0 8)

/-- The orientation bit of format M (R29). -/
def Raw.o (r : Raw) : Bool := bits r.fn 7 1 == 1

/-- The SIZE field of format M (R29). -/
def Raw.sz (r : Raw) : Nat := bits r.fn 4 3

/-- The ORD field of format M (R29). -/
def Raw.ord (r : Raw) : Nat := bits r.fn 8 2

/-- The HINT field of format M (R29). -/
def Raw.hint (r : Raw) : Nat := bits r.fn 17 2

/-- The XF field of format M (R29). -/
def Raw.xf (r : Raw) : Nat := bits r.fn 19 2

/-- The TW field of format M (R29). -/
def Raw.tw (r : Raw) : Nat := bits r.fn 0 4

/-- The instruction when a condition on a field holds. -/
def onlyIf (b : Bool) (i : Instr) : Option Instr := if b then some i else none

/-- Group 0x000 (R98). -/
def entry000 (r : Raw) (k : Nat) : Option Entry :=
  let g := r.guard
  match k with
  | 0 =>
    if bits r.fn 20 1 = 1 then
      some ⟨.S, [], [r.d, r.a, r.b, r.c, bits r.fn 6 14, bits r.fn 4 1 * bits r.fn 2 2], false, false,
        onlyIf (r.gp == 0 && r.gn == 0) (.nop g (some (BitVec.ofNat 6 r.fn)))⟩
    else some ⟨.S, [], [r.d, r.a, r.b, r.c, r.fn], false, false, some (.nop g none)⟩
  | 1 => some ⟨.S, [], [r.d, r.a, r.b, r.c, bits r.fn 16 5], false, false, some (.brk g (BitVec.ofNat 16 r.fn))⟩
  | 2 => some ⟨.B, [], [r.d, r.b % 2, bits r.a 4 3], false, false,
      onlyIf (r.a != 8) (.br g (bits r.a 3 1 == 1) (BitVec.ofNat 3 r.a) r.ofsBv)⟩
  | 3 => some ⟨.B, [], [r.d, r.b % 2, r.a], false, false, some (.jmp g r.ofsBv)⟩
  | 4 => some ⟨.B, [(.sdst, r.a)], [r.d, r.b % 2], false, false,
      onlyIf (r.a < 0x40) (.call g (BitVec.ofNat 6 r.a) r.ofsBv)⟩
  | 5 => some ⟨.S, [(.ssrc, r.a)], [r.d, r.b, r.c, r.fn], false, false, do some (.jr g (← sSrc r.a))⟩
  | 6 => some ⟨.S, [(.sdst, r.d), (.ssrc, r.a)], [r.b, r.c, r.fn], false, false,
      do onlyIf (r.d < 0x40) (.callr g (BitVec.ofNat 6 r.d) (← sSrc r.a))⟩
  | 7 => some ⟨.S, [(.ssrc, r.a)], [r.d, r.b, r.c, r.fn], false, false, do some (Instr.ret g (← sSrc r.a))⟩
  | 8 => some ⟨.S, [], [r.d, r.a, r.b, r.c, bits r.fn 13 8], false, false,
      some (.plog g (BitVec.ofNat 3 r.fn) (BitVec.ofNat 3 (bits r.fn 3 3)) (BitVec.ofNat 3 (bits r.fn 6 3))
        (BitVec.ofNat 4 (bits r.fn 9 4)))⟩
  | 9 =>
    let n := BitVec.ofNat 3 (bits r.fn 2 3)
    match bits r.fn 0 2 with
    | 0 => some ⟨.S, [(.ssrc, r.a)], [r.d, r.b, r.c, bits r.fn 5 16], false, false, do some (.pmov g n (.toPred (← sSrc r.a)))⟩
    | 1 => some ⟨.S, [(.sdst, r.d)], [r.a, r.b, r.c, bits r.fn 5 16], false, false,
        do some (.pmov g n (.fromPred (← sDst r.d)))⟩
    | 2 => some ⟨.S, [(.ssrc, r.a)], [r.d, r.b, r.c, bits r.fn 5 16], false, false, do some (.pmov g n (.toMask (← sSrc r.a)))⟩
    | _ => some ⟨.S, [(.sdst, r.d)], [r.a, r.b, r.c, bits r.fn 5 16], false, false,
        do some (.pmov g n (.fromMask (← sDst r.d)))⟩
  | 10 => some ⟨.T, [(.ssrc, r.a), (.ssrc, r.b), (.ssrc, r.c)], [r.d, bits r.fn 0 1, bits r.fn 4 17, bits r.w1 32 32],
      false, false,
      do onlyIf (bits r.w1 0 32 != 0) (.nest g (BitVec.ofNat 3 (bits r.fn 1 3)) (← sSrc r.a) (← sSrc r.b) (← sSrc r.c)
        (BitVec.ofNat 32 r.w1))⟩
  | 11 => some ⟨.B, [], [r.d, r.b % 2, r.a], false, false, some (.iter g r.ofsBv)⟩
  | 12 => some ⟨.I, [], [r.d, r.a, r.b, bits r.imm28 4 24], false, false, some (.align g (BitVec.ofNat 4 r.imm28))⟩
  | 13 => some ⟨.S, [], [r.d, r.a, r.b, r.c, r.fn], false, false, some (.done g)⟩
  | 14 => some ⟨.S, [(.sdst, r.d)], [r.a, r.b, r.c, bits r.fn 3 18], false, false,
      do onlyIf (bits r.fn 0 3 < 4) (.who g (← sDst r.d) (BitVec.ofNat 2 r.fn))⟩
  | _ => none

/-- A typed scalar form with two sources (R114). -/
def entRRR (r : Raw) (i : IntTy → SDst → SSrc → SSrc → Instr) : Option Entry :=
  some ⟨.S, [(.sdst, r.d), (.ssrc, r.a), (.ssrc, r.b)], [r.c, bits r.fn 4 17], false, false,
    do some (i (← intTy (bits r.fn 0 4)) (← sDst r.d) (← sSrc r.a) (← sSrc r.b))⟩

/-- A typed scalar form with one source (R114). -/
def entRR (r : Raw) (i : IntTy → SDst → SSrc → Instr) : Option Entry :=
  some ⟨.S, [(.sdst, r.d), (.ssrc, r.a)], [r.b, r.c, bits r.fn 4 17], false, false,
    do some (i (← intTy (bits r.fn 0 4)) (← sDst r.d) (← sSrc r.a))⟩

/-- An immediate scalar form (R114). -/
def entRI (r : Raw) (i : SDst → SSrc → BitVec 28 → Instr) : Option Entry :=
  some ⟨.I, [(.sdst, r.d), (.ssrc, r.a)], [r.b], false, false,
    do some (i (← sDst r.d) (← sSrc r.a) (BitVec.ofNat 28 r.imm28))⟩

/-- Group 0x040 (R114). -/
def entry040 (r : Raw) (k : Nat) : Option Entry :=
  let g := r.guard
  match k with
  | 0x00 => some ⟨.L, [(.sdst, r.d)], [r.a, r.b, r.c, r.fn], false, false,
      do some (.li g (← sDst r.d) (BitVec.ofNat 64 r.w1))⟩
  | 0x01 => some ⟨.S, [(.sdst, r.d), (.ssrc, r.a)], [r.b, r.c, bits r.fn 4 17], false, false,
      do onlyIf (bits r.fn 0 4 == 0) (.mov g (← sDst r.d) (← sSrc r.a))⟩
  | 0x02 => entRRR r (.add g)
  | 0x03 => entRI r (.addi g)
  | 0x04 => entRRR r (.sub g)
  | 0x05 => entRRR r (.mul g)
  | 0x06 => entRI r (.muli g)
  | 0x07 => entRRR r (.mulh g)
  | 0x08 => entRRR r (.div g)
  | 0x09 => entRRR r (.rem g)
  | 0x0A => entRRR r (.and g)
  | 0x0B => entRI r (.andi g)
  | 0x0C => entRRR r (.or g)
  | 0x0D => entRI r (.ori g)
  | 0x0E => entRRR r (.xor g)
  | 0x0F => entRI r (.xori g)
  | 0x10 => entRRR r (.andn g)
  | 0x11 => entRRR r (.shl g)
  | 0x12 => entRI r (.shli g)
  | 0x13 => entRRR r (.shr g)
  | 0x14 => entRI r (.shri g)
  | 0x15 => entRRR r (.sar g)
  | 0x16 => entRI r (.sari g)
  | 0x17 => entRRR r (.rol g)
  | 0x18 => entRI r (.roli g)
  | 0x19 => entRRR r (.min g)
  | 0x1A => entRRR r (.max g)
  | 0x1B => some ⟨.S, [(.sdst, r.d), (.ssrc, r.a)], [r.b, r.c, bits r.fn 4 17], false, false,
      do let ty ← intTy (bits r.fn 0 4); onlyIf ty.signed (.abs g ty (← sDst r.d) (← sSrc r.a))⟩
  | 0x1C => entRR r (.neg g)
  | 0x1D => some ⟨.S, [(.sdst, r.d), (.ssrc, r.a), (.ssrc, r.b)], [r.c, bits r.fn 7 14], false, false,
      do onlyIf (bits r.fn 0 4 == 0) (.sel g (BitVec.ofNat 3 (bits r.fn 4 3)) (← sDst r.d) (← sSrc r.a) (← sSrc r.b))⟩
  | 0x1E => some ⟨.S, [(.ssrc, r.a), (.ssrc, r.b)], [r.c, bits r.fn 4 17], false, false,
      do some (.cmp g (← intTy (bits r.fn 0 4)) (← iCond (bits r.d 3 4)) (BitVec.ofNat 3 r.d) (← sSrc r.a) (← sSrc r.b))⟩
  | 0x1F => some ⟨.I, [(.ssrc, r.a)], [r.b], false, false,
      do some (.cmpi g (← iCond (bits r.d 3 4)) (BitVec.ofNat 3 r.d) (← sSrc r.a) (BitVec.ofNat 28 r.imm28))⟩
  | 0x20 => entRR r (.clz g)
  | 0x21 => entRR r (.ctz g)
  | 0x22 => entRR r (.popc g)
  | 0x23 => entRR r (.brev g)
  | 0x24 => some ⟨.S, [(.sdst, r.d), (.ssrc, r.a)], [r.b, r.c, bits r.fn 16 5], false, false,
      do
        let signed ← if bits r.fn 0 4 = 3 then some true else if bits r.fn 0 4 = 7 then some false else none
        onlyIf (bits r.fn 4 6 + bits r.fn 10 6 ≤ 63) (.bfx g signed (← sDst r.d) (← sSrc r.a)
          (BitVec.ofNat 6 (bits r.fn 4 6)) (BitVec.ofNat 6 (bits r.fn 10 6)))⟩
  | 0x25 => some ⟨.S, [(.sdst, r.d), (.ssrc, r.a), (.ssrc, r.b)], [r.c, bits r.fn 16 5], false, false,
      do onlyIf (bits r.fn 0 4 == 0 && bits r.fn 4 6 + bits r.fn 10 6 ≤ 63) (.bfi g (← sDst r.d) (← sSrc r.a) (← sSrc r.b)
        (BitVec.ofNat 6 (bits r.fn 4 6)) (BitVec.ofNat 6 (bits r.fn 10 6)))⟩
  | 0x26 => entRR r (.ext g)
  | 0x27 => some ⟨.S, [(.sdst, r.d), (.ssrc, r.a), (.ssrc, r.b)], [r.c], false, false,
      do onlyIf (bits r.fn 0 4 == 0) (.lea g (← sDst r.d) (← sSrc r.a) (← sSrc r.b) (BitVec.ofNat 2 (bits r.fn 4 2))
        (BitVec.ofNat 15 (bits r.fn 6 15)))⟩
  | _ => none

/-- A scalar floating-point form with two sources and a rounding mode (R121). -/
def entFRRR (r : Raw) (i : FTy → RMode → SDst → SSrc → SSrc → Instr) : Option Entry :=
  some ⟨.S, [(.sdst, r.d), (.ssrc, r.a), (.ssrc, r.b)], [r.c, bits r.fn 7 14], false, false, do
    let d ← sDst r.d
    onlyIf d.notQ (i (← fTy (bits r.fn 0 4)) (← rMode (bits r.fn 4 3)) d (← sSrc r.a) (← sSrc r.b))⟩

/-- A scalar floating-point form with one source and a rounding mode (R121). -/
def entFRR (r : Raw) (i : FTy → RMode → SDst → SSrc → Instr) : Option Entry :=
  some ⟨.S, [(.sdst, r.d), (.ssrc, r.a)], [r.b, r.c, bits r.fn 7 14], false, false, do
    let d ← sDst r.d
    onlyIf d.notQ (i (← fTy (bits r.fn 0 4)) (← rMode (bits r.fn 4 3)) d (← sSrc r.a))⟩

/-- `fmin` and `fmax` (R121). -/
def entFMM (r : Raw) (i : FTy → SDst → SSrc → SSrc → Instr) : Option Entry :=
  some ⟨.S, [(.sdst, r.d), (.ssrc, r.a), (.ssrc, r.b)], [r.c, bits r.fn 7 14], false, false, do
    let d ← sDst r.d
    onlyIf (d.notQ && bits r.fn 4 3 == 0) (i (← fTy (bits r.fn 0 4)) d (← sSrc r.a) (← sSrc r.b))⟩

/-- The bit forms `fabs`, `fneg` and `fclass` (R121). -/
def entFBit (r : Raw) (i : FpTy → SDst → SSrc → Instr) : Option Entry :=
  some ⟨.S, [(.sdst, r.d), (.ssrc, r.a)], [r.b, r.c, bits r.fn 7 14], false, false, do
    onlyIf (bits r.fn 4 3 == 0) (i (← fpTy (bits r.fn 0 4)) (← sDst r.d) (← sSrc r.a))⟩

/-- `faddi` and `fmuli` (R121, R71). -/
def entFRI (r : Raw) (i : SDst → SSrc → BitVec 16 → Instr) : Option Entry :=
  some ⟨.I, [(.sdst, r.d), (.ssrc, r.a)], [r.b, bits r.imm28 16 12], false, false, do
    let d ← sDst r.d
    onlyIf d.notQ (i d (← sSrc r.a) (BitVec.ofNat 16 r.imm28))⟩

/-- Group 0x080 (R121). -/
def entry080 (r : Raw) (k : Nat) : Option Entry :=
  let g := r.guard
  match k with
  | 0x00 => entFRRR r (.fadd g)
  | 0x01 => entFRRR r (.fsub g)
  | 0x02 => entFRRR r (.fmul g)
  | 0x03 => some ⟨.S, [(.sdst, r.d), (.ssrc, r.a), (.ssrc, r.b), (.ssrc, r.c)], [bits r.fn 7 14], false, false, do
      let d ← sDst r.d
      onlyIf d.notQ (.fma g (← fTy (bits r.fn 0 4)) (← rMode (bits r.fn 4 3)) d (← sSrc r.a) (← sSrc r.b)
        (← sSrc r.c))⟩
  | 0x04 => entFRRR r (.fdiv g)
  | 0x05 => entFRR r (.fsqrt g)
  | 0x06 => entFMM r (.fmin g)
  | 0x07 => entFMM r (.fmax g)
  | 0x08 => entFBit r (.fabs g)
  | 0x09 => entFBit r (.fneg g)
  | 0x0A => some ⟨.S, [(.ssrc, r.a), (.ssrc, r.b)], [r.c, bits r.fn 7 14], false, false, do
      onlyIf (bits r.fn 4 3 == 0) (.fcmp g (← fTy (bits r.fn 0 4)) (← fCond (bits r.d 3 4)) (BitVec.ofNat 3 r.d)
        (← sSrc r.a) (← sSrc r.b))⟩
  | 0x0B => entFBit r (.fclass g)
  | 0x0C => some ⟨.S, [(.sdst, r.d), (.ssrc, r.a)], [r.b, r.c, bits r.fn 11 10], false, false, do
      let d ← sDst r.d
      let ty ← elemTy (bits r.fn 0 4)
      let dty ← elemTy (bits r.fn 7 4)
      let rm ← rMode (bits r.fn 4 3)
      onlyIf (d.notQ && (!(ty.isInt && dty.isInt) || rm == .rne)) (.fcvt g ty dty rm d (← sSrc r.a))⟩
  | 0x0D => entFRR r (.frcp g)
  | 0x0E => entFRR r (.frsq g)
  | 0x0F => entFRI r (.faddi g)
  | 0x10 => entFRI r (.fmuli g)
  | _ => none

/-- The X1, X2 and RM fields of a vector word are zero (R132). -/
def Raw.vplain (r : Raw) : Bool := bits r.fn 4 3 == 0 && bits r.fn 11 8 == 0

/-- The type code where the vector integer set NI admits it (R134). -/
def Raw.niTy (r : Raw) : Option IntTy := do
  let ty ← intTy (bits r.fn 0 4)
  if ty.isNI then some ty else none

/-- A masked vector integer form with two sources (R134). -/
def entVVV (r : Raw) (i : IntTy → VCtl → VDst → VSrc → VSrc → Instr) : Option Entry :=
  some ⟨.S, [(.vdst, r.d), (.vsrc, r.a), (.vsrc, r.b)], [r.c, bits r.fn 19 2], false, false, do
    onlyIf r.vplain (i (← r.niTy) r.vctl (← vDst r.d) (← vSrc r.a) (← vSrc r.b))⟩

/-- A masked vector integer form with one source (R134). -/
def entVV (r : Raw) (i : IntTy → VCtl → VDst → VSrc → Instr) : Option Entry :=
  some ⟨.S, [(.vdst, r.d), (.vsrc, r.a)], [r.b, r.c, bits r.fn 19 2], false, false, do
    onlyIf r.vplain (i (← r.niTy) r.vctl (← vDst r.d) (← vSrc r.a))⟩

/-- A masked vector integer form with three sources (R134). -/
def entVVVV (r : Raw) (i : IntTy → VCtl → VDst → VSrc → VSrc → VSrc → Instr) : Option Entry :=
  some ⟨.S, [(.vdst, r.d), (.vsrc, r.a), (.vsrc, r.b), (.vsrc, r.c)], [bits r.fn 19 2], false, false, do
    onlyIf r.vplain (i (← r.niTy) r.vctl (← vDst r.d) (← vSrc r.a) (← vSrc r.b) (← vSrc r.c))⟩

/-- Group 0x0C0 (R134). -/
def entry0C0 (r : Raw) (k : Nat) : Option Entry :=
  let g := r.guard
  match k with
  | 0x00 => entVVV r (.vadd g)
  | 0x01 => entVVV r (.vsub g)
  | 0x02 => entVVV r (.vmul g)
  | 0x03 => entVVVV r (.vmad g)
  | 0x04 => entVVV r (.vmin g)
  | 0x05 => entVVV r (.vmax g)
  | 0x06 => some ⟨.S, [(.vdst, r.d), (.vsrc, r.a)], [r.b, r.c, bits r.fn 19 2], false, false, do
      let ty ← r.niTy
      onlyIf (r.vplain && ty.signed) (.vabs g ty r.vctl (← vDst r.d) (← vSrc r.a))⟩
  | 0x07 => entVV r (.vneg g)
  | 0x08 => entVVV r (.vand g)
  | 0x09 => entVVV r (.vor g)
  | 0x0A => entVVV r (.vxor g)
  | 0x0B => entVVV r (.vshl g)
  | 0x0C => entVVV r (.vshr g)
  | 0x0D => entVVV r (.vsar g)
  | 0x0E => some ⟨.S, [(.vsrc, r.a), (.vsrc, r.b)], [r.c, bits r.fn 19 2], false, false, do
      let signed ← if bits r.fn 0 4 = 2 then some true else if bits r.fn 0 4 = 6 then some false else none
      onlyIf r.vplain (.vcmp g signed r.vctl (← iCond (bits r.d 3 4)) (BitVec.ofNat 3 r.d) (← vSrc r.a) (← vSrc r.b))⟩
  | 0x0F => some ⟨.S, [(.vdst, r.d), (.vsrc, r.a), (.vsrc, r.b)], [r.c, bits r.fn 19 2], false, false, do
      onlyIf (r.vplain && bits r.fn 0 4 == 0 && bits r.fn 10 1 == 0)
        (.vsel g (BitVec.ofNat 3 (bits r.fn 7 3)) (← vDst r.d) (← vSrc r.a) (← vSrc r.b))⟩
  | 0x10 => some ⟨.I, [(.vdst, r.d), (.vsrc, r.a)], [r.b], false, false, do
      some (.vaddi g (← vDst r.d) (← vSrc r.a) (BitVec.ofNat 28 r.imm28))⟩
  | 0x11 => some ⟨.S, [(.sdst, r.d), (.vsrc, r.a)], [r.b, r.c, bits r.fn 19 2], false, false, do
      onlyIf (bits r.fn 4 3 == 0 && bits r.fn 15 4 == 0)
        (.vred g (← r.niTy) (← redOp (bits r.fn 11 4)) r.vctl (← sDst r.d) (← vSrc r.a))⟩
  | 0x12 => some ⟨.S, [(.vdst, r.d), (.vsrc, r.a)], [r.b, r.c, bits r.fn 19 2], false, false, do
      onlyIf (bits r.fn 4 3 == 0 && bits r.fn 15 4 == 0 && bits r.fn 11 4 < 3)
        (.vscan g (← r.niTy) (← redOp (bits r.fn 11 4)) r.vctl (← vDst r.d) (← vSrc r.a))⟩
  | 0x13 => entVVVV r (.vperm g)
  | 0x14 => some ⟨.S, [(.vdst, r.d), (.ssrc, r.a)], [r.b, r.c, bits r.fn 19 2], false, false, do
      onlyIf r.vplain (.vbcast g (← r.niTy) r.vctl (← vDst r.d) (← sSrc r.a))⟩
  | 0x15 => some ⟨.S, [(.sdst, r.d), (.vsrc, r.a), (.ssrc, r.b)], [r.c, bits r.fn 19 2, bits r.fn 7 4], false, false, do
      onlyIf r.vplain (.vextr g (← r.niTy) (← sDst r.d) (← vSrc r.a) (← sSrc r.b))⟩
  | 0x16 => some ⟨.S, [(.vdst, r.d), (.ssrc, r.a), (.ssrc, r.b)], [r.c, bits r.fn 19 2, bits r.fn 7 4], false, false, do
      onlyIf r.vplain (.vins g (← r.niTy) (← vDst r.d) (← sSrc r.a) (← sSrc r.b))⟩
  | 0x17 =>
    let okZero := bits r.fn 0 4 == 0 && bits r.fn 4 3 == 0 && bits r.fn 15 4 == 0
    match bits r.fn 11 4 with
    | 0 => some ⟨.S, [(.vdst, r.d), (.vsrc, r.a)], [r.b, r.c, bits r.fn 19 2], false, false, do
        onlyIf okZero (.vmov g r.vctl (← vDst r.d) (← vSrc r.a))⟩
    | 1 => some ⟨.S, [(.vdst, r.d), (.ssrc, r.b)], [r.a, r.c, bits r.fn 19 2, bits r.fn 7 4], false, false, do
        onlyIf okZero (.vmovFromIndex g (← vDst r.d) (← sSrc r.b))⟩
    | 2 => some ⟨.S, [(.vsrc, r.a), (.ssrc, r.b)], [r.d, r.c, bits r.fn 19 2, bits r.fn 7 4], false, false, do
        onlyIf okZero (.vmovToIndex g (← vSrc r.a) (← sSrc r.b))⟩
    | _ => some ⟨.S, [], [r.c, bits r.fn 19 2], false, false, none⟩
  | 0x18 => some ⟨.S, [(.sdst, r.d)], [r.a, r.b, r.c, bits r.fn 4 17], false, false, do
      some (.vmpop g (← sDst r.d) (BitVec.ofNat 3 r.fn) (bits r.fn 3 1 == 1))⟩
  | 0x19 => some ⟨.S, [], [r.d, r.a, r.b, r.c, bits r.fn 13 8], false, false,
      some (.vmlog g (BitVec.ofNat 3 r.fn) (BitVec.ofNat 3 (bits r.fn 3 3)) (BitVec.ofNat 3 (bits r.fn 6 3))
        (BitVec.ofNat 4 (bits r.fn 9 4)))⟩
  | _ => none

/-- A masked vector floating-point form with two sources (R142). -/
def entVFFF (r : Raw) (i : FTy → RMode → VCtl → VDst → VSrc → VSrc → Instr) : Option Entry :=
  some ⟨.S, [(.vdst, r.d), (.vsrc, r.a), (.vsrc, r.b)], [r.c, bits r.fn 19 2], false, false, do
    onlyIf (bits r.fn 11 8 == 0)
      (i (← fTy (bits r.fn 0 4)) (← rMode (bits r.fn 4 3)) r.vctl (← vDst r.d) (← vSrc r.a) (← vSrc r.b))⟩

/-- `vfmin` and `vfmax` (R142). -/
def entVFMM (r : Raw) (i : FTy → VCtl → VDst → VSrc → VSrc → Instr) : Option Entry :=
  some ⟨.S, [(.vdst, r.d), (.vsrc, r.a), (.vsrc, r.b)], [r.c, bits r.fn 19 2], false, false, do
    onlyIf r.vplain (i (← fTy (bits r.fn 0 4)) r.vctl (← vDst r.d) (← vSrc r.a) (← vSrc r.b))⟩

/-- The four function instructions (R142). -/
def entVFun (r : Raw) (i : RMode → VCtl → VDst → VSrc → Instr) : Option Entry :=
  some ⟨.S, [(.vdst, r.d), (.vsrc, r.a)], [r.b, r.c, bits r.fn 19 2], false, false, do
    onlyIf (bits r.fn 11 8 == 0 && bits r.fn 0 4 == 8) (i (← rMode (bits r.fn 4 3)) r.vctl (← vDst r.d) (← vSrc r.a))⟩

/-- Group 0x100 (R142, R149). -/
def entry100 (r : Raw) (k : Nat) : Option Entry :=
  let g := r.guard
  match k with
  | 0x00 => entVFFF r (.vfadd g)
  | 0x01 => entVFFF r (.vfsub g)
  | 0x02 => entVFFF r (.vfmul g)
  | 0x03 => some ⟨.S, [(.vdst, r.d), (.vsrc, r.a), (.vsrc, r.b), (.vsrc, r.c)], [bits r.fn 19 2], false, false, do
      onlyIf (bits r.fn 11 8 == 0) (.vfma g (← fTy (bits r.fn 0 4)) (← rMode (bits r.fn 4 3)) r.vctl (← vDst r.d)
        (← vSrc r.a) (← vSrc r.b) (← vSrc r.c))⟩
  | 0x04 => entVFMM r (.vfmin g)
  | 0x05 => entVFMM r (.vfmax g)
  | 0x06 => some ⟨.S, [(.vdst, r.d), (.vsrc, r.a)], [r.b, r.c, bits r.fn 19 2], false, false, do
      onlyIf (bits r.fn 4 3 == 0 && bits r.fn 15 4 == 0)
        (.vfabs g (← fpTy (bits r.fn 0 4)) (← flag (bits r.fn 11 4)) r.vctl (← vDst r.d) (← vSrc r.a))⟩
  | 0x07 => some ⟨.S, [(.vsrc, r.a), (.vsrc, r.b)], [r.c, bits r.fn 19 2], false, false, do
      onlyIf r.vplain (.vfcmp g (← fTy (bits r.fn 0 4)) r.vctl (← fCond (bits r.d 3 4)) (BitVec.ofNat 3 r.d)
        (← vSrc r.a) (← vSrc r.b))⟩
  | 0x08 => some ⟨.S, [(.vdst, r.d), (.vsrc, r.a), (.ssrc, r.c)], [r.b, bits r.fn 14 1, bits r.fn 19 2], false, false, do
      let ty ← elemTy (bits r.fn 0 4)
      let dty ← elemTy (bits r.fn 15 4)
      let rm ← rMode (bits r.fn 4 3)
      let part := BitVec.ofNat 3 (bits r.fn 11 3)
      onlyIf (ty.vcvtOk && dty.vcvtOk && (!(ty.isInt && dty.isInt) || rm == .rne)
          && vcvtPartOk ty dty part)
        (.vfcvt g ty dty part rm r.vctl (← vDst r.d) (← vSrc r.a) (← sSrc r.c))⟩
  | 0x09 => entVFun r (.vexp2 g)
  | 0x0A => entVFun r (.vlog2 g)
  | 0x0B => entVFun r (.vrcp g)
  | 0x0C => entVFun r (.vrsq g)
  | 0x0D => some ⟨.S, [(.sdst, r.d), (.vsrc, r.a)], [r.b, r.c, bits r.fn 19 2], false, false, do
      let op ← fRedOp (bits r.fn 11 4)
      let rm ← rMode (bits r.fn 4 3)
      onlyIf (bits r.fn 15 4 == 0 && (op == .add || rm == .rne))
        (.vfred g (← fTy (bits r.fn 0 4)) op rm r.vctl (← sDst r.d) (← vSrc r.a))⟩
  | 0x0E => some ⟨.S, [(.ssrc, r.a)], [r.d, r.b, r.c, bits r.fn 19 2, bits r.fn 7 4], false, false, do
      onlyIf (r.vplain && bits r.fn 0 4 == 0) (.wclr g (← sSrc r.a))⟩
  | 0x0F => some ⟨.M, [(.ssrc, r.a), (.ssrc, r.b), (.ssrc, r.c)], [r.d, r.xf, r.tw], false, false, do
      let ty ← if r.sz = 2 then some FTy.f32 else if r.sz = 3 then some FTy.f64 else none
      onlyIf (bits r.fn 7 8 == 0 && r.hint == 0) (.wadd g ty (← r.mem) (← sSrc r.c))⟩
  | 0x10 => some ⟨.S, [(.sdst, r.d), (.ssrc, r.a)], [r.b, r.c, bits r.fn 19 2, bits r.fn 7 4], false, false, do
      onlyIf (bits r.fn 11 8 == 0) (.wrd g (← fTy (bits r.fn 0 4)) (← rMode (bits r.fn 4 3)) (← sDst r.d) (← sSrc r.a))⟩
  | 0x11 => some ⟨.S, [(.vdst, r.d)], [r.a, r.b, r.c, bits r.fn 19 2], false, false, do
      onlyIf (r.vplain && bits r.fn 0 4 == 0) (.rng g r.vctl (← vDst r.d))⟩
  | _ => none

/-- A run of v registers named by its first (R341): a code at or beyond 0x20 is refused. -/
def vRun (c : Nat) : Option (BitVec 5) := if c < 0x20 then some (BitVec.ofNat 5 c) else none

/-- Group 0x140 (R179, R323, R327, R341). -/
def entry140 (r : Raw) (k : Nat) : Option Entry :=
  let g := r.guard
  match k with
  | 0x00 => some ⟨.M, [(.sdst, r.d), (.ssrc, r.a), (.ssrc, r.b)], [r.c, r.xf, bits r.tw 1 3], false, false, do
      let sz ← size5 r.sz
      let d ← sDst r.d
      let ord ← memOrd r.ord
      onlyIf (ord.loadOk && (sz != .q || d.evenG))
        (.ld g sz r.o ord (← flag r.hint) r.scope (bits r.tw 0 1 == 1) d (← r.mem))⟩
  | 0x01 => some ⟨.M, [(.ssrc, r.a), (.ssrc, r.b), (.ssrc, r.c)], [r.d, r.xf, r.tw], false, false, do
      let sz ← size5 r.sz
      let c ← sSrc r.c
      let ord ← memOrd r.ord
      onlyIf (ord.storeOk && r.hint == 0 && (sz != .q || c.evenG)) (.st g sz r.o ord r.scope (← r.mem) c)⟩
  | 0x02 => some ⟨.M, [(.vdst, r.d), (.ssrc, r.a), (.ssrc, r.b)], [r.c, r.xf], false, false, do
      let sz ← size5 r.sz
      onlyIf (sz != .q && (sz != .d || !r.o))
        (.vld g sz r.o (← flag r.ord) (← flag r.hint) r.scope r.twctl (← vDst r.d) (← r.mem))⟩
  | 0x03 => some ⟨.M, [(.ssrc, r.a), (.ssrc, r.b), (.vsrc, r.c)], [r.d, r.xf], false, false, do
      let sz ← size5 r.sz
      onlyIf (sz != .q && (sz != .d || !r.o) && r.hint == 0 && bits r.tw 3 1 == 0)
        (.vst g sz r.o (← ordBit 2 r.ord) r.scope (BitVec.ofNat 3 r.tw) (← r.mem) (← vSrc r.c))⟩
  | 0x04 => some ⟨.M, [(.vdst, r.d), (.ssrc, r.a), (.vsrc, r.b)], [r.c, bits r.xf 1 1], false, false, do
      let sz ← size5 r.sz
      onlyIf (sz == .b || sz == .h || sz == .w)
        (.vldx g sz r.o (← flag r.ord) (← flag r.hint) r.scope (bits r.xf 0 1 == 1) r.twctl (← vDst r.d) (← sSrc r.a)
          (← vSrc r.b) (BitVec.ofNat 2 (bits r.fn 15 2)) (BitVec.ofNat 32 r.w1))⟩
  | 0x05 => some ⟨.M, [(.ssrc, r.a), (.vsrc, r.b), (.vsrc, r.c)], [r.d, r.xf], false, false, do
      let sz ← size5 r.sz
      onlyIf ((sz == .b || sz == .h || sz == .w) && r.hint == 0 && bits r.tw 3 1 == 0)
        (.vstx g sz r.o (← ordBit 2 r.ord) r.scope (BitVec.ofNat 3 r.tw) (← sSrc r.a) (← vSrc r.b)
          (BitVec.ofNat 2 (bits r.fn 15 2)) (BitVec.ofNat 32 r.w1) (← vSrc r.c))⟩
  | 0x06 => some ⟨.T, [(.vdst, r.d), (.ssrc, r.a), (.ssrc, r.b)], [r.c, bits r.fn 8 13, bits r.w1 13 51], false, false, do
      some (.tld g (bits r.fn 4 1 == 1) (← flag (bits r.fn 5 2)) (bits r.fn 7 1 == 1) r.tid r.scope1
        ⟨BitVec.ofNat 3 r.fn, bits r.fn 3 1 == 1⟩ (← vDst r.d) (← sSrc r.a) (← sSrc r.b))⟩
  | 0x07 => some ⟨.T, [(.ssrc, r.a), (.ssrc, r.b), (.vsrc, r.c)], [r.d, bits r.fn 3 1, bits r.fn 7 14, bits r.w1 13 51],
      false, false, do
      some (.tst g (bits r.fn 4 1 == 1) (← ordBit 2 (bits r.fn 5 2)) r.tid r.scope1 (BitVec.ofNat 3 r.fn) (← sSrc r.a)
        (← sSrc r.b) (← vSrc r.c))⟩
  | 0x08 => some ⟨.M, [(.ssrc, r.a), (.ssrc, r.b)], [r.d, r.c, r.tw], false, false, do
      onlyIf (bits r.fn 4 11 == 0 && r.xf < 2) (.pf g (← flag r.hint) (bits r.xf 0 1 == 1) (← r.mem))⟩
  | 0x09 => some ⟨.T, [(.ssrc, r.a), (.ssrc, r.b)], [r.d, r.c, r.fn, r.w1], false, false, do
      some (.tdef g (← sSrc r.a) (← sSrc r.b))⟩
  | 0x0A => some ⟨.S, [(.sdst, r.d), (.ssrc, r.a)], [r.b, r.c, bits r.fn 3 18], false, false, do
      some (.tget g (BitVec.ofNat 3 r.fn) (← sDst r.d) (← sSrc r.a))⟩
  | 0x0B => some ⟨.T, [(.sdst, r.d), (.ssrc, r.a), (.ssrc, r.b), (.ssrc, r.c)], [bits r.fn 1 20, bits r.w1 8 56], false,
      false, do
      onlyIf (r.c == 0x49) (.taddr g (bits r.fn 0 1 == 1) r.tid (← sDst r.d) (← sSrc r.a) (← sSrc r.b))⟩
  | 0x0C => some ⟨.T, [(.vdst, r.d), (.vsrc, r.a), (.ssrc, r.b)], [r.c, bits r.fn 4 17, bits r.w1 16 48], false, false, do
      let acq ← flag (bits r.w1 13 2)
      let rep := bits r.w1 15 1 == 1
      onlyIf (!(acq && rep)) (.hgl g acq rep r.tid r.scope1 ⟨BitVec.ofNat 3 r.fn, bits r.fn 3 1 == 1⟩ (← vRun r.d)
        (← vRun r.a) (← sSrc r.b))⟩
  | 0x0D => some ⟨.T, [(.ssrc, r.d), (.vsrc, r.a), (.ssrc, r.b), (.vsrc, r.c)], [bits r.fn 3 18, bits r.w1 13 51], false,
      false, do
      let ctr ← sSrc r.d
      onlyIf ctr.isRegOrZr (.hgs g r.tid r.scope1 (BitVec.ofNat 3 r.fn) ctr (← vRun r.a) (← sSrc r.b) (← vRun r.c))⟩
  | 0x0E => some ⟨.T, [(.vdst, r.d), (.vsrc, r.a), (.ssrc, r.b), (.ssrc, r.c)], [bits r.fn 4 17, bits r.w1 8 56], false,
      false, do
      some (.hgw g r.tid ⟨BitVec.ofNat 3 r.fn, bits r.fn 3 1 == 1⟩ (← vRun r.d) (← vRun r.a) (← sSrc r.b) (← sSrc r.c))⟩
  | 0x0F => some ⟨.T, [(.sdst, r.d), (.ssrc, r.a), (.ssrc, r.b), (.ssrc, r.c)],
      [bits r.fn 3 18, bits r.w1 12 4, bits r.w1 21 11, if bits r.fn 0 3 < 4 then bits r.w1 32 32 else 0], false, false, do
      let kind ← nmKind (bits r.fn 0 3)
      let d ← sDst r.d
      onlyIf (d.notQ && (kind == .axpy || bits r.w1 32 32 == 0))
        (.nmop g kind (BitVec.ofNat 12 r.w1) (BitVec.ofNat 5 (bits r.w1 16 5)) (BitVec.ofNat 32 (bits r.w1 32 32)) d
          (← sSrc r.a) (← sSrc r.b) (← sSrc r.c))⟩
  | 0x10 => some ⟨.M, [(.ssrc, r.a), (.ssrc, r.b)], [r.d, r.c, r.tw, bits r.xf 1 1], false, false, do
      onlyIf (bits r.fn 4 11 == 0 && r.hint == 0) (.cinv g (bits r.xf 0 1 == 1) (← r.mem))⟩
  | 0x11 => some ⟨.M, [(.ssrc, r.a), (.ssrc, r.b)], [r.d, r.c, r.tw, bits r.xf 1 1], false, false, do
      onlyIf (bits r.fn 4 11 == 0 && r.hint == 0) (.cwb g (bits r.xf 0 1 == 1) (← r.mem))⟩
  | _ => none

/-- Group 0x180 (R251, R269). -/
def entry180 (r : Raw) (k : Nat) : Option Entry :=
  let g := r.guard
  let num := sDst r.d
  let three : List (SpecClass × Nat) := [(.sdst, r.d), (.ssrc, r.a), (.ssrc, r.b)]
  let four : List (SpecClass × Nat) := three ++ [(.ssrc, r.c)]
  match k with
  | 0x00 => some ⟨.T, three, [r.c, bits r.fn 3 18, bits r.w1 8 56], false, false, do
      let d ← num
      onlyIf d.notQ (.mwl g (bits r.fn 0 1 == 1) (bits r.fn 1 1 == 1) (bits r.fn 2 1 == 1) r.tid d (← sSrc r.a)
        (← sSrc r.b))⟩
  | 0x01 => some ⟨.T, three, [r.c, bits r.fn 3 18, bits r.w1 8 56], false, false, do
      let d ← num
      onlyIf d.notQ (.mma g (bits r.fn 0 1 == 1) (bits r.fn 1 1 == 1) (bits r.fn 2 1 == 1) r.tid d (← sSrc r.a)
        (← sSrc r.b))⟩
  | 0x02 => some ⟨.T, four, [bits r.fn 7 14, bits r.w1 8 56], false, false, do
      let d ← num
      let rm ← rMode (bits r.fn 2 3)
      onlyIf (d.notQ && rm != .dyn) (.mst g (bits r.fn 0 1 == 1) (bits r.fn 1 1 == 1) (bits r.fn 5 1 == 1)
        (bits r.fn 6 1 == 1) rm r.tid d (← sSrc r.a) (← sSrc r.b) (← sSrc r.c))⟩
  | 0x03 =>
    if bits r.fn 1 1 = 0 then
      some ⟨.S, [(.sdst, r.d)], [r.a, r.b, r.c, bits r.fn 2 19], false, false, do
        let d ← num
        onlyIf d.notQ (.mclr g (bits r.fn 0 1 == 1) d)⟩
    else
      some ⟨.S, three, [r.c, bits r.fn 11 10], false, false, do
        let d ← num
        onlyIf d.notQ (.mclrLoad g (bits r.fn 0 1 == 1) (bits r.fn 2 1 == 1) (BitVec.ofNat 8 (bits r.fn 3 8)) d
          (← sSrc r.a) (← sSrc r.b))⟩
  | 0x04 => some ⟨.T, [(.sdst, r.d), (.ssrc, r.a), (.ssrc, r.c), (.sdst, bits r.w1 0 7)],
      [r.b, bits r.fn 3 18, bits r.w1 7 57], false, false, do
      let n ← sDst (bits r.w1 0 7)
      onlyIf n.notQ (.mfac g (bits r.fn 0 1 == 1) (bits r.fn 1 1 == 1) (bits r.fn 2 1 == 1) (← statusDst r.d) n
        (← sSrc r.a) (← sSrc r.c))⟩
  | 0x05 => some ⟨.T, [(.sdst, r.d), (.ssrc, r.a), (.ssrc, r.b), (.sdst, bits r.w1 0 7)],
      [r.c, bits r.fn 3 18, bits r.w1 7 1, bits r.w1 16 48], false, false, do
      let n ← sDst (bits r.w1 0 7)
      onlyIf n.notQ (.mtrs g (bits r.fn 0 1 == 1) (← solveKind (bits r.fn 1 2)) (BitVec.ofNat 8 (bits r.w1 8 8))
        (← statusDst r.d) n (← sSrc r.a) (← sSrc r.b))⟩
  | 0x06 => some ⟨.T, four, [bits r.fn 3 18, bits r.w1 19 13, bits r.w1 56 8,
        if bits r.w1 16 3 = 0 then bits r.w1 32 24 else 0], false, false, do
      let d ← num
      onlyIf (d.notQ && bits r.w1 16 3 < 4) (.cpy g (bits r.fn 0 1 == 1) (bits r.fn 1 1 == 1) (bits r.fn 2 1 == 1) r.tid
        (BitVec.ofNat 8 (bits r.w1 8 8)) (BitVec.ofNat 2 (bits r.w1 16 2)) (BitVec.ofNat 24 (bits r.w1 32 24)) d
        (← sSrc r.a) (← sSrc r.b) (← sSrc r.c))⟩
  | 0x07 => some ⟨.T, four, [r.fn, r.w1], false, false, do
      let d ← num
      onlyIf d.notQ (.cpyk g d (← sSrc r.a) (← sSrc r.b) (← sSrc r.c))⟩
  | 0x08 => some ⟨.T, four, [r.fn, r.w1], false, false, do
      let d ← num
      onlyIf d.notQ (.cfill g d (← sSrc r.a) (← sSrc r.b) (← sSrc r.c))⟩
  | 0x09 => some ⟨.T, four, [r.fn, bits r.w1 8 56], false, false, do
      let d ← num
      onlyIf d.notQ (.cring g r.tid d (← sSrc r.a) (← sSrc r.b) (← sSrc r.c))⟩
  | 0x0A =>
    let cons := bits r.fn 4 1 == 1
    if bits r.fn 0 1 = 0 then
      some ⟨.T, [(.sdst, r.d)], [r.a, r.b, r.c, bits r.fn 1 3, bits r.fn 5 16, bits r.w1 13 51], false, false, do
        some (.rclaim g cons r.tid r.scope1 (← num))⟩
    else
      some ⟨.T, [(.sdst, r.d)], [r.a, r.b, r.c, bits r.fn 5 16, bits r.w1 13 51], true, false, do
        some (.rclaimNb g (BitVec.ofNat 3 (bits r.fn 1 3)) cons r.tid r.scope1 (← num))⟩
  | 0x0B => some ⟨.T, [(.ssrc, r.a)], [r.d, r.b, r.c, r.fn, bits r.w1 13 51], false, false, do
      some (.rfree g r.tid r.scope1 (← sSrc r.a))⟩
  | 0x0C => some ⟨.B, [(.ssrc, r.a)], [r.d, r.b % 2], false, false, do some (.fork g (← sSrc r.a) r.ofsBv)⟩
  | 0x0D => some ⟨.S, [(.sdst, r.d)], [r.a, r.b, r.c, r.fn], false, false, do some (.rdv g (← num))⟩
  | 0x0E =>
    let qn := BitVec.ofNat 3 (bits r.fn 4 3)
    if bits r.fn 0 1 = 0 then
      some ⟨.S, [(.ssrc, r.a)], [r.d, r.b, r.c, bits r.fn 1 3, bits r.fn 7 14], false, true, do
        some (.qpush g qn (← sSrc r.a))⟩
    else
      some ⟨.S, [(.ssrc, r.a)], [r.d, r.b, r.c, bits r.fn 7 14], true, false, do
        some (.qpushNb g (BitVec.ofNat 3 (bits r.fn 1 3)) qn (← sSrc r.a))⟩
  | 0x0F =>
    let qn := BitVec.ofNat 3 (bits r.fn 4 3)
    if bits r.fn 0 1 = 0 then
      some ⟨.S, [(.sdst, r.d)], [r.a, r.b, r.c, bits r.fn 1 3, bits r.fn 7 14], false, true, do some (.qpop g qn (← num))⟩
    else
      some ⟨.S, [(.sdst, r.d)], [r.a, r.b, r.c, bits r.fn 7 14], true, false, do
        some (.qpopNb g (BitVec.ofNat 3 (bits r.fn 1 3)) qn (← num))⟩
  | _ => none

/-- The source of a `cwait` or `cread` (R221). -/
def Raw.ctrSrc (r : Raw) : Option CtrSrc :=
  let tl := r.a == 0x49 && r.b == 0x49 && bits r.fn 10 5 == 2
  match r.xf with
  | 0 => do some (CtrSrc.mem (← r.mem) r.scope)
  | 1 => if tl then some .copyTl else none
  | 2 => if tl then some .matTl else none
  | _ => none

/-- DISP and SCL, which must be 0 where the source is a timeline (R221). -/
def Raw.tlRsv (r : Raw) : List Nat :=
  if r.xf = 1 ∨ r.xf = 2 then [r.w1, bits r.fn 15 2] else []

/-- The doubleword bit of an atomic's SIZE (R221). -/
def Raw.dbl (r : Raw) : Option Bool := if r.sz = 2 then some false else if r.sz = 3 then some true else none

/-- Group 0x1C0 (R221, R289, R366, R374). -/
def entry1C0 (r : Raw) (k : Nat) : Option Entry :=
  let g := r.guard
  let ab : List (SpecClass × Nat) := [(.ssrc, r.a), (.ssrc, r.b)]
  let ps := BitVec.ofNat 3 (bits r.fn 1 3)
  match k with
  | 0x00 => some ⟨.M, [(.sdst, r.d)] ++ ab ++ [(.ssrc, r.c)], [r.xf], false, false, do
      let op ← amoOp r.tw
      onlyIf (op != .fadd && !r.o && r.hint == 0)
        (.amo g op (← r.dbl) (← memOrd r.ord) r.scope (← sDst r.d) (← r.mem) (← sSrc r.c))⟩
  | 0x01 => some ⟨.M, [(.sdst, r.d)] ++ ab ++ [(.ssrc, r.c)], [r.xf, bits r.tw 3 1], false, false, do
      let sz ← size5 r.sz
      let d ← sDst r.d
      let c ← sSrc r.c
      onlyIf (!r.o && r.hint == 0 && (sz == .w || sz == .d || sz == .q) && (sz != .q || (d.evenG && c.evenG)))
        (.cas g sz (← memOrd r.ord) r.scope (BitVec.ofNat 3 r.tw) d (← r.mem) c)⟩
  | 0x02 =>
    if bits r.xf 0 1 = 0 then
      some ⟨.M, [(.ssrc, r.d)] ++ ab ++ [(.ssrc, r.c)], [bits r.xf 1 1], false, false, do
        let op ← amoOp r.tw
        onlyIf (op != .swap && !r.o && r.hint == 0)
          (.red g op (← r.dbl) (← ordBit 2 r.ord) r.scope (← sSrc r.d) (← r.mem) (← sSrc r.c))⟩
    else
      some ⟨.M, [(.ssrc, r.d)] ++ ab ++ [(.vsrc, r.c)], [bits r.xf 1 1], false, false, do
        let op ← amoOp r.tw
        onlyIf (op != .swap && !r.o && r.hint == 0 && r.sz == 2)
          (.redVector g op (← ordBit 2 r.ord) r.scope (← sSrc r.d) (← r.mem) (← vSrc r.c))⟩
  | 0x03 => some ⟨.S, [], [r.d, r.a, r.b, r.c, bits r.fn 7 14], false, false,
      let sc := BitVec.ofNat 5 (bits r.fn 2 5)
      match bits r.fn 0 2 with
      | 1 => some (.fenceAcq g sc)
      | 2 => some (.fenceRel g sc)
      | 3 => some (.fenceSc g sc)
      | _ => none⟩
  | 0x04 => some ⟨.M, ab ++ [(.ssrc, r.c)], [r.d, r.xf, r.tw], false, false, do
      onlyIf (!r.o && r.hint == 0 && r.sz == 3) (.cadd g (← memOrd r.ord) r.scope (← r.mem) (← sSrc r.c))⟩
  | 0x05 =>
    let ok := !r.o && r.hint == 0 && r.sz == 3 && r.ord == 1
    if bits r.tw 0 1 = 0 then
      some ⟨.M, [(.sdst, r.d)] ++ ab ++ [(.ssrc, r.c)], bits r.tw 1 3 :: r.tlRsv, false, true, do
        onlyIf ok (.cwait g (← r.ctrSrc) (← sDst r.d) (← sSrc r.c))⟩
    else
      some ⟨.M, [(.sdst, r.d)] ++ ab ++ [(.ssrc, r.c)], r.tlRsv, true, false, do
        onlyIf ok (.cwaitNb g ps (← r.ctrSrc) (← sDst r.d) (← sSrc r.c))⟩
  | 0x06 => some ⟨.M, [(.sdst, r.d)] ++ ab, [r.c, r.tw] ++ r.tlRsv, false, false, do
      onlyIf (!r.o && r.hint == 0 && r.sz == 3) (.cread g (← flag r.ord) (← r.ctrSrc) (← sDst r.d))⟩
  | 0x07 => some ⟨.M, [(.sdst, r.d)] ++ ab ++ [(.ssrc, r.c)], [r.xf, r.tw], false, false, do
      onlyIf (!r.o && r.hint == 0 && r.sz == 3 && r.d < 0x40 && r.d % 2 == 0)
        (.claim g (← memOrd r.ord) r.scope (BitVec.ofNat 6 r.d) (← r.mem) (← sSrc r.c))⟩
  | 0x08 =>
    let delay := BitVec.ofNat 20 r.w1
    let trp := bits r.fn 4 1 == 1
    if bits r.fn 0 1 = 0 then
      some ⟨.T, [(.ssrc, r.a), (.ssrc, r.c)], [r.d, bits r.fn 1 3, bits r.fn 5 16, bits r.w1 20 44], false, true, do
        if trp then some (Instr.sendTrapping g delay (← sSrc r.a) (← payBase r.b) (← sSrc r.c))
        else some (Instr.send g delay (← sSrc r.a) (← payBase r.b) (← sSrc r.c))⟩
    else
      some ⟨.T, [(.ssrc, r.a), (.ssrc, r.c)], [r.d, bits r.fn 5 16, bits r.w1 20 44], true, false, do
        onlyIf (!trp) (.sendNb g ps delay (← sSrc r.a) (← payBase r.b) (← sSrc r.c))⟩
  | 0x09 => some ⟨.T, [(.ssrc, r.a), (.ssrc, r.c)], [r.d, r.fn, r.w1], false, false, do
      some (.reply g (← sSrc r.a) (← payBase r.b) (← sSrc r.c))⟩
  | 0x0A =>
    let det := bits r.fn 4 1 == 1
    if bits r.fn 0 1 = 0 then
      some ⟨.T, [(.ssrc, r.a), (.ssrc, r.c)], [r.d, bits r.fn 1 3, bits r.fn 5 16, r.w1], false, false, do
        some (.spawn g det (← sSrc r.a) (← payBase r.b) (← sSrc r.c))⟩
    else
      some ⟨.T, [(.ssrc, r.a), (.ssrc, r.c)], [r.d, bits r.fn 5 16, r.w1], true, false, do
        some (.spawnNb g ps det (← sSrc r.a) (← payBase r.b) (← sSrc r.c))⟩
  | 0x0B => some ⟨.S, [(.sdst, r.d), (.ssrc, r.a)], [r.b, r.c, r.fn], false, false, do
      some (.mspill g (← sDst r.d) (← sSrc r.a))⟩
  | 0x0C => some ⟨.S, [(.sdst, r.d), (.ssrc, r.a)], [r.b, r.c, r.fn], false, false, do
      some (.mreplay g (← sDst r.d) (← sSrc r.a))⟩
  | 0x0D => some ⟨.S, [(.sdst, r.d)], [r.a, r.b, r.c, bits r.fn 3 18], false, false, do
      onlyIf (bits r.fn 0 3 < 6) (.mstat g (BitVec.ofNat 3 r.fn) (← sDst r.d))⟩
  | 0x0E => some ⟨.T, [(.sdst, r.d), (.ssrc, r.a)], [r.b, r.c, r.fn, r.w1], false, false, do
      let d ← sDst r.d
      onlyIf d.notQ (.launch g d (← sSrc r.a))⟩
  | 0x0F => some ⟨.S, [(.ssrc, r.a)], [r.d, r.b, r.c, bits r.fn 2 19], false, false, do
      let a ← sSrc r.a
      match bits r.fn 0 2 with
      | 0 => onlyIf (a != .zr) (.cancel g (.launch a))
      | 1 => onlyIf (a != .zr) (.cancel g (.graph a))
      | 2 => onlyIf (a != .zr) (.cancel g (.phase a))
      | _ => onlyIf (a == .zr) (.cancel g .job)⟩
  | 0x10 => some ⟨.I, [], [r.d, r.a, r.b, bits r.imm28 16 12], false, false, some (.trap g (BitVec.ofNat 16 r.imm28))⟩
  | 0x11 => some ⟨.S, [], [r.d, r.a, r.b, r.c, r.fn], false, false, some (.eret g)⟩
  | 0x12 => some ⟨.S, [(.sdst, r.d)], [r.a, r.b, r.c, bits r.fn 12 9], false, false, do
      let d ← sDst r.d
      onlyIf (d.isReg && csrNumbers.contains (bits r.fn 0 12)) (.csrr g d (BitVec.ofNat 12 r.fn))⟩
  | 0x13 => some ⟨.S, [(.ssrc, r.a)], [r.d, r.b, r.c, bits r.fn 12 9], false, false, do
      onlyIf (csrNumbers.contains (bits r.fn 0 12)) (.csrw g (BitVec.ofNat 12 r.fn) (← sSrc r.a))⟩
  | _ => none

/-- The entry of a word's opcode; none for the unallocated codes (R36, R37). -/
def entryOf (r : Raw) : Option Entry :=
  let k := r.op % 64
  match r.op / 64 with
  | 0 => entry000 r k
  | 1 => entry040 r k
  | 2 => entry080 r k
  | 3 => entry0C0 r k
  | 4 => entry100 r k
  | 5 => entry140 r k
  | 6 => entry180 r k
  | _ => entry1C0 r k

/-- The attributes of an executable page (R40). -/
structure PageKind where
  resident : Bool
  allot : Nat
  deriving DecidableEq, Repr

/-- A header's allotment from its VAL code (R39). -/
def valAllot : Nat → Nat
  | 0 => 0
  | 1 => 8
  | 2 => 16
  | _ => 32

/-- A specifier 0x50 to 0x57 of scalar class (R43). -/
def isQueueSpec (p : SpecClass × Nat) : Bool :=
  (p.1 == .ssrc || p.1 == .sdst) && decide (0x50 ≤ p.2 ∧ p.2 < 0x58)

/-- The checks of one instruction under a page, in increasing REASON (R42). -/
def scanWord (pg : PageKind) (w : Nat) : Except Reason Instr :=
  let r := Raw.unpack w
  match entryOf r with
  | none => .error .opcode
  | some e =>
    if e.fmt.len ≠ r.len then .error .format
    else if e.specs.any (fun p => !p.1.accepts p.2) then .error .specifier
    else if e.specs.any (fun p => !p.1.admits pg.allot p.2) then .error .allotment
    else if r.gp = 0 ∧ r.gn = 1 then .error .guardNever
    else if e.twin ∧ bits r.fn 1 3 = 0 then .error .twinP0
    else if e.rsv.any (· != 0) then .error .reserved
    else
      match e.instr with
      | none => .error .value
      | some i =>
        if (match i with
            | .nop _ (some h) => (h.getLsbD 4 != pg.resident) || valAllot (bits h.toNat 0 2) != pg.allot
            | _ => false) then .error .header
        else if !pg.resident ∧ (e.blocking ∨ e.specs.any isQueueSpec) then .error .handlerPage
        else .ok i

/-- The instruction of a word, by the checks that do not depend on the page: the runtime decoder (R47). -/
def decodeWord (w : Nat) : Option Instr :=
  let r := Raw.unpack w
  match entryOf r with
  | none => none
  | some e =>
    if e.fmt.len ≠ r.len then none
    else if e.specs.any (fun p => !p.1.accepts p.2) then none
    else if r.gp = 0 ∧ r.gn = 1 then none
    else if e.twin ∧ bits r.fn 1 3 = 0 then none
    else if e.rsv.any (· != 0) then none
    else e.instr

/-- The checks of one word by name (R42), for a page that admits everything: what the decoder refuses and why. -/
def refusalOf (w : Nat) : Option Reason :=
  match scanWord ⟨true, 32⟩ w with
  | .ok _ => none
  | .error .header => none
  | .error r => some r

/-- The decoder on bytes, least significant first (R3, R20): the instruction and its length, or why there is none. -/
def decode (bs : List Byte) : Except Reason (Instr × Nat) :=
  let w := bs.foldr (fun b acc => b.toNat + 256 * acc) 0
  let n := lenBytes (w % 4)
  if n = 0 then .error .lengthCode
  else if bs.length < n then .error .crossesBlock
  else
    match decodeWord (w % 2 ^ (8 * n)) with
    | some i => .ok (i, n)
    | none => .error ((refusalOf (w % 2 ^ (8 * n))).getD .value)

/-- The little-endian bytes of a number. -/
def bytesOf (n w : Nat) : List Byte := (List.range n).map (fun i => BitVec.ofNat 8 (w / 2 ^ (8 * i)))

/-- Reads the instruction whose bits are `w`, its later words zero above `nbits` (R3). -/
def decodeTableWord (nbits w : Nat) : Option Instr :=
  match decode (bytesOf 16 (w % 2 ^ nbits)) with
  | .ok (i, _) => some i
  | .error _ => none

/-! The encoder. -/

/-- The fields of a word, before the guard is put in. -/
structure Enc where
  fmt : Format
  op : Nat
  d : Nat := 0
  a : Nat := 0
  b : Nat := 0
  c : Nat := 0
  fn : Nat := 0
  w1 : Nat := 0

/-- The word of an entry under a guard (R23). -/
def Enc.raw (e : Enc) (g : Guard) : Raw :=
  ⟨e.fmt.len, e.op, g.pred.toNat, b2n g.neg, e.d, e.a, e.b, e.c, e.fn, e.w1⟩

/-- Format B: the offset over the B, C and FN fields (R28). -/
def encB (op a : Nat) (ofs : BitVec 34) : Enc :=
  ⟨.B, op, 0, a, ofs.toNat % 2 ^ 6 * 2, ofs.toNat / 2 ^ 6 % 2 ^ 7, ofs.toNat / 2 ^ 13, 0⟩

/-- Format I: the immediate over the C and FN fields (R27). -/
def encI (op d a : Nat) (imm : Nat) : Enc := ⟨.I, op, d, a, 0, imm % 2 ^ 7, imm / 2 ^ 7, 0⟩

/-- Format S with plain fields (R26). -/
def encS (op d a b c fn : Nat) : Enc := ⟨.S, op, d, a, b, c, fn, 0⟩

/-- Format T with plain fields (R31). -/
def encT (op d a b c fn w1 : Nat) : Enc := ⟨.T, op, d, a, b, c, fn, w1⟩

/-- FN of format M (R29). -/
def fnM (tw sz : Nat) (o : Bool) (ord scope scl hint xf : Nat) : Nat :=
  tw + sz * 2 ^ 4 + b2n o * 2 ^ 7 + ord * 2 ^ 8 + scope * 2 ^ 10 + scl * 2 ^ 15 + hint * 2 ^ 17 + xf * 2 ^ 19

/-- Format M with a memory operand (R29, R30). -/
def encM (op d c : Nat) (m : MemOp) (tw sz : Nat) (o : Bool) (ord : Nat) (scope : BitVec 5) (hint xf : Nat) : Enc :=
  ⟨.M, op, d, m.base.code, m.index.code, c, fnM tw sz o ord scope.toNat m.scl.toNat hint xf, m.disp.toNat⟩

/-- FN of a vector word (R132). -/
def fnV (ty rm : Nat) (c : VCtl) (x1 x2 : Nat) : Nat :=
  ty + rm * 2 ^ 4 + c.mask.toNat * 2 ^ 7 + b2n c.zm * 2 ^ 10 + x1 * 2 ^ 11 + x2 * 2 ^ 15

/-- The mask and zeroing bits in TW or FN[3:0] (R179). -/
def twOf (c : VCtl) : Nat := c.mask.toNat + b2n c.zm * 2 ^ 3

/-- Word 1 of the T-format entries with an identifier and a scope (R179, R341). -/
def w1Id (id : BitVec 8) (scope : BitVec 5) : Nat := id.toNat + scope.toNat * 2 ^ 8

/-- FN of a twin: bit 0 set and the status predicate (R32). -/
def fnTwin (ps : BitVec 3) : Nat := 1 + ps.toNat * 2

/-- The fields of an instruction (the encoding tables); none for an event. -/
def Instr.enc : Instr → Option Enc
  | .nop _ none => some (encS 0x000 0 0 0 0 0)
  | .nop _ (some h) => some (encS 0x000 0 0 0 0 (h.toNat + 2 ^ 20))
  | .brk _ code => some (encS 0x001 0 0 0 0 code.toNat)
  | .br _ n p ofs => some (encB 0x002 (p.toNat + b2n n * 2 ^ 3) ofs)
  | .jmp _ ofs => some (encB 0x003 0 ofs)
  | .call _ l ofs => some (encB 0x004 l.toNat ofs)
  | .jr _ a => some (encS 0x005 0 a.code 0 0 0)
  | .callr _ l a => some (encS 0x006 l.toNat a.code 0 0 0)
  | .ret _ a => some (encS 0x007 0 a.code 0 0 0)
  | .plog _ pd pa pb tt =>
    some (encS 0x008 0 0 0 0 (pd.toNat + pa.toNat * 2 ^ 3 + pb.toNat * 2 ^ 6 + tt.toNat * 2 ^ 9))
  | .pmov _ n (.toPred a) => some (encS 0x009 0 a.code 0 0 (n.toNat * 2 ^ 2))
  | .pmov _ n (.fromPred d) => some (encS 0x009 d.code 0 0 0 (1 + n.toNat * 2 ^ 2))
  | .pmov _ n (.toMask a) => some (encS 0x009 0 a.code 0 0 (2 + n.toNat * 2 ^ 2))
  | .pmov _ n (.fromMask d) => some (encS 0x009 d.code 0 0 0 (3 + n.toNat * 2 ^ 2))
  | .nest _ ps a b c stp => some (encT 0x00A 0 a.code b.code c.code (ps.toNat * 2) stp.toNat)
  | .iter _ ofs => some (encB 0x00B 0 ofs)
  | .align _ k => some (encI 0x00C 0 0 k.toNat)
  | .done _ => some (encS 0x00D 0 0 0 0 0)
  | .who _ d s => some (encS 0x00E d.code 0 0 0 s.toNat)
  | .li _ d imm => some ⟨.L, 0x040, d.code, 0, 0, 0, 0, imm.toNat⟩
  | .mov _ d a => some (encS 0x041 d.code a.code 0 0 0)
  | .add _ ty d a b => some (encS 0x042 d.code a.code b.code 0 ty.code)
  | .addi _ d a imm => some (encI 0x043 d.code a.code imm.toNat)
  | .sub _ ty d a b => some (encS 0x044 d.code a.code b.code 0 ty.code)
  | .mul _ ty d a b => some (encS 0x045 d.code a.code b.code 0 ty.code)
  | .muli _ d a imm => some (encI 0x046 d.code a.code imm.toNat)
  | .mulh _ ty d a b => some (encS 0x047 d.code a.code b.code 0 ty.code)
  | .div _ ty d a b => some (encS 0x048 d.code a.code b.code 0 ty.code)
  | .rem _ ty d a b => some (encS 0x049 d.code a.code b.code 0 ty.code)
  | .and _ ty d a b => some (encS 0x04A d.code a.code b.code 0 ty.code)
  | .andi _ d a imm => some (encI 0x04B d.code a.code imm.toNat)
  | .or _ ty d a b => some (encS 0x04C d.code a.code b.code 0 ty.code)
  | .ori _ d a imm => some (encI 0x04D d.code a.code imm.toNat)
  | .xor _ ty d a b => some (encS 0x04E d.code a.code b.code 0 ty.code)
  | .xori _ d a imm => some (encI 0x04F d.code a.code imm.toNat)
  | .andn _ ty d a b => some (encS 0x050 d.code a.code b.code 0 ty.code)
  | .shl _ ty d a b => some (encS 0x051 d.code a.code b.code 0 ty.code)
  | .shli _ d a imm => some (encI 0x052 d.code a.code imm.toNat)
  | .shr _ ty d a b => some (encS 0x053 d.code a.code b.code 0 ty.code)
  | .shri _ d a imm => some (encI 0x054 d.code a.code imm.toNat)
  | .sar _ ty d a b => some (encS 0x055 d.code a.code b.code 0 ty.code)
  | .sari _ d a imm => some (encI 0x056 d.code a.code imm.toNat)
  | .rol _ ty d a b => some (encS 0x057 d.code a.code b.code 0 ty.code)
  | .roli _ d a imm => some (encI 0x058 d.code a.code imm.toNat)
  | .min _ ty d a b => some (encS 0x059 d.code a.code b.code 0 ty.code)
  | .max _ ty d a b => some (encS 0x05A d.code a.code b.code 0 ty.code)
  | .abs _ ty d a => some (encS 0x05B d.code a.code 0 0 ty.code)
  | .neg _ ty d a => some (encS 0x05C d.code a.code 0 0 ty.code)
  | .sel _ n d a b => some (encS 0x05D d.code a.code b.code 0 (n.toNat * 2 ^ 4))
  | .cmp _ ty cc pd a b => some (encS 0x05E (pd.toNat + cc.code * 2 ^ 3) a.code b.code 0 ty.code)
  | .cmpi _ cc pd a imm => some (encI 0x05F (pd.toNat + cc.code * 2 ^ 3) a.code imm.toNat)
  | .clz _ ty d a => some (encS 0x060 d.code a.code 0 0 ty.code)
  | .ctz _ ty d a => some (encS 0x061 d.code a.code 0 0 ty.code)
  | .popc _ ty d a => some (encS 0x062 d.code a.code 0 0 ty.code)
  | .brev _ ty d a => some (encS 0x063 d.code a.code 0 0 ty.code)
  | .bfx _ s d a pos lm1 =>
    some (encS 0x064 d.code a.code 0 0 ((if s then 3 else 7) + pos.toNat * 2 ^ 4 + lm1.toNat * 2 ^ 10))
  | .bfi _ d a b pos lm1 => some (encS 0x065 d.code a.code b.code 0 (pos.toNat * 2 ^ 4 + lm1.toNat * 2 ^ 10))
  | .ext _ ty d a => some (encS 0x066 d.code a.code 0 0 ty.code)
  | .lea _ d a b scl disp => some (encS 0x067 d.code a.code b.code 0 (scl.toNat * 2 ^ 4 + disp.toNat * 2 ^ 6))
  | .fadd _ ty rm d a b => some (encS 0x080 d.code a.code b.code 0 (ty.code + rm.code * 2 ^ 4))
  | .fsub _ ty rm d a b => some (encS 0x081 d.code a.code b.code 0 (ty.code + rm.code * 2 ^ 4))
  | .fmul _ ty rm d a b => some (encS 0x082 d.code a.code b.code 0 (ty.code + rm.code * 2 ^ 4))
  | .fma _ ty rm d a b c => some (encS 0x083 d.code a.code b.code c.code (ty.code + rm.code * 2 ^ 4))
  | .fdiv _ ty rm d a b => some (encS 0x084 d.code a.code b.code 0 (ty.code + rm.code * 2 ^ 4))
  | .fsqrt _ ty rm d a => some (encS 0x085 d.code a.code 0 0 (ty.code + rm.code * 2 ^ 4))
  | .fmin _ ty d a b => some (encS 0x086 d.code a.code b.code 0 ty.code)
  | .fmax _ ty d a b => some (encS 0x087 d.code a.code b.code 0 ty.code)
  | .fabs _ ty d a => some (encS 0x088 d.code a.code 0 0 ty.code)
  | .fneg _ ty d a => some (encS 0x089 d.code a.code 0 0 ty.code)
  | .fcmp _ ty cc pd a b => some (encS 0x08A (pd.toNat + cc.code * 2 ^ 3) a.code b.code 0 ty.code)
  | .fclass _ ty d a => some (encS 0x08B d.code a.code 0 0 ty.code)
  | .fcvt _ ty dty rm d a => some (encS 0x08C d.code a.code 0 0 (ty.code + rm.code * 2 ^ 4 + dty.code * 2 ^ 7))
  | .frcp _ ty rm d a => some (encS 0x08D d.code a.code 0 0 (ty.code + rm.code * 2 ^ 4))
  | .frsq _ ty rm d a => some (encS 0x08E d.code a.code 0 0 (ty.code + rm.code * 2 ^ 4))
  | .faddi _ d a imm => some (encI 0x08F d.code a.code imm.toNat)
  | .fmuli _ d a imm => some (encI 0x090 d.code a.code imm.toNat)
  | .vadd _ ty v d a b => some (encS 0x0C0 d.code a.code b.code 0 (fnV ty.code 0 v 0 0))
  | .vsub _ ty v d a b => some (encS 0x0C1 d.code a.code b.code 0 (fnV ty.code 0 v 0 0))
  | .vmul _ ty v d a b => some (encS 0x0C2 d.code a.code b.code 0 (fnV ty.code 0 v 0 0))
  | .vmad _ ty v d a b x => some (encS 0x0C3 d.code a.code b.code x.code (fnV ty.code 0 v 0 0))
  | .vmin _ ty v d a b => some (encS 0x0C4 d.code a.code b.code 0 (fnV ty.code 0 v 0 0))
  | .vmax _ ty v d a b => some (encS 0x0C5 d.code a.code b.code 0 (fnV ty.code 0 v 0 0))
  | .vabs _ ty v d a => some (encS 0x0C6 d.code a.code 0 0 (fnV ty.code 0 v 0 0))
  | .vneg _ ty v d a => some (encS 0x0C7 d.code a.code 0 0 (fnV ty.code 0 v 0 0))
  | .vand _ ty v d a b => some (encS 0x0C8 d.code a.code b.code 0 (fnV ty.code 0 v 0 0))
  | .vor _ ty v d a b => some (encS 0x0C9 d.code a.code b.code 0 (fnV ty.code 0 v 0 0))
  | .vxor _ ty v d a b => some (encS 0x0CA d.code a.code b.code 0 (fnV ty.code 0 v 0 0))
  | .vshl _ ty v d a b => some (encS 0x0CB d.code a.code b.code 0 (fnV ty.code 0 v 0 0))
  | .vshr _ ty v d a b => some (encS 0x0CC d.code a.code b.code 0 (fnV ty.code 0 v 0 0))
  | .vsar _ ty v d a b => some (encS 0x0CD d.code a.code b.code 0 (fnV ty.code 0 v 0 0))
  | .vcmp _ s v cc md a b =>
    some (encS 0x0CE (md.toNat + cc.code * 2 ^ 3) a.code b.code 0 (fnV (if s then 2 else 6) 0 v 0 0))
  | .vsel _ mk d a b => some (encS 0x0CF d.code a.code b.code 0 (mk.toNat * 2 ^ 7))
  | .vaddi _ d a imm => some (encI 0x0D0 d.code a.code imm.toNat)
  | .vred _ ty op v d a => some (encS 0x0D1 d.code a.code 0 0 (fnV ty.code 0 v op.code 0))
  | .vscan _ ty op v d a => some (encS 0x0D2 d.code a.code 0 0 (fnV ty.code 0 v op.code 0))
  | .vperm _ ty v d a b x => some (encS 0x0D3 d.code a.code b.code x.code (fnV ty.code 0 v 0 0))
  | .vbcast _ ty v d a => some (encS 0x0D4 d.code a.code 0 0 (fnV ty.code 0 v 0 0))
  | .vextr _ ty d a b => some (encS 0x0D5 d.code a.code b.code 0 ty.code)
  | .vins _ ty d a b => some (encS 0x0D6 d.code a.code b.code 0 ty.code)
  | .vmov _ v d a => some (encS 0x0D7 d.code a.code 0 0 (fnV 0 0 v 0 0))
  | .vmovFromIndex _ d b => some (encS 0x0D7 d.code 0 b.code 0 (1 * 2 ^ 11))
  | .vmovToIndex _ a b => some (encS 0x0D7 0 a.code b.code 0 (2 * 2 ^ 11))
  | .vmpop _ d n first => some (encS 0x0D8 d.code 0 0 0 (n.toNat + b2n first * 2 ^ 3))
  | .vmlog _ md ma mb tt =>
    some (encS 0x0D9 0 0 0 0 (md.toNat + ma.toNat * 2 ^ 3 + mb.toNat * 2 ^ 6 + tt.toNat * 2 ^ 9))
  | .vfadd _ ty rm v d a b => some (encS 0x100 d.code a.code b.code 0 (fnV ty.code rm.code v 0 0))
  | .vfsub _ ty rm v d a b => some (encS 0x101 d.code a.code b.code 0 (fnV ty.code rm.code v 0 0))
  | .vfmul _ ty rm v d a b => some (encS 0x102 d.code a.code b.code 0 (fnV ty.code rm.code v 0 0))
  | .vfma _ ty rm v d a b x => some (encS 0x103 d.code a.code b.code x.code (fnV ty.code rm.code v 0 0))
  | .vfmin _ ty v d a b => some (encS 0x104 d.code a.code b.code 0 (fnV ty.code 0 v 0 0))
  | .vfmax _ ty v d a b => some (encS 0x105 d.code a.code b.code 0 (fnV ty.code 0 v 0 0))
  | .vfabs _ ty inv v d a => some (encS 0x106 d.code a.code 0 0 (fnV ty.code 0 v (b2n inv) 0))
  | .vfcmp _ ty v cc md a b => some (encS 0x107 (md.toNat + cc.code * 2 ^ 3) a.code b.code 0 (fnV ty.code 0 v 0 0))
  | .vfcvt _ ty dty part rm v d a row =>
    some (encS 0x108 d.code a.code 0 row.code (fnV ty.code rm.code v part.toNat dty.code))
  | .vexp2 _ rm v d a => some (encS 0x109 d.code a.code 0 0 (fnV 8 rm.code v 0 0))
  | .vlog2 _ rm v d a => some (encS 0x10A d.code a.code 0 0 (fnV 8 rm.code v 0 0))
  | .vrcp _ rm v d a => some (encS 0x10B d.code a.code 0 0 (fnV 8 rm.code v 0 0))
  | .vrsq _ rm v d a => some (encS 0x10C d.code a.code 0 0 (fnV 8 rm.code v 0 0))
  | .vfred _ ty op rm v d a => some (encS 0x10D d.code a.code 0 0 (fnV ty.code rm.code v op.code 0))
  | .wclr _ a => some (encS 0x10E 0 a.code 0 0 0)
  | .wadd _ ty m c => some (encM 0x10F 0 c.code m 0 (ty.code - 6) false 0 0 0 0)
  | .wrd _ ty rm d a => some (encS 0x110 d.code a.code 0 0 (ty.code + rm.code * 2 ^ 4))
  | .rng _ v d => some (encS 0x111 d.code 0 0 0 (fnV 0 0 v 0 0))
  | .ld _ sz o ord rep scope sx d m => some (encM 0x140 d.code 0 m (b2n sx) sz.log o ord.code scope (b2n rep) 0)
  | .st _ sz o ord scope m c => some (encM 0x141 0 c.code m 0 sz.log o ord.code scope 0 0)
  | .vld _ sz o acq rep scope v d m => some (encM 0x142 d.code 0 m (twOf v) sz.log o (b2n acq) scope (b2n rep) 0)
  | .vst _ sz o rel scope mk m c => some (encM 0x143 0 c.code m mk.toNat sz.log o (b2n rel * 2) scope 0 0)
  | .vldx _ sz o acq rep scope sx v d base idx scl disp =>
    some ⟨.M, 0x144, d.code, base.code, idx.code, 0,
      fnM (twOf v) sz.log o (b2n acq) scope.toNat scl.toNat (b2n rep) (b2n sx), disp.toNat⟩
  | .vstx _ sz o rel scope mk base idx scl disp c =>
    some ⟨.M, 0x145, 0, base.code, idx.code, c.code,
      fnM mk.toNat sz.log o (b2n rel * 2) scope.toNat scl.toNat 0 0, disp.toNat⟩
  | .tld _ o acq rep id scope v d a b =>
    some (encT 0x146 d.code a.code b.code 0 (twOf v + b2n o * 2 ^ 4 + b2n acq * 2 ^ 5 + b2n rep * 2 ^ 7) (w1Id id scope))
  | .tst _ o rel id scope mk a b c =>
    some (encT 0x147 0 a.code b.code c.code (mk.toNat + b2n o * 2 ^ 4 + b2n rel * 2 ^ 6) (w1Id id scope))
  | .pf _ rep sector m => some (encM 0x148 0 0 m 0 0 false 0 0 (b2n rep) (b2n sector))
  | .tdef _ a b => some (encT 0x149 0 a.code b.code 0 0 0)
  | .tget _ w d a => some (encS 0x14A d.code a.code 0 0 w.toNat)
  | .taddr _ o id d a b => some (encT 0x14B d.code a.code b.code 0x49 (b2n o) id.toNat)
  | .hgl _ acq rep id scope v d a b =>
    some (encT 0x14C d.toNat a.toNat b.code 0 (twOf v) (w1Id id scope + b2n acq * 2 ^ 13 + b2n rep * 2 ^ 15))
  | .hgs _ id scope mk ctr a b c => some (encT 0x14D ctr.code a.toNat b.code c.toNat mk.toNat (w1Id id scope))
  | .hgw _ id v d a b corner => some (encT 0x14E d.toNat a.toNat b.code corner.code (twOf v) id.toNat)
  | .nmop _ kind nm1 scope aval d a b c =>
    some (encT 0x14F d.code a.code b.code c.code kind.code (nm1.toNat + scope.toNat * 2 ^ 16 + aval.toNat * 2 ^ 32))
  | .cinv _ all m => some (encM 0x150 0 0 m 0 0 false 0 0 0 (b2n all))
  | .cwb _ drop m => some (encM 0x151 0 0 m 0 0 false 0 0 0 (b2n drop))
  | .mwl _ slot o af8 id d a b => some (encT 0x180 d.code a.code b.code 0 (b2n slot + b2n o * 2 + b2n af8 * 4) id.toNat)
  | .mma _ acc slot o id d a b => some (encT 0x181 d.code a.code b.code 0 (b2n acc + b2n slot * 2 + b2n o * 4) id.toNat)
  | .mst _ acc o clr fz8 rm id d a b c =>
    some (encT 0x182 d.code a.code b.code c.code
      (b2n acc + b2n o * 2 + rm.code * 4 + b2n clr * 2 ^ 5 + b2n fz8 * 2 ^ 6) id.toNat)
  | .mclr _ acc d => some (encS 0x183 d.code 0 0 0 (b2n acc))
  | .mclrLoad _ acc o id d a b =>
    some (encS 0x183 d.code a.code b.code 0 (b2n acc + 2 + b2n o * 4 + id.toNat * 2 ^ 3))
  | .mfac _ acc lu ptrap sq num a c =>
    some (encT 0x184 (statusCode sq) a.code 0 c.code (b2n acc + b2n lu * 2 + b2n ptrap * 4) num.code)
  | .mtrs _ acc kind id sq num a b =>
    some (encT 0x185 (statusCode sq) a.code b.code 0 (b2n acc + kind.code * 2) (num.code + id.toNat * 2 ^ 8))
  | .cpy _ tr o d4 sid did mcax mcmap d a b c =>
    some (encT 0x186 d.code a.code b.code c.code (b2n tr + b2n o * 2 + b2n d4 * 4)
      (sid.toNat + did.toNat * 2 ^ 8 + mcax.toNat * 2 ^ 16 + mcmap.toNat * 2 ^ 32))
  | .cpyk _ d a b c => some (encT 0x187 d.code a.code b.code c.code 0 0)
  | .cfill _ d a b c => some (encT 0x188 d.code a.code b.code c.code 0 0)
  | .cring _ id d a b c => some (encT 0x189 d.code a.code b.code c.code 0 id.toNat)
  | .rclaim _ cons id scope d => some (encT 0x18A d.code 0 0 0 (b2n cons * 2 ^ 4) (w1Id id scope))
  | .rclaimNb _ ps cons id scope d => some (encT 0x18A d.code 0 0 0 (fnTwin ps + b2n cons * 2 ^ 4) (w1Id id scope))
  | .rfree _ id scope a => some (encT 0x18B 0 a.code 0 0 0 (w1Id id scope))
  | .fork _ a ofs => some (encB 0x18C a.code ofs)
  | .rdv _ d => some (encS 0x18D d.code 0 0 0 0)
  | .qpush _ qn a => some (encS 0x18E 0 a.code 0 0 (qn.toNat * 2 ^ 4))
  | .qpushNb _ ps qn a => some (encS 0x18E 0 a.code 0 0 (fnTwin ps + qn.toNat * 2 ^ 4))
  | .qpop _ qn d => some (encS 0x18F d.code 0 0 0 (qn.toNat * 2 ^ 4))
  | .qpopNb _ ps qn d => some (encS 0x18F d.code 0 0 0 (fnTwin ps + qn.toNat * 2 ^ 4))
  | .amo _ op dbl ord scope d m c => some (encM 0x1C0 d.code c.code m op.code (2 + b2n dbl) false ord.code scope 0 0)
  | .cas _ sz ord scope ps d m c => some (encM 0x1C1 d.code c.code m ps.toNat sz.log false ord.code scope 0 0)
  | .red _ op dbl rel scope ctr m c =>
    some (encM 0x1C2 ctr.code c.code m op.code (2 + b2n dbl) false (b2n rel * 2) scope 0 0)
  | .redVector _ op rel scope ctr m c => some (encM 0x1C2 ctr.code c.code m op.code 2 false (b2n rel * 2) scope 0 1)
  | .fenceAcq _ scope => some (encS 0x1C3 0 0 0 0 (1 + scope.toNat * 4))
  | .fenceRel _ scope => some (encS 0x1C3 0 0 0 0 (2 + scope.toNat * 4))
  | .fenceSc _ scope => some (encS 0x1C3 0 0 0 0 (3 + scope.toNat * 4))
  | .cadd _ ord scope m c => some (encM 0x1C4 0 c.code m 0 3 false ord.code scope 0 0)
  | .cwait _ (.mem m scope) d c => some (encM 0x1C5 d.code c.code m 0 3 false 1 scope 0 0)
  | .cwait _ .copyTl d c => some (encM 0x1C5 d.code c.code ⟨.zr, .zr, 0, 0⟩ 0 3 false 1 2 0 1)
  | .cwait _ .matTl d c => some (encM 0x1C5 d.code c.code ⟨.zr, .zr, 0, 0⟩ 0 3 false 1 2 0 2)
  | .cwaitNb _ ps (.mem m scope) d c => some (encM 0x1C5 d.code c.code m (fnTwin ps) 3 false 1 scope 0 0)
  | .cwaitNb _ ps .copyTl d c => some (encM 0x1C5 d.code c.code ⟨.zr, .zr, 0, 0⟩ (fnTwin ps) 3 false 1 2 0 1)
  | .cwaitNb _ ps .matTl d c => some (encM 0x1C5 d.code c.code ⟨.zr, .zr, 0, 0⟩ (fnTwin ps) 3 false 1 2 0 2)
  | .cread _ acq (.mem m scope) d => some (encM 0x1C6 d.code 0 m 0 3 false (b2n acq) scope 0 0)
  | .cread _ acq .copyTl d => some (encM 0x1C6 d.code 0 ⟨.zr, .zr, 0, 0⟩ 0 3 false (b2n acq) 2 0 1)
  | .cread _ acq .matTl d => some (encM 0x1C6 d.code 0 ⟨.zr, .zr, 0, 0⟩ 0 3 false (b2n acq) 2 0 2)
  | .claim _ ord scope d m c => some (encM 0x1C7 d.toNat c.code m 0 3 false ord.code scope 0 0)
  | .send _ delay a b c => some (encT 0x1C8 0 a.code (payCode b) c.code 0 delay.toNat)
  | .sendNb _ ps delay a b c => some (encT 0x1C8 0 a.code (payCode b) c.code (fnTwin ps) delay.toNat)
  | .sendTrapping _ delay a b c => some (encT 0x1C8 0 a.code (payCode b) c.code (2 ^ 4) delay.toNat)
  | .reply _ a b c => some (encT 0x1C9 0 a.code (payCode b) c.code 0 0)
  | .spawn _ det a b c => some (encT 0x1CA 0 a.code (payCode b) c.code (b2n det * 2 ^ 4) 0)
  | .spawnNb _ ps det a b c => some (encT 0x1CA 0 a.code (payCode b) c.code (fnTwin ps + b2n det * 2 ^ 4) 0)
  | .mspill _ d a => some (encS 0x1CB d.code a.code 0 0 0)
  | .mreplay _ d a => some (encS 0x1CC d.code a.code 0 0 0)
  | .mstat _ k d => some (encS 0x1CD d.code 0 0 0 k.toNat)
  | .launch _ d a => some (encT 0x1CE d.code a.code 0 0 0 0)
  | .cancel _ (.launch a) => some (encS 0x1CF 0 a.code 0 0 0)
  | .cancel _ (.graph a) => some (encS 0x1CF 0 a.code 0 0 1)
  | .cancel _ (.phase a) => some (encS 0x1CF 0 a.code 0 0 2)
  | .cancel _ .job => some (encS 0x1CF 0 0x49 0 0 3)
  | .trap _ code => some (encI 0x1D0 0 0 code.toNat)
  | .eret _ => some (encS 0x1D1 0 0 0 0 0)
  | .csrr _ d num => some (encS 0x1D2 d.code 0 0 0 num.toNat)
  | .csrw _ num a => some (encS 0x1D3 0 a.code 0 0 num.toNat)
  | _ => none

/-- The bits of an instruction; none for an event, which no word encodes. -/
def encode (i : Instr) : Option Nat := do
  let g ← i.guard?
  let e ← i.enc
  some (e.raw g).pack

/-- The bytes of an instruction in address order (R3). -/
def encodeBytes (i : Instr) : Option (List Byte) := do
  let w ← encode i
  some (bytesOf (lenBytes (w % 4)) w)

/-! The page scanner. -/

/-- The byte of a page image at an offset; absent bytes read 0. -/
def pageByte (pg : List Byte) (k : Nat) : Nat := (pg.getD k 0).toNat

/-- `n` bytes of a page image as a little-endian number. -/
def pageNat (pg : List Byte) (k : Nat) : Nat → Nat
  | 0 => 0
  | n + 1 => pageByte pg k + 256 * pageNat pg (k + 1) n

/-- Scans one fetch block from offset `k` in it (R21, R42): the first failure and its offset. -/
def scanBlock (pk : PageKind) (pg : List Byte) (base : Nat) : Nat → Nat → Option (Reason × Nat)
  | 0, _ => none
  | fuel + 1, k =>
    if 32 ≤ k then none
    else if k = 28 then
      if pageNat pg (base + k) 4 = 0 then none else some (.tailWord, base + k)
    else
      let n := lenBytes (pageByte pg (base + k) % 4)
      if n = 0 then some (.lengthCode, base + k)
      else if 32 < k + n then some (.crossesBlock, base + k)
      else
        match scanWord pk (pageNat pg (base + k) n) with
        | .error r => some (r, base + k)
        | .ok _ => scanBlock pk pg base fuel (k + n)

/-- Scans `n` blocks in increasing address order, stopping at the first failure (R42). -/
def scanBlocks (pk : PageKind) (pg : List Byte) : Nat → Nat → Option (Reason × Nat)
  | 0, _ => none
  | n + 1, base =>
    match scanBlock pk pg base 4 0 with
    | some f => some f
    | none => scanBlocks pk pg n (base + 32)

/-- The scan status of R45. -/
def scanStatus (pk : PageKind) (pg : List Byte) (blocks : Nat) : Word :=
  match scanBlocks pk pg blocks 0 with
  | none => 0
  | some (r, ofs) => BitVec.ofNat 64 (r.code * 2 ^ 32 + ofs)

/-- The instruction starts of a block (R21), as offsets from its first byte. -/
def blockStarts (blk : List Byte) : Nat → Nat → List Nat
  | 0, _ => []
  | fuel + 1, k =>
    if 28 ≤ k then []
    else
      let n := lenBytes (pageByte blk k % 4)
      if n = 0 ∨ 32 < k + n then [] else k :: blockStarts blk fuel (k + n)

end Sys2Proof
end

