-- ==== Sys2Proof/Machine/State.lean ====
section
/-! DEFINITION. The state of the part as plain data: every piece of state of INVENTORY.md, its value after reset, and
the reasons a step can stop. -/

namespace Sys2Proof.Machine

/-- Memory as a list of (address, byte), addresses strictly rising, no entry zero: a byte never written reads 0
(notes/assumptions/1.md). -/
abbrev Memory := List Host.Cell

/-- Which context: device tile number, core of the tile, context 0 to 7 or 8 for the Bittern context (R74). -/
structure CtxId where
  tile : Nat
  core : Nat
  ctx : Nat
  deriving DecidableEq, Repr

/-- A tensor entry: the words w0 to w7 (R169). -/
abbrev Tensor := Vector Word 8

/-! Byte events (R191 to R217). -/

/-- Who makes an access: the job, the job tile it runs as, the device tile and the core. An agent outside the part (the
host, a peer, the Sluice) has slot 64. -/
structure Agent where
  slot : Nat
  jt : Nat
  tile : Nat
  core : Nat
  /-- The job tiles whose scratchpad the access has waited for, each with the turn it had then had (R361). -/
  waited : List (Nat × Nat)
  deriving DecidableEq, Repr

/-- The execution point of an access (R208): the bank controllers of a tile, the home LLC slice of an address, a fabric
port, the host port, a weight-store slice. -/
inductive Point where
  | tile (n : Nat)
  | home (n : Nat)
  | port (n : Nat)
  | hostPort
  | slice (n : Nat)
  deriving DecidableEq, Repr

/-- The kinds of R191: a write, a write whose bytes an engine makes each on its own (R211), a read-modify-write, and an
event of the tile atomic unit, which reads and writes as one step but extends no release (R152, R201). -/
inductive EventKind where
  | write | engine | rmw | wide
  deriving DecidableEq, Repr

/-- Bytes of write events: the number of the event and the byte, by its key. -/
abbrev Seen := List (Nat × Nat)

/-- A release (R201): its agent, its scope entry, and the events that come before it. -/
structure Release where
  ag : Agent
  scope : Nat
  seen : Seen
  deriving DecidableEq, Repr

/-- What an access carries beside its bytes (R191): its agent, ORD as it acts, its scope entry, and whether it is a plain
access; of an event `loose` is whether it is a plain one in region 2, which a release leaves unordered (R200). -/
structure Attr where
  ag : Agent
  acq : Bool
  rel : Bool
  sc : Bool
  scope : Nat
  loose : Bool
  deriving DecidableEq, Repr

/-- A write event of the record: its number and that of the access whose unit it is (R197, R201), its kind, attributes
and execution point, the releases that an acquire of it synchronises with, and the bytes it wrote, by key. -/
structure WriteEvent where
  num : Nat
  whole : Nat
  kind : EventKind
  attr : Attr
  point : Point
  rels : List Release
  cells : List Host.Cell
  deriving DecidableEq, Repr

/-- What a context knows of the events of the record: bytes it may no longer read an older value of, those that a release
of it passes on, its release fences, and what its reads returned (R195, R198, R204). -/
structure View where
  own : Seen
  pub : Seen
  fences : List Release
  reads : Seen
  deriving DecidableEq, Repr

/-- A context that has made no access. -/
def View.empty : View := ⟨[], [], [], []⟩

/-- A copy or matrix command that has performed: tile, core, the key of its job, its number on its timeline, and the
events it made and met (R212). -/
structure Performed where
  tile : Nat
  core : Nat
  job : Nat
  matrix : Bool
  num : Nat
  seen : Seen
  deriving DecidableEq, Repr

/-- The record of write events in coherence order, newest first, with what each recorded byte held before; the full
fences so far; what the copy and matrix commands that have performed made and met; and the choices of the schedule for
the coming accesses: how many of the newest events each unit of an access passes over, and which of its bytes take the
older value. Nothing is recorded while `keep` is false; while `delay` is true as well, plain loads that issue take their
values later; `trace` gathers the bytes that an instruction on trial reads (notes/assumptions/3.md). -/
structure Record where
  keep : Bool
  delay : Bool
  trace : Option (List Nat)
  log : List WriteEvent
  base : List Host.Cell
  fences : List Release
  performed : List Performed
  choices : List (Nat × Nat)
  deriving DecidableEq, Repr

/-- No record. -/
def Record.empty : Record := ⟨false, false, none, [], [], [], [], []⟩

/-- A 64-byte message with its job's slot, its launch and what the network carries beside it (R284, R287, R350). -/
structure Msg where
  slot : Nat
  h0 : Word
  h1 : Word
  pay : List Word
  launch : Option Nat
  sluice : Bool
  /-- Built by dispatch (R353). -/
  dispatch : Bool
  /-- The context whose trapping `send` waits for the outcome (R291). -/
  waiter : Option CtxId
  /-- A notice of R299, which takes RHOFS at its destination. -/
  notice : Bool
  /-- Its place among what its core has sent (R307), and the events that come before the activation that it starts
  (R213). -/
  num : Nat
  seen : Seen
  /-- The updates that a twin did not wait for and that the message leaves behind: context, generation and the number
  below which they lie (R213, R290). -/
  behind : Option (CtxId × BitVec 16 × Nat)
  /-- Dispatch messages load the iteration fetcher with start, end, step and extents (R354). -/
  nest : Option (Word × Word × Word × Word)
  deriving DecidableEq, Repr

/-- A FIFO of queue register entries, and the entries held for matrix status words (R86, R239); for each entry of q0 and
q1 the events that its context knew at the push, and the number that updates after it take (R272). -/
structure Queue where
  items : List Word
  held : Nat
  marks : List (Seen × Nat)
  deriving DecidableEq, Repr

/-- An empty queue. -/
def Queue.empty : Queue := ⟨[], 0, []⟩

/-- The iteration fetcher with i0 to i3 (R85, R105). -/
structure Nest where
  active : Bool
  ext : Word
  next : Word
  stop : Word
  step : BitVec 32
  i : Vector Word 4
  deriving DecidableEq, Repr

/-- The dirty bits of a context's units (R89). -/
structure Dirty where
  g : BitVec 64
  o : BitVec 8
  lat : Bool
  v : BitVec 32
  vo : BitVec 4
  vlat : Bool
  p : Bool
  m : BitVec 8
  q : Bool
  deriving DecidableEq, Repr

/-- An asynchronous trap held pending (R373): code, source, TVAL. -/
structure Pending where
  code : Nat
  src : Nat
  val : Word
  deriving DecidableEq, Repr

/-- What a context waits for beside the sources of its next instruction (R91). -/
inductive Wait where
  | none
  /-- `align k`, this execution being the n-th, issued at a clock (R107). -/
  | align (k n since : Nat)
  /-- `cwait` with a watch at the counter's execution point (R220). -/
  | watch
  /-- `cwait` whose satisfying read has been made: the value, and the events it came from (R220, R234). -/
  | answered (v : Word) (got : Seen)
  /-- `cwait` that re-reads, having found no free watch, since a clock; `ready` once it may read again (R220). -/
  | reread (since : Nat) (ready : Bool)
  /-- A held instruction whose page fault is with Tueno (R378): the lowest faulting address. -/
  | fault (va : Word)
  /-- `done` waiting for its effects (R80); `cancelled` for an ending by trap or cancel. -/
  | ending (trapped : Bool)
  /-- A trapping `send` waiting for its outcome (R291): none until reported, then whether it was refused. -/
  | outcome (h0 : Word) (refused : Option Bool)
  /-- `tdef` until every tile holds the entry (R186). -/
  | tdef
  /-- `rclaim` since a clock (R279); `late` once its timeout has passed. -/
  | ring (since : Nat) (late : Bool)
  /-- Requests to host memory whose answers the held instruction needs, with the answers so far by address (R391). -/
  | host (got : Assoc (List Byte))
  /-- A transfer or sequential flow to an address that R22 or R41 forbids, whose trap, with its code and TVAL, waits for
  the context's events at the tile atomic unit (R131). -/
  | flow (code : Nat) (val : Word)
  deriving DecidableEq, Repr

/-- The general state of one context that instructions name (R81). -/
structure Regs where
  pc : Word
  g : Vector Word 64
  o : Vector Word 8
  lat : Word
  v : Vector VWord 32
  vo : Vector VWord 4
  vlat : VWord
  p : BitVec 8
  m : Vector (BitVec 32) 8
  deriving DecidableEq, Repr

/-- A plain load that has issued and takes its value later, so that a later store of its context to other bytes may perform
before it (R198): its context, the instruction with the registers it issued with, the bytes it reads, the g and v registers
that it is to write, and whether the latches still wait for its result (notes/assumptions/3.md). -/
structure Late where
  owner : CtxId
  instr : Instr
  regs : Regs
  keys : List Nat
  g : BitVec 64
  v : BitVec 32
  lat : Bool
  vlat : Bool
  deriving DecidableEq, Repr

/-- The system registers of one context (R377): TVEC, TCAUSE, TEPC, TVAL, FPCS, RNGC, RNGS, IMMC, RAKE. -/
structure Csrs where
  tvec : Word
  tcause : Word
  tepc : Word
  tval : Word
  fpcs : Word
  rngc : Word
  rngs : Word
  immc : Word
  rake : Word
  deriving DecidableEq, Repr

/-- A sequencer program of a context (R266, R268): its registers, where it is, the closing count, and whether it ended
and with which result. -/
structure Prog where
  pc : Word
  g : Vector Word 8
  p : BitVec 8
  count : Nat
  ended : Option Word
  /-- Ended, and every command it issued has performed (R268). -/
  finished : Bool
  closing : Bool
  /-- Waiting for a page fault of its own instruction. -/
  held : Bool
  /-- What comes before its commands: events, and its context's updates of numbers below `after` (R270, R272). -/
  view : View
  after : Nat
  /-- The events of its commands that have performed (R271). -/
  done : Seen
  fetched : List (Word × BitVec 256)
  wanted : List (Word × Nat)
  deriving DecidableEq, Repr

/-- One context (R74 to R86). -/
structure Ctx where
  active : Bool
  gen : BitVec 16
  slot : Nat
  jtile : Nat
  cls : Nat
  handler : Bool
  allot : Nat
  r : Regs
  csr : Csrs
  nest : Nest
  q : Vector Queue 8
  dirty : Dirty
  aligns : Vector Nat 16
  view : View
  /-- Has written host memory since its last zero-length read completed (R391). -/
  hostWrote : Bool
  src : Word
  ownsReply : Bool
  replied : Bool
  launch : Option Nat
  /-- The stage of the stage message that started the activation (R283, R302). -/
  stage : Option Nat
  wait : Wait
  pend : List Pending
  prog : Option Prog
  /-- The tensor entry, with its number and source, that the held instruction read at its issue (R187). -/
  kept : Option (Nat × Tensor × Tensor)
  /-- The job tiles that its instruction's accesses wait for, as an agent has them (R361). -/
  waited : List (Nat × Nat)
  /-- Pool blocks taken from the reserve of R88. -/
  reserved : Nat
  fetched : List (Word × BitVec 256)
  wanted : List (Word × Nat)
  deriving DecidableEq, Repr

/-- Registers at an activation's start (R78). -/
def Regs.start : Regs where
  pc := 0
  g := Vector.replicate 64 0
  o := Vector.replicate 8 0
  lat := 0
  v := Vector.replicate 32 0
  vo := Vector.replicate 4 0
  vlat := 0
  p := 1
  m := #v[0xFFFFFFFF, 0, 0, 0, 0, 0, 0, 0]

/-- System registers at an activation's start (R65, R72, R111, R275, R371). -/
def Csrs.start : Csrs where
  tvec := 0
  tcause := 0
  tepc := 0
  tval := 0
  fpcs := 0
  rngc := 0
  rngs := 0
  immc := 0x83
  rake := 0x7021

/-- The fetcher, inactive (R78). -/
def Nest.idle : Nest := ⟨false, 0, 0, 0, 0, Vector.replicate 4 0⟩

/-- No dirty bit set. -/
def Dirty.clear : Dirty := ⟨0, 0, false, 0, 0, false, false, 0, false⟩

/-- A context that no activation has used: FREE, generation 0 (R75), registers at their start values
(notes/assumptions/5.md). -/
def Ctx.reset : Ctx where
  active := false
  gen := 0
  slot := 0
  jtile := 0
  cls := 0
  handler := true
  allot := 0
  r := Regs.start
  csr := Csrs.start
  nest := Nest.idle
  q := Vector.replicate 8 Queue.empty
  dirty := Dirty.clear
  aligns := Vector.replicate 16 0
  view := View.empty
  hostWrote := false
  src := 0
  ownsReply := false
  replied := false
  launch := none
  stage := none
  wait := .none
  pend := []
  prog := none
  kept := none
  waited := []
  reserved := 0
  fetched := []
  wanted := []

/-! Copy engine, matrix unit and network. -/

/-- What a copy command does, with what it read at issue (R187, R273 to R277, R280, R325). -/
inductive CopyCmd where
  | box (tr o : Bool) (src dst : Tensor) (did : Nat) (so d_o n : List Nat) (mcax : Nat) (mcmap : BitVec 24)
  | rake (src dst len rk : Word)
  | fill (ea len pat : Word)
  | ring (src slot ofs len : Word) (id : Nat) (ent : Tensor)
  | near (y x ctr : Word) (arrives : Bool) (kind : NmKind) (n : Nat) (aval : BitVec 32) (scope : Nat)
  deriving DecidableEq, Repr

/-- A copy command in the engine's queue or running (R260, R261). -/
structure CopyRun where
  num : Nat
  slot : Nat
  ctx : Nat
  byProg : Bool
  launch : Option Nat
  started : Bool
  next : Nat
  /-- Waiting for a page fault to be resolved: the faulting address (R263). -/
  held : Option Word
  /-- The job tiles that its granule waits for, as an agent has them (R361). -/
  waited : List (Nat × Nat)
  /-- Bytes all moved: only the fill count update is left (R280). -/
  moved : Bool
  /-- Cancelled with a granule in progress, after which it is gone (R264). -/
  cut : Bool
  /-- Answers of the host to its reads of region 5 (R391). -/
  got : Assoc (List Byte)
  /-- The events that come before its own (R210), and those that it has met and made. -/
  seen : Seen
  made : Seen
  /-- A program's command comes after its context's updates of groups below this (R272). -/
  after : Nat
  cmd : CopyCmd
  deriving DecidableEq, Repr

/-- What a core keeps for one job (R219, R237, R238, R262, R296, R304, R306). -/
structure JobCore where
  copyIssued : Nat
  copyTl : Nat
  copyDone : List Nat
  matIssued : Nat
  matTl : Nat
  matDone : List Nat
  cpstat : Word
  mxstat : Word
  mxw : Nat
  mbcfg : Word
  mbspb : Word
  mbrh : Word
  mbbh : Word
  spcnt : Nat
  spseq : Nat
  refusals : Nat
  orphans : Nat
  malformed : Nat
  dropped : Nat
  deriving DecidableEq, Repr

/-- A request or reply in an arrival buffer: whether it has passed the check of R300 at the head, and the order of its
spill credit when it holds one (R298). -/
structure Arrived where
  msg : Msg
  checked : Bool
  credit : Option Nat
  deriving DecidableEq, Repr

/-- A reply slot of the reply buffer: its owner, and the reply once made (R293). -/
structure ReplySlot where
  slot : Nat
  jtile : Nat
  ctx : Nat
  gen : BitVec 16
  msg : Option Msg
  deriving DecidableEq, Repr

/-- What is given to the Bittern context (R303): an orphan or a malformed message. -/
structure HeldMsg where
  malformed : Bool
  msg : Msg
  deriving DecidableEq, Repr

/-- One core (R14). -/
structure Core where
  ctxs : Assoc Ctx
  /-- Round-robin pointers of the four classes, for contexts and for sequencer programs (R92, R266). -/
  rr : Vector Nat 4
  seqRr : Vector Nat 4
  /-- Clock of the Bittern context's last issue, of the core's last issue and of its copy sequencer's (R92, R266). -/
  bittern : Option Nat
  issued : Option Nat
  sequenced : Option Nat
  inbox : List Msg
  arrivals : Vector (List Arrived) 3
  credits : Nat
  sendQ : List Msg
  delays : List (Nat × Msg)
  replies : List ReplySlot
  notices : List Msg
  held : List HeldMsg
  copies : List CopyRun
  /-- By slot and job tile: `jobKey`. -/
  jobs : Assoc JobCore
  deriving DecidableEq, Repr

/-- What a core keeps for a job that it has not yet run (notes/assumptions/5.md). -/
def JobCore.reset : JobCore where
  copyIssued := 0
  copyTl := 0
  copyDone := []
  matIssued := 0
  matTl := 0
  matDone := []
  cpstat := 0
  mxstat := 0
  mxw := 1
  mbcfg := 0xC1000
  mbspb := 0
  mbrh := 0
  mbbh := 0
  spcnt := 0
  spseq := 0
  refusals := 0
  orphans := 0
  malformed := 0
  dropped := 0

/-- A core after reset: nothing active, pointers at c0 (R75, R92). -/
def Core.reset : Core where
  ctxs := []
  rr := Vector.replicate 4 0
  seqRr := Vector.replicate 4 0
  bittern := none
  issued := none
  sequenced := none
  inbox := []
  arrivals := Vector.replicate 3 []
  credits := 0
  sendQ := []
  delays := []
  replies := []
  notices := []
  held := []
  copies := []
  jobs := []

/-! Tiles. -/

/-- A write that has left its context and has not yet performed (R210, R226, R227, R344). -/
inductive Update where
  /-- Bytes, as accesses of `acc` bytes in single-copy atomic units of `unit` bytes (R196, R197, R201). -/
  | store (o : Bool) (e unit acc : Nat) (cells : List Host.Cell)
  /-- 32-bit words of packed elements: address, value and the bits that are written (R60). -/
  | packed (words : List (Nat × BitVec 32 × BitVec 32))
  | rmw (op : AmoOp) (w : Nat) (va : Word) (y : BitVec 64)
  | grid (va : Word) (n : BitVec 96)
  | arrive (va : Word)
  deriving DecidableEq, Repr

/-- A posted update: who issued it, ORD and scope as its instruction gives them, its group, whose arrival comes after the
group's other members (R227), and the events that come before it (R210). -/
structure Posted where
  owner : CtxId
  gen : BitVec 16
  slot : Nat
  jtile : Nat
  ord : MemOrd
  scope : Nat
  group : Nat
  seen : Seen
  /-- The release fences before it, and what a release that it makes passes on. -/
  fences : List Release
  pub : Seen
  waited : List (Nat × Nat)
  upd : Update
  deriving DecidableEq, Repr

/-- A wide-accumulator event at the tile atomic unit (R150 to R152). -/
structure WideUpd where
  owner : CtxId
  /-- Its number among the updates of the part (R272). -/
  num : Nat
  ofs : Nat
  /-- None clears the object; an addend adds to it. -/
  add : Option Int
  deriving DecidableEq, Repr

/-- A watch at an execution point (R220). -/
structure Watch where
  owner : CtxId
  gen : BitVec 16
  slot : Nat
  /-- Held by the LLC slice, not by the bank controllers. -/
  slice : Bool
  va : Word
  n : Word
  deriving DecidableEq, Repr

/-- What a replica is besides its tag: the slot and the launch that filled it, and the sector's bytes then (R215, R320). -/
structure Replica where
  slot : Nat
  launch : Nat
  data : List Byte
  deriving DecidableEq, Repr

/-- A sector frame of an LLC slice (R319): tag, bytes valid and bytes dirty, the page's R and W at the fill, and whether it
is a replica. A frame of home bytes holds no values here: they are memory's, and those that are dirty go with the slice. -/
structure SecFrame where
  asid : Nat
  sec : Nat
  valid : BitVec 1024
  dirty : BitVec 1024
  r : Bool
  w : Bool
  replica : Option Replica
  deriving DecidableEq, Repr

/-- A block of the instruction cache (R95). -/
structure IBlock where
  asid : BitVec 16
  va : Word
  pinned : Option Nat
  used : Nat
  data : BitVec 256
  deriving DecidableEq, Repr

/-- An error log of 64 entries with its overflow count (R385). -/
structure ErrLog where
  entries : List (BitVec 128)
  lost : Nat
  deriving DecidableEq, Repr

/-- An empty error log. -/
def ErrLog.empty : ErrLog := ⟨[], 0⟩

/-- A stage governor: GOVST0 to GOVST3, GOVC, the stage pointers, a pending move (group, from, to), the next check (R282,
R283, R302). -/
structure Governor where
  st : Vector Word 4
  c : Word
  ptr : Vector Nat 4
  move : Option (Nat × Nat × Nat)
  nextCheck : Nat
  deriving DecidableEq, Repr

/-- The governor at bind (R282). -/
def Governor.reset : Governor := ⟨Vector.replicate 4 0, 10, Vector.replicate 4 0, none, 1024⟩

/-! Matrix units (R236). -/

/-- A B slot: AF8, format, elements by 32k + n, exponents by 32b + n with 127 unlisted (R236, R254). -/
structure BSlot where
  af8 : Bool
  fmt : ElemTy
  elems : Assoc Nat
  exps : Assoc Nat
  deriving DecidableEq, Repr

/-- A B slot after reset: zeros of BF16 with AF8 = 0 (R236). -/
def BSlot.reset : BSlot := ⟨false, .fp .bf16, [], []⟩

/-- A matrix command with what it read at issue (R239, R251). -/
inductive MatCmd where
  | load (slot : Nat) (o af8 : Bool) (id : Nat) (ent : Tensor) (c : List Nat)
  | mulAcc (acc slot : Nat) (o : Bool) (id : Nat) (ent src : Tensor) (c : List Nat)
  | store (acc : Nat) (o clr fz8 : Bool) (rm : RMode) (id : Nat) (ent : Tensor) (c : List Nat) (scale : Option Word)
  | clear (acc : Nat)
  | loadAcc (acc : Nat) (o : Bool) (id : Nat) (ent : Tensor) (c : List Nat)
  | factor (acc : Nat) (lu ptrap : Bool) (n : Nat) (tau : BitVec 32)
  | solve (acc : Nat) (kind : SolveKind) (id : Nat) (ent : Tensor) (c : List Nat) (n : Nat)
  deriving DecidableEq, Repr

/-- A queued matrix command: its number, issuer, the status queue it names, the next step, the status so far (R238 low
word) and whether it waits for a page. -/
structure MatRun where
  num : Nat
  slot : Nat
  ctx : Nat
  launch : Option Nat
  status : Option Nat
  next : Nat
  low : BitVec 32
  /-- Its next step has been chosen and is not complete: it waits for the host or on a page fault (R242, R244). -/
  begun : Bool
  /-- Cancelled, or behind a failed command, with a step in progress, after which it is gone (R244, R253). -/
  cut : Bool
  held : Option Word
  waited : List (Nat × Nat)
  got : Assoc (List Byte)
  /-- The events that come before its own (R210), and those that it has met and made. -/
  seen : Seen
  made : Seen
  cmd : MatCmd
  deriving DecidableEq, Repr

/-- A matrix unit (R236, R242): accumulator words by 1024 a + 32 i + j, +0 unlisted. -/
structure MUnit where
  acc : Assoc Nat
  slots : Assoc BSlot
  queues : Vector (List MatRun) 8
  ptr : Vector Nat 3
  credit : Vector Nat 3
  deriving DecidableEq, Repr

/-- A matrix unit after reset (R236, R242). -/
def MUnit.reset : MUnit := ⟨[], [], Vector.replicate 8 [], Vector.replicate 3 0, Vector.replicate 3 0⟩

/-! Slots. -/

/-- An allotted region: number, offset and size in 256-byte units (R162). -/
structure Region where
  num : Nat
  ofs : Nat
  size : Nat
  deriving DecidableEq, Repr

/-- The registers and queues of one occupancy as the latest image of it left them, from which its clean units are restored
(R89). -/
structure Saved where
  gen : BitVec 16
  r : Regs
  q : Vector Queue 8
  deriving DecidableEq, Repr

/-- What the image area holds of one job tile (R380); a fill count stands with the events of the commands it counts.
`area` is what it still holds of the contexts after a restore, `jobs` what each core keeps for the job tile. -/
structure Image where
  ctxs : Assoc (Assoc Ctx)
  area : Assoc (Assoc Saved)
  jobs : Assoc JobCore
  spad : Memory
  units : Assoc MUnit
  copies : Assoc (List CopyRun)
  delays : Assoc (List (Nat × Msg))
  sideLog : List Posted
  fills : Assoc (Nat × Seen)
  gov : Governor
  wssl : Vector Word 4
  deriving DecidableEq, Repr

/-- The image area of a job tile at bind (R380). -/
def Image.empty : Image where
  ctxs := []
  area := []
  jobs := []
  spad := []
  units := []
  copies := []
  delays := []
  sideLog := []
  fills := []
  gov := Governor.reset
  wssl := Vector.replicate 4 0

/-- How far dispatch has come with a launch (R350, R353). -/
structure Launch where
  serial : Nat
  ctr : Word
  words : Vector Word 8
  /-- Serial of the graph and node that dispatched it (R355). -/
  graph : Option (Nat × Nat)
  /-- Its ranges, as its range table gave them: first byte and length (R330). -/
  ranges : List (Nat × Nat)
  /-- Messages still to be sent, in the order of their targets. -/
  todo : List Msg
  members : Nat
  spilled : Nat
  cancelled : Bool
  /-- Regions to release at completion (R162). -/
  free : List Nat
  phb : Bool
  deriving DecidableEq, Repr

/-- A node of a running graph (R355): its four words, arrivals so far, firings that are due, firings so far. -/
structure Node where
  w : Vector Word 4
  arrivals : Nat
  due : Nat
  fired : Nat
  deriving DecidableEq, Repr

/-- A running graph (R355). -/
structure Graph where
  serial : Nat
  ctr : Word
  nodes : List Node
  phb : Bool
  ended : Bool
  cancelled : Bool
  /-- The status of a graph that could not go on (R352). -/
  status : Nat
  deriving DecidableEq, Repr

/-- An entry of the launch queue (R351): the record's address. -/
structure Queued where
  va : Word
  /-- The serial number that it took when it was accepted (R350, R363). -/
  serial : Nat
  /-- Entered while an UNBIND in drain mode was in progress (R358). -/
  late : Bool
  /-- The status of a phase-boundary launch that was cancelled or refused while queued, and whose phase has still to end
  (R356). -/
  gone : Option Nat
  deriving DecidableEq, Repr

/-- Where the unbind of a slot stands (R358). -/
inductive Unbind where
  | none | drain | cancel
  deriving DecidableEq, Repr

/-- An entry of a job's trap log (R372). -/
structure TrapEntry where
  logCore : Nat
  ctx : Nat
  gen : BitVec 16
  tcause : Word
  tepc : Word
  tval : Word
  deriving DecidableEq, Repr

/-- A range that a launch made resident, or that was evicted to host memory (R329, R330). -/
structure Range where
  base : Word
  len : Nat
  resident : Bool
  deriving DecidableEq, Repr

/-- One slot of the slot table with all that a bind gives the job (R357, R358). -/
structure Slot where
  bind : Vector Word 8
  tensors : Assoc Tensor
  tdefs : List (CtxId × Nat × Tensor)
  /-- The records of scope entries 4 to 31 (R206), and the 32 bits of each that each job tile holds. -/
  scopeRecs : Assoc (BitVec 128)
  scopes : Assoc (Assoc (BitVec 32))
  regions : List Region
  wsBase : Nat
  wsLen : Nat
  queue : List Queued
  serial : Nat
  graphSerial : Nat
  launches : List Launch
  graphs : List Graph
  /-- A boundary launch that has been reached and whose phase has not ended yet, with its status once known (R356). -/
  phase : Option (Option Nat)
  unbind : Unbind
  /-- The unbind has cancelled a level or refused one with status 6 (R358). -/
  cut : Bool
  /-- Pre-empted by the bind of that order number (R382). -/
  preempted : Option Nat
  /-- The folded job tile that ran on a device tile when it was pre-empted (R361). -/
  turn : Assoc Nat
  /-- How often each job tile has begun to run (R361). -/
  loads : Assoc Nat
  images : Assoc Image
  ranges : List Range
  discards : Nat
  lost : Nat
  traps : List TrapEntry
  noBittern : Bool
  deriving DecidableEq, Repr

/-- An empty slot (R19). -/
def Slot.reset : Slot where
  bind := Vector.replicate 8 0
  tensors := []
  tdefs := []
  scopeRecs := []
  scopes := []
  regions := []
  wsBase := 0
  wsLen := 0
  queue := []
  serial := 0
  graphSerial := 0
  launches := []
  graphs := []
  phase := none
  unbind := .none
  cut := false
  preempted := none
  turn := []
  loads := []
  images := []
  ranges := []
  discards := 0
  lost := 0
  traps := []
  noBittern := false

/-- One tile (R13). -/
structure Tile where
  cores : Assoc Core
  units : Assoc MUnit
  /-- Slot of the job that holds the tile, and which of its folded job tiles runs (R359, R361). -/
  holder : Option Nat
  jtile : Nat
  /-- Overlay slots, each with its running job tile and since when (R359, R361). -/
  overlays : Assoc (Nat × Nat)
  since : Nat
  /-- Pre-emptions in progress, by the outgoing slot: the incoming slot and its job tile (R361, R379). -/
  stopping : Assoc (Nat × Nat)
  spad : Memory
  granules : List Nat
  ws : Memory
  deadlines : Assoc Nat
  wssl : Vector Word 4
  sideLog : List Posted
  posted : List Posted
  wide : List WideUpd
  watches : List Watch
  /-- `cwait`s that found no watch: at the bank controllers, and at the LLC slice (R220). -/
  rereads : Nat
  sliceRereads : Nat
  fills : Assoc (Nat × Seen)
  gov : Governor
  /-- Governors and WSSL registers of overlay jobs, by slot (R282, R333, R359). -/
  govs : Assoc Governor
  wssls : Assoc (Vector Word 4)
  icache : List IBlock
  /-- The LLC slice, most recently used frame first: 64 sets of 16 ways (R319). -/
  slice : List SecFrame
  fenced : Bool
  sram : ErrLog
  link : ErrLog
  /-- Spare rows used, by plate and for the array banks; spare lanes used, by port (R386). -/
  rowsUsed : Assoc Nat
  lanesUsed : Assoc Nat
  dead : BitVec 6
  /-- Scratchpad granules with an uncorrectable word that is not yet replaced (R386). -/
  bad : List Nat
  /-- Temperature in quarters of a degree, voltage in mV, and since when the voltage is more than 5 % off (R402). -/
  temp : Nat
  volt : Nat
  voltSince : Option Nat
  deriving DecidableEq, Repr

/-- A tile after reset (R19, R75, R236, R282, R333). -/
def Tile.reset : Tile where
  cores := []
  units := []
  holder := none
  jtile := 0
  overlays := []
  since := 0
  stopping := []
  spad := []
  granules := []
  ws := []
  deadlines := []
  wssl := Vector.replicate 4 0
  sideLog := []
  posted := []
  wide := []
  watches := []
  rereads := 0
  sliceRereads := 0
  fills := []
  gov := Governor.reset
  govs := []
  wssls := []
  icache := []
  slice := []
  fenced := false
  sram := ErrLog.empty
  link := ErrLog.empty
  rowsUsed := []
  lanesUsed := []
  dead := 0
  bad := []
  temp := 120
  volt := 0
  voltSince := none

/-! The floor die. -/

/-- A memory home (R321, R322, R335, R385): remap entries that are not 0, the swap in progress (set, member), the logs,
retired bank groups (layer, group), the bank group whose sets the reserve holds, swaps disabled, discarded host writes,
spare rows used by bank group and spare lanes used by bus segment. -/
structure Home where
  remap : Assoc Nat
  swap : Option (Nat × Nat)
  ecc : ErrLog
  bus : ErrLog
  retired : List (Nat × Nat)
  reserveUsed : Option (Nat × Nat)
  noSwap : Bool
  discarded : Nat
  rowsUsed : Assoc Nat
  lanesUsed : Assoc Nat
  deriving DecidableEq, Repr

/-- A memory home after reset (R321). -/
def Home.reset : Home := ⟨[], none, ErrLog.empty, ErrLog.empty, [], none, false, 0, [], []⟩

/-- An executable page (R40): ASID, first address, size, kind and allotment. -/
structure ExecPage where
  asid : BitVec 16
  va : Word
  size : Nat
  resident : Bool
  allot : Nat
  deriving DecidableEq, Repr

/-- A mapping that Tueno holds (R315, R318): ASID, page, whether large, frame or host address, permissions, and where the
data of an evicted page lies in host memory, with the numbers of its blocks that are lost (R330, R336). -/
structure Mapping where
  asid : BitVec 16
  va : Word
  large : Bool
  frame : Nat
  r : Bool
  w : Bool
  x : Bool
  evicted : Option (List Host.Cell)
  lost : List Nat
  deriving DecidableEq, Repr

/-- Who a page fault holds (R378). -/
inductive FaultOf where
  | ctx (c : CtxId)
  | prog (c : CtxId)
  | sideLog (tile : Nat)
  | copy (tile core num : Nat)
  | matrix (tile unit queue : Nat)
  deriving DecidableEq, Repr

/-- A page fault that waits for Tueno (R317, R378). -/
structure PageFault where
  who : FaultOf
  slot : Nat
  va : Word
  write : Bool
  deriving DecidableEq, Repr

/-- What a request to host memory asks for (R235, R391); `flush` is the zero-length read behind earlier writes. -/
inductive HostOp where
  | read (n : Nat)
  | write (cells : List Host.Cell)
  | amo (op : AmoOp) (n : Nat) (y : BitVec 64)
  | cas (n : Nat) (e v : BitVec 128)
  | flush
  deriving DecidableEq, Repr

/-- Which unit of a context waits for the host: the context, its program, a command by its number, a command of a matrix
queue, or its entries of the side log of one instruction. -/
inductive Via where
  | self | prog | copy (num : Nat) | matrix (unit queue num : Nat) | log (group : Nat)
  deriving DecidableEq, Repr

/-- A request to host memory that has not completed (R391); `posted` when nothing waits for it. -/
structure HostReq where
  owner : CtxId
  via : Via
  gen : BitVec 16
  slot : Nat
  va : Word
  hpa : Nat
  op : HostOp
  posted : Bool
  /-- What a write or an atomic is as an event at the host port: its attributes, and its releases (R217). -/
  event : Option (Attr × List Release)
  /-- The group of the `red` whose FetchAdd it is (R235). -/
  group : Option Nat
  since : Nat
  deriving DecidableEq, Repr

/-- A port's PTP clock (R395): what it read at tick `since` of WSTIME, in units of 2^-16 ns, and how many of them it gains
in a tick (notes/assumptions/38.md). -/
structure Ptp where
  base : Nat
  rate : Nat
  since : Nat
  deriving DecidableEq, Repr

/-- An Ethernet port (R395, R396, R398): unmatched and dropped frames, frames it serves from which slot and ring,
slots emptied without being sent, frames sent, and its PTP clock. -/
structure Port where
  dropped : Nat
  unmatched : Nat
  egress : Option (Nat × Nat)
  badLength : Nat
  sent : List (List (BitVec 8))
  ptp : Ptp
  deriving DecidableEq, Repr

/-- A port after reset. -/
def Port.reset : Port := ⟨0, 0, none, 0, [], ⟨0, 40960, 0⟩⟩

/-- A frame held by the Sluice: port, ingress stamp, rule, sequence number, bytes without FCS (R396). -/
structure Frame where
  port : Nat
  stamp : BitVec 96
  rule : Nat
  seq : Nat
  bytes : List (BitVec 8)
  deriving DecidableEq, Repr

/-- The Sluice (R396): its valid rules as eight words each, matches and drops by rule, frames held, and the messages of
frames that lie in their rings, each with its rule, until an inbox admits them (R298). -/
structure Sluice where
  rules : Assoc (Vector Word 8)
  matched : Assoc Nat
  dropped : Assoc Nat
  frames : List Frame
  waiting : List (Nat × Msg)
  deriving DecidableEq, Repr

/-- A management command that waits or runs (R389): code, tag, request length. -/
structure MgCmd where
  code : Nat
  tag : BitVec 16
  len : Nat
  deriving DecidableEq, Repr

/-- An UNBIND or BIND whose answer waits for an event (R358). -/
inductive MgWait where
  | none
  | unbind (slot : Nat)
  | response (state : Nat) (code : Nat) (len : Nat)
  deriving DecidableEq, Repr

/-- The management core (R389, R400, R401, R19). -/
structure Mgmt where
  running : Option MgCmd
  wait : MgWait
  status : Word
  buf : List Host.Cell
  badAccess : Nat
  busyWrites : Nat
  /-- Pages scanned, and pages refused by the scanner (R389). -/
  scanned : Nat
  scanRefused : Nat
  pages : List ExecPage
  maps : List Mapping
  /-- Frames that hold page tables below a root (notes/assumptions/25.md). -/
  tables : List Nat
  faults : List PageFault
  removed : List Nat
  lost : List Nat
  order : Nat
  imageA : BitVec 256
  imageB : BitVec 256
  versionA : Nat
  versionB : Nat
  /-- Whether each bank's image verified when Tueno or the boot ROM last verified it (R399, R401). -/
  okA : Bool
  okB : Bool
  runB : Bool
  fuseVersion : Nat
  /-- The digest of the public key in the fuses (R399). -/
  keyDigest : BitVec 256
  leaf : Nat
  /-- A SWITCH in progress, with the clock at which it began (R401). -/
  switching : Option Nat
  clock : Nat
  hotSince : Option Nat
  coolSince : Option Nat
  tripped : Bool
  tripLog : Bool
  coldWanted : Bool
  inReset : Bool
  powered : Bool
  rtord : Word
  procs : Assoc Nat
  voltFlags : List Nat
  selfTests : List (ErrUnit × Nat × Nat × Bool)
  deriving DecidableEq, Repr

/-- The management core after the boot of a part whose image A verifies (R15, R19, R389, R399). -/
def Mgmt.reset : Mgmt where
  running := none
  wait := .none
  status := 0
  buf := []
  badAccess := 0
  busyWrites := 0
  scanned := 0
  scanRefused := 0
  pages := []
  maps := []
  tables := []
  faults := []
  removed := []
  lost := []
  order := 0
  imageA := 0
  imageB := 0
  versionA := 0
  versionB := 0
  okA := true
  okB := true
  runB := false
  fuseVersion := 0
  keyDigest := 0
  leaf := 0
  switching := none
  clock := 1600
  hotSince := none
  coolSince := none
  tripped := false
  tripLog := false
  coldWanted := false
  inReset := false
  powered := true
  rtord := 0
  procs := []
  voltFlags := []
  selfTests := []

/-- What Tueno does of its own accord: it writes a Sluice rule (R396), disables a home's swaps (R322), adjusts a port's
PTP clock (R395), or cancels the job of a drain that waits, as it has been asked to (R358). -/
inductive TuenoAct where
  | rule (n : Nat) (words : Vector Word 8)
  | noSwap (home : Nat) (off : Bool)
  | ptp (port base rate : Nat)
  | cancelDrain (slot : Nat)
  deriving DecidableEq, Repr

/-- Which agent moves next: the schedule that the state holds as plain data (notes/assumptions/2.md). -/
inductive Turn where
  /-- The pipeline of a core issues (R92). -/
  | issue (tile core : Nat)
  /-- The copy sequencer of a core executes (R266). -/
  | sequencer (tile core : Nat)
  /-- An event of the part. -/
  | event (e : Instr)
  /-- Core clocks pass. -/
  | clock (n : Nat)
  /-- Whether write events are recorded from now on, and which older values the coming accesses take (R195 to R211). -/
  | reorder (keep : Bool) (choices : List (Nat × Nat))
  /-- Whether plain loads that issue from now on take their values later (R198). -/
  | delay (on : Bool)
  /-- The n-th of the loads that have issued takes its value. -/
  | land (n : Nat)
  | tueno (act : TuenoAct)
  /-- The host reads BAR0 (R389). -/
  | bar0Read (ofs size : Nat)
  deriving DecidableEq, Repr

/-- The whole part. -/
structure State where
  turns : List Turn
  focus : Nat × Nat
  cur : CtxId
  inProg : Bool
  stalled : Bool
  pick : Nat
  nextId : Nat
  time : Nat
  /-- Ticks of 1.6 GHz in units of 1/720720 (R332). -/
  ticks : Nat
  tiles : Assoc Tile
  slots : Assoc Slot
  mem : Memory
  record : Record
  /-- Loads that have issued and have not yet taken their values, oldest first. -/
  late : List Late
  hostReqs : List HostReq
  /-- What the last read or atomic from outside the part returned (R389, R390, R392). -/
  outsideGot : List Byte
  homes : Assoc Home
  mg : Mgmt
  ports : Assoc Port
  sluice : Sluice
  deriving DecidableEq, Repr

/-- The part right after reset and boot: no job bound, every context FREE, nothing listed in memory (R19, R75). -/
def State.reset : State where
  turns := []
  focus := (0, 0)
  cur := ⟨0, 0, 0⟩
  inProg := false
  stalled := false
  pick := 0
  nextId := 0
  time := 0
  ticks := 0
  tiles := []
  slots := []
  mem := []
  record := Record.empty
  late := []
  hostReqs := []
  outsideGot := []
  homes := []
  mg := Mgmt.reset
  ports := []
  sluice := ⟨[], [], [], [], []⟩

/-- Why the machine stops with a fault. -/
inductive Fault where
  /-- Raised by the fetch when the bytes at the program counter are no instruction the decoder knows: R47 says that this
  cannot happen on an accepted page, so stopping is safe. -/
  | illegalWord
  deriving DecidableEq, Repr

/-- Why an instruction has no meaning. -/
inductive Refusal where
  /-- Raised by an arm of the dispatch whose meaning is not written: safe, since nothing is claimed of it. -/
  | notModelled (mnemonic : String)
  deriving DecidableEq, Repr

end Sys2Proof.Machine
end

