-- ==== Sys2Proof/Machine/Ops.lean ====
section
/-! DEFINITION. The named operations over memory, registers, contexts and jobs, control transfers, and taking a trap
and returning from one (spec/02 R22, R41; spec/04 R80 to R97; spec/16 R370 to R375). -/

namespace Sys2Proof.Machine

/-! Sparse lists. -/

/-- The value listed under a key. -/
def aget {α : Type} (m : Assoc α) (k : Nat) : Option α :=
  match m with
  | [] => none
  | (i, v) :: t => if i = k then some v else aget t k

/-- Lists a value under a key, keys rising. -/
def aset {α : Type} (m : Assoc α) (k : Nat) (v : α) : Assoc α :=
  match m with
  | [] => [(k, v)]
  | (i, w) :: t => if k < i then (k, v) :: (i, w) :: t else if i = k then (k, v) :: t else (i, w) :: aset t k v

/-- Removes a key. -/
def aerase {α : Type} (m : Assoc α) (k : Nat) : Assoc α := m.filter (fun p => p.1 != k)

/-- Inserts a number into a rising list without repeats. -/
def sinsert (l : List Nat) (n : Nat) : List Nat :=
  match l with
  | [] => [n]
  | i :: t => if n < i then n :: i :: t else if i = n then i :: t else i :: sinsert t n

/-! Bytes of memory. -/

/-- The canonical form: addresses strictly rising, no byte zero. -/
def Memory.wf (m : Memory) : Bool :=
  decide (List.Pairwise (fun a b => a < b) (m.map Prod.fst)) && m.all (fun c => c.2 != 0)

/-- The byte at an address; one that nothing has written reads 0 (notes/assumptions/1.md). -/
def memGet (m : Memory) (a : Nat) : Byte := (aget m a).getD 0

/-- Writes the byte at an address. -/
def memSet (m : Memory) (a : Nat) (b : Byte) : Memory := if b = 0 then aerase m a else aset m a b

/-- `n` bytes from an address as a little-endian number (R3). -/
def memNat (m : Memory) (a : Nat) : Nat → Nat
  | 0 => 0
  | n + 1 => (memGet m a).toNat + 256 * memNat m (a + 1) n

/-- Little-endian bytes as a number (R3). -/
def leNat : List Byte → Nat
  | [] => 0
  | b :: t => b.toNat + 256 * leNat t

/-! Tiles, cores and contexts. -/

/-- A device tile. -/
def State.tile (s : State) (n : Nat) : Tile := (aget s.tiles n).getD Tile.reset
/-- Replaces a device tile. -/
def State.setTile (s : State) (n : Nat) (t : Tile) : State := { s with tiles := aset s.tiles n t }
/-- A core of a tile. -/
def Tile.core (t : Tile) (n : Nat) : Core := (aget t.cores n).getD Core.reset
/-- Replaces a core of a tile. -/
def Tile.setCore (t : Tile) (n : Nat) (c : Core) : Tile := { t with cores := aset t.cores n c }
/-- A context of a core. -/
def Core.ctx (c : Core) (n : Nat) : Ctx := (aget c.ctxs n).getD Ctx.reset
/-- Replaces a context of a core. -/
def Core.setCtx (c : Core) (n : Nat) (x : Ctx) : Core := { c with ctxs := aset c.ctxs n x }
/-- A core of the part. -/
def State.core (s : State) (t c : Nat) : Core := (s.tile t).core c
/-- Replaces a core of the part. -/
def State.setCore (s : State) (t c : Nat) (k : Core) : State := s.setTile t ((s.tile t).setCore c k)
/-- A context of the part. -/
def State.ctx (s : State) (i : CtxId) : Ctx := (s.core i.tile i.core).ctx i.ctx
/-- Replaces a context of the part. -/
def State.setCtx (s : State) (i : CtxId) (x : Ctx) : State :=
  s.setCore i.tile i.core ((s.core i.tile i.core).setCtx i.ctx x)
/-- The context that executes. -/
def State.me (s : State) : Ctx := s.ctx s.cur
/-- Replaces the context that executes. -/
def State.setMe (s : State) (x : Ctx) : State := s.setCtx s.cur x
/-- The tile of the context that executes. -/
def State.myTile (s : State) : Tile := s.tile s.cur.tile
/-- The core of the context that executes. -/
def State.myCore (s : State) : Core := s.core s.cur.tile s.cur.core
/-- A slot of the slot table. -/
def State.slot (s : State) (n : Nat) : Slot := (aget s.slots n).getD Slot.reset
/-- Replaces a slot. -/
def State.setSlot (s : State) (n : Nat) (j : Slot) : State := { s with slots := aset s.slots n j }
/-- The slot of the executing context's job. -/
def State.mySlot (s : State) : Slot := s.slot s.me.slot
/-- The key under which a core keeps a job tile's registers and counts: of a folded job each job tile has its own
(R361). -/
def jobKey (slot jt : Nat) : Nat := slot + 64 * jt
/-- What a core keeps for a job tile (R219). -/
def Core.job (c : Core) (key : Nat) : JobCore := (aget c.jobs key).getD JobCore.reset
/-- Replaces what a core keeps for a job tile. -/
def Core.setJob (c : Core) (key : Nat) (j : JobCore) : Core := { c with jobs := aset c.jobs key j }
/-- What the executing core keeps for the executing job. -/
def State.myJob (s : State) : JobCore := s.myCore.job (jobKey s.me.slot s.me.jtile)
/-- Replaces what the executing core keeps for the executing job. -/
def State.setMyJob (s : State) (j : JobCore) : State :=
  s.setCore s.cur.tile s.cur.core (s.myCore.setJob (jobKey s.me.slot s.me.jtile) j)
/-- A memory home. -/
def State.home (s : State) (n : Nat) : Home := (aget s.homes n).getD Home.reset
/-- Replaces a memory home. -/
def State.setHome (s : State) (n : Nat) (h : Home) : State := { s with homes := aset s.homes n h }

/-- A free value: a value the spec leaves open, different at each draw (notes/assumptions/10.md). -/
def State.draw (s : State) : BitVec 64 × State := (Config.freeWord s.pick, { s with pick := s.pick + 1 })

/-- The count of WSTIME: ticks of 1.6 GHz since reset (R332). -/
def State.wstime (s : State) : Nat := s.ticks / 720720

/-- Whether the part serves the host now. -/
def State.up (s : State) : Bool := s.mg.powered && !s.mg.inReset && !s.mg.tripped

/-! The bind record (R357). -/

/-- A field of the bind record. -/
def Slot.fld (j : Slot) (w : Fin 8) (lo n : Nat) : Nat := bits (j.bind[w]).toNat lo n
/-- ASID. -/
def Slot.asid (j : Slot) : Nat := j.fld 0 0 16
/-- Job identifier. -/
def Slot.jobId (j : Slot) : Nat := j.fld 0 16 16
/-- Priority class. -/
def Slot.cls (j : Slot) : Nat := j.fld 0 32 2
/-- Matrix queue weight. -/
def Slot.weight (j : Slot) : Nat := j.fld 0 34 4
/-- DETERMINISTIC. -/
def Slot.det (j : Slot) : Bool := j.fld 0 38 1 == 1
/-- PREEMPTIBLE. -/
def Slot.pre (j : Slot) : Bool := j.fld 0 39 1 == 1
/-- Class-0 overlay. -/
def Slot.ovl (j : Slot) : Bool := j.fld 0 40 1 == 1
/-- Record valid: the slot holds a bind. -/
def Slot.bound (j : Slot) : Bool := j.fld 0 41 1 == 1
/-- Shape extent X. -/
def Slot.sx (j : Slot) : Nat := j.fld 1 0 4
/-- Shape extent Y. -/
def Slot.sy (j : Slot) : Nat := j.fld 1 4 4
/-- Shape extent Z. -/
def Slot.sz (j : Slot) : Nat := j.fld 1 8 5
/-- Box extent BX. -/
def Slot.bx (j : Slot) : Nat := j.fld 1 32 4
/-- Box extent BY. -/
def Slot.by_ (j : Slot) : Nat := j.fld 1 36 4
/-- Box extent BZ. -/
def Slot.bz (j : Slot) : Nat := j.fld 1 40 5
/-- Fold quantum in microseconds. -/
def Slot.qnt (j : Slot) : Nat := j.fld 1 48 16
/-- Address of the level-1 page table. -/
def Slot.root (j : Slot) : Nat := j.fld 2 16 24 * 65536
/-- Length of the code region in pages. -/
def Slot.clen (j : Slot) : Nat := j.fld 2 48 16
/-- JobSeed. -/
def Slot.seed (j : Slot) : Word := j.bind[3]
/-- Address of the code region. -/
def Slot.code (j : Slot) : Word := j.bind[6]
/-- Address of the phase counter; the job counter is 16 bytes on. -/
def Slot.lvlc (j : Slot) : Word := j.bind[7]
/-- Whether the job is folded: its box differs from its shape (R361). -/
def Slot.folded (j : Slot) : Bool := j.bx != j.sx || j.by_ != j.sy || j.bz != j.sz

/-- Coordinates of a logical tile number (R9). -/
def tileX (n : Nat) : Nat := n % 8
/-- The y coordinate. -/
def tileY (n : Nat) : Nat := n / 8 % 8
/-- The z coordinate. -/
def tileZ (n : Nat) : Nat := n / 64
/-- The tile number of coordinates (R9). -/
def tileNum (x y z : Nat) : Nat := x + 8 * y + 64 * z

/-- Whether a logical tile number names a tile of the job (R10). -/
def Slot.inShape (j : Slot) (n : Nat) : Bool :=
  decide (n < 1536) && decide (tileX n < j.sx) && decide (tileY n < j.sy) && decide (tileZ n < j.sz)

/-- The device tile of a job tile (R361). -/
def Slot.devTile (j : Slot) (n : Nat) : Nat :=
  tileNum ((j.fld 1 16 3 + tileX n % j.bx) % 8) ((j.fld 1 20 3 + tileY n % j.by_) % 8)
    ((j.fld 1 24 5 + tileZ n % j.bz) % 24)

/-- The job tiles of a shape, in increasing number. -/
def Slot.jobTiles (j : Slot) : List Nat := (List.range 1536).filter (fun n => j.inShape n)

/-- The device tiles of the box (R357). -/
def Slot.box (j : Slot) : List Nat :=
  (List.range j.bz).flatMap fun k => (List.range j.by_).flatMap fun jj => (List.range j.bx).map fun i =>
    tileNum ((j.fld 1 16 3 + i) % 8) ((j.fld 1 20 3 + jj) % 8) ((j.fld 1 24 5 + k) % 24)

/-- The job tiles that a device tile serves (R361). -/
def Slot.tilesAt (j : Slot) (d : Nat) : List Nat := j.jobTiles.filter (fun n => j.devTile n == d)

/-- Whether the job of a slot, in the given job tile, runs on a device tile now (R361, R379). -/
def Tile.runs (t : Tile) (slot jt : Nat) : Bool :=
  (t.holder == some slot && t.jtile == jt) || (match aget t.overlays slot with
    | some p => p.1 == jt
    | none => false)

/-! Address translation (R314, R315). -/

/-- What a walk finds: the byte address behind the page's first byte, the page's size, and its permissions. -/
structure Leaf where
  base : Nat
  size : Nat
  r : Bool
  w : Bool
  x : Bool
  host : Bool
  deriving DecidableEq, Repr

/-- The region field of an address (R193). -/
def regionOf (va : Nat) : Nat := bits va 52 3

/-- A table entry that a walk accepts, apart from its LEAF bit (R315). -/
def pteOk (va e : Nat) : Bool :=
  bits e 0 1 == 1 && bits e 52 12 == 0 && bits e 9 3 == 0 && bits e 5 3 == regionOf va
    && (bits e 8 1 == 1) == (regionOf va == 5)

/-- The leaf of an entry of a given page size. -/
def pteLeaf (e size : Nat) : Leaf :=
  ⟨bits e 16 36 * 65536, size, bits e 2 1 == 1, bits e 3 1 == 1, bits e 4 1 == 1, bits e 8 1 == 1⟩

/-- The walk of R314 over the tables in device memory. -/
def walk (m : Memory) (root va : Nat) : Option Leaf :=
  let e1 := memNat m (root + 8 * bits va 42 13) 8
  if !pteOk va e1 || bits e1 1 1 == 1 then none
  else
    let e2 := memNat m (bits e1 16 36 * 65536 + 8 * bits va 29 13) 8
    if !pteOk va e2 then none
    else if bits e2 1 1 == 1 then
      if bits e2 16 13 == 0 then some (pteLeaf e2 (2 ^ 29)) else none
    else
      let e3 := memNat m (bits e2 16 36 * 65536 + 8 * bits va 16 13) 8
      if !pteOk va e3 || bits e3 1 1 == 0 then none else some (pteLeaf e3 65536)

/-- The physical byte address of a virtual address, with the page's leaf. -/
def State.xlate (s : State) (slot : Nat) (va : Nat) : Option (Nat × Leaf) :=
  (walk s.mem (s.slot slot).root va).map (fun l => (l.base + va % l.size, l))

/-! Executable pages and code (R21, R40). -/

/-- The executable page that holds an address. -/
def State.execPage (s : State) (slot : Nat) (va : Word) : Option ExecPage :=
  s.mg.pages.find? (fun p => p.asid.toNat == (s.slot slot).asid && decide (p.va.toNat ≤ va.toNat)
    && decide (va.toNat < p.va.toNat + p.size))

/-- Bytes of a mapping's page (R314). -/
def Mapping.size (m : Mapping) : Nat := if m.large then 2 ^ 29 else 65536

/-- The evicted page that holds an address. -/
def State.evictedAt (s : State) (asid va : Nat) : Option Mapping :=
  s.mg.maps.find? (fun m => m.asid.toNat == asid && m.evicted.isSome && decide (m.va.toNat ≤ va)
    && decide (va < m.va.toNat + m.size))

/-- The 32 bytes of the block that holds an address, as a number; none where its page has no mapping. Of an evicted page
they are those of its copy in host memory, from which the fetch that follows brings the page back (R317, R330). -/
def State.codeBlock (s : State) (slot : Nat) (va : Word) : Option (BitVec 256) :=
  let a := va.toNat / 32 * 32
  match s.xlate slot a with
  | some p =>
    some (if p.2.host then BitVec.ofNat 256 (leNat ((List.range 32).map (fun i => Config.hostCode (p.1 + i))))
      else BitVec.ofNat 256 (memNat s.mem p.1 32))
  | none => (s.evictedAt (s.slot slot).asid a).map (fun m =>
      BitVec.ofNat 256 (memNat (m.evicted.getD []) (a - m.va.toNat) 32))

/-- Whether an address is an instruction start of its block (R21). -/
def isStart (blk : BitVec 256) (va : Word) : Bool :=
  (blockStarts (bytesOf 32 blk.toNat) 4 0).contains (va.toNat % 32)

/-- The first byte of the block of an address. -/
def blockOf (va : Word) : Word := va &&& ~~~31

/-! Trap codes (R370). -/

/-- The traps of R370. -/
inductive TrapCode where
  | align | addr | perm | page | wsWrite | wsExpired | scope | tensor | counterOvf | counterNeg | sqFull | refused
  | rngWrap | cancel | memLost | fp | brk | syscall | grid | pivot | queue | msg | vallot | haltReq
  deriving DecidableEq, Repr

/-- The code of a trap (R370). -/
def TrapCode.num : TrapCode → Nat
  | .align => 0x01
  | .addr => 0x02
  | .perm => 0x03
  | .page => 0x04
  | .wsWrite => 0x05
  | .wsExpired => 0x06
  | .scope => 0x07
  | .tensor => 0x08
  | .counterOvf => 0x09
  | .counterNeg => 0x0A
  | .sqFull => 0x0B
  | .refused => 0x0C
  | .rngWrap => 0x0D
  | .cancel => 0x0E
  | .memLost => 0x0F
  | .fp => 0x10
  | .brk => 0x11
  | .syscall => 0x12
  | .grid => 0x13
  | .pivot => 0x14
  | .queue => 0x15
  | .msg => 0x16
  | .vallot => 0x17
  | .haltReq => 0x18

/-- The traps of R370. -/
def allTraps : List TrapCode :=
  [.align, .addr, .perm, .page, .wsWrite, .wsExpired, .scope, .tensor, .counterOvf, .counterNeg, .sqFull, .refused,
   .rngWrap, .cancel, .memLost, .fp, .brk, .syscall, .grid, .pivot, .queue, .msg, .vallot, .haltReq]

/-- The trap of a code. -/
def trapOf (n : Nat) : TrapCode := (allTraps.find? (fun c => c.num == n)).getD .haltReq

/-- Whether a synchronous trap of this code resumes after the instruction (R370). -/
def TrapCode.resumesNext : TrapCode → Bool
  | .brk | .syscall | .counterOvf => true
  | _ => false

/-- Why an instruction does not complete: a trap before any effect, a trap that keeps the effects given, a page fault
that holds it, a request to host memory that it waits for, a wait that it begins, a source that is not ready, or a job tile
that does not run. -/
inductive Stop where
  | trap (code : TrapCode) (val : Word)
  | trapIn (s : State) (code : TrapCode) (val : Word)
  | fault (va : Word) (write : Bool)
  | ask (va hpa : Nat) (op : HostOp)
  | wait (s : State)
  | stall
  /-- An access to the scratchpad of a job tile that does not run waits until it does (R361). -/
  | fold (jt : Nat)
  deriving DecidableEq, Repr

/-- The first element that fails a check traps with its address. -/
def checkAll (l : List Nat) (p : Nat → Bool) (code : TrapCode) : Except Stop Unit :=
  match l.find? (fun a => !p a) with
  | none => .ok ()
  | some a => .error (.trap code (BitVec.ofNat 64 a))

/-- A check of the instruction as a whole. -/
def need (b : Bool) (code : TrapCode) (val : Word) : Except Stop Unit := if b then .ok () else .error (.trap code val)

/-- Waits until a condition holds. -/
def ready (b : Bool) : Except Stop Unit := if b then .ok () else .error .stall

/-! Fetch buffers, sequential flow and control transfers (R22, R41, R97). -/

/-- Adds a request for a block to the pending ones. -/
def wantBlock (time : Nat) (fetched : List (Word × BitVec 256)) (wanted : List (Word × Nat)) (b : Word) :
    List (Word × Nat) :=
  if fetched.any (fun p => p.1 == b) || wanted.any (fun p => p.1 == b) then wanted else wanted ++ [(b, time)]

/-- Sequential flow to an address: on entering the next block, that block becomes the one executed from and the block
after it is requested (R97). -/
def Ctx.flowTo (c : Ctx) (time : Nat) (p : Word) : Ctx :=
  if blockOf p = blockOf c.r.pc then { c with r := { c.r with pc := p } }
  else
    let f := c.fetched.filter (fun x => x.1 == blockOf p)
    let w := wantBlock time f (c.wanted.filter (fun x => x.1 == blockOf p)) (blockOf p)
    { c with r := { c.r with pc := p }, fetched := f, wanted := wantBlock time f w (blockOf p + 32) }

/-- What an empty fetch buffer asks for as execution enters at an address: its block and the one after it (R97). -/
def entryBlocks (time : Nat) (p : Word) : List (Word × Nat) := [(blockOf p, time), (blockOf p + 32, time)]

/-- A control transfer discards the fetch buffer and requests the target's block, and with it the one after (R97). -/
def Ctx.jumpTo (c : Ctx) (time : Nat) (p : Word) : Ctx :=
  { c with r := { c.r with pc := p }, fetched := [], wanted := entryBlocks time p }

/-- The address after an instruction of `len` bytes; a tail word is passed over (R21). -/
def nextPc (pc : Word) (len : Nat) : Word :=
  let p := pc + BitVec.ofNat 64 len
  if p.toNat % 32 = 28 then p + 4 else p

/-- What a target of a transfer breaks (R22, R41): the trap and its value; none for a legal target. `prog` is a
sequencer program, whose code may have any allotment (R266). -/
def State.targetBad (s : State) (slot allot : Nat) (prog : Bool) (t : Word) : Option (TrapCode × Word) :=
  match s.execPage slot t with
  | none => some (.perm, t)
  | some p =>
    match s.codeBlock slot t with
    | none => some (.perm, t)
    | some blk =>
      if !isStart blk t then some (.addr, t)
      else if !prog && decide (allot < p.allot) then some (.vallot, p.va)
      else none

/-- What sequential flow into another page breaks (R22, R41). -/
def State.pageBad (s : State) (slot allot : Nat) (prog : Bool) (t : Word) : Option (TrapCode × Word) :=
  match s.execPage slot t with
  | none => some (.perm, t)
  | some p => if !prog && decide (allot < p.allot) then some (.vallot, p.va) else none

/-! Taking a trap (R371 to R373) and returning from one (R375). -/

/-- Whether a trap handler runs (TCAUSE.INTRAP, R371). -/
def Ctx.inTrap (c : Ctx) : Bool := c.csr.tcause.getLsbD 16

/-- TVEC.OFS (R371). -/
def Ctx.tvecOfs (c : Ctx) : Nat := bits c.csr.tvec.toNat 0 32

/-- TCAUSE of a trap (R371, R372). -/
def tcauseOf (src code : Nat) : Word := BitVec.ofNat 64 (src * 2 ^ 20 + 2 ^ 16 + code)

/-- The logical core number of a core of a job tile (R12). -/
def logicalCore (jt core : Nat) : Nat := 32 * jt + core

/-- A trap ending: one entry in the job's trap log, then steps 2 to 4 of R80, which DONE_COMPLETE performs (R372). The
entry's TCAUSE gives the source, the code and INTRAP as it stood (notes/assumptions/21.md). -/
def State.trapEnding (s : State) (code src : Nat) (resume val : Word) : State :=
  let c := s.me
  let j := s.mySlot
  let e : TrapEntry := ⟨logicalCore c.jtile s.cur.core, s.cur.ctx, c.gen,
    BitVec.ofNat 64 (src * 2 ^ 20 + b2n c.inTrap * 2 ^ 16 + code), resume, val⟩
  (s.setSlot c.slot { j with traps := j.traps ++ [e] }).setMe { c with wait := .ending true, pend := [] }

/-- Takes a trap in the executing context (R372). -/
def State.takeTrap (s : State) (code : TrapCode) (src : Nat) (resume val : Word) : State :=
  let c := s.me
  let target := s.mySlot.code + BitVec.ofNat 64 (c.tvecOfs * 4)
  if code = .haltReq || c.tvecOfs == 0 || c.inTrap || s.cur.ctx == 8
      || (s.targetBad c.slot c.allot false target).isSome then
    s.trapEnding code.num src resume val
  else
    let csr := { c.csr with tcause := tcauseOf src code.num, tepc := resume, tval := val }
    s.setMe ({ c with csr := csr, wait := .none, kept := none, waited := [] }.jumpTo s.time target)

/-- A sequencer program fails (R263, R267): CPSTAT is written, the program ends, and its context takes the trap
asynchronously with no command number. -/
def State.failProgram (s : State) (code : TrapCode) : State :=
  let c := s.me
  let st := BitVec.ofNat 64 (code.num * 2 ^ 24 + 2 ^ 16 + s.cur.ctx)
  (s.setMyJob { s.myJob with cpstat := st }).setMe
    { c with pend := c.pend ++ [⟨code.num, 2, 0⟩]
             prog := c.prog.map (fun p => { p with ended := some (c.r.g[0]) }) }

/-- A synchronous trap of the executing context, or the failure of the executing program. -/
def State.raise (s : State) (code : TrapCode) (resume val : Word) : State :=
  if s.inProg then s.failProgram code else s.takeTrap code 0 resume val

/-- Whether events of the executing context still wait at the tile atomic unit: traps wait for them (R131). -/
def State.wideBusy (s : State) : Bool := s.myTile.wide.any (fun w => w.owner == s.cur)

/-- A check of R22 that fails on the way to an address; a program fails with ADDR whichever it is (R267). The trap of a
context waits for its events at the tile atomic unit (R131). -/
def State.badFlow (s : State) (t : Word) (b : TrapCode × Word) : State :=
  let c := s.me
  if !s.inProg && s.wideBusy then
    s.setMe { c with r := { c.r with pc := t }, fetched := [], wanted := [], wait := .flow b.1.num b.2 }
  else (s.setMe { c with r := { c.r with pc := t } }).raise (if s.inProg then .addr else b.1) t b.2

/-- Transfers control (R22): a bad target traps after the transferring instruction, with the target in TEPC. -/
def State.transferTo (s : State) (t : Word) : State :=
  let c := s.me
  match s.targetBad c.slot c.allot s.inProg t with
  | none => s.setMe (c.jumpTo s.time t)
  | some b => s.badFlow t b

/-- Sequential flow past an instruction of `len` bytes (R21, R22, R41). -/
def State.advance (s : State) (len : Nat) : State :=
  let c := s.me
  let p := nextPc c.r.pc len
  if p.toNat / 65536 = c.r.pc.toNat / 65536 then s.setMe (c.flowTo s.time p)
  else
    match s.pageBad c.slot c.allot s.inProg p with
    | none => s.setMe (c.flowTo s.time p)
    | some b => s.badFlow p b

/-- Ends the activation as `done` does: the context stops issuing and waits (R80 steps 1 and 2). -/
def State.endActivation (s : State) : State := s.setMe { s.me with wait := .ending false }

/-- Returns from a trap (R375); the caller has checked INTRAP. INTRAP is cleared first, so that what R22 finds wrong with
TEPC is a new trap with INTRAP 0; of a misaligned one it is ALIGN at the `eret`. -/
def State.returnFromTrap (s : State) : Except Stop State := do
  let c := s.me
  if bits c.csr.tcause.toNat 0 8 = 0x0E then .ok s.endActivation
  else
    let csr := { c.csr with tcause := c.csr.tcause &&& ~~~(BitVec.ofNat 64 (2 ^ 16)) }
    let s1 := s.setMe { c with csr := csr }
    if c.csr.tepc.toNat % 4 = 0 then .ok (s1.transferTo c.csr.tepc) else .error (.trapIn s1 .align c.csr.tepc)

/-- Adds a pending trap of a unit to a context. -/
def State.postTrap (s : State) (id : CtxId) (p : Pending) : State :=
  let c := s.ctx id
  s.setCtx id { c with pend := c.pend ++ [p] }

/-! Updates that the executing context has issued and that have not performed. -/

/-- Posted updates of the executing context and its entries of the side log. -/
def State.ownPosted (s : State) : List Posted :=
  let t := s.myTile
  (t.posted ++ t.sideLog).filter (fun p => p.owner == s.cur && p.gen == s.me.gen && p.slot == s.me.slot && p.jtile == s.me.jtile)

/-- Whether every earlier access of the executing context has performed: what a release, an engine command, a message, a
launch and a push to its program wait for (R198, R210, R213, R214, R272). -/
def State.drained (s : State) : Bool := s.ownPosted.isEmpty && !s.wideBusy && s.late.all (fun x => x.owner != s.cur)

/-! Running an instruction. -/

/-- The value of a predicate; p0 reads 1 (R84). -/
def State.readP (s : State) (n : BitVec 3) : Bool := n == 0 || s.me.r.p.getLsbD n.toNat

/-- The guard (R24). -/
def State.guard (s : State) (g : Guard) : Bool := s.readP g.pred != g.neg

/-- Holds the executing context, or program, on a page fault and reports it (R378). -/
def State.hold (s : State) (va : Word) (write : Bool) : State :=
  let c := s.me
  let who : FaultOf := if s.inProg then .prog s.cur else .ctx s.cur
  let c' := if s.inProg then { c with prog := c.prog.map (fun p => { p with held := true }) } else { c with wait := .fault va }
  let s1 := s.setMe c'
  { s1 with mg := { s1.mg with faults := s1.mg.faults ++ [⟨who, c.slot, va, write⟩] } }

/-- Sends a request to host memory. -/
def State.hostSend (s : State) (r : HostReq) : State := { s with hostReqs := s.hostReqs ++ [r] }

/-- Who waits for the host: the executing context or its program. -/
def State.via (s : State) : Via := if s.inProg then .prog else .self

/-- A request to host memory of the executing context or program (R391). -/
def State.requestOf (s : State) (va hpa : Nat) (op : HostOp) (posted : Bool) : HostReq :=
  ⟨s.cur, s.via, s.me.gen, s.me.slot, BitVec.ofNat 64 va, hpa, op, posted, none, none, s.wstime⟩

/-- Sends a request to host memory of the executing context. -/
def State.hostRequest (s : State) (va hpa : Nat) (op : HostOp) (posted : Bool) : State :=
  s.hostSend (s.requestOf va hpa op posted)

/-- How often a job tile has begun to run (R361). -/
def Slot.loadsOf (j : Slot) (jt : Nat) : Nat := (aget j.loads jt).getD 0

/-- The waits for job tiles with one more, if it is not among them, and the turn that it has now (R361). -/
def State.waitFold (s : State) (slot jt : Nat) (l : List (Nat × Nat)) : Option (List (Nat × Nat)) :=
  if l.any (fun p => p.1 == jt) then none else some (l ++ [(jt, (s.slot slot).loadsOf jt)])

/-- The answers that the executing context has had from the host. -/
def State.answers (s : State) : Assoc (List Byte) :=
  match s.me.wait with
  | .host got => got
  | _ => []

/-- The state after an instruction of `len` bytes that did not complete. -/
def State.stopped (s : State) (len : Nat) : Stop → State
  | .trap code val =>
    if s.wideBusy then { s with stalled := true }
    else s.raise code (if code.resumesNext then nextPc s.me.r.pc len else s.me.r.pc) val
  | .trapIn t code val =>
    if s.wideBusy then { s with stalled := true }
    else t.raise code (if code.resumesNext then nextPc s.me.r.pc len else s.me.r.pc) val
  | .fault va write => s.hold va write
  | .ask va hpa op => (s.hostRequest va hpa op false).setMe { s.me with wait := .host s.answers }
  | .wait t => t
  | .stall => { s with stalled := true }
  | .fold jt =>
    match s.waitFold s.me.slot jt s.me.waited with
    | some l => s.setMe { s.me with waited := l }
    | none => { s with stalled := true }

/-- An instruction that is held keeps the tensor entry that it read at its issue: number, entry and source (R187). -/
def State.keeping {α : Type} (s : State) (k : Nat × Tensor × Tensor) (x : Except Stop α) : Except Stop α :=
  let kept (u : State) : State := u.setMe { u.me with kept := some k }
  match x with
  | .error (.fault va write) => .error (.wait (kept (s.hold va write)))
  | .error (.ask va hpa op) => .error (.wait (kept (s.stopped 0 (.ask va hpa op))))
  | .error (.wait t) => .error (.wait (kept t))
  | .error (.fold jt) => .error (.wait (kept (s.stopped 0 (.fold jt))))
  | x => x

/-- Runs an instruction whose body yields the whole next state (R24). -/
def runBranch (g : Guard) (len : Nat) (s : State) (body : State → Except Stop State) :
    Host.Outcome State Fault Refusal :=
  if s.guard g then
    match body s with
    | .ok t => .next t
    | .error e => .next (s.stopped len e)
  else .next (s.advance len)

/-- Runs an instruction after which control flows on. -/
def runInstr (g : Guard) (len : Nat) (s : State) (body : State → Except Stop State) :
    Host.Outcome State Fault Refusal :=
  runBranch g len s (fun s => (body s).map (fun t => (t.setMe { t.me with wait := .none, kept := none, waited := [] }).advance len))

/-- An event of the part: enabled, it has its effect; otherwise nothing happens (notes/assumptions/2.md). -/
def runEvent (s : State) (t : Option State) : Host.Outcome State Fault Refusal := .next (t.getD s)

end Sys2Proof.Machine
end

