-- ==== Sys2Proof/Machine/Route.lean ====
section
/-! DEFINITION. Routes inside the cube: the rings, the dimension order of each routing class, the direction on each ring,
dead links, and virtual channels (spec/01 R7; spec/17 R393, R394). -/

namespace Sys2Proof.Machine

/-- Stride of a tile number along an axis, and the axis's length (R7). -/
def axisOf (axis : Nat) : Nat × Nat := if axis = 0 then (1, 8) else if axis = 1 then (8, 8) else (64, 24)

/-- Coordinate of a tile along an axis. -/
def coordOf (tile axis : Nat) : Nat := tile / (axisOf axis).1 % (axisOf axis).2

/-- The tile at distance `n` on the ring of a tile along an axis (R7). -/
def ringTile (tile axis n : Nat) : Nat :=
  let (stride, len) := axisOf axis
  let c := tile / stride % len
  tile - c * stride + (c + n) % len * stride

/-- Tiles of a ring. -/
def ringOf (tile axis : Nat) : List Nat := (List.range (axisOf axis).2).map (ringTile tile axis)

/-- The routing classes (R393). -/
inductive RouteClass where
  | launch | request | reply | class0 | bulk
  deriving DecidableEq, Repr

/-- The place of a class in RTORD. -/
def RouteClass.index : RouteClass → Nat
  | .launch => 0
  | .request => 1
  | .reply => 2
  | .class0 => 3
  | .bulk => 4

/-- The axes in the order of an order code (R393). -/
def axesOf (code : Nat) : List Nat :=
  match code with
  | 0 => [0, 1, 2]
  | 1 => [0, 2, 1]
  | 2 => [1, 0, 2]
  | 3 => [1, 2, 0]
  | 4 => [2, 0, 1]
  | _ => [2, 1, 0]

/-- A hop: the tile it leaves, the router port it takes (+x, −x, +y, −y, +z, −z), and its virtual channel (R393). -/
structure Hop where
  tile : Nat
  port : Nat
  channel : Nat
  deriving DecidableEq, Repr

/-- Whether a hop crosses the dateline of its ring: the link between coordinate 0 and the highest. -/
def crosses (axis c : Nat) (plus : Bool) : Bool := if plus then c + 1 == (axisOf axis).2 else c == 0

/-- `n` hops along a ring in one direction; a packet moves to channel 1 when it crosses the dateline (R393). -/
def hopsFrom (axis : Nat) (plus : Bool) : Nat → Nat → Nat → List Hop
  | _, _, 0 => []
  | tile, channel, n + 1 =>
    let channel := if crosses axis (coordOf tile axis) plus then 1 else channel
    ⟨tile, 2 * axis + (if plus then 0 else 1), channel⟩
      :: hopsFrom axis plus (ringTile tile axis (if plus then 1 else (axisOf axis).2 - 1)) channel n

/-- A leg along one axis to a coordinate: fewer hops, + on a tie, and the other way round where that would cross a dead
link (R393, R394). -/
def State.leg (s : State) (tile axis dest : Nat) : List Hop :=
  let len := (axisOf axis).2
  let up := (dest + len - coordOf tile axis) % len
  let plus := hopsFrom axis true tile 0 up
  let minus := hopsFrom axis false tile 0 ((len - up) % len)
  let dead (l : List Hop) : Bool := l.any (fun h => (s.tile h.tile).dead.getLsbD h.port)
  if decide (up ≤ len - up) != dead (if up ≤ len - up then plus else minus) then plus else minus

/-- The legs of a route along axes in order. -/
def State.legs (s : State) (dest : Nat) : Nat → List Nat → List Hop
  | _, [] => []
  | tile, axis :: t =>
    s.leg tile axis (coordOf dest axis)
      ++ s.legs dest (ringTile tile axis ((coordOf dest axis + (axisOf axis).2 - coordOf tile axis) % (axisOf axis).2)) t

/-- The route of a packet of a class between two tiles (R393). -/
def State.route (s : State) (c : RouteClass) (src dest : Nat) : List Hop :=
  s.legs dest src (axesOf (s.mg.rtord.toNat / 2 ^ (3 * c.index) % 8))

/-- The other end of a link. -/
def otherEnd (tile port : Nat) : Nat × Nat :=
  let axis := port / 2
  (ringTile tile axis (if port % 2 = 0 then 1 else (axisOf axis).2 - 1), 2 * axis + (1 - port % 2))

/-- Whether a link's test is running (R386). -/
def State.linkBusy (s : State) (h : Hop) : Bool :=
  s.mg.selfTests.any (fun t => t.1 == .link
    && ((t.2.1 == h.tile && t.2.2.1 / 2 ^ 37 == h.port) || otherEnd t.2.1 (t.2.2.1 / 2 ^ 37) == (h.tile, h.port)))

/-- Whether a packet of a class must wait for the test of a link on its route (R386). -/
def State.routeBusy (s : State) (c : RouteClass) (src dest : Nat) : Bool :=
  !s.mg.selfTests.isEmpty && (s.route c src dest).any s.linkBusy

/-- Layer of a device z (R8). -/
def layerOf (z : Nat) : Nat := if z ≤ 11 then 2 * z else 2 * (23 - z) + 1

/-- The die boundaries, by the number of the die below, that a tile's +z or −z link crosses (R6, R8): dies are numbered from
the floor die, logic layer p being die p + 5. -/
def boundariesOf (tile port : Nat) : List Nat :=
  let a := layerOf (coordOf tile 2)
  let b := layerOf (coordOf (otherEnd tile port).1 2)
  (List.range (Nat.max a b - Nat.min a b)).map (fun i => Nat.min a b + 5 + i)

end Sys2Proof.Machine
end

