-- ==== Sys2Proof/Machine/Order.lean ====
section
/-! DEFINITION. The record of write events: which older values a read may return, where a write may stand in coherence
order, and what an acquire learns (spec/08 R191 to R211; spec/09 R233). The record is a list of write events, newest
first; the choices of the schedule say how many of the newest events each unit of an access passes over, and every choice
is cut down to one that the rules allow. -/

namespace Sys2Proof.Machine

/-- Where a byte lies: live scratchpad, the image of a folded tile, the weight store, device or host memory; device memory
that an access from outside reaches by its DPA passes through no slice (R390). -/
inductive Loc where
  | spad (tile ofs : Nat)
  | image (slot jt ofs : Nat)
  | ws (tile ofs : Nat)
  | dev (dpa asid va : Nat)
  | raw (dpa : Nat)
  | host (hpa : Nat)
  deriving DecidableEq, Repr

/-- The region of the address that an access of a byte uses (R193); the scratchpad's where it uses none. -/
def Loc.region : Loc → Nat
  | .dev _ _ va => regionOf va
  | .host _ => 5
  | .ws .. => 6
  | _ => 7

/-- ORD, scope and class of one unit of an access: in region 0 it acts as ORD = 3 (R199), and a plain access in region 2 is one
that a release leaves unordered (R200); each unit takes the class of its own address (R194). -/
def Attr.at (a : Attr) (unit : List Loc) : Attr :=
  match unit.map Loc.region with
  | 0 :: _ => { a with acq := true, rel := true, sc := true, loose := false }
  | r :: _ => { a with loose := a.loose && r == 2 }
  | [] => a

/-! Events and their bytes. -/

/-- Whether an event writes one of the bytes. -/
def WriteEvent.hits (e : WriteEvent) (keys : List Nat) : Bool := e.cells.any (fun c => keys.contains c.1)

/-- Whether one of the bytes of an event is among those seen. -/
def WriteEvent.seenAt (e : WriteEvent) (v : Seen) (keys : List Nat) : Bool :=
  e.cells.any (fun c => keys.contains c.1 && v.contains (e.num, c.1))

/-- Adds pairs that are not there yet. -/
def Seen.join (a b : Seen) : Seen := a ++ b.filter (fun p => !a.contains p)

/-- What a context knows after an access of its own; of a plain access in region 2, the pairs that `loose` names stay out of
what a release passes on (R198, R200). -/
def View.learn (v : View) (loose : Nat × Nat → Bool) (ps : Seen) : View :=
  { v with own := Seen.join v.own ps, pub := Seen.join v.pub (ps.filter (fun p => !loose p)) }

/-- What a context knows once events come before its later accesses. -/
def View.meet (v : View) (ps : Seen) : View := v.learn (fun _ => false) ps

/-- What a context knows once releases come before its later accesses (R201, R202). -/
def View.acquire (v : View) (rs : List Release) : View := rs.foldl (fun v r => v.meet r.seen) v

/-- Every access of the context so far, in every region, comes before what follows (R198 cases d and e). -/
def View.flush (v : View) : View := { v with pub := Seen.join v.pub v.own }

/-- Whether the events of a list leave every event whole: the bytes of a read-modify-write may stand at two places of
the coherence order (R209), and no read takes only some of them (R196). -/
def wholeCut (log : List WriteEvent) (n : Nat) : Bool :=
  (log.take n).all (fun e => (log.drop n).all (fun f => f.num != e.num))

/-- The largest number of newest events, at most `n`, that may all be passed over. -/
def passable (log : List WriteEvent) (may : WriteEvent → Bool) (fits : Nat → Bool) (n : Nat) : Nat :=
  (List.range (Nat.min n log.length + 1)).foldl
    (fun best m => if (log.take m).all may && wholeCut log m && fits m then m else best) 0

/-- The event that a read of a byte returns after passing over the newest `n`: engine events count apart, byte by byte
(R211), and one that the reader has seen is always taken. -/
def eventAt (log : List WriteEvent) (v : Seen) (n : Nat) (old : Bool) (k : Nat) : Option WriteEvent :=
  (log.zipIdx.find? (fun p => p.1.hits [k] && (match p.1.kind with
    | .engine => v.contains (p.1.num, k) || !old
    | _ => decide (n ≤ p.2)))).map Prod.fst

/-- The byte that an event wrote, or that stood there before every recorded event; `now` is what memory holds. -/
def Record.byteOf (r : Record) (e : Option WriteEvent) (k : Nat) (now : Byte) : Byte :=
  match e with
  | some e => (aget e.cells k).getD now
  | none => (aget r.base k).getD now

/-- Reads one unit of an access (R196): the bytes, each with the event it came from. `may` is which events the unit may pass
over apart from those that its reader has seen; it passes over no event of a tile atomic unit, so that every access comes
wholly before or wholly after one (R152). -/
def Record.readUnit (r : Record) (v : Seen) (may : WriteEvent → Bool) (c : Nat × Nat) (u : List Host.Cell) :
    List (Byte × Option Nat) :=
  let keys := u.map Prod.fst
  let n := passable r.log (fun e => !e.hits keys || e.kind == .engine || (e.kind != .wide && may e && !e.seenAt v keys)) (fun _ => true) c.1
  u.zipIdx.map (fun p =>
    let e := eventAt r.log v n (c.2.testBit p.2) p.1.1
    (r.byteOf e p.1.1 p.1.2, e.map WriteEvent.num))

/-- Reads the units of an access one after the other, each with what it may pass over and with its own choice: no order
holds among them (R192). -/
def Record.readUnits (r : Record) (v : Seen) (cs : List (Nat × Nat)) :
    List ((WriteEvent → Bool) × List Host.Cell) → List (Byte × Option Nat)
  | [] => []
  | u :: t => r.readUnit v u.1 (cs.headD (0, 0)) u.2 ++ r.readUnits v cs.tail t

/-! What a read synchronises with (R201). -/

/-- The bytes of an access, in all its units, wherever they stand. -/
def Record.keysOf (r : Record) (whole : Nat) : List Nat :=
  (r.log.filter (fun e => e.whole == whole)).flatMap (fun e => e.cells.map Prod.fst)

/-- How many events are newer than an access at one of its bytes. -/
def Record.place (r : Record) (whole k : Nat) : Nat :=
  (r.log.findIdx? (fun e => e.whole == whole && e.hits [k])).getD r.log.length

/-- Whether a read of the bytes `keys`, which returned the events `got` (event, byte), covers a release, all the units of its
access, and returns on every byte of it that release or a read-modify-write after it that covers it (R201 conditions 3 and
4). -/
def Record.meets (r : Record) (w : WriteEvent) (keys : List Nat) (got : Seen) : Bool :=
  let ws := r.keysOf w.whole
  ws.all (fun k => keys.contains k && got.any (fun p => p.2 == k && r.log.any (fun e => e.num == p.1 && (e.whole == w.whole ||
    (e.kind == .rmw && ws.all (fun x => (r.keysOf e.whole).contains x)
      && decide (r.place e.whole k < r.place w.whole k))))))

/-- The releases that a read meets. -/
def Record.met (r : Record) (keys : List Nat) (got : Seen) : List Release :=
  (r.log.filter (fun w => !w.rels.isEmpty && r.meets w keys got)).flatMap WriteEvent.rels

/-! Where a write stands (R195, R196, R202). -/

/-- Whether a write of the bytes may stand below the newest `n` events: on no byte directly below a read-modify-write,
whose own read it would part from its write (R191, R209). -/
def besideRmw (log : List WriteEvent) (keys : List Nat) (n : Nat) : Bool :=
  keys.all (fun k => match ((log.take n).filter (fun e => e.hits [k])).getLast? with
    | some e => e.kind != .rmw
    | none => true)

/-- The record with an event's bytes in place: those of `low` below the newest `n` events, the others on top; `now` is
what memory held. -/
def Record.put (r : Record) (e : WriteEvent) (n : Nat) (low : Nat → Bool) (now : List Host.Cell) : Record :=
  let under := e.cells.filter (fun c => low c.1)
  let top := e.cells.filter (fun c => !low c.1)
  let part (l : List Host.Cell) : List WriteEvent := if l.isEmpty then [] else [{ e with cells := l }]
  { r with
    log := part top ++ r.log.take n ++ part under ++ r.log.drop n
    base := r.base ++ now.filter (fun c => (aget r.base c.1).isNone) }

/-- The bytes of an event that memory takes: those that no newer event of the record has overwritten. -/
def Record.fresh (r : Record) (n : Nat) (low : Nat → Bool) (k : Nat) : Bool :=
  !(low k && (r.log.take n).any (fun e => e.hits [k]))

/-! Scopes (R201 condition 5, R205). -/

/-- The agent number of what lies outside the part. -/
def outside : Nat := 64

/-- Whether the core of `b` lies in scope entry `n` of the job of `a` (R205). -/
def State.covers (s : State) (a : Agent) (n : Nat) (b : Agent) : Bool :=
  let mine := a.slot == b.slot
  a.slot == outside || (match n with
    | 0 => mine && a.jt == b.jt && a.core == b.core
    | 1 => mine && a.jt == b.jt
    | 2 => mine
    | 3 => mine || b.slot == outside
    | _ => mine && (match aget (s.slot a.slot).scopes n with
      | none => false
      | some m => ((aget m b.jt).getD 0).getLsbD b.core))

/-- Whether each of two accesses names a scope entry that holds the other's core. -/
def State.mutual (s : State) (a : Agent) (n : Nat) (b : Agent) (m : Nat) : Bool := s.covers a n b && s.covers b m a

/-- The releases of a list that an acquire at a scope entry synchronises with. -/
def State.heard (s : State) (ag : Agent) (scope : Nat) (rs : List Release) : List Release :=
  rs.filter (fun r => s.mutual ag scope r.ag r.scope)

/-- Whether two accesses stand in the sc order and see each other there (R203). -/
def State.scPair (s : State) (a b : Attr) : Bool := a.sc && b.sc && s.mutual a.ag a.scope b.ag b.scope

end Sys2Proof.Machine
end

