-- ==== Sys2Proof/Machine/Operands.lean ====
section
/-! DEFINITION. Reading and writing every operand form: scalar, vector, queue, predicate and mask (spec/02 R34, R35;
spec/04 R79 to R86, R89; spec/06 R128, R129; spec/11 R265). -/

namespace Sys2Proof.Machine

/-! Registers. -/

/-- A g register. -/
def Regs.getG (r : Regs) (n : BitVec 6) : Word := r.g[n.toNat]'(n.isLt)
/-- Writes a g register. -/
def Regs.setG (r : Regs) (n : BitVec 6) (v : Word) : Regs := { r with g := r.g.set n.toNat v n.isLt }
/-- A scalar o register. -/
def Regs.getO (r : Regs) (n : BitVec 3) : Word := r.o[n.toNat]'(n.isLt)
/-- Writes a scalar o register. -/
def Regs.setO (r : Regs) (n : BitVec 3) (v : Word) : Regs := { r with o := r.o.set n.toNat v n.isLt }
/-- A v register. -/
def Regs.getV (r : Regs) (n : BitVec 5) : VWord := r.v[n.toNat]'(n.isLt)
/-- Writes a v register. -/
def Regs.setV (r : Regs) (n : BitVec 5) (v : VWord) : Regs := { r with v := r.v.set n.toNat v n.isLt }
/-- A vector o entry. -/
def Regs.getVO (r : Regs) (n : BitVec 2) : VWord := r.vo[n.toNat]'(n.isLt)
/-- Writes a vector o entry. -/
def Regs.setVO (r : Regs) (n : BitVec 2) (v : VWord) : Regs := { r with vo := r.vo.set n.toNat v n.isLt }
/-- A mask register. -/
def Regs.getM (r : Regs) (n : BitVec 3) : BitVec 32 := r.m[n.toNat]'(n.isLt)
/-- Writes a mask register. -/
def Regs.setM (r : Regs) (n : BitVec 3) (v : BitVec 32) : Regs := { r with m := r.m.set n.toNat v n.isLt }

/-- One bit set in a bit vector. -/
def bitSet {w : Nat} (x : BitVec w) (n : Nat) : BitVec w := x ||| BitVec.ofNat w (2 ^ n)

/-- One bit of a bit vector given a value. -/
def bitPut {w : Nat} (x : BitVec w) (n : Nat) (b : Bool) : BitVec w :=
  if b then bitSet x n else x &&& ~~~(BitVec.ofNat w (2 ^ n))

/-- A queue of a context. -/
def Ctx.queue (c : Ctx) (n : BitVec 3) : Queue := c.q[n.toNat]'(n.isLt)
/-- Replaces a queue of a context; its dirty bit is set (R89). -/
def Ctx.setQueue (c : Ctx) (n : BitVec 3) (q : Queue) : Ctx :=
  { c with q := c.q.set n.toNat q n.isLt, dirty := { c.dirty with q := true } }

/-- Whether the running agent may pop a queue: q2 to q7 for a context, q0 and q1 for a program (R265). -/
def State.mayPop (s : State) (n : BitVec 3) : Bool := if s.inProg then decide (n.toNat < 2) else decide (2 ≤ n.toNat)

/-- Whether the running agent may push a queue: q0 and q1 for a context, q2 and q3 for a program (R265). -/
def State.mayPush (s : State) (n : BitVec 3) : Bool :=
  if s.inProg then n == 2 || n == 3 else decide (n.toNat < 2)

/-- Whether a queue has a free entry; entries held for matrix status words count as full (R86, R239). -/
def Queue.hasRoom (q : Queue) : Bool := decide (q.items.length + q.held < 8)

/-- A queue loses its oldest entry: a program's later commands come after what came before the entry's push (R272). -/
def State.popItem (s : State) (n : BitVec 3) (rest : List Word) : State :=
  let c := s.me
  let q := c.queue n
  let c1 := c.setQueue n { q with items := rest, marks := q.marks.tail }
  match s.inProg, q.marks with
  | true, m :: _ => s.setMe { c1 with
      view := c1.view.meet m.1
      prog := c1.prog.map (fun p => { p with after := Nat.max p.after m.2 }) }
  | _, _ => s.setMe c1

/-- A queue gains an entry (R272). -/
def State.pushItem (s : State) (n : BitVec 3) (v : Word) : State :=
  let c := s.me
  let q := c.queue n
  s.setMe (c.setQueue n { q with
    items := q.items ++ [v]
    marks := if s.inProg then q.marks else q.marks ++ [(c.view.own, s.nextId)] })

/-- Pops a queue through a specifier (R35, R79, R265). -/
def State.popQ (s : State) (n : BitVec 3) : Except Stop (Word × State) :=
  let c := s.me
  if (!s.inProg && c.handler) || !s.mayPop n then .error (.trap .queue (BitVec.ofNat 64 (0x50 + n.toNat)))
  else
    match (c.queue n).items with
    | [] => .error .stall
    | x :: t => .ok (x, s.popItem n t)

/-- Whether an instruction may issue that pushes its result into a queue: QUEUE before any effect, and a free entry (R35,
R79, R265). An instruction with effects beyond its registers asks this first. -/
def State.dstReady (s : State) : SDst → Except Stop Unit
  | .q n =>
    if (!s.inProg && s.me.handler) || !s.mayPush n then .error (.trap .queue (BitVec.ofNat 64 (0x50 + n.toNat)))
    else ready (s.me.queue n).hasRoom
  | _ => .ok ()

/-- Pushes a queue through a specifier (R35, R79, R265). -/
def State.pushQ (s : State) (n : BitVec 3) (v : Word) : Except Stop State := do
  s.dstReady (.q n)
  .ok (s.pushItem n v)

/-! Scalar operands. -/

/-- Reads a scalar source (R34, R35). -/
def State.readS (s : State) : SSrc → Except Stop (Word × State)
  | .g n => .ok (s.me.r.getG n, s)
  | .o n => .ok (s.me.r.getO n, s)
  | .lat => .ok (s.me.r.lat, s)
  | .zr => .ok (0, s)
  | .q n => s.popQ n
  | .i n => .ok (s.me.nest.i[n.toNat]'(n.isLt), s)

/-- Writes the scalar latch (R82). -/
def Ctx.setLat (c : Ctx) (v : Word) : Ctx := { c with r := { c.r with lat := v }, dirty := { c.dirty with lat := true } }

/-- Writes a g register with its dirty bit, not the latch. -/
def Ctx.putG (c : Ctx) (n : BitVec 6) (v : Word) : Ctx :=
  { c with r := c.r.setG n v, dirty := { c.dirty with g := bitSet c.dirty.g n.toNat } }

/-- Writes a scalar o register with its dirty bit, not the latch. -/
def Ctx.putO (c : Ctx) (n : BitVec 3) (v : Word) : Ctx :=
  { c with r := c.r.setO n v, dirty := { c.dirty with o := bitSet c.dirty.o n.toNat } }

/-- Writes a scalar destination and the latch (R34, R35, R82). -/
def State.writeS (s : State) (d : SDst) (v : Word) : Except Stop State :=
  match d with
  | .g n => .ok (s.setMe ((s.me.putG n v).setLat v))
  | .o n => .ok (s.setMe ((s.me.putO n v).setLat v))
  | .zr => .ok (s.setMe (s.me.setLat v))
  | .q n => (s.pushQ n v).map (fun t => t.setMe (t.me.setLat v))

/-! Predicates and masks (R84). -/

/-- Writes a predicate; a write to p0 is discarded. -/
def State.writeP (s : State) (n : BitVec 3) (b : Bool) : State :=
  if n = 0 then s
  else
    let c := s.me
    s.setMe { c with r := { c.r with p := bitPut c.r.p n.toNat b }, dirty := { c.dirty with p := true } }

/-- Reads a mask register. -/
def State.readM (s : State) (n : BitVec 3) : BitVec 32 := s.me.r.getM n

/-- Writes a mask register. -/
def State.writeM (s : State) (n : BitVec 3) (v : BitVec 32) : State :=
  let c := s.me
  s.setMe { c with r := c.r.setM n v, dirty := { c.dirty with m := bitSet c.dirty.m n.toNat } }

/-! Vector operands. -/

/-- Reads a vector source (R34). -/
def State.readV (s : State) : VSrc → VWord
  | .v n => s.me.r.getV n
  | .o n => s.me.r.getVO n
  | .lat => s.me.r.vlat
  | .zr => 0

/-- The old value of a vector destination; `zr` reads zero (R129). -/
def State.readVD (s : State) : VDst → VWord
  | .v n => s.me.r.getV n
  | .o n => s.me.r.getVO n
  | .zr => 0

/-- Writes the vector latch (R82). -/
def Ctx.setVLat (c : Ctx) (v : VWord) : Ctx :=
  { c with r := { c.r with vlat := v }, dirty := { c.dirty with vlat := true } }

/-- Writes a v register with its dirty bit, not the latch. -/
def Ctx.putV (c : Ctx) (n : BitVec 5) (v : VWord) : Ctx :=
  { c with r := c.r.setV n v, dirty := { c.dirty with v := bitSet c.dirty.v n.toNat } }

/-- Writes a vector o entry with its dirty bit, not the latch. -/
def Ctx.putVO (c : Ctx) (n : BitVec 2) (v : VWord) : Ctx :=
  { c with r := c.r.setVO n v, dirty := { c.dirty with vo := bitSet c.dirty.vo n.toNat } }

/-- Writes a vector destination and the latch (R34, R82). -/
def State.writeV (s : State) (d : VDst) (v : VWord) : State :=
  match d with
  | .v n => s.setMe ((s.me.putV n v).setVLat v)
  | .o n => s.setMe ((s.me.putVO n v).setVLat v)
  | .zr => s.setMe (s.me.setVLat v)

/-! Elements of a vector (R128, R129). -/

/-- Element `j` at width `w`. -/
def elem (v : VWord) (w j : Nat) : Nat := bits v.toNat (w * j) w

/-- Elements of width `w` as one number, element 0 lowest. -/
def packElems (w : Nat) : List Nat → Nat
  | [] => 0
  | x :: t => x % 2 ^ w + 2 ^ w * packElems w t

/-- A vector from its elements. -/
def vecOf (w : Nat) (l : List Nat) : VWord := BitVec.ofNat 1024 (packElems w l)

/-- The elements of a vector. -/
def elems (v : VWord) (w : Nat) : List Nat := (List.range (1024 / w)).map (elem v w)

/-- Whether element `j` of width `w` is active under a mask (R129). -/
def activeElem (m : BitVec 32) (w j : Nat) : Bool := m.getLsbD (w * j / 32)

/-- The vector of a masked element-wise operation (R129, R133). -/
def masked (w : Nat) (m : BitVec 32) (zm : Bool) (old : VWord) (f : Nat → Nat) : VWord :=
  vecOf w ((List.range (1024 / w)).map fun j =>
    if activeElem m w j then f j else if zm then 0 else elem old w j)

/-- A masked result under an instruction's mask fields. -/
def State.maskedFor (s : State) (w : Nat) (c : VCtl) (d : VDst) (f : Nat → Nat) : VWord :=
  masked w (s.readM c.mask) c.zm (s.readVD d) f

/-! The address of a format-M operand (R30). -/

/-- The effective address: base, scaled index and displacement; the base is read first (R35). -/
def State.memEa (s : State) (m : MemOp) : Except Stop (Word × State) := do
  let (b, s) ← s.readS m.base
  let (i, s) ← s.readS m.index
  .ok (b + i <<< m.scl.toNat + m.disp.signExtend 64, s)

end Sys2Proof.Machine
end

