-- ==== Sys2Proof/Machine/Flags.lean ====
section
/-! DEFINITION. FPCS: its fields, the dynamic rounding mode, and the raising of floating-point flags (spec/03 R63 to
R66), and the fields of IMMC (spec/05 R111). -/

namespace Sys2Proof.Machine

/-- The trap enables of FPCS (R65). -/
def fpcsEn (x : Word) : Flags := (x >>> 8).setWidth 5
/-- The dynamic rounding mode of FPCS (R65). -/
def fpcsRm (x : Word) : RMode := (rMode (bits x.toNat 13 3)).getD .rne
/-- FZ8 of FPCS (R65). -/
def fpcsFz8 (x : Word) : Bool := x.getLsbD 16

/-- The integer type of the immediate forms (R111); a program's run as `.s64` (R267). -/
def State.immTy (s : State) : IntTy :=
  if s.inProg then .s64 else (intTy (bits s.me.csr.immc.toNat 0 4)).getD .s64

/-- The floating-point type of the immediate forms (R111). -/
def State.immFTy (s : State) : FTy := (fTy (bits s.me.csr.immc.toNat 4 4)).getD .f32

/-- The rounding mode in force (R63). -/
def State.rmOf (s : State) : RMode → RMode
  | .dyn => fpcsRm s.me.csr.fpcs
  | m => m

/-- FPCS with flags ORed in (R66). -/
def State.orFlags (s : State) (f : Flags) : State :=
  let c := s.me
  s.setMe { c with csr := { c.csr with fpcs := c.csr.fpcs ||| f.setWidth 64 } }

/-- Whether a raised flag is enabled to trap (R66). -/
def State.fpTraps (s : State) (f : Flags) : Bool := f &&& fpcsEn s.me.csr.fpcs != 0

/-- Completes an instruction that raises flags (R66): an enabled flag traps FP with the flags ORed into FPCS and nothing
written; otherwise the results are written and the flags ORed. TVAL holds the flags raised (R370). -/
def State.fpDone (s : State) (f : Flags) (write : State → Except Stop State) : Except Stop State :=
  if s.fpTraps f then .error (.trapIn (s.orFlags f) .fp (f.setWidth 64))
  else write (s.orFlags f)

end Sys2Proof.Machine
end

