-- ==== Sys2Proof/Machine/Control.lean ====
section
/-! DEFINITION. The control instructions of group 0x000 (spec/04 R98 to R109), `trap` and `eret` (spec/16 R374, R375). -/

namespace Sys2Proof.Machine

/-- `nop`, header or not, takes its issue slot (R99). -/
def execNop (g : Guard) (_hdr : Option (BitVec 6)) (s : State) : Host.Outcome State Fault Refusal :=
  runInstr g 8 s .ok

/-- `brk` traps BRK before any effect, with its code (R100). -/
def execBrk (g : Guard) (code : BitVec 16) (s : State) : Host.Outcome State Fault Refusal :=
  runBranch g 8 s (fun _ => .error (.trap .brk (code.setWidth 64)))

/-- The target of a relative transfer (R101). -/
def relTarget (pc : Word) (ofs : BitVec 34) : Word := pc + ofs.signExtend 64 * 4

/-- `br` (R101). -/
def execBr (g : Guard) (neg : Bool) (p : BitVec 3) (ofs : BitVec 34) (s : State) : Host.Outcome State Fault Refusal :=
  runBranch g 8 s (fun s =>
    if s.readP p != neg then .ok (s.transferTo (relTarget s.me.r.pc ofs)) else .ok (s.advance 8))

/-- `jmp` (R101). -/
def execJmp (g : Guard) (ofs : BitVec 34) (s : State) : Host.Outcome State Fault Refusal :=
  runBranch g 8 s (fun s => .ok (s.transferTo (relTarget s.me.r.pc ofs)))

/-- The link value: the address of this instruction plus 8 (R101, R102). -/
def State.linkValue (s : State) : Word := s.me.r.pc + 8

/-- `call` writes the link register and the latch, then transfers (R101). -/
def execCall (g : Guard) (link : BitVec 6) (ofs : BitVec 34) (s : State) : Host.Outcome State Fault Refusal :=
  runBranch g 8 s (fun s => do
    let t ← s.writeS (.g link) s.linkValue
    .ok (t.transferTo (relTarget s.me.r.pc ofs)))

/-- The target of a register transfer; a misaligned one traps ALIGN before any effect (R22, R102). -/
def State.regTarget (s : State) (a : SSrc) : Except Stop (Word × State) := do
  let (t, s1) ← s.readS a
  need (t.toNat % 4 == 0) .align t
  .ok (t, s1)

/-- `jr` (R102). -/
def execJr (g : Guard) (a : SSrc) (s : State) : Host.Outcome State Fault Refusal :=
  runBranch g 8 s (fun s => (s.regTarget a).map (fun p => p.2.transferTo p.1))

/-- `callr` reads its target before it writes the link (R35, R102). -/
def execCallr (g : Guard) (link : BitVec 6) (a : SSrc) (s : State) : Host.Outcome State Fault Refusal :=
  runBranch g 8 s (fun s => do
    let (t, s1) ← s.regTarget a
    let s2 ← s1.writeS (.g link) s.linkValue
    .ok (s2.transferTo t))

/-- `ret` has the effect of `jr` (R102). -/
def execRet (g : Guard) (a : SSrc) (s : State) : Host.Outcome State Fault Refusal :=
  runBranch g 8 s (fun s => (s.regTarget a).map (fun p => p.2.transferTo p.1))

/-- A truth table at two bits (R103). -/
def truth (tt : BitVec 4) (a b : Bool) : Bool := tt.getLsbD (2 * b2n a + b2n b)

/-- `plog` (R103). -/
def execPlog (g : Guard) (pd pa pb : BitVec 3) (tt : BitVec 4) (s : State) : Host.Outcome State Fault Refusal :=
  runInstr g 8 s (fun s => .ok (s.writeP pd (truth tt (s.readP pa) (s.readP pb))))

/-- The four kinds of `pmov` (R104). -/
def State.pmov (s : State) (n : BitVec 3) : PmovForm → Except Stop State
  | .toPred a => (s.readS a).map (fun p => p.2.writeP n (p.1 != 0))
  | .fromPred d => s.writeS d (BitVec.ofNat 64 (b2n (s.readP n)))
  | .toMask a => (s.readS a).map (fun p => p.2.writeM n (p.1.setWidth 32))
  | .fromMask d => s.writeS d ((s.readM n).setWidth 64)

/-- `pmov` (R104). -/
def execPmov (g : Guard) (n : BitVec 3) (f : PmovForm) (s : State) : Host.Outcome State Fault Refusal :=
  runInstr g 8 s (fun s => s.pmov n f)

/-! The iteration fetcher (R105, R106). -/

/-- One of the four 16-bit extents. -/
def nestExt (e : Word) (k : Nat) : Nat := bits e.toNat (16 * k) 16

/-- The product of the extents. -/
def nestTotal (e : Word) : Nat := nestExt e 0 * nestExt e 1 * nestExt e 2 * nestExt e 3

/-- i0 to i3 of a linear iteration, i0 fastest. -/
def nestUnpack (e : Word) (n : Nat) : Vector Word 4 :=
  let e0 := nestExt e 0
  let e1 := nestExt e 1
  let e2 := nestExt e 2
  #v[BitVec.ofNat 64 (n % e0), BitVec.ofNat 64 (n / e0 % e1), BitVec.ofNat 64 (n / (e0 * e1) % e2),
     BitVec.ofNat 64 (n / (e0 * e1 * e2))]

/-- The fetcher after a load with extents, start, end and step; inactive when the range is empty. -/
def Nest.load (f : Nest) (e st en : Word) (step : BitVec 32) : Nest :=
  let stop := Nat.min en.toNat (nestTotal e)
  let f1 := { f with ext := e, stop := BitVec.ofNat 64 stop, step := step }
  if st.toNat < stop then
    { f1 with active := true, next := BitVec.ofNat 64 (st.toNat + step.toNat), i := nestUnpack e st.toNat }
  else { f1 with active := false }

/-- `nest` (R105). -/
def execNest (g : Guard) (ps : BitVec 3) (a b c : SSrc) (stp : BitVec 32) (s : State) :
    Host.Outcome State Fault Refusal :=
  runInstr g 16 s (fun s => do
    let (e, s1) ← s.readS a
    let (st, s2) ← s1.readS b
    let (en, s3) ← s2.readS c
    let f := s3.me.nest.load e st en stp
    .ok ((s3.setMe { s3.me with nest := f }).writeP ps f.active))

/-- `iter` (R106). -/
def execIter (g : Guard) (ofs : BitVec 34) (s : State) : Host.Outcome State Fault Refusal :=
  runBranch g 8 s (fun s =>
    let c := s.me
    let f := c.nest
    if f.active && decide (f.next.toNat < f.stop.toNat) then
      let f1 := { f with i := nestUnpack f.ext f.next.toNat, next := BitVec.ofNat 64 (f.next.toNat + f.step.toNat) }
      .ok ((s.setMe { c with nest := f1 }).transferTo (relTarget c.r.pc ofs))
    else .ok ((s.setMe { c with nest := { f with active := false } }).advance 8))

/-! `align` (R107). -/

/-- The `align k` count of a context. -/
def Ctx.alignCount (c : Ctx) (k : BitVec 4) : Nat := c.aligns[k.toNat]'(k.isLt)

/-- Whether every other active context of the launch on the tile has issued at least `n` of `align k`. -/
def Tile.alignMet (t : Tile) (id : CtxId) (c : Ctx) (k : BitVec 4) (n : Nat) : Bool :=
  t.cores.all (fun p => p.2.ctxs.all (fun q =>
    (p.1 == id.core && q.1 == id.ctx) || !q.2.active || q.2.slot != c.slot || q.2.launch != c.launch
      || decide (n ≤ q.2.alignCount k)))

/-- Whether an `align` that was issued at `since` and is the n-th of its number is over (R107). -/
def State.alignOver (s : State) (k : BitVec 4) (n since : Nat) : Bool :=
  s.me.launch.isNone || s.myTile.alignMet s.cur s.me k n || decide (since + 256 ≤ s.time)

/-- `align` counts once, at its issue, and then waits (R107). -/
def execAlign (g : Guard) (k : BitVec 4) (s : State) : Host.Outcome State Fault Refusal :=
  runInstr g 8 s (fun s =>
    let c := s.me
    match c.wait with
    | .align _ n since => if s.alignOver k n since then .ok s else .error .stall
    | _ =>
      let n := c.alignCount k + 1
      let s1 := s.setMe { c with aligns := c.aligns.set k.toNat n k.isLt }
      if s1.alignOver k n s.time then .ok s1
      else .error (.wait (s1.setMe { s1.me with wait := .align k.toNat n s.time })))

/-- 256 core clocks after its issue a waiting `align` completes (R107). -/
def execAlignTimeout (tile core ctx : Nat) (s : State) : Host.Outcome State Fault Refusal :=
  let s1 := { s with cur := ⟨tile, core, ctx⟩, inProg := false }
  runEvent s (match s1.me.active, s1.me.wait with
    | true, .align _ _ since =>
      if since + 256 ≤ s.time then some ((s1.setMe { s1.me with wait := .none }).advance 8) else none
    | _, _ => none)

/-! `who` (R109). -/

/-- Packs coordinates, a core and the fields above them (R109). -/
def whoWord (tile core hi : Nat) : Word :=
  BitVec.ofNat 64 (tileX tile + tileY tile * 2 ^ 8 + tileZ tile * 2 ^ 16 + core * 2 ^ 24 + hi)

/-- What `who` reads (R109); the cycle counters of tiles are not aligned with each other (notes/assumptions/12.md). -/
def State.whoValue (s : State) (sel : BitVec 2) : Word :=
  let c := s.me
  if sel = 0 then whoWord c.jtile s.cur.core (s.cur.ctx * 2 ^ 32 + c.gen.toNat * 2 ^ 48)
  else if sel = 1 then BitVec.ofNat 64 (logicalCore c.jtile s.cur.core + c.jtile * 2 ^ 32)
  else if sel = 2 then BitVec.ofNat 64 s.time + Config.cycleSkew s.cur.tile
  else whoWord s.cur.tile s.cur.core 0

/-- `who` (R109). -/
def execWho (g : Guard) (d : SDst) (sel : BitVec 2) (s : State) : Host.Outcome State Fault Refusal :=
  runInstr g 8 s (fun s => s.writeS d (s.whoValue sel))

/-! `trap` and `eret` (R375). -/

/-- `trap` raises SYSCALL with its code and resumes after itself (R375). -/
def execTrap (g : Guard) (code : BitVec 16) (s : State) : Host.Outcome State Fault Refusal :=
  runBranch g 8 s (fun _ => .error (.trap .syscall (code.setWidth 64)))

/-- `eret`: PERM with no trap taken; otherwise the return (R375). -/
def execEret (g : Guard) (s : State) : Host.Outcome State Fault Refusal :=
  runBranch g 8 s (fun s => if s.me.inTrap then s.returnFromTrap else .error (.trap .perm 0))

end Sys2Proof.Machine
end

