-- ==== Sys2Proof/Machine/Access.lean ====
section
/-! DEFINITION. Memory accesses: the checks of an address, where each byte lies, reading and writing bytes, replicas, the
side log, host requests and watches (spec/07 R154 to R168, R180; spec/08 R205 to R217; spec/13 R310 to R320, R331 to
R336; spec/16 R378; spec/17 R391). What values of the record an access may take is in Order. -/

namespace Sys2Proof.Machine

/-- The executing context as an agent. -/
def State.agent (s : State) : Agent := ⟨s.me.slot, s.me.jtile, s.cur.tile, s.cur.core, s.me.waited⟩

/-! The checks of R180. -/

/-- Step 1 of R180. -/
def step1 (va : Nat) : Bool := va / 2 ^ 55 == 0 && regionOf va != 4

/-- Step 2 of R180 (R168). -/
def step2 (o : Bool) (va : Nat) : Bool := !(o && (regionOf va == 5 || regionOf va == 6))

/-- An instruction writes no byte of region 6 (R311). -/
def stepW (write : Bool) (va : Nat) : Bool := !(write && regionOf va == 6)

/-- Whether a tile field names a tile of the job (R9, R10, R154). -/
def Slot.namesTile (j : Slot) (n : Nat) : Bool := n == 2047 || j.inShape n

/-- Bytes of a weight-store slice (R331). -/
def wsBytes : Nat := 12 * 2 ^ 20

/-- Step 4 of R180: window decoding (R154, R311). -/
def step4 (j : Slot) (va : Nat) : Bool :=
  if regionOf va = 7 then bits va 32 20 == 0 && j.namesTile (bits va 21 11)
  else if regionOf va = 6 then
    bits va 35 17 == 0 && j.namesTile (bits va 24 11) && decide (bits va 0 24 < wsBytes)
  else true

/-- ColumnToPhysical (R156). -/
def colPlate (a e : Nat) : Nat := 128 * (a / e % 32) + e * (a / (32 * e)) + a % e

/-- SectorColumnToPhysical (R166). -/
def colSector (a e : Nat) : Nat := 32 * (a / e % 32) + e * (a / (32 * e)) + a % e

/-- The row-view address of the byte that an address names under a view. -/
def physVa (o : Bool) (e va : Nat) : Nat :=
  if !o then va
  else if regionOf va = 7 then va / 4096 * 4096 + colPlate (va % 4096) e
  else va / 1024 * 1024 + colSector (va % 1024) e

/-- Whether a byte of every core slice is allotted to the job (R164, R359). -/
def Slot.allotted (j : Slot) (ofs : Nat) : Bool :=
  !j.ovl && j.regions.any (fun r => decide (256 * r.ofs ≤ ofs) && decide (ofs < 256 * (r.ofs + r.size)))

/-- Step 5 of R180: allotment and the weight-store partition (R164, R331). -/
def step5 (j : Slot) (va : Nat) : Bool :=
  if regionOf va = 7 then j.allotted (bits va 0 16)
  else if regionOf va = 6 then
    let u := bits va 0 24 / 65536
    decide (j.wsBase ≤ u) && decide (u < j.wsBase + j.wsLen)
  else true

/-- The job tile that a window address names. -/
def Agent.target (ag : Agent) (va : Nat) : Nat :=
  let n := if regionOf va = 7 then bits va 21 11 else bits va 24 11
  if n = 2047 then ag.jt else n

/-- Whether a job tile runs on its device tile. -/
def State.tileRuns (s : State) (slot jt : Nat) : Bool := (s.tile ((s.slot slot).devTile jt)).runs slot jt

/-- Whether an access to the scratchpad of a job tile need not wait: the tile runs on its device tile, and is not being
stopped, unless it is the issuer's own; or it has run since the access began to wait, which then performs as of the end of
that turn (R361, R379; notes/assumptions/13.md). -/
def State.windowOpen (s : State) (ag : Agent) (jt : Nat) : Bool :=
  let j := s.slot ag.slot
  let d := j.devTile jt
  (s.tileRuns ag.slot jt && ((d == ag.tile && jt == ag.jt) || (aget (s.tile d).stopping ag.slot).isNone))
    || ag.waited.any (fun p => p.1 == jt && decide (p.2 < j.loadsOf jt))

/-- The wait of an access for the job tiles whose scratchpads it names (R361, R379). -/
def State.windows (s : State) (ag : Agent) (l : List Nat) : Except Stop Unit :=
  match l.find? (fun a => regionOf a == 7 && !s.windowOpen ag (ag.target a)) with
  | some a => .error (if s.tileRuns ag.slot (ag.target a) then .stall else .fold (ag.target a))
  | none => .ok ()

/-- The location of a window byte. -/
def State.windowLoc (s : State) (ag : Agent) (va : Nat) : Loc :=
  let jt := ag.target va
  let d := (s.slot ag.slot).devTile jt
  if (s.tile d).runs ag.slot jt then .spad d (bits va 0 21) else .image ag.slot jt (bits va 0 21)

/-- Whether the unit of a weight-store byte has reached its deadline (R334). -/
def State.wsExpired (s : State) (ag : Agent) (va : Nat) : Bool :=
  match aget (s.tile ((s.slot ag.slot).devTile (ag.target va))).deadlines (bits va 0 24 / 65536) with
  | none => false
  | some d => decide (d ≤ s.wstime)

/-- Whether a byte translates with the permission that the access needs (R317). -/
def State.permits (s : State) (ag : Agent) (write : Bool) (va : Nat) : Bool :=
  if regionOf va ≤ 5 then
    match s.xlate ag.slot va with
    | none => false
    | some (_, l) => if write then l.w else l.r
  else true

/-- The block number of a device physical address (R312). -/
def blockNum (dpa : Nat) : Nat := dpa / 4096

/-- Whether a byte lies in a lost block (R336), or in a scratchpad granule with an uncorrectable word (R386). -/
def State.lostAt (s : State) (ag : Agent) (va : Nat) : Bool :=
  if regionOf va = 7 then
    match s.windowLoc ag va with
    | .spad t ofs => (s.tile t).bad.contains (ofs / 256)
    | _ => false
  else
    decide (regionOf va ≤ 3) &&
      (match s.xlate ag.slot va with
       | none => false
       | some (p, _) => s.mg.lost.contains (blockNum p))

/-! Blocks of device memory in their homes (R312, R321, R322, R386). -/

/-- Fold of a block number (R312): 6-bit chunks, XORed. -/
def fold6 (b : Nat) : Nat := (List.range 11).foldl (fun x i => x ^^^ bits b (6 * i) 6) 0

/-- The memory home of a virtual address (R313); its number is that of the device tile whose floor link leads to it (R393). -/
def homeOfVa (va : Nat) : Nat := fold6 (bits va 12 40)

/-- Home of a block. -/
def blockHome (b : Nat) : Nat := fold6 b

/-- Set of a block. -/
def blockSet (b : Nat) : Nat := b / 64 % 262144

/-- Member of a block. -/
def blockMember (b : Nat) : Nat := b / 64 / 262144

/-- The block of a member of a set of a home. -/
def blockOfMember (home set m : Nat) : Nat :=
  let hi := 64 * (262144 * m + set)
  hi + (fold6 hi).xor home

/-- The member that lies in the stacked slot of a set (R321). -/
def Home.stacked (x : Home) (set : Nat) : Nat := (aget x.remap set).getD 0

/-- Whether a block waits for the end of a swap (R322) or of a row test (R386). -/
def State.blockBusy (s : State) (b : Nat) : Bool :=
  let h := blockHome b
  let set := blockSet b
  let x := s.home h
  let up := blockMember b == x.stacked set
  (match x.swap with
   | some (n, m) => n == set && (up || blockMember b == m)
   | none => false)
  || s.mg.selfTests.any (fun t => t.2.1 == h && up && ((t.1 == .dramRow && t.2.2.1 / 2 ^ 22 % 2 ^ 18 == set)
      || (t.1 == .bondGroup && decide (t.2.2.1 / 2 ^ 35 ≤ set / 65536))))

/-- The home slice of an address (R319): a device tile number. -/
def homeSlice (asid va : Nat) : Nat :=
  let v : BitVec 64 := BitVec.ofNat 64 (bits va 10 42) ^^^ BitVec.ofNat 64 (asid * 2 ^ 42)
  let v := v ^^^ (v >>> 29)
  let v := v * 0xA3C59AC2F1E87D35
  let v := v ^^^ (v >>> 32)
  bits v.toNat 0 32 % 1536

/-- The tile whose slice serves the sectors of a home slice: the next one above a fenced tile (R387). -/
def State.unfenced (s : State) : Nat → Nat → Nat
  | 0, d => d
  | n + 1, d => if (s.tile d).fenced then s.unfenced n ((d + 64) % 1536) else d

/-- The device tile whose slice serves an address (R319, R387). -/
def State.sliceOf (s : State) (asid va : Nat) : Nat := s.unfenced 24 (homeSlice asid va)

/-- The sector number of an address (R319). -/
def sectorOf (va : Nat) : Nat := va % 2 ^ 52 / 1024

/-- Whether a frame holds home bytes of a sector. -/
def SecFrame.holds (f : SecFrame) (asid sec : Nat) : Bool := f.replica.isNone && f.asid == asid && f.sec == sec

/-- The frame that goes out of a slice when a sector comes in whose set of 16 ways is full: the least recently used (R319). -/
def sliceVictim (l : List SecFrame) (asid sec : Nat) : Option SecFrame :=
  let same (f : SecFrame) : Bool := Config.sliceSet f.asid f.sec % 64 == Config.sliceSet asid sec % 64
  if decide (l.length < 16) || decide ((l.filter same).length < 16) then none else l.reverse.find? same

/-- A slice with a frame free in the set of a sector; the dirty bytes of the one that goes are written to their home (R319). -/
def sliceRoom (l : List SecFrame) (asid sec : Nat) : List SecFrame :=
  match sliceVictim l asid sec with
  | some f => (l.reverse.erase f).reverse
  | none => l

/-- The block whose bytes a frame of home bytes holds. -/
def State.frameBlock (s : State) (f : SecFrame) : Option Nat :=
  let va := 1024 * f.sec
  if f.replica.isSome then none
  else (s.mg.maps.find? (fun m => m.asid.toNat == f.asid && m.evicted.isNone && regionOf m.va.toNat != 5
    && decide (m.va.toNat % 2 ^ 52 ≤ va) && decide (va < m.va.toNat % 2 ^ 52 + m.size))).map
      (fun m => blockNum (m.frame + (va - m.va.toNat % 2 ^ 52)))

/-- Whether the write-back of a frame waits: its block is in a swap or under test (R322, R386). -/
def State.writeBackBusy (s : State) (f : SecFrame) : Bool :=
  f.dirty != 0 && (s.frameBlock f).any s.blockBusy

/-- Whether a sector that is not in a slice must wait for the write-back of the frame whose place it takes (R319, R322). -/
def State.roomBusy (s : State) (d asid sec : Nat) : Bool :=
  !(s.tile d).slice.any (fun f => f.holds asid sec) && (sliceVictim (s.tile d).slice asid sec).any s.writeBackBusy

/-- The tile at which an access performs: the window's, or that of the home slice. -/
def State.servedAt (s : State) (ag : Agent) (va : Nat) : Nat :=
  if 6 ≤ regionOf va then (s.slot ag.slot).devTile (ag.target va) else s.sliceOf (s.slot ag.slot).asid va

/-- Whether a byte is in its home slice. -/
def State.inSlice (s : State) (ag : Agent) (va : Nat) : Bool :=
  let asid := (s.slot ag.slot).asid
  (s.tile (s.sliceOf asid va)).slice.any (fun f => f.holds asid (sectorOf va) && f.valid.getLsbD (va % 1024))

/-- Whether a link is under test on the way of an access: from its core's tile to the tile that serves it, and from there to
the memory home where the slice does not hold the byte; an access to host memory goes to its home (R317, R386, R393). -/
def State.wayTested (s : State) (ag : Agent) (va : Nat) : Bool :=
  let d := s.servedAt ag va
  let inside := decide (ag.tile < 1536)
  if regionOf va = 5 then inside && s.routeBusy .bulk ag.tile (homeOfVa va)
  else (inside && s.routeBusy .bulk ag.tile d)
    || (decide (regionOf va ≤ 3) && !s.inSlice ag va && s.routeBusy .bulk d (homeOfVa va))

/-- Whether the array banks of a tile, its LLC slice and weight store, are under test, or the path to it (R386). -/
def State.pathBusy (s : State) (ag : Agent) (va : Nat) : Bool :=
  let d := s.servedAt ag va
  (decide (regionOf va ≠ 7) && decide (regionOf va ≠ 5) && s.mg.selfTests.any (fun x => x.1 == .array && x.2.1 == d))
    || s.wayTested ag va

/-- Whether an atomic at a scope must wait for the test of a link on its way to the fabric port of its home (R208, R386,
R393). -/
def State.portBusy (s : State) (ag : Agent) (scope va : Nat) : Bool :=
  scope == 3 && decide (regionOf va ≤ 3) && decide (ag.tile < 1536) && s.routeBusy .bulk ag.tile (homeOfVa va)

/-- Whether the plate of a scratchpad byte is under test (R386). -/
def State.plateBusy (s : State) (t ofs : Nat) : Bool :=
  s.mg.selfTests.any (fun x => x.1 == .plate && x.2.1 == t && x.2.2.1 / 2 ^ 31 == ofs / 4096)

/-- Whether a byte must wait for a unit of the part: a plate, an array bank or a link under test, a block under swap or test,
or the write-back of the sector whose place it takes (R322, R386). -/
def State.unitBusy (s : State) (ag : Agent) (va : Nat) : Bool :=
  (!s.mg.selfTests.isEmpty && s.pathBusy ag va) ||
  (if regionOf va = 7 then
    match s.windowLoc ag va with
    | .spad t ofs => s.plateBusy t ofs
    | _ => false
  else
    decide (regionOf va ≤ 3) &&
      (match s.xlate ag.slot va with
       | none => false
       | some (p, _) => s.blockBusy (blockNum p)
          || s.roomBusy (s.servedAt ag va) (s.slot ag.slot).asid (sectorOf va)))

/-- The location of a byte that has passed its checks. -/
def State.locOf (s : State) (ag : Agent) (va : Nat) : Loc :=
  if regionOf va = 7 then s.windowLoc ag va
  else if regionOf va = 6 then .ws ((s.slot ag.slot).devTile (ag.target va)) (bits va 0 24)
  else
    match s.xlate ag.slot va with
    | none => .host 0
    | some (p, l) => if l.host then .host p else .dev p (s.slot ag.slot).asid va

/-- Steps 4 to 6 of R180, each over every byte before the next: the locations, a trap, a fault on the lowest faulting
address, or a wait. -/
def State.locate (s : State) (ag : Agent) (write o : Bool) (e : Nat) (l : List Nat) : Except Stop (List Loc) := do
  let j := s.slot ag.slot
  checkAll l (step4 j) .addr
  checkAll l (fun a => step5 j (physVa o e a)) .perm
  s.windows ag l
  checkAll l (fun a => write || regionOf a != 6 || !s.wsExpired ag a) .wsExpired
  match (l.filter (fun a => !s.permits ag write (physVa o e a))).min? with
  | some a => .error (.fault (BitVec.ofNat 64 a) write)
  | none =>
    checkAll l (fun a => !s.lostAt ag (physVa o e a)) .memLost
    ready (l.all (fun a => !s.unitBusy ag (physVa o e a)))
    .ok (l.map (fun a => s.locOf ag (physVa o e a)))

/-- Steps 1 to 3 of R180; `al` is the alignment check of the instruction. -/
def preCheck (o : Bool) (l : List Nat) (al : Except Stop Unit) : Except Stop Unit := do
  checkAll l step1 .addr
  checkAll l (step2 o) .addr
  al

/-- The checks of R180 in order: steps 1 to 3 on the addresses `pre`, the others on the bytes `l`. -/
def State.access (s : State) (ag : Agent) (write o : Bool) (e : Nat) (pre l : List Nat) (al : Except Stop Unit) :
    Except Stop (List Loc) := do
  preCheck o pre al
  checkAll l (stepW write) .wsWrite
  s.locate ag write o e l

/-- The addresses of `n` bytes from an address (R155). -/
def span (ea : Word) (n : Nat) : List Nat := (List.range n).map (fun i => (ea + BitVec.ofNat 64 i).toNat)

/-- An alignment check of an address. -/
def aligned (ea : Word) (n : Nat) : Except Stop Unit := need (ea.toNat % n == 0) .align ea

/-! Scopes (R205 to R207). -/

/-- Whether a core lies in a scope entry of its job (R207). -/
def State.scopeHas (s : State) (ag : Agent) (n : Nat) : Bool :=
  decide (n < 4) ||
    (match aget (s.slot ag.slot).scopes n with
     | none => false
     | some m => ((aget m ag.jt).getD 0).getLsbD ag.core)

/-- The scope check of R207: `sync` is an ordered access, an atomic or a reduction, `host` one to
region 5. -/
def State.scopeCheck (s : State) (sync : Bool) (n : Nat) (host : Bool) : Except Stop Unit := do
  need (s.scopeHas s.agent n) .scope (BitVec.ofNat 64 n)
  need (!(sync && host && n != 3)) .scope (BitVec.ofNat 64 n)

/-- Whether an address lies in the host-memory window. -/
def atHost (ea : Word) : Bool := regionOf ea.toNat == 5

/-! Reading and writing bytes. -/

/-- The image area of a job tile. -/
def Slot.image (j : Slot) (jt : Nat) : Image :=
  (aget j.images jt).getD Image.empty

/-- The byte at a location. -/
def State.readLoc (s : State) : Loc → Byte
  | .spad t ofs => memGet (s.tile t).spad ofs
  | .image j jt ofs => memGet ((s.slot j).image jt).spad ofs
  | .ws t ofs => memGet (s.tile t).ws ofs
  | .dev p _ _ | .raw p => memGet s.mem p
  | .host _ => 0

/-! LLC slices (R319, R320). -/

/-- A slice after an access to a sector that it homes: the bytes that the access fills, and those of them that it writes. -/
def touchSlice (l : List SecFrame) (asid sec : Nat) (filled mask : BitVec 1024) (r w : Bool) : List SecFrame :=
  match l.find? (fun f => f.holds asid sec) with
  | some f => { f with valid := f.valid ||| filled, dirty := f.dirty ||| mask } :: l.filter (fun g => !g.holds asid sec)
  | none => ⟨asid, sec, filled, mask, r, w, none⟩ :: sliceRoom l asid sec

/-- R and W of the page that holds an address. -/
def State.pagePerm (s : State) (asid va : Nat) : Bool × Bool :=
  match s.mg.maps.find? (fun m => m.asid.toNat == asid && decide (m.va.toNat % 2 ^ 52 ≤ va % 2 ^ 52)
      && decide (va % 2 ^ 52 < m.va.toNat % 2 ^ 52 + (if m.large then 2 ^ 29 else 2 ^ 16))) with
  | some m => (m.r, m.w)
  | none => (true, true)

/-- Bytes come into the home slice of an address, some of them written. -/
def State.fillSlice (s : State) (asid va : Nat) (filled mask : BitVec 1024) : State :=
  let d := s.sliceOf asid va
  let t := s.tile d
  let p := s.pagePerm asid va
  s.setTile d { t with slice := touchSlice t.slice asid (sectorOf va) filled mask p.1 p.2 }

/-- An access at HOME passes through the home slice of its address: `mask` is the bytes written, none for a read, which
fills the sector. -/
def State.touchSector (s : State) (asid va : Nat) (mask : BitVec 1024) : State :=
  s.fillSlice asid va (if mask = 0 then BitVec.allOnes 1024 else mask) mask

/-- A read at HOME fills the sectors of its bytes. -/
def State.touchReads (s : State) (locs : List Loc) : State :=
  let secs := locs.filterMap (fun l => match l with
    | .dev _ asid va => some (asid, va / 1024 * 1024)
    | _ => none)
  secs.eraseDups.foldl (fun (u : State) p => u.touchSector p.1 p.2 0) s

/-! Writing. -/

/-- Writes the byte at a location: a scratchpad granule becomes dirty (R90), a sector of device memory is held by its home
slice (R319). Nothing writes host memory here. -/
def State.writeLoc (s : State) (l : Loc) (b : Byte) : State :=
  match l with
  | .spad t ofs =>
    let x := s.tile t
    s.setTile t { x with spad := memSet x.spad ofs b, granules := sinsert x.granules (ofs / 256) }
  | .image j jt ofs =>
    let x := s.slot j
    let i := x.image jt
    s.setSlot j { x with images := aset x.images jt { i with spad := memSet i.spad ofs b } }
  | .ws t ofs =>
    let x := s.tile t
    s.setTile t { x with ws := memSet x.ws ofs b }
  | .dev p asid va => ({ s with mem := memSet s.mem p b } : State).touchSector asid va (BitVec.ofNat 1024 (2 ^ (va % 1024)))
  | .raw p => { s with mem := memSet s.mem p b }
  | .host _ => s

/-- Writes bytes at locations, in order. -/
def State.writeLocs (s : State) : List (Loc × Byte) → State
  | [] => s
  | p :: t => (s.writeLoc p.1 p.2).writeLocs t

/-- The agent of a context. -/
def State.agentOf (s : State) (i : CtxId) : Agent :=
  let c := s.ctx i
  ⟨c.slot, c.jtile, i.tile, i.core, c.waited⟩

/-- The key of a byte in the record: one key for one byte, whether its scratchpad is live or in an image. -/
def State.keyOf (s : State) : Loc → Nat
  | .spad t ofs => 2 ^ 60 + (((s.tile t).holder.getD 64) * 2048 + (s.tile t).jtile) * 2 ^ 21 + ofs
  | .image j jt ofs => 2 ^ 60 + (j * 2048 + jt) * 2 ^ 21 + ofs
  | .ws t ofs => 2 ^ 62 + t * 2 ^ 24 + ofs
  | .dev p _ _ | .raw p => p
  | .host h => 2 ^ 63 + h

/-- The newest event of a byte. -/
def Record.top (r : Record) (k : Nat) : Option (Nat × Nat) :=
  (r.log.find? (fun e => e.hits [k])).map (fun e => (e.num, k))

/-- What a watch finds once VALUE has reached its n (R220): VALUE, and the events it came from; none before. -/
def State.watchReached (s : State) (w : Watch) : Option (Word × Seen) :=
  match s.locate (s.agentOf w.owner) false false 1 (span w.va 8) with
  | .ok l =>
    let v := leNat (l.map s.readLoc)
    if w.n.toNat ≤ v then some (BitVec.ofNat 64 v, l.filterMap (fun x => s.record.top (s.keyOf x))) else none
  | .error _ => none

/-- Compares every watch after writes have performed: one whose n is reached is freed and its `cwait` has its answer
(R220). -/
def State.respond (s : State) : State :=
  let done := (s.tiles.flatMap (fun p => p.2.watches)).filterMap (fun w => (s.watchReached w).map (fun a => (w.owner, a)))
  let u := { s with tiles := s.tiles.map (fun p =>
    (p.1, { p.2 with watches := p.2.watches.filter (fun w => (s.watchReached w).isNone) })) }
  done.foldl (fun (t : State) d => t.setCtx d.1 { t.ctx d.1 with wait := .answered d.2.1 d.2.2 }) u

/-- Writes bytes that perform, and compares the watches. -/
def State.store (s : State) (l : List (Loc × Byte)) : State := (s.writeLocs l).respond

/-! Accesses through the record (R191 to R211). -/

/-- A byte as the record knows it: its key and what memory holds. -/
def State.cellAt (s : State) (l : Loc) : Host.Cell := (s.keyOf l, s.readLoc l)

/-- The units of an access, `n` bytes each (R196, R197). -/
def chunksOf {α : Type} (n : Nat) : Nat → List α → List (List α)
  | 0, _ => []
  | _, [] => []
  | k + 1, l => l.take n :: chunksOf n k (l.drop n)

/-- The units of a list of bytes. -/
def chunks {α : Type} (n : Nat) (l : List α) : List (List α) := chunksOf (Nat.max 1 n) l.length l

/-- The units of the bytes of an access, each with its address: pieces of `n` bytes, single-copy atomic where they are
aligned to their size, and single bytes where they are not (R196, R197). -/
def unitsOf {α : Type} (n : Nat) (l : List (Nat × α)) : List (List (Nat × α)) :=
  (chunks n l).flatMap (fun u =>
    match u with
    | p :: _ => if p.1 % Nat.max 1 n = 0 then [u] else u.map (fun q => [q])
    | [] => [])

/-- ORD and scope of an access of an agent; the address of each unit gives the class (`Attr.at`). -/
def attrOf (ag : Agent) (ord : MemOrd) (scope : Nat) : Attr :=
  { ag, scope
    acq := ord == .acq || ord == .sc
    rel := ord == .rel || ord == .sc
    sc := ord == .sc
    loose := ord == .plain }

/-- The attributes of an access of the executing context. -/
def State.attr (s : State) (ord : MemOrd) (scope : Nat) : Attr := attrOf s.agent ord scope

/-- Reads bytes as an agent that has seen `v`, with the attributes of its access: the bytes, the events that they came from,
and the state, whose slices the read has passed through. -/
def State.readAs (s : State) (a : Attr) (v : Seen) (units : List (List Loc)) : List Byte × Seen × State :=
  if !s.record.keep then (units.flatten.map s.readLoc, [], s.touchReads units.flatten)
  else
    let us := units.map (fun u => ((fun (e : WriteEvent) => !s.scPair (a.at u) e.attr), u.map s.cellAt))
    let got := s.record.readUnits v s.record.choices us
    (got.map Prod.fst, ((us.map Prod.snd).flatten.zip got).filterMap (fun p => p.2.2.map (fun n => (n, p.1.1))),
      s.touchReads units.flatten)

/-- The execution point of an access from outside to a byte by its DPA: the home slice of the page that maps it; where none
does, the fabric port by which it comes (R217, R390). -/
def State.rawPoint (s : State) (p : Nat) : Point :=
  match s.mg.maps.find? (fun m => m.evicted.isNone && regionOf m.va.toNat != 5 && decide (m.frame ≤ p)
      && decide (p < m.frame + m.size)) with
  | some m => .home (s.sliceOf m.asid.toNat (m.va.toNat + (p - m.frame)))
  | none => .port (fold6 (p / 4096))

/-- The execution point of a byte (R208): a scope-3 atomic performs at the fabric port of its home. -/
def State.pointOf (s : State) (atomic : Bool) (scope : Nat) : Loc → Point
  | .spad t _ => .tile t
  | .image j jt _ => .tile ((s.slot j).devTile jt)
  | .ws t _ => .slice t
  | .dev p asid va => if atomic && scope == 3 then .port (fold6 (p / 4096)) else .home (s.sliceOf asid va)
  | .raw p => if atomic && scope == 3 then .port (fold6 (p / 4096)) else s.rawPoint p
  | .host _ => .hostPort

/-- What the writes of an agent carry for acquires: its release fences, and what a release of it passes on (R201, R204). -/
structure Passing where
  fences : List Release
  pub : Seen

/-- The releases that a write of the given attributes carries. -/
def Passing.rels (p : Passing) (a : Attr) : List Release := p.fences ++ (if a.rel then [⟨a.ag, a.scope, p.pub⟩] else [])

/-- One unit of a write performs, as part of the access numbered `whole`: where it stands in coherence order is the
schedule's choice, below no event that the writer has seen and apart from no read-modify-write; memory takes the bytes that
no newer event overwrites. -/
def State.emit (s : State) (a : Attr) (kind : EventKind) (v : Seen) (pass : Passing) (whole choice : Nat)
    (unit : List (Loc × Byte)) : Seen × State :=
  let a := a.at (unit.map Prod.fst)
  let keys := unit.map (fun p => s.keyOf p.1)
  let r := s.record
  let may (e : WriteEvent) : Bool :=
    !e.hits keys || ((kind == .write || kind == .engine) && e.kind != .wide && !e.seenAt v keys && !s.scPair a e.attr)
  let n := passable r.log may (besideRmw r.log keys) choice
  let point := match unit with
    | p :: _ => s.pointOf false a.scope p.1
    | [] => .hostPort
  let e : WriteEvent :=
    ⟨s.nextId, whole, kind, a, point, pass.rels a, unit.map (fun p => (s.keyOf p.1, p.2))⟩
  let s1 := s.writeLocs (unit.filter (fun p => r.fresh n (fun _ => true) (s.keyOf p.1)))
  (keys.map (fun k => (s.nextId, k)),
    { s1 with nextId := s.nextId + 1, record := r.put e n (fun _ => true) (unit.map (fun p => s.cellAt p.1)) })

/-- The units of a write perform, each at its own place, a later one below no earlier one of the same bytes (R183). -/
def State.emitUnits (s : State) (a : Attr) (kind : EventKind) (v : Seen) (pass : Passing) (whole : Nat) :
    List (Nat × Nat) → List (List (Loc × Byte)) → Seen × State
  | _, [] => ([], s)
  | cs, u :: t =>
    let (p, s1) := s.emit a kind v pass whole (cs.headD (0, 0)).1 u
    let (q, s2) := s1.emitUnits a kind (Seen.join v p) pass whole cs.tail t
    (p ++ q, s2)

/-- The accesses of an instruction perform one after the other; the units of one make up one write (R201). -/
def State.emitAll (s : State) (a : Attr) (kind : EventKind) (v : Seen) (pass : Passing) :
    List (Nat × Nat) → List (List (List (Loc × Byte))) → Seen × State
  | _, [] => ([], s)
  | cs, x :: t =>
    let (p, s1) := s.emitUnits a kind v pass s.nextId cs x
    let (q, s2) := s1.emitAll a kind (Seen.join v p) pass (cs.drop x.length) t
    (p ++ q, s2)

/-- Writes bytes as an agent that has seen `v`, access by access, each in its units, with a choice of place for each unit:
the events it made, and the state. -/
def State.writeAs (s : State) (a : Attr) (kind : EventKind) (v : Seen) (pass : Passing) (cs : List (Nat × Nat))
    (accs : List (List (List (Loc × Byte)))) : Seen × State :=
  if !s.record.keep then ([], s.store accs.flatten.flatten)
  else
    let (p, s1) := s.emitAll a kind v pass cs accs
    (p, s1.respond)

/-- Whether an event is a read-modify-write of another execution point, which one at this point may not have met (R209,
R233). -/
def WriteEvent.elsewhere (e : WriteEvent) (p : Point) : Bool := e.kind == .rmw && e.point != p

/-- What a read-modify-write came to: the old value, the events its read returned and those it made, and the state. -/
structure Rmw where
  old : Nat
  got : Seen
  made : Seen
  after : State

/-- A read-modify-write at its execution point (R191, R209, R233): its read may miss the events of other points, and its
write then stands, byte by byte, above or below them. `f` gives the new bytes from the old value; none only reads.
`atomic` is whether scope 3 takes it to the fabric port (R208). -/
def State.rmwAs (s : State) (atomic : Bool) (a : Attr) (v : Seen) (pass : Passing) (locs : List Loc)
    (f : Nat → Option (List Byte)) : Rmw :=
  let a := a.at locs
  if !s.record.keep then
    let x := leNat (locs.map s.readLoc)
    ⟨x, [], [], match f x with
      | some bs => s.store (locs.zip bs)
      | none => s.touchReads locs⟩
  else
    let r := s.record
    let cells := locs.map s.cellAt
    let keys := cells.map Prod.fst
    let p := match locs with
      | l :: _ => s.pointOf atomic a.scope l
      | [] => .hostPort
    let may (e : WriteEvent) : Bool :=
      !e.hits keys || (e.elsewhere p && !e.seenAt v keys && !s.scPair a e.attr)
    let c := r.choices.headD (0, 0)
    let n := passable r.log may (fun _ => true) c.1
    let es := cells.map (fun x => (eventAt r.log v n false x.1, x))
    let x := leNat (es.map (fun q => r.byteOf q.1 q.2.1 q.2.2))
    let got := es.filterMap (fun q => q.1.map (fun e => (e.num, q.2.1)))
    match f x with
    | none => ⟨x, got, [], s.touchReads locs⟩
    | some bs =>
      let unit := locs.zip bs
      let low (k : Nat) : Bool := keys.zipIdx.any (fun q => q.1 == k && c.2.testBit q.2)
      let e : WriteEvent := ⟨s.nextId, s.nextId, .rmw, a, p, pass.rels a, unit.map (fun q => (s.keyOf q.1, q.2))⟩
      let s1 := s.writeLocs (unit.filter (fun q => r.fresh n low (s.keyOf q.1)))
      let s2 := { s1 with nextId := s.nextId + 1, record := r.put e n low (cells.take unit.length) }
      ⟨x, got, (keys.take unit.length).map (fun k => (s.nextId, k)), s2.respond⟩

/-! The executing context's own view. -/

/-- What the writes of the executing context carry for acquires. -/
def State.passing (s : State) : Passing := ⟨s.me.view.fences, s.me.view.pub⟩

/-- Whether an event is a plain write in region 2 (R200). -/
def Record.isLoose (r : Record) (p : Nat × Nat) : Bool := r.log.any (fun e => e.num == p.1 && e.attr.loose)

/-- A view after a read made up of accesses, given by their bytes with the attributes of their units, which returned `got`:
it may return to no older value of these bytes, and each access that acquires synchronises with the releases that it met
(R195, R201, R343). -/
def State.viewRead (s : State) (v : View) (a : Attr) (accs : List (List Loc)) (got : Seen) : View :=
  let loose := (accs.flatten.filter (fun l => (a.at [l]).loose)).map s.keyOf
  let v := v.learn (fun p => loose.contains p.2) got
  let v := { v with reads := Seen.join v.reads got }
  let met (acc : List Loc) : List Release :=
    let keys := (acc.filter (fun l => (a.at [l]).acq)).map s.keyOf
    if keys.isEmpty then [] else s.heard a.ag a.scope (s.record.met keys (got.filter (fun p => keys.contains p.2)))
  v.acquire (accs.flatMap met)

/-- The executing context has read. -/
def State.learnRead (s : State) (a : Attr) (accs : List (List Loc)) (got : Seen) : State :=
  if !s.record.keep then s else s.setMe { s.me with view := s.viewRead s.me.view a accs got }

/-- The executing context has made events. -/
def State.learnWrite (s : State) (made : Seen) : State :=
  if !s.record.keep then s else s.setMe { s.me with view := s.me.view.learn s.record.isLoose made }

/-- A read of the executing context, access by access, each in its units. -/
def State.observe (s : State) (a : Attr) (accs : List (List (List Loc))) : List Byte × State :=
  let (bs, got, s1) := s.readAs a s.me.view.own accs.flatten
  (bs, s1.learnRead a (accs.map List.flatten) got)

/-- A read-modify-write of the executing context, or the read that it is when it writes nothing: the old value and the
state after. -/
def State.atomically (s : State) (a : Attr) (locs : List Loc) (f : Nat → Option (List Byte)) : Nat × State :=
  let r := s.rmwAs true a s.me.view.own s.passing locs f
  (r.old, (r.after.learnRead a [locs] r.got).learnWrite r.made)

/-! Fences (R204). -/

/-- An acquire fence: every earlier read and read-modify-write, in every region, comes before what follows, and so do the
releases that they met (R204). That plain reads in region 2 are among them follows the table of R204; the list of R200 does
not name the acquire fence (notes/assumptions/50.md). -/
def State.fenceAcquires (s : State) (scope : Nat) : State :=
  let c := s.me
  let rs := s.record.met (c.view.reads.map Prod.snd).eraseDups c.view.reads
  s.setMe { c with view := (c.view.meet c.view.reads).acquire (s.heard s.agent scope rs) }

/-- A release fence: every access before it comes before the writes after it (R204). -/
def State.fenceReleases (s : State) (scope : Nat) : State :=
  let c := s.me
  let v := c.view.flush
  s.setMe { c with view := { v with fences := v.fences ++ [⟨s.agent, scope, v.pub⟩] } }

/-- A full fence takes its place in the sc order after those already there (R203). -/
def State.fenceOrders (s : State) (scope : Nat) : State :=
  let c := s.me
  let v := c.view.acquire (s.heard s.agent scope s.record.fences)
  let s1 := s.setMe { c with view := v }
  { s1 with record := { s1.record with fences := s1.record.fences ++ [⟨s.agent, scope, v.own⟩] } }

/-- A full fence: both of these, and its place in the sc order. -/
def State.fenceFull (s : State) (scope : Nat) : State := ((s.fenceAcquires scope).fenceReleases scope).fenceOrders scope

/-- Everything that the record holds, as seen: what firmware and the starts of activations take (R213). -/
def State.allSeen (s : State) : Seen := s.record.log.flatMap (fun e => e.cells.map (fun c => (e.num, c.1)))

/-- The attributes of a write by an agent outside the contexts: plain, at scope 3. -/
def plainAttr (ag : Agent) : Attr := ⟨ag, false, false, false, 3, false⟩

/-- A write by Tueno or by an event of the part: it stands on top. -/
def State.storeTop (s : State) (ag : Agent) (units : List (List (Loc × Byte))) : State :=
  (s.writeAs (plainAttr ag) .write [] ⟨[], []⟩ [] (units.map (fun u => [u]))).2

/-- Memory changes under firmware: the record begins anew, and every agent reads what memory holds. -/
def State.settle (s : State) : State :=
  { s with record := { s.record with log := [], base := [], fences := [], performed := [] } }

/-- The record forgets what it knew of some bytes: every agent reads what memory holds of them. -/
def State.settleAt (s : State) (keys : Nat → Bool) : State :=
  let log := s.record.log.map (fun e => { e with cells := e.cells.filter (fun c => !keys c.1) })
  { s with record := { s.record with
      log := log.filter (fun e => !e.cells.isEmpty), base := s.record.base.filter (fun c => !keys c.1) } }

/-- The part that a schedule's turn sets (R195 to R211). -/
def State.reorder (s : State) (keep : Bool) (choices : List (Nat × Nat)) : State :=
  let s1 := if keep then s else s.settle
  { s1 with record := { s1.record with keep, choices } }

/-! The order of one context's own accesses (R195, R198, R210, R214). -/

/-- A key that two addresses of one byte share, whichever alias and view names it. -/
def byteKey (ag : Agent) (o : Bool) (e va : Nat) : Nat :=
  let p := physVa o e va
  if regionOf p = 7 then 2 ^ 54 + ag.target p * 2 ^ 21 + bits p 0 21 else p % 2 ^ 52

/-- The bytes that a pending update touches. -/
def Posted.keys (p : Posted) : List Nat :=
  let ag : Agent := ⟨p.slot, p.jtile, p.owner.tile, p.owner.core, p.waited⟩
  match p.upd with
  | .store o e _ _ cells => cells.map (fun c => byteKey ag o e c.1)
  | .packed ws => ws.flatMap (fun w => (span (BitVec.ofNat 64 w.1) 4).map (byteKey ag false 1))
  | .rmw _ n va _ => (span va n).map (byteKey ag false 1)
  | .grid va _ => (span va 16).map (byteKey ag false 1)
  | .arrive va => (span va 8).map (byteKey ag false 1)

/-- Wide-accumulator events of the executing context that touch a byte of its tile's scratchpad. -/
def State.ownWide (s : State) (ofs : Nat) : Bool :=
  s.myTile.wide.any (fun w => w.owner == s.cur && decide (w.ofs ≤ ofs) && decide (ofs < w.ofs + 80))

/-- Whether a load of the executing context that has yet to take its value reads one of the bytes (R195). -/
def State.onLate (s : State) (keys : List Nat) : Bool :=
  s.late.any (fun x => x.owner == s.cur && x.keys.any (fun k => keys.contains k))

/-- Whether an access of the context must wait for one of its own earlier accesses of the same bytes (R195, R214, R152). -/
def State.blocked (s : State) (o : Bool) (e : Nat) (l : List Nat) : Bool :=
  let ag := s.agent
  s.onLate (l.map (byteKey ag o e)) || (s.ownPosted.any (fun p => p.keys.any (fun k => (l.map (byteKey ag o e)).contains k)))
    || l.any (fun a => regionOf a == 7 && ag.target a == ag.jt && s.ownWide (bits (physVa o e a) 0 21))

/-- Whether an access of the context in region 0 has left it and has not performed: every later access waits (R198 case a,
R199, R214). -/
def State.strongPending (s : State) : Bool :=
  s.ownPosted.any (fun p => match p.upd with
    | .store _ _ _ _ cells => cells.any (fun c => regionOf c.1 == 0)
    | .packed ws => ws.any (fun w => regionOf w.1 == 0)
    | .rmw _ _ va _ => regionOf va.toNat == 0
    | .grid .. | .arrive _ => false)

/-- Whether the executing context has a request to the host that it waits for. -/
def State.asking (s : State) : Bool := s.hostReqs.any (fun r => r.owner == s.cur && r.gen == s.me.gen && r.via == s.via && !r.posted)

/-- Asks the host for something and waits for the answer. -/
def State.askHost {α : Type} (s : State) (va hpa : Nat) (op : HostOp) : Except Stop α :=
  if s.asking then .error .stall else .error (.ask va hpa op)

/-- Waits behind earlier host writes with a zero-length read, for the instruction at the address `va` (R391). -/
def State.flushHost (s : State) (va : Word) : Except Stop Unit :=
  if s.me.hostWrote then s.askHost va.toNat 0 .flush else .ok ()

/-- Whether every FetchAdd that a reduction of the executing context sent to the host has returned (R228, R235). -/
def State.hostRmwsDone (s : State) : Bool :=
  !s.hostReqs.any (fun r => r.owner == s.cur && r.gen == s.me.gen && r.via == .self && r.group.isSome)

/-- What a release at a scope waits for (R198, R214, R217, R228): all earlier updates of the context have performed. Those of an
`hgs` are among them here, though R344 gives them no order toward later accesses but that of its arrival
(notes/assumptions/22.md). -/
def State.release (s : State) (scope : Nat) (va : Word) : Except Stop Unit := do
  ready (s.drained && s.hostRmwsDone)
  if scope = 3 then s.flushHost va else .ok ()

/-- The byte of an answer from the host that covers an address. -/
def answerByte (got : Assoc (List Byte)) (a : Nat) : Option Byte :=
  match got.find? (fun p => decide (p.1 ≤ a) && decide (a < p.1 + p.2.length)) with
  | some p => p.2[a - p.1]?
  | none => none

/-- Whether a byte lies in host memory. -/
def Loc.atHost : Loc → Bool
  | .host _ => true
  | _ => false

/-- The first block of 128 bytes of host memory without an answer: its address, its host address, its length (R391). -/
def hostNeed (got : Assoc (List Byte)) (l : List (Nat × Loc)) : Option (Nat × Nat × Nat) :=
  let hosts := l.filterMap (fun p => match p.2 with
    | .host h => some (p.1, h)
    | _ => none)
  (hosts.find? (fun p => (answerByte got p.1).isNone)).map (fun p =>
    let blk := hosts.filter (fun q => q.1 / 128 == p.1 / 128)
    let lo := blk.foldl (fun m q => if q.1 < m.1 then q else m) p
    let hi := blk.foldl (fun m q => Nat.max m q.1) p.1
    (lo.1, lo.2, hi + 1 - lo.1))

/-- Puts bytes read from the part into the places that other bytes leave open. -/
def weave : List (Option Byte) → List Byte → List Byte
  | [], _ => []
  | some b :: t, r => b :: weave t r
  | none :: t, r => r.headD 0 :: weave t r.tail

/-- The accesses of `acc` bytes of a read, each in its units, in so far as the part itself holds the bytes. -/
def ownUnits (acc unit : Nat) (skip : Nat × Loc → Bool) (l : List (Nat × Loc)) : List (List (List Loc)) :=
  (chunks acc l).map (fun x => (unitsOf unit x).map (fun u => (u.filter (fun p => !p.2.atHost && !skip p)).map Prod.snd))

/-- Bytes for an agent that has seen `v`, byte by byte, those of host memory from the host's answers: the bytes, the events
they came from and the state; or what the host must still answer. -/
def State.bytesAs (s : State) (a : Attr) (got : Assoc (List Byte)) (v : Seen) (l : List (Nat × Loc)) :
    Except (Nat × Nat × Nat) (List Byte × Seen × State) :=
  match hostNeed got l with
  | some x => .error x
  | none =>
    let (bs, seen, s1) := s.readAs a v (ownUnits 1 1 (fun _ => false) l).flatten
    .ok (weave (l.map (fun p => if p.2.atHost then some ((answerByte got p.1).getD 0) else none)) bs, seen, s1)

/-! Replicas (R215, R320). -/

/-- Whether a `.rep` read uses replicas: a plain read in region 1, 2 or 3 by a member of a launch. -/
def State.usesReplica (s : State) (rep plain : Bool) (va : Nat) : Bool :=
  rep && plain && decide (1 ≤ regionOf va) && decide (regionOf va ≤ 3) && s.me.launch.isSome

/-- Whether a frame is the replica of a sector that serves a launch. -/
def SecFrame.serves (f : SecFrame) (slot launch sec : Nat) : Bool :=
  f.sec == sec && (match f.replica with
    | some r => r.slot == slot && r.launch == launch
    | none => false)

/-- The replica of a sector that serves a launch. -/
def Tile.replica (t : Tile) (slot launch sec : Nat) : Option Replica :=
  (t.slice.find? (fun f => f.serves slot launch sec)).bind (fun f => f.replica)

/-- The frame of a replica becomes the most recently used. -/
def Tile.useReplica (t : Tile) (slot launch sec : Nat) : Tile :=
  { t with slice := t.slice.filter (fun f => f.serves slot launch sec)
      ++ t.slice.filter (fun f => !f.serves slot launch sec) }

/-- Uses the replica of a sector for the executing context's launch, filled where it has none (R215, R320). -/
def State.fillReplica (s : State) (va : Nat) : State :=
  let c := s.me
  let l := c.launch.getD 0
  let t := s.myTile
  let sec := sectorOf va
  match t.replica c.slot l sec with
  | some _ => s.setTile s.cur.tile (t.useReplica c.slot l sec)
  | none =>
    let base := va / 1024 * 1024
    let asid := (s.slot c.slot).asid
    let data := match s.xlate c.slot base with
      | some (p, _) => (List.range 1024).map (fun i => memGet s.mem (p + i))
      | none => []
    let p := s.pagePerm asid va
    let f : SecFrame := ⟨asid, sec, BitVec.allOnes 1024, 0, p.1, p.2, some ⟨c.slot, l, data⟩⟩
    s.setTile s.cur.tile { t with slice := f :: sliceRoom t.slice asid sec }

/-- A byte of the executing context's replica. -/
def State.replicaByte (s : State) (va : Nat) : Byte :=
  match s.myTile.replica s.me.slot (s.me.launch.getD 0) (sectorOf va) with
  | some r => r.data.getD (va % 1024) 0
  | none => 0

/-- The bytes of replicas, each sector filled where the launch has none; none where a byte takes no replica. -/
def State.replicaBytes (s : State) (use : Nat → Bool) : List Nat → List (Option Byte) × State
  | [] => ([], s)
  | a :: t =>
    if use a then
      let s1 := s.fillReplica a
      let (bs, s2) := s1.replicaBytes use t
      (some (s1.replicaByte a) :: bs, s2)
    else
      let (bs, s2) := s.replicaBytes use t
      (none :: bs, s2)

/-! Loads and stores of a context. -/

/-- The event of a byte of host memory from which an answer of the host comes: the newest that wrote the byte's value (R217;
notes/assumptions/3.md). -/
def State.hostEvent (s : State) (p : Nat × Byte) : Option (Nat × Nat) :=
  (s.record.log.find? (fun e => e.cells.contains p)).map (fun e => (e.num, p.1))

/-- The events from which answers of the host come. -/
def State.hostEvents (s : State) (l : List (Nat × Loc)) : Seen :=
  l.filterMap (fun p => if p.2.atHost then s.hostEvent (s.keyOf p.2, (answerByte s.answers p.1).getD 0) else none)

/-- Notes the bytes that an instruction on trial reads; one that reads bytes which it cannot read later, through a replica or
outside regions 1, 2, 3 and 7, is noted as none. -/
def State.traced (s : State) (later : Bool) (keys : List Nat) : State :=
  match s.record.trace with
  | none => s
  | some ks => { s with record := { s.record with trace := if later then some (ks ++ keys) else none } }

/-- Reads the bytes of a load after its checks, as accesses of `acc` bytes in units of `unit` bytes (R196, R197, R201):
through replicas where R215 says so, byte by byte, else where they lie. -/
def State.loadBytes (s : State) (a : Attr) (rep plain o : Bool) (e acc unit : Nat) (l : List Nat) (locs : List Loc) :
    Except Stop (List Byte × State) := do
  ready (!s.blocked o e l && !s.strongPending)
  let use (va : Nat) : Bool := s.usesReplica rep plain va
  ready (!l.any (fun a => use a && s.roomBusy s.cur.tile s.mySlot.asid (sectorOf a)))
  let at_ := l.zip locs
  match hostNeed s.answers at_ with
  | some (va, h, n) => s.askHost va h (.read n)
  | none =>
    let later := l.all (fun a => (decide (1 ≤ regionOf a) && decide (regionOf a ≤ 3) || regionOf a == 7) && !use a)
    let s0 := s.traced later (l.map (byteKey s.agent o e))
    let (bs, got, s1) := s0.readAs a s.me.view.own (ownUnits acc unit (fun p => use p.1) at_).flatten
    let s2 := s1.learnRead a ((chunks acc at_).map (fun x => (x.filter (fun p => !use p.1)).map Prod.snd))
      (got ++ (if s.record.keep then s.hostEvents at_ else []))
    let (rs, s3) := s2.replicaBytes use (l.map (physVa o e))
    .ok (weave ((at_.zip rs).map (fun q =>
      if q.1.2.atHost then some ((answerByte s.answers q.1.1).getD 0) else q.2)) bs, s3)

/-- The size of the single-copy atomic units of an access of `n` bytes at an address: the view element under the column view,
else the whole where it is aligned; a misaligned access has none (R196, R197). -/
def unitSize (o : Bool) (e n va : Nat) : Nat := if va % n != 0 then 1 else if o then e else n

/-- Whether an update of a context numbered below `n` has still to perform (R213, R272). -/
def State.pendingBelow (s : State) (owner : CtxId) (gen : BitVec 16) (slot jt n : Nat) : Bool :=
  let t := s.tile owner.tile
  (t.posted ++ t.sideLog ++ ((s.slot slot).image jt).sideLog).any
      (fun p => p.owner == owner && p.gen == gen && p.slot == slot && p.jtile == jt && decide (p.group < n))
    || t.wide.any (fun w => w.owner == owner && decide (w.num < n))

/-- A fresh group number. -/
def State.freshGroup (s : State) : Nat × State := (s.nextId, { s with nextId := s.nextId + 1 })

/-- The addresses that an update names. -/
def Update.addrs : Update → List Nat
  | .store _ _ _ _ cells => cells.map Prod.fst
  | .packed ws => ws.map Prod.fst
  | .rmw _ _ va _ | .grid va _ | .arrive va => [va.toNat]

/-- Whether an update is a store. -/
def Update.isStore : Update → Bool
  | .store .. | .packed _ => true
  | _ => false

/-- The events of an update numbered `num` that has performed come before the rest of its group, and before the later
reductions of its context (R210, R227). -/
def State.tellPosted (s : State) (owner : CtxId) (gen : BitVec 16) (slot num : Nat) (made : Seen) : State :=
  let t := s.tile owner.tile
  let f (l : List Posted) : List Posted := l.map (fun q =>
    if q.owner == owner && q.gen == gen && q.slot == slot && (q.group == num || (decide (num < q.group) && !q.upd.isStore)) then
      { q with seen := Seen.join q.seen made, pub := if q.upd.isStore then q.pub else Seen.join q.pub made }
    else q)
  s.setTile owner.tile { t with posted := f t.posted, sideLog := f t.sideLog }

/-- The executing context's update, pending. A store that releases passes on what a release of the context does; every access
before the issue of a reduction, in every region, comes before it (R198, R210). -/
def State.postOf (s : State) (ord : MemOrd) (scope group : Nat) (u : Update) : Posted :=
  let v := if s.record.keep then s.me.view else View.empty
  { owner := s.cur, gen := s.me.gen, slot := s.me.slot, jtile := s.me.jtile, ord, scope, group
    seen := v.own
    fences := v.fences
    pub := if u.isStore then v.pub else v.own
    waited := if u.isStore then s.me.waited else []
    upd := u }

/-- A write of host memory, or an atomic there, that the host has completed is an event on top of the record (R217): the bytes
by host address. -/
def State.hostMade (s : State) (kind : EventKind) (a : Attr) (rels : List Release) (cells : List Host.Cell) : Seen × State :=
  if !s.record.keep then ([], s)
  else
    let cs := cells.map (fun c => (s.keyOf (.host c.1), c.2))
    let e : WriteEvent := ⟨s.nextId, s.nextId, kind, a, .hostPort, rels, cs⟩
    (cs.map (fun c => (s.nextId, c.1)), { s with nextId := s.nextId + 1, record := { s.record with log := e :: s.record.log } })

/-- The host requests of a write: one for each block of 128 bytes (R391), each with what it is as an event (R217); a context
that itself makes it, and not an engine for it, waits for it at its next scope-3 release. -/
def State.hostStores (s : State) (own : Option (Attr × Passing)) (cells : List ((Nat × Loc) × Byte)) : State :=
  let hs := cells.filterMap (fun p => match p.1.2 with
    | .host h => some (p.1.1, h, p.2)
    | _ => none)
  ((hs.map (fun p => p.1 / 128)).eraseDups).foldl (fun (u : State) b =>
    match hs.filter (fun p => p.1 / 128 == b) with
    | [] => u
    | (a, h, x) :: part =>
      let op := HostOp.write ((h, x) :: part.map (fun p => (p.2.1, p.2.2)))
      match own with
      | some (at_, pass) =>
        let event := if s.record.keep then some (at_.at [.host h], pass.rels (at_.at [.host h])) else none
        let v := u.hostSend { u.requestOf a h op true with event }
        v.setMe { v.me with hostWrote := true }
      | none => u.hostSend (u.requestOf a h op true)) s

end Sys2Proof.Machine
end

