-- ==== Sys2Proof/Machine/Scalar.lean ====
section
/-! DEFINITION. The scalar integer instructions of group 0x040 (spec/05 R110 to R120, spec/03 R70). -/

namespace Sys2Proof.Machine

/-! Types (R110). -/

/-- Val(x): the integer that the low bits of a value stand for (R110). -/
def valTy (ty : IntTy) (x : Word) : Int := intVal ty.signed ty.width x.toNat

/-- Put(v): an integer wrapped to the width and extended to 64 bits (R110). -/
def putTy (ty : IntTy) (v : Int) : Word :=
  BitVec.ofInt 64 (intVal ty.signed ty.width (v % (2 ^ ty.width : Nat)).toNat)

/-- The w-bit pattern of a value. -/
def patTy (ty : IntTy) (x : Word) : Nat := x.toNat % 2 ^ ty.width

/-- The immediate of an arithmetic form (R70). -/
def immArith (ty : IntTy) (imm : BitVec 28) : Word := if ty.signed then imm.signExtend 64 else imm.setWidth 64

/-- The immediate of a logical form or a shift count: zero-extended, then truncated to the operation's width (R70,
R111). -/
def immLogic (ty : IntTy) (imm : BitVec 28) : Word := BitVec.ofNat 64 (imm.toNat % 2 ^ ty.width)

/-! Operations on values. -/

/-- a + b (R115). -/
def addOp (ty : IntTy) (a b : Word) : Word := putTy ty (valTy ty a + valTy ty b)
/-- a − b (R115). -/
def subOp (ty : IntTy) (a b : Word) : Word := putTy ty (valTy ty a - valTy ty b)
/-- a × b (R115). -/
def mulOp (ty : IntTy) (a b : Word) : Word := putTy ty (valTy ty a * valTy ty b)
/-- The high half of the product (R115). -/
def mulhOp (ty : IntTy) (a b : Word) : Word := putTy ty (valTy ty a * valTy ty b / (2 ^ ty.width : Nat))
/-- The quotient toward zero (R116). -/
def divOp (ty : IntTy) (a b : Word) : Word :=
  if valTy ty b = 0 then putTy ty ((2 ^ ty.width : Nat) - 1) else putTy ty ((valTy ty a).tdiv (valTy ty b))
/-- The remainder (R116). -/
def remOp (ty : IntTy) (a b : Word) : Word :=
  if valTy ty b = 0 then putTy ty (valTy ty a)
  else putTy ty (valTy ty a - (valTy ty a).tdiv (valTy ty b) * valTy ty b)
/-- Bitwise and (R115). -/
def andOp (ty : IntTy) (a b : Word) : Word := putTy ty (a &&& b).toNat
/-- Bitwise or (R115). -/
def orOp (ty : IntTy) (a b : Word) : Word := putTy ty (a ||| b).toNat
/-- Bitwise exclusive or (R115). -/
def xorOp (ty : IntTy) (a b : Word) : Word := putTy ty (a ^^^ b).toNat
/-- a & ~b (R115). -/
def andnOp (ty : IntTy) (a b : Word) : Word := putTy ty (a &&& ~~~b).toNat
/-- The smaller (R115). -/
def minOp (ty : IntTy) (a b : Word) : Word := putTy ty (min (valTy ty a) (valTy ty b))
/-- The larger (R115). -/
def maxOp (ty : IntTy) (a b : Word) : Word := putTy ty (max (valTy ty a) (valTy ty b))
/-- The magnitude (R115). -/
def absOp (ty : IntTy) (a : Word) : Word := putTy ty (valTy ty a).natAbs
/-- −a (R115). -/
def negOp (ty : IntTy) (a : Word) : Word := putTy ty (-(valTy ty a))
/-- The value truncated and extended (R115). -/
def extOp (ty : IntTy) (a : Word) : Word := putTy ty (valTy ty a)

/-- A shift left of a w-bit pattern (R117). -/
def shlPat (w x c : Nat) : Nat := if c < w then x * 2 ^ c % 2 ^ w else 0
/-- A logical shift right of a w-bit pattern (R117). -/
def shrPat (w x c : Nat) : Nat := if c < w then x / 2 ^ c else 0
/-- An arithmetic shift right of a w-bit pattern (R117). -/
def sarPat (w x c : Nat) : Nat :=
  (intVal true w x / (2 ^ (Nat.min c (w - 1)) : Nat) % (2 ^ w : Nat)).toNat
/-- A rotate left of a w-bit pattern (R117). -/
def rolPat (w x c : Nat) : Nat := x * 2 ^ (c % w) % 2 ^ w + x / 2 ^ (w - c % w)

/-- `shl` (R117). -/
def shlOp (ty : IntTy) (a b : Word) : Word := putTy ty (shlPat ty.width (patTy ty a) b.toNat)
/-- `shr` (R117). -/
def shrOp (ty : IntTy) (a b : Word) : Word := putTy ty (shrPat ty.width (patTy ty a) b.toNat)
/-- `sar` (R117). -/
def sarOp (ty : IntTy) (a b : Word) : Word := putTy ty (sarPat ty.width (patTy ty a) b.toNat)
/-- `rol` (R117). -/
def rolOp (ty : IntTy) (a b : Word) : Word := putTy ty (rolPat ty.width (patTy ty a) b.toNat)

/-- The conditions of R118 on two integers and their patterns. -/
def condInt (c : ICond) (a b : Int) (pa pb : Nat) : Bool :=
  match c with
  | .eq => a == b
  | .ne => a != b
  | .lt => decide (a < b)
  | .le => decide (a ≤ b)
  | .gt => decide (b < a)
  | .ge => decide (b ≤ a)
  | .tst => pa &&& pb != 0
  | .ntst => pa &&& pb == 0

/-- A comparison of two values under a type (R118). -/
def cmpOp (ty : IntTy) (c : ICond) (a b : Word) : Bool :=
  condInt c (valTy ty a) (valTy ty b) (patTy ty a) (patTy ty b)

/-- The number of significant bits of a number below `2 ^ n`. -/
def bitLen (x : Nat) : Nat := if x = 0 then 0 else Nat.log2 x + 1

/-- Zeros above the highest set bit (R119). -/
def clzPat (w x : Nat) : Nat := w - bitLen x
/-- Zeros below the lowest set bit, among `n` bits (R119). -/
def ctzPat (w x : Nat) : Nat := ((List.range w).find? (fun i => x.testBit i)).getD w
/-- Set bits (R119). -/
def popcPat (w x : Nat) : Nat := ((List.range w).filter (fun i => x.testBit i)).length
/-- Bits in reverse order (R119). -/
def brevPat (w x : Nat) : Nat := ((List.range w).map (fun i => if x.testBit i then 2 ^ (w - 1 - i) else 0)).sum

/-- `clz` (R119). -/
def clzOp (ty : IntTy) (a : Word) : Word := putTy ty (clzPat ty.width (patTy ty a))
/-- `ctz` (R119). -/
def ctzOp (ty : IntTy) (a : Word) : Word := putTy ty (ctzPat ty.width (patTy ty a))
/-- `popc` (R119). -/
def popcOp (ty : IntTy) (a : Word) : Word := putTy ty (popcPat ty.width (patTy ty a))
/-- `brev` (R119). -/
def brevOp (ty : IntTy) (a : Word) : Word := putTy ty (brevPat ty.width (patTy ty a))

/-- Bits [pos+lm1 : pos], extended (R120). -/
def bfxOp (signed : Bool) (pos lm1 : BitVec 6) (a : Word) : Word :=
  BitVec.ofInt 64 (intVal signed (lm1.toNat + 1) (bits a.toNat pos.toNat (lm1.toNat + 1)))

/-- The mask of `bfi` (R120). -/
def bfiMask (pos lm1 : BitVec 6) : Word := BitVec.ofNat 64 ((2 ^ (lm1.toNat + 1) - 1) * 2 ^ pos.toNat)

/-- A field inserted (R120). -/
def bfiOp (pos lm1 : BitVec 6) (a b : Word) : Word :=
  (a &&& ~~~(bfiMask pos lm1)) ||| ((b <<< pos.toNat) &&& bfiMask pos lm1)

/-- `lea` (R120). -/
def leaOp (scl : BitVec 2) (disp : BitVec 15) (a b : Word) : Word := a + b <<< scl.toNat + disp.signExtend 64

/-! The shapes of the scalar instructions. -/

/-- Reads A, writes a function of it to D. -/
def State.op1 (s : State) (d : SDst) (a : SSrc) (f : Word → Word) : Except Stop State := do
  let (x, s1) ← s.readS a
  s1.writeS d (f x)

/-- Reads A and B, writes a function of them to D. -/
def State.op2 (s : State) (d : SDst) (a b : SSrc) (f : Word → Word → Word) : Except Stop State := do
  let (x, s1) ← s.readS a
  let (y, s2) ← s1.readS b
  s2.writeS d (f x y)

/-- Reads A and B, writes a predicate. -/
def State.test2 (s : State) (pd : BitVec 3) (a b : SSrc) (f : Word → Word → Bool) : Except Stop State := do
  let (x, s1) ← s.readS a
  let (y, s2) ← s1.readS b
  .ok (s2.writeP pd (f x y))

/-! The instructions. -/

/-- `li` (R120). -/
def execLi (g : Guard) (d : SDst) (imm : BitVec 64) (s : State) : Host.Outcome State Fault Refusal :=
  runInstr g 16 s (fun s => s.writeS d imm)
/-- `mov` (R120). -/
def execMov (g : Guard) (d : SDst) (a : SSrc) (s : State) : Host.Outcome State Fault Refusal :=
  runInstr g 8 s (fun s => s.op1 d a id)
/-- `add` (R115). -/
def execAdd (g : Guard) (ty : IntTy) (d : SDst) (a b : SSrc) (s : State) : Host.Outcome State Fault Refusal :=
  runInstr g 8 s (fun s => s.op2 d a b (addOp ty))
/-- `addi` (R115, R111). -/
def execAddi (g : Guard) (d : SDst) (a : SSrc) (imm : BitVec 28) (s : State) : Host.Outcome State Fault Refusal :=
  runInstr g 8 s (fun s => s.op1 d a (fun x => addOp s.immTy x (immArith s.immTy imm)))
/-- `sub` (R115). -/
def execSub (g : Guard) (ty : IntTy) (d : SDst) (a b : SSrc) (s : State) : Host.Outcome State Fault Refusal :=
  runInstr g 8 s (fun s => s.op2 d a b (subOp ty))
/-- `mul` (R115). -/
def execMul (g : Guard) (ty : IntTy) (d : SDst) (a b : SSrc) (s : State) : Host.Outcome State Fault Refusal :=
  runInstr g 8 s (fun s => s.op2 d a b (mulOp ty))
/-- `muli` (R115, R111). -/
def execMuli (g : Guard) (d : SDst) (a : SSrc) (imm : BitVec 28) (s : State) : Host.Outcome State Fault Refusal :=
  runInstr g 8 s (fun s => s.op1 d a (fun x => mulOp s.immTy x (immArith s.immTy imm)))
/-- `mulh` (R115). -/
def execMulh (g : Guard) (ty : IntTy) (d : SDst) (a b : SSrc) (s : State) : Host.Outcome State Fault Refusal :=
  runInstr g 8 s (fun s => s.op2 d a b (mulhOp ty))
/-- `div` (R116). -/
def execDiv (g : Guard) (ty : IntTy) (d : SDst) (a b : SSrc) (s : State) : Host.Outcome State Fault Refusal :=
  runInstr g 8 s (fun s => s.op2 d a b (divOp ty))
/-- `rem` (R116). -/
def execRem (g : Guard) (ty : IntTy) (d : SDst) (a b : SSrc) (s : State) : Host.Outcome State Fault Refusal :=
  runInstr g 8 s (fun s => s.op2 d a b (remOp ty))
/-- `and` (R115). -/
def execAnd (g : Guard) (ty : IntTy) (d : SDst) (a b : SSrc) (s : State) : Host.Outcome State Fault Refusal :=
  runInstr g 8 s (fun s => s.op2 d a b (andOp ty))
/-- `andi` (R115, R70). -/
def execAndi (g : Guard) (d : SDst) (a : SSrc) (imm : BitVec 28) (s : State) : Host.Outcome State Fault Refusal :=
  runInstr g 8 s (fun s => s.op1 d a (fun x => andOp s.immTy x (immLogic s.immTy imm)))
/-- `or` (R115). -/
def execOr (g : Guard) (ty : IntTy) (d : SDst) (a b : SSrc) (s : State) : Host.Outcome State Fault Refusal :=
  runInstr g 8 s (fun s => s.op2 d a b (orOp ty))
/-- `ori` (R115, R70). -/
def execOri (g : Guard) (d : SDst) (a : SSrc) (imm : BitVec 28) (s : State) : Host.Outcome State Fault Refusal :=
  runInstr g 8 s (fun s => s.op1 d a (fun x => orOp s.immTy x (immLogic s.immTy imm)))
/-- `xor` (R115). -/
def execXor (g : Guard) (ty : IntTy) (d : SDst) (a b : SSrc) (s : State) : Host.Outcome State Fault Refusal :=
  runInstr g 8 s (fun s => s.op2 d a b (xorOp ty))
/-- `xori` (R115, R70). -/
def execXori (g : Guard) (d : SDst) (a : SSrc) (imm : BitVec 28) (s : State) : Host.Outcome State Fault Refusal :=
  runInstr g 8 s (fun s => s.op1 d a (fun x => xorOp s.immTy x (immLogic s.immTy imm)))
/-- `andn` (R115). -/
def execAndn (g : Guard) (ty : IntTy) (d : SDst) (a b : SSrc) (s : State) : Host.Outcome State Fault Refusal :=
  runInstr g 8 s (fun s => s.op2 d a b (andnOp ty))
/-- `shl` (R117). -/
def execShl (g : Guard) (ty : IntTy) (d : SDst) (a b : SSrc) (s : State) : Host.Outcome State Fault Refusal :=
  runInstr g 8 s (fun s => s.op2 d a b (shlOp ty))
/-- `shli` (R117). -/
def execShli (g : Guard) (d : SDst) (a : SSrc) (imm : BitVec 28) (s : State) : Host.Outcome State Fault Refusal :=
  runInstr g 8 s (fun s => s.op1 d a (fun x => shlOp s.immTy x (immLogic s.immTy imm)))
/-- `shr` (R117). -/
def execShr (g : Guard) (ty : IntTy) (d : SDst) (a b : SSrc) (s : State) : Host.Outcome State Fault Refusal :=
  runInstr g 8 s (fun s => s.op2 d a b (shrOp ty))
/-- `shri` (R117). -/
def execShri (g : Guard) (d : SDst) (a : SSrc) (imm : BitVec 28) (s : State) : Host.Outcome State Fault Refusal :=
  runInstr g 8 s (fun s => s.op1 d a (fun x => shrOp s.immTy x (immLogic s.immTy imm)))
/-- `sar` (R117). -/
def execSar (g : Guard) (ty : IntTy) (d : SDst) (a b : SSrc) (s : State) : Host.Outcome State Fault Refusal :=
  runInstr g 8 s (fun s => s.op2 d a b (sarOp ty))
/-- `sari` (R117). -/
def execSari (g : Guard) (d : SDst) (a : SSrc) (imm : BitVec 28) (s : State) : Host.Outcome State Fault Refusal :=
  runInstr g 8 s (fun s => s.op1 d a (fun x => sarOp s.immTy x (immLogic s.immTy imm)))
/-- `rol` (R117). -/
def execRol (g : Guard) (ty : IntTy) (d : SDst) (a b : SSrc) (s : State) : Host.Outcome State Fault Refusal :=
  runInstr g 8 s (fun s => s.op2 d a b (rolOp ty))
/-- `roli` (R117). -/
def execRoli (g : Guard) (d : SDst) (a : SSrc) (imm : BitVec 28) (s : State) : Host.Outcome State Fault Refusal :=
  runInstr g 8 s (fun s => s.op1 d a (fun x => rolOp s.immTy x (immLogic s.immTy imm)))
/-- `min` (R115). -/
def execMin (g : Guard) (ty : IntTy) (d : SDst) (a b : SSrc) (s : State) : Host.Outcome State Fault Refusal :=
  runInstr g 8 s (fun s => s.op2 d a b (minOp ty))
/-- `max` (R115). -/
def execMax (g : Guard) (ty : IntTy) (d : SDst) (a b : SSrc) (s : State) : Host.Outcome State Fault Refusal :=
  runInstr g 8 s (fun s => s.op2 d a b (maxOp ty))
/-- `abs` (R115). -/
def execAbs (g : Guard) (ty : IntTy) (d : SDst) (a : SSrc) (s : State) : Host.Outcome State Fault Refusal :=
  runInstr g 8 s (fun s => s.op1 d a (absOp ty))
/-- `neg` (R115). -/
def execNeg (g : Guard) (ty : IntTy) (d : SDst) (a : SSrc) (s : State) : Host.Outcome State Fault Refusal :=
  runInstr g 8 s (fun s => s.op1 d a (negOp ty))
/-- `sel` reads, and pops, both sources always (R120). -/
def execSel (g : Guard) (n : BitVec 3) (d : SDst) (a b : SSrc) (s : State) : Host.Outcome State Fault Refusal :=
  runInstr g 8 s (fun s => s.op2 d a b (fun x y => if s.readP n then x else y))
/-- `cmp` (R118). -/
def execCmp (g : Guard) (ty : IntTy) (cc : ICond) (pd : BitVec 3) (a b : SSrc) (s : State) :
    Host.Outcome State Fault Refusal :=
  runInstr g 8 s (fun s => s.test2 pd a b (cmpOp ty cc))
/-- `cmpi` (R118, R70). -/
def execCmpi (g : Guard) (cc : ICond) (pd : BitVec 3) (a : SSrc) (imm : BitVec 28) (s : State) :
    Host.Outcome State Fault Refusal :=
  runInstr g 8 s (fun s => (s.readS a).map (fun p =>
    p.2.writeP pd (cmpOp s.immTy cc p.1 (immArith s.immTy imm))))
/-- `clz` (R119). -/
def execClz (g : Guard) (ty : IntTy) (d : SDst) (a : SSrc) (s : State) : Host.Outcome State Fault Refusal :=
  runInstr g 8 s (fun s => s.op1 d a (clzOp ty))
/-- `ctz` (R119). -/
def execCtz (g : Guard) (ty : IntTy) (d : SDst) (a : SSrc) (s : State) : Host.Outcome State Fault Refusal :=
  runInstr g 8 s (fun s => s.op1 d a (ctzOp ty))
/-- `popc` (R119). -/
def execPopc (g : Guard) (ty : IntTy) (d : SDst) (a : SSrc) (s : State) : Host.Outcome State Fault Refusal :=
  runInstr g 8 s (fun s => s.op1 d a (popcOp ty))
/-- `brev` (R119). -/
def execBrev (g : Guard) (ty : IntTy) (d : SDst) (a : SSrc) (s : State) : Host.Outcome State Fault Refusal :=
  runInstr g 8 s (fun s => s.op1 d a (brevOp ty))
/-- `bfx` (R120). -/
def execBfx (g : Guard) (signed : Bool) (d : SDst) (a : SSrc) (pos lm1 : BitVec 6) (s : State) :
    Host.Outcome State Fault Refusal :=
  runInstr g 8 s (fun s => s.op1 d a (bfxOp signed pos lm1))
/-- `bfi` (R120). -/
def execBfi (g : Guard) (d : SDst) (a b : SSrc) (pos lm1 : BitVec 6) (s : State) : Host.Outcome State Fault Refusal :=
  runInstr g 8 s (fun s => s.op2 d a b (bfiOp pos lm1))
/-- `ext` (R115). -/
def execExt (g : Guard) (ty : IntTy) (d : SDst) (a : SSrc) (s : State) : Host.Outcome State Fault Refusal :=
  runInstr g 8 s (fun s => s.op1 d a (extOp ty))
/-- `lea` (R120). -/
def execLea (g : Guard) (d : SDst) (a b : SSrc) (scl : BitVec 2) (disp : BitVec 15) (s : State) :
    Host.Outcome State Fault Refusal :=
  runInstr g 8 s (fun s => s.op2 d a b (leaOp scl disp))

end Sys2Proof.Machine
end

