-- ==== Sys2Proof/Machine/ScalarFp.lean ====
section
/-! DEFINITION. The scalar floating-point instructions of group 0x080 (spec/05 R112, R121 to R127). -/

namespace Sys2Proof.Machine

/-- The format of an arithmetic type. -/
def fmtTy (ty : FTy) : Fmt := fmtOf (ftyFp ty)

/-- FPVal: the value of the low bits of a scalar (R112). -/
def fpVal (ty : FTy) (x : Word) : FVal := (fmtTy ty).val x.toNat

/-- An encoding as a scalar value, with zeros above its format (R112). -/
def fpWord (r : Nat × Flags) : Word × Flags := (BitVec.ofNat 64 r.1, r.2)

/-- The dither threshold of a scalar: coordinate (0, 0) (R122). -/
def t00 : Nat := dither 0 0

/-! The shapes. -/

/-- Reads A, writes a result with flags. -/
def State.fop1 (s : State) (d : SDst) (a : SSrc) (f : Word → Word × Flags) : Except Stop State := do
  s.dstReady d
  let (x, s1) ← s.readS a
  s1.fpDone (f x).2 (fun t => t.writeS d (f x).1)

/-- Reads A and B, writes a result with flags. -/
def State.fop2 (s : State) (d : SDst) (a b : SSrc) (f : Word → Word → Word × Flags) : Except Stop State := do
  s.dstReady d
  let (x, s1) ← s.readS a
  let (y, s2) ← s1.readS b
  s2.fpDone (f x y).2 (fun t => t.writeS d (f x y).1)

/-- Reads A, B and C, writes a result with flags. -/
def State.fop3 (s : State) (d : SDst) (a b c : SSrc) (f : Word → Word → Word → Word × Flags) : Except Stop State := do
  s.dstReady d
  let (x, s1) ← s.readS a
  let (y, s2) ← s1.readS b
  let (z, s3) ← s2.readS c
  s3.fpDone (f x y z).2 (fun t => t.writeS d (f x y z).1)

/-! Operations on values, with their flags. -/

/-- x + y (R122). -/
def faddOp (ty : FTy) (rm : RMode) (a b : Word) : Word × Flags :=
  fpWord (addVal (fmtTy ty) rm t00 (fpVal ty a) (fpVal ty b))
/-- x − y (R122). -/
def fsubOp (ty : FTy) (rm : RMode) (a b : Word) : Word × Flags :=
  fpWord (addVal (fmtTy ty) rm t00 (fpVal ty a) (fpVal ty b).opp)
/-- x × y (R122). -/
def fmulOp (ty : FTy) (rm : RMode) (a b : Word) : Word × Flags :=
  fpWord (mulVal (fmtTy ty) rm t00 (fpVal ty a) (fpVal ty b))
/-- x × y + z with one rounding (R122). -/
def fmaOp (ty : FTy) (rm : RMode) (a b c : Word) : Word × Flags :=
  fpWord (fmaVal (fmtTy ty) rm t00 (fpVal ty a) (fpVal ty b) (fpVal ty c))
/-- x / y (R122). -/
def fdivOp (ty : FTy) (rm : RMode) (a b : Word) : Word × Flags :=
  fpWord (divVal (fmtTy ty) rm t00 (fpVal ty a) (fpVal ty b))
/-- The square root (R122). -/
def fsqrtOp (ty : FTy) (rm : RMode) (a : Word) : Word × Flags := fpWord (sqrtVal (fmtTy ty) rm t00 (fpVal ty a))
/-- The reciprocal (R122). -/
def frcpOp (ty : FTy) (rm : RMode) (a : Word) : Word × Flags := fpWord (rcpVal (fmtTy ty) rm t00 (fpVal ty a))
/-- The reciprocal square root (R122). -/
def frsqOp (ty : FTy) (rm : RMode) (a : Word) : Word × Flags := fpWord (rsqVal (fmtTy ty) rm t00 (fpVal ty a))
/-- The smaller (R123). -/
def fminOp (ty : FTy) (a b : Word) : Word × Flags := fpWord (minMaxVal (fmtTy ty) false a.toNat b.toNat)
/-- The larger (R123). -/
def fmaxOp (ty : FTy) (a b : Word) : Word × Flags := fpWord (minMaxVal (fmtTy ty) true a.toNat b.toNat)
/-- The sign bit of the type's width cleared (R125). -/
def fabsOp (ty : FpTy) (a : Word) : Word := BitVec.ofNat 64 (a.toNat % 2 ^ (ty.width - 1))
/-- The sign bit of a pattern inverted. -/
def flipSign (w x : Nat) : Nat := (x + 2 ^ (w - 1)) % 2 ^ w
/-- The sign bit of the type's width inverted (R125). -/
def fnegOp (ty : FpTy) (a : Word) : Word := BitVec.ofNat 64 (flipSign ty.width (a.toNat % 2 ^ ty.width))
/-- The class mask (R125). -/
def fclassOp (ty : FpTy) (a : Word) : Word := BitVec.ofNat 64 (fclassVal (fmtOf ty) (a.toNat % 2 ^ ty.width))
/-- A conversion; integer results are extended by the destination code's signedness (R110, R126). -/
def fcvtOp (ty dty : ElemTy) (rm : RMode) (fz8 : Bool) (a : Word) : Word × Flags :=
  let r := convert ty dty rm t00 fz8 a.toNat
  (if dty.isInt then BitVec.ofInt 64 (intVal (elemSigned dty) dty.width r.1) else BitVec.ofNat 64 r.1, r.2)
/-- x + imm (R127). -/
def faddiOp (ty : FTy) (rm : RMode) (imm : BitVec 16) (a : Word) : Word × Flags :=
  fpWord (addVal (fmtTy ty) rm t00 (fpVal ty a) (immVal imm))
/-- x × imm (R127). -/
def fmuliOp (ty : FTy) (rm : RMode) (imm : BitVec 16) (a : Word) : Word × Flags :=
  fpWord (mulVal (fmtTy ty) rm t00 (fpVal ty a) (immVal imm))

/-! The instructions. -/

/-- `fadd` (R122). -/
def execFadd (g : Guard) (ty : FTy) (rm : RMode) (d : SDst) (a b : SSrc) (s : State) :
    Host.Outcome State Fault Refusal :=
  runInstr g 8 s (fun s => s.fop2 d a b (faddOp ty (s.rmOf rm)))
/-- `fsub` (R122). -/
def execFsub (g : Guard) (ty : FTy) (rm : RMode) (d : SDst) (a b : SSrc) (s : State) :
    Host.Outcome State Fault Refusal :=
  runInstr g 8 s (fun s => s.fop2 d a b (fsubOp ty (s.rmOf rm)))
/-- `fmul` (R122). -/
def execFmul (g : Guard) (ty : FTy) (rm : RMode) (d : SDst) (a b : SSrc) (s : State) :
    Host.Outcome State Fault Refusal :=
  runInstr g 8 s (fun s => s.fop2 d a b (fmulOp ty (s.rmOf rm)))
/-- `fma` (R122). -/
def execFma (g : Guard) (ty : FTy) (rm : RMode) (d : SDst) (a b c : SSrc) (s : State) :
    Host.Outcome State Fault Refusal :=
  runInstr g 8 s (fun s => s.fop3 d a b c (fmaOp ty (s.rmOf rm)))
/-- `fdiv` (R122). -/
def execFdiv (g : Guard) (ty : FTy) (rm : RMode) (d : SDst) (a b : SSrc) (s : State) :
    Host.Outcome State Fault Refusal :=
  runInstr g 8 s (fun s => s.fop2 d a b (fdivOp ty (s.rmOf rm)))
/-- `fsqrt` (R122). -/
def execFsqrt (g : Guard) (ty : FTy) (rm : RMode) (d : SDst) (a : SSrc) (s : State) :
    Host.Outcome State Fault Refusal :=
  runInstr g 8 s (fun s => s.fop1 d a (fsqrtOp ty (s.rmOf rm)))
/-- `frcp` (R122). -/
def execFrcp (g : Guard) (ty : FTy) (rm : RMode) (d : SDst) (a : SSrc) (s : State) :
    Host.Outcome State Fault Refusal :=
  runInstr g 8 s (fun s => s.fop1 d a (frcpOp ty (s.rmOf rm)))
/-- `frsq` (R122). -/
def execFrsq (g : Guard) (ty : FTy) (rm : RMode) (d : SDst) (a : SSrc) (s : State) :
    Host.Outcome State Fault Refusal :=
  runInstr g 8 s (fun s => s.fop1 d a (frsqOp ty (s.rmOf rm)))
/-- `fmin` (R123). -/
def execFmin (g : Guard) (ty : FTy) (d : SDst) (a b : SSrc) (s : State) : Host.Outcome State Fault Refusal :=
  runInstr g 8 s (fun s => s.fop2 d a b (fminOp ty))
/-- `fmax` (R123). -/
def execFmax (g : Guard) (ty : FTy) (d : SDst) (a b : SSrc) (s : State) : Host.Outcome State Fault Refusal :=
  runInstr g 8 s (fun s => s.fop2 d a b (fmaxOp ty))
/-- `fabs` (R125). -/
def execFabs (g : Guard) (ty : FpTy) (d : SDst) (a : SSrc) (s : State) : Host.Outcome State Fault Refusal :=
  runInstr g 8 s (fun s => s.op1 d a (fabsOp ty))
/-- `fneg` (R125). -/
def execFneg (g : Guard) (ty : FpTy) (d : SDst) (a : SSrc) (s : State) : Host.Outcome State Fault Refusal :=
  runInstr g 8 s (fun s => s.op1 d a (fnegOp ty))
/-- `fcmp` (R124). -/
def execFcmp (g : Guard) (ty : FTy) (cc : FCond) (pd : BitVec 3) (a b : SSrc) (s : State) :
    Host.Outcome State Fault Refusal :=
  runInstr g 8 s (fun s => do
    let (x, s1) ← s.readS a
    let (y, s2) ← s1.readS b
    let r := fcmpVal cc (fpVal ty x) (fpVal ty y)
    s2.fpDone r.2 (fun t => .ok (t.writeP pd r.1)))
/-- `fclass` (R125). -/
def execFclass (g : Guard) (ty : FpTy) (d : SDst) (a : SSrc) (s : State) : Host.Outcome State Fault Refusal :=
  runInstr g 8 s (fun s => s.op1 d a (fclassOp ty))
/-- `fcvt` (R126). -/
def execFcvt (g : Guard) (ty dty : ElemTy) (rm : RMode) (d : SDst) (a : SSrc) (s : State) :
    Host.Outcome State Fault Refusal :=
  runInstr g 8 s (fun s => s.fop1 d a (fcvtOp ty dty (s.rmOf rm) (fpcsFz8 s.me.csr.fpcs)))
/-- `faddi` (R127). -/
def execFaddi (g : Guard) (d : SDst) (a : SSrc) (imm : BitVec 16) (s : State) : Host.Outcome State Fault Refusal :=
  runInstr g 8 s (fun s => s.fop1 d a (faddiOp s.immFTy (s.rmOf .dyn) imm))
/-- `fmuli` (R127). -/
def execFmuli (g : Guard) (d : SDst) (a : SSrc) (imm : BitVec 16) (s : State) : Host.Outcome State Fault Refusal :=
  runInstr g 8 s (fun s => s.fop1 d a (fmuliOp s.immFTy (s.rmOf .dyn) imm))

end Sys2Proof.Machine
end

