-- ==== Sys2Proof/Machine/Vector.lean ====
section
/-! DEFINITION. The vector integer, permute and mask instructions of group 0x0C0, and `rng` (spec/06 R128 to R141, R147,
spec/03 R73). -/

namespace Sys2Proof.Machine

/-- Wraps an integer to a w-bit pattern. -/
def wrapTo (w : Nat) (v : Int) : Nat := (v % (2 ^ w : Nat)).toNat

/-! The shapes. -/

/-- A masked element-wise operation on one source (R133). -/
def State.vop1 (s : State) (w : Nat) (c : VCtl) (d : VDst) (a : VSrc) (f : Nat → Nat) : State :=
  let x := s.readV a
  s.writeV d (s.maskedFor w c d (fun j => f (elem x w j)))

/-- A masked element-wise operation on two sources (R133). -/
def State.vop2 (s : State) (w : Nat) (c : VCtl) (d : VDst) (a b : VSrc) (f : Nat → Nat → Nat) : State :=
  let x := s.readV a
  let y := s.readV b
  s.writeV d (s.maskedFor w c d (fun j => f (elem x w j) (elem y w j)))

/-- The value of an element's pattern under a type. -/
def valE (ty : IntTy) (x : Nat) : Int := intVal ty.signed ty.width x

/-! Element operations on patterns (R135). -/

/-- a + b. -/
def eAdd (ty : IntTy) (a b : Nat) : Nat := wrapTo ty.width (valE ty a + valE ty b)
/-- a − b. -/
def eSub (ty : IntTy) (a b : Nat) : Nat := wrapTo ty.width (valE ty a - valE ty b)
/-- a × b. -/
def eMul (ty : IntTy) (a b : Nat) : Nat := wrapTo ty.width (valE ty a * valE ty b)
/-- The smaller. -/
def eMin (ty : IntTy) (a b : Nat) : Nat := wrapTo ty.width (min (valE ty a) (valE ty b))
/-- The larger. -/
def eMax (ty : IntTy) (a b : Nat) : Nat := wrapTo ty.width (max (valE ty a) (valE ty b))
/-- The magnitude. -/
def eAbs (ty : IntTy) (a : Nat) : Nat := wrapTo ty.width (valE ty a).natAbs
/-- −a. -/
def eNeg (ty : IntTy) (a : Nat) : Nat := wrapTo ty.width (-(valE ty a))

/-- `vadd` (R135). -/
def execVadd (g : Guard) (ty : IntTy) (c : VCtl) (d : VDst) (a b : VSrc) (s : State) :
    Host.Outcome State Fault Refusal :=
  runInstr g 8 s (fun s => .ok (s.vop2 ty.width c d a b (eAdd ty)))
/-- `vsub` (R135). -/
def execVsub (g : Guard) (ty : IntTy) (c : VCtl) (d : VDst) (a b : VSrc) (s : State) :
    Host.Outcome State Fault Refusal :=
  runInstr g 8 s (fun s => .ok (s.vop2 ty.width c d a b (eSub ty)))
/-- `vmul` (R135). -/
def execVmul (g : Guard) (ty : IntTy) (c : VCtl) (d : VDst) (a b : VSrc) (s : State) :
    Host.Outcome State Fault Refusal :=
  runInstr g 8 s (fun s => .ok (s.vop2 ty.width c d a b (eMul ty)))
/-- `vmad` (R135). -/
def execVmad (g : Guard) (ty : IntTy) (c : VCtl) (d : VDst) (a b x : VSrc) (s : State) :
    Host.Outcome State Fault Refusal :=
  runInstr g 8 s (fun s =>
    let u := s.readV a
    let v := s.readV b
    let z := s.readV x
    let w := ty.width
    .ok (s.writeV d (s.maskedFor w c d (fun j => eAdd ty (eMul ty (elem u w j) (elem v w j)) (elem z w j)))))
/-- `vmin` (R135). -/
def execVmin (g : Guard) (ty : IntTy) (c : VCtl) (d : VDst) (a b : VSrc) (s : State) :
    Host.Outcome State Fault Refusal :=
  runInstr g 8 s (fun s => .ok (s.vop2 ty.width c d a b (eMin ty)))
/-- `vmax` (R135). -/
def execVmax (g : Guard) (ty : IntTy) (c : VCtl) (d : VDst) (a b : VSrc) (s : State) :
    Host.Outcome State Fault Refusal :=
  runInstr g 8 s (fun s => .ok (s.vop2 ty.width c d a b (eMax ty)))
/-- `vabs` (R135). -/
def execVabs (g : Guard) (ty : IntTy) (c : VCtl) (d : VDst) (a : VSrc) (s : State) : Host.Outcome State Fault Refusal :=
  runInstr g 8 s (fun s => .ok (s.vop1 ty.width c d a (eAbs ty)))
/-- `vneg` (R135). -/
def execVneg (g : Guard) (ty : IntTy) (c : VCtl) (d : VDst) (a : VSrc) (s : State) : Host.Outcome State Fault Refusal :=
  runInstr g 8 s (fun s => .ok (s.vop1 ty.width c d a (eNeg ty)))
/-- `vand` (R135). -/
def execVand (g : Guard) (ty : IntTy) (c : VCtl) (d : VDst) (a b : VSrc) (s : State) :
    Host.Outcome State Fault Refusal :=
  runInstr g 8 s (fun s => .ok (s.vop2 ty.width c d a b (fun x y => x &&& y)))
/-- `vor` (R135). -/
def execVor (g : Guard) (ty : IntTy) (c : VCtl) (d : VDst) (a b : VSrc) (s : State) :
    Host.Outcome State Fault Refusal :=
  runInstr g 8 s (fun s => .ok (s.vop2 ty.width c d a b (fun x y => x ||| y)))
/-- `vxor` (R135). -/
def execVxor (g : Guard) (ty : IntTy) (c : VCtl) (d : VDst) (a b : VSrc) (s : State) :
    Host.Outcome State Fault Refusal :=
  runInstr g 8 s (fun s => .ok (s.vop2 ty.width c d a b (fun x y => x ^^^ y)))
/-- `vshl` (R135, R117). -/
def execVshl (g : Guard) (ty : IntTy) (c : VCtl) (d : VDst) (a b : VSrc) (s : State) :
    Host.Outcome State Fault Refusal :=
  runInstr g 8 s (fun s => .ok (s.vop2 ty.width c d a b (shlPat ty.width)))
/-- `vshr` (R135, R117). -/
def execVshr (g : Guard) (ty : IntTy) (c : VCtl) (d : VDst) (a b : VSrc) (s : State) :
    Host.Outcome State Fault Refusal :=
  runInstr g 8 s (fun s => .ok (s.vop2 ty.width c d a b (shrPat ty.width)))
/-- `vsar` (R135, R117). -/
def execVsar (g : Guard) (ty : IntTy) (c : VCtl) (d : VDst) (a b : VSrc) (s : State) :
    Host.Outcome State Fault Refusal :=
  runInstr g 8 s (fun s => .ok (s.vop2 ty.width c d a b (sarPat ty.width)))

/-- A 32-bit mask from a test of each bit. -/
def maskOf (f : Nat → Bool) : BitVec 32 :=
  BitVec.ofNat 32 ((List.range 32).map (fun i => if f i then 2 ^ i else 0)).sum

/-- The mask that a comparison writes: active lanes take the test, the others merge or zero (R136). -/
def cmpMask (m old : BitVec 32) (zm : Bool) (act : Nat → Nat) (f : Nat → Bool) : BitVec 32 :=
  maskOf (fun l => if m.getLsbD (act l) then f l else if zm then false else old.getLsbD l)

/-- `vcmp` (R136). -/
def execVcmp (g : Guard) (signed : Bool) (c : VCtl) (cc : ICond) (md : BitVec 3) (a b : VSrc) (s : State) :
    Host.Outcome State Fault Refusal :=
  runInstr g 8 s (fun s =>
    let x := s.readV a
    let y := s.readV b
    .ok (s.writeM md (cmpMask (s.readM c.mask) (s.readM md) c.zm id (fun l =>
      condInt cc (intVal signed 32 (elem x 32 l)) (intVal signed 32 (elem y 32 l)) (elem x 32 l) (elem y 32 l)))))

/-- `vsel` acts on all lanes (R136). -/
def execVsel (g : Guard) (mk : BitVec 3) (d : VDst) (a b : VSrc) (s : State) : Host.Outcome State Fault Refusal :=
  runInstr g 8 s (fun s =>
    let x := s.readV a
    let y := s.readV b
    let m := s.readM mk
    .ok (s.writeV d (vecOf 32 ((List.range 32).map fun l => if m.getLsbD l then elem x 32 l else elem y 32 l))))

/-- The type of `vaddi`: the 64-bit codes run as 32-bit ones (R135). -/
def vaddiTy : IntTy → IntTy
  | .s64 => .s32
  | .n64 => .n32
  | t => t

/-- `vaddi` is unmasked (R135). -/
def execVaddi (g : Guard) (d : VDst) (a : VSrc) (imm : BitVec 28) (s : State) : Host.Outcome State Fault Refusal :=
  runInstr g 8 s (fun s =>
    let ty := vaddiTy s.immTy
    let y := patTy ty (immArith ty imm)
    .ok (s.writeV d (vecOf ty.width ((elems (s.readV a) ty.width).map (fun x => eAdd ty x y)))))

/-! Reductions and scans (R137). -/

/-- The active elements in increasing order, with their positions. -/
def activeElems (m : BitVec 32) (v : VWord) (w : Nat) : List Nat :=
  ((List.range (1024 / w)).filter (activeElem m w)).map (elem v w)

/-- Least value of an integer type. -/
def intLo (t : IntTy) : Int := elemLo (.int t)
/-- Greatest value of an integer type. -/
def intHi (t : IntTy) : Int := elemHi (.int t)

/-- The value `vred` writes over the given active elements (R137). -/
def vredVal (ty : IntTy) (op : RedOp) (l : List Nat) : Word :=
  let w := ty.width
  match op with
  | .add => BitVec.ofInt 64 (l.map (valE ty)).sum
  | .min => BitVec.ofInt 64 ((l.map (valE ty)).foldl min (intHi ty))
  | .max => BitVec.ofInt 64 ((l.map (valE ty)).foldl max (intLo ty))
  | .and => putTy ty (l.foldl (fun x y => x &&& y) (2 ^ w - 1) : Nat)
  | .or => putTy ty (l.foldl (fun x y => x ||| y) 0 : Nat)
  | .xor => putTy ty (l.foldl (fun x y => x ^^^ y) 0 : Nat)

/-- `vred` (R137). -/
def execVred (g : Guard) (ty : IntTy) (op : RedOp) (c : VCtl) (d : SDst) (a : VSrc) (s : State) :
    Host.Outcome State Fault Refusal :=
  runInstr g 8 s (fun s => s.writeS d (vredVal ty op (activeElems (s.readM c.mask) (s.readV a) ty.width)))

/-- One step of a scan on patterns; `vscan` has no bitwise form. -/
def scanOp (ty : IntTy) (op : RedOp) (x y : Nat) : Nat :=
  match op with
  | .min => eMin ty x y
  | .max => eMax ty x y
  | _ => eAdd ty x y

/-- The scan over the elements from `j` on, the running value being `acc` (R137). -/
def scanElems (ty : IntTy) (op : RedOp) (m : BitVec 32) (zm : Bool) (old v : VWord) : Nat → Nat → Option Nat → List Nat
  | 0, _, _ => []
  | n + 1, j, acc =>
    let w := ty.width
    if activeElem m w j then
      let x := elem v w j
      let r := match acc with
        | none => x
        | some y => scanOp ty op y x
      r :: scanElems ty op m zm old v n (j + 1) (some r)
    else (if zm then 0 else elem old w j) :: scanElems ty op m zm old v n (j + 1) acc

/-- `vscan` (R137). -/
def execVscan (g : Guard) (ty : IntTy) (op : RedOp) (c : VCtl) (d : VDst) (a : VSrc) (s : State) :
    Host.Outcome State Fault Refusal :=
  runInstr g 8 s (fun s =>
    .ok (s.writeV d (vecOf ty.width
      (scanElems ty op (s.readM c.mask) c.zm (s.readVD d) (s.readV a) (1024 / ty.width) 0 none))))

/-! Permutes and moves (R138, R139). -/

/-- `vperm` (R138). -/
def execVperm (g : Guard) (ty : IntTy) (c : VCtl) (d : VDst) (a b x : VSrc) (s : State) :
    Host.Outcome State Fault Refusal :=
  runInstr g 8 s (fun s =>
    let w := ty.width
    let n := 1024 / w
    let u := s.readV a
    let v := s.readV b
    let z := s.readV x
    .ok (s.writeV d (s.maskedFor w c d (fun j =>
      let i := elem v w j % (2 * n)
      if i < n then elem u w i else elem z w (i - n)))))

/-- `vbcast` (R138). -/
def execVbcast (g : Guard) (ty : IntTy) (c : VCtl) (d : VDst) (a : SSrc) (s : State) :
    Host.Outcome State Fault Refusal :=
  runInstr g 8 s (fun s => (s.readS a).map (fun p =>
    p.2.writeV d (p.2.maskedFor ty.width c d (fun _ => patTy ty p.1))))

/-- `vextr` (R138). -/
def execVextr (g : Guard) (ty : IntTy) (d : SDst) (a : VSrc) (b : SSrc) (s : State) :
    Host.Outcome State Fault Refusal :=
  runInstr g 8 s (fun s => do
    let (i, s1) ← s.readS b
    s1.writeS d (putTy ty (elem (s.readV a) ty.width (i.toNat % (1024 / ty.width)) : Nat)))

/-- `vins` (R138). -/
def execVins (g : Guard) (ty : IntTy) (d : VDst) (a b : SSrc) (s : State) : Host.Outcome State Fault Refusal :=
  runInstr g 8 s (fun s => do
    let (x, s1) ← s.readS a
    let (i, s2) ← s1.readS b
    let w := ty.width
    .ok (s2.writeV d (vecOf w ((elems (s.readVD d) w).set (i.toNat % (1024 / w)) (patTy ty x)))))

/-- `vmov` lane by lane (R139, form 0). -/
def execVmov (g : Guard) (c : VCtl) (d : VDst) (a : VSrc) (s : State) : Host.Outcome State Fault Refusal :=
  runInstr g 8 s (fun s => .ok (s.vop1 32 c d a id))

/-- The register index of the indexed forms: at or beyond the allotment it traps VALLOT, and a popped entry stays popped
(R139). -/
def State.vIndex (s : State) (b : SSrc) : Except Stop (BitVec 5 × State) := do
  let (k, s1) ← s.readS b
  if k.toNat < Nat.min 32 s.me.allot then .ok (BitVec.ofNat 5 k.toNat, s1)
  else .error (.trapIn s1 .vallot k)

/-- `vmov vD, v[gB]` (R139, form 1). -/
def execVmovFromIndex (g : Guard) (d : VDst) (b : SSrc) (s : State) : Host.Outcome State Fault Refusal :=
  runInstr g 8 s (fun s => (s.vIndex b).map (fun p => p.2.writeV d (s.me.r.getV p.1)))

/-- `vmov v[gB], vA` (R139, form 2). -/
def execVmovToIndex (g : Guard) (a : VSrc) (b : SSrc) (s : State) : Host.Outcome State Fault Refusal :=
  runInstr g 8 s (fun s => (s.vIndex b).map (fun p => p.2.writeV (.v p.1) (s.readV a)))

/-- `vmpop` (R140). -/
def execVmpop (g : Guard) (d : SDst) (n : BitVec 3) (first : Bool) (s : State) : Host.Outcome State Fault Refusal :=
  runInstr g 8 s (fun s =>
    let m := (s.readM n).toNat
    s.writeS d (BitVec.ofNat 64 (if first then ctzPat 32 m else popcPat 32 m)))

/-- `vmlog` (R141). -/
def execVmlog (g : Guard) (md ma mb : BitVec 3) (tt : BitVec 4) (s : State) : Host.Outcome State Fault Refusal :=
  runInstr g 8 s (fun s =>
    let a := s.readM ma
    let b := s.readM mb
    .ok (s.writeM md (maskOf (fun l => truth4 tt (a.getLsbD l) (b.getLsbD l)))))
where
  /-- A truth table at two bits (R103). -/
  truth4 (tt : BitVec 4) (a b : Bool) : Bool := tt.getLsbD (2 * b2n a + b2n b)

/-! Random numbers (R73, R147). -/

/-- Rotates a 64-bit value left. -/
def rotL64 (x : BitVec 64) (n : Nat) : BitVec 64 := x <<< n ||| x >>> (64 - n)

/-- The rounds of R73. -/
def rngRounds : Nat → BitVec 64 → BitVec 64 → BitVec 64
  | 0, x, _ => x
  | n + 1, x, y =>
    let x := x + y
    let x := x ^^^ (x >>> 31)
    let x := x * 0xA3C59AC2F1E87D35
    rngRounds n x (rotL64 y 19 ^^^ 0x5B2E71C40D96A38F)

/-- The result of one lane of a draw (R73). -/
def rngLane (seed rngc rngs : Word) (lc lane : Nat) : Nat :=
  let key := seed ^^^ BitVec.ofNat 64 lane ^^^ BitVec.ofNat 64 (bits rngs.toNat 0 16 * 2 ^ 5)
    ^^^ BitVec.ofNat 64 (lc * 2 ^ 21)
  bits (rngRounds 4 (rngc ^^^ rotL64 key 23) key).toNat 32 32

/-- `rng` (R73, R147). -/
def execRng (g : Guard) (c : VCtl) (d : VDst) (s : State) : Host.Outcome State Fault Refusal :=
  runInstr g 8 s (fun s =>
    let x := s.me
    if x.csr.rngc = BitVec.allOnes 64 then .error (.trap .rngWrap 0)
    else
      let lc := logicalCore x.jtile s.cur.core
      let v := s.maskedFor 32 c d (rngLane s.mySlot.seed x.csr.rngc x.csr.rngs lc)
      .ok ((s.setMe { x with csr := { x.csr with rngc := x.csr.rngc + 1 } }).writeV d v))

end Sys2Proof.Machine
end

