-- ==== Sys2Proof/Machine/Update.lean ====
section
/-! DEFINITION. How updates perform: the operations of atomics and reductions, arrivals, stores and the side log (spec/09
R221, R226, R227; spec/08 R214; spec/14 R344; spec/16 R378). -/

namespace Sys2Proof.Machine

/-- An operation of R221 on w-bit patterns: old value x, operand y. -/
def amoNew (op : AmoOp) (w x y : Nat) : Nat :=
  let f := fmtOf (if w = 32 then .f32 else .f64)
  match op with
  | .add => (x + y) % 2 ^ w
  | .smin => wrapTo w (min (intVal true w x) (intVal true w y))
  | .smax => wrapTo w (max (intVal true w x) (intVal true w y))
  | .nmin => Nat.min (x % 2 ^ w) (y % 2 ^ w)
  | .nmax => Nat.max (x % 2 ^ w) (y % 2 ^ w)
  | .and => (x &&& y) % 2 ^ w
  | .or => (x ||| y) % 2 ^ w
  | .xor => (x ^^^ y) % 2 ^ w
  | .swap => y % 2 ^ w
  | .fadd => (addVal f .rne 0 (f.val x) (f.val y)).1

/-- Writes the named bits of a 32-bit word of packed elements (R60). -/
def packWord (old : Nat) (v mask : BitVec 32) : Nat :=
  ((BitVec.ofNat 32 old &&& ~~~mask) ||| (v &&& mask)).toNat

/-- The locations of bytes that are read and written as one event. -/
def State.locateRmw (s : State) (ag : Agent) (l : List Nat) : Except Stop (List Loc) := do
  let _ ← s.locate ag false false 1 l
  s.locate ag true false 1 l

/-- Writes a number's little-endian bytes at locations. -/
def State.storeNat (s : State) (locs : List Loc) (v : Nat) : State := s.store (locs.zip (bytesOf locs.length v))

/-- The number that locations hold. -/
def State.loadNat (s : State) (locs : List Loc) : Nat := leNat (locs.map s.readLoc)

/-- Adds an entry to an error log; when it is full the oldest is overwritten and counted (R385). -/
def ErrLog.push (l : ErrLog) (e : BitVec 128) : ErrLog :=
  if l.entries.length < 64 then { l with entries := l.entries ++ [e] }
  else { entries := l.entries.drop 1 ++ [e], lost := l.lost + 1 }

/-- A log entry whose fields below TIME the spec does not give (notes/assumptions/10.md). -/
def State.openEntry (s : State) : BitVec 128 × State :=
  let (x, s1) := s.draw
  (BitVec.ofNat 128 (s.wstime % 2 ^ 64 * 2 ^ 64 + x.toNat), s1)

/-- Records an event in the error log of an execution point: an arrival that would pass 2^64 - 1 (R227), or a fill count
that is discarded (R280). A slice's log is the SRAM log of its tile (R385). -/
def State.logAt (s : State) (p : Point) : State :=
  let (e, s1) := s.openEntry
  match p with
  | .tile t | .home t | .slice t => s1.setTile t { s1.tile t with sram := (s1.tile t).sram.push e }
  | .port h => s1.setHome h { s1.home h with ecc := (s1.home h).ecc.push e }
  | .hostPort => s1

/-- The execution point of the bytes of an atomic. -/
def State.rmwPoint (s : State) (scope : Nat) (locs : List Loc) : Point :=
  match locs with
  | l :: _ => s.pointOf true scope l
  | [] => .hostPort

/-- The agent of a posted update. -/
def Posted.agent (p : Posted) : Agent := ⟨p.slot, p.jtile, p.owner.tile, p.owner.core, p.waited⟩

/-- ORD, scope and class of a posted update; an arrival is a release (R227). -/
def Posted.attr (p : Posted) : Attr :=
  attrOf p.agent (match p.upd with
    | .arrive _ => .rel
    | _ => p.ord) p.scope

/-- What a posted update carries for acquires. -/
def Posted.passing (p : Posted) : Passing := ⟨p.fences, p.pub⟩

/-- Whether two updates are of one occupancy. -/
def Posted.sameOwner (p q : Posted) : Bool :=
  p.owner == q.owner && p.gen == q.gen && p.slot == q.slot && p.jtile == q.jtile

/-- Whether two updates are of one instruction. -/
def Posted.sameGroup (p q : Posted) : Bool := q.sameOwner p && q.group == p.group

/-- A gradient slot of 16 bytes after an addition: modulo 2^96, extended by its sign (R61, R344). -/
def gridAfter (old : Nat) (n : BitVec 96) : Nat :=
  (intVal true 96 ((old + n.toNat) % 2 ^ 96) % (2 ^ 128 : Nat)).toNat

/-- An update that has performed at the locations, whose read returned `got` and which made the events `made`: its context
knows both, and the rest of its group and the later reductions of its context the events (R195, R199, R204, R210, R227). -/
def State.told (s : State) (p : Posted) (locs : List Loc) (got made : Seen) : State :=
  if !s.record.keep then s
  else
    let c := s.ctx p.owner
    let v := if locs.isEmpty then c.view else s.viewRead c.view p.attr [locs] got
    let s1 := if c.active && c.gen == p.gen && c.slot == p.slot && c.jtile == p.jtile then
      s.setCtx p.owner { c with view := v.learn s.record.isLoose made } else s
    s1.tellPosted p.owner p.gen p.slot p.group made

/-- A read-modify-write of a posted update: the old value, and the state after. -/
def State.rmwFor (s : State) (p : Posted) (pass : Passing) (locs : List Loc) (f : Nat → Option (List Byte)) :
    Nat × State :=
  let r := s.rmwAs true p.attr p.seen pass locs f
  (r.old, r.after.told p locs r.got r.made)

/-- An arrival performs: a release at its scope of all that comes before it; one that finds 2^64 - 1 is logged (R227). -/
def State.arriveFor (s : State) (p : Posted) (va : Word) : Except Stop State := do
  let locs ← s.locateRmw p.agent (span va 8)
  ready (!s.portBusy p.agent p.scope va.toNat)
  let (old, s1) := s.rmwFor p ⟨p.fences, p.seen⟩ locs
    (fun v => if v = 2 ^ 64 - 1 then none else some (bytesOf 8 (v + 1)))
  .ok (if old = 2 ^ 64 - 1 then s1.logAt (s.rmwPoint p.scope locs) else s1)

/-- Located bytes as accesses of `acc` bytes, each in its units (R196, R197). -/
def accessUnits (acc unit : Nat) (cells : List (Nat × Loc × Byte)) : List (List (List (Loc × Byte))) :=
  (chunks acc cells).map (fun x => (unitsOf unit x).map (fun u => u.map Prod.snd))

/-- A posted update performs for its owner (R208, R214, R226, R344). -/
def State.perform (s : State) (p : Posted) : Except Stop State :=
  let ag := p.agent
  match p.upd with
  | .store o e unit acc cells => do
    let l := cells.map Prod.fst
    let locs ← s.locate ag true o e l
    let bs := cells.map Prod.snd
    let (made, s1) := s.writeAs p.attr .write p.seen p.passing s.record.choices (accessUnits acc unit (l.zip (locs.zip bs)))
    .ok ((s1.told p [] [] made).hostStores (some (p.attr, p.passing)) ((l.zip locs).zip bs))
  | .packed ws => do
    let l := ws.flatMap (fun w => span (BitVec.ofNat 64 w.1) 4)
    let _ ← s.locate ag true false 1 l
    let words ← ws.mapM (fun w => do
      let l := span (BitVec.ofNat 64 w.1) 4
      let locs ← s.locate ag true false 1 l
      .ok (l.zip (locs.zip (bytesOf 4 (packWord (s.loadNat locs) w.2.1 w.2.2)))))
    let (made, s1) := s.writeAs p.attr .write p.seen p.passing [] (accessUnits 4 4 words.flatten)
    .ok ((s1.told p [] [] made).hostStores (some (p.attr, p.passing)) (words.flatten.map (fun c => ((c.1, c.2.1), c.2.2))))
  | .rmw op n va y => do
    let locs ← s.locateRmw ag (span va n)
    ready (!s.portBusy ag p.scope va.toNat)
    match locs with
    | .host h :: _ =>
      let at_ := p.attr.at locs
      let event := if s.record.keep then some (at_, p.passing.rels at_) else none
      .ok (s.hostSend ⟨p.owner, .self, p.gen, p.slot, va, h, .amo op n y, true, event, some p.group, s.wstime⟩)
    | _ => .ok (s.rmwFor p p.passing locs (fun x => some (bytesOf n (amoNew op (8 * n) x y.toNat)))).2
  | .grid va n => do
    let locs ← s.locateRmw ag (span va 16)
    .ok (s.rmwFor p p.passing locs (fun x => some (bytesOf 16 (gridAfter x n)))).2
  | .arrive va => s.arriveFor p va

/-- A side log with an entry more: before those of the same context that come later in its program order (R214). -/
def logInsert (l : List Posted) (p : Posted) : List Posted :=
  let later (q : Posted) : Bool := q.sameOwner p && decide (p.group < q.group)
  l.takeWhile (fun q => !later q) ++ p :: l.dropWhile (fun q => !later q)

/-- Puts updates into the tile's side log of 128 entries and reports the fault; a full log holds the context until an entry
frees (R214, R378). -/
def State.logUpdates (s : State) (ps : List Posted) (fault : Option Word) : Except Stop State :=
  let t := s.myTile
  if 128 < t.sideLog.length + ps.length then .error .stall
  else
    let s1 := { (s.setTile s.cur.tile { t with sideLog := ps.foldl logInsert t.sideLog }) with nextId := s.nextId + 1 }
    match fault with
    | none => .ok s1
    | some va =>
      .ok { s1 with mg := { s1.mg with faults := s1.mg.faults ++ [⟨.sideLog s.cur.tile, s.me.slot, va, true⟩] } }

/-- Whether an update of the executing context touches a wide object on which events of its own still wait (R152). -/
def State.onOwnWide (s : State) (p : Posted) : Bool :=
  p.keys.any (fun k => decide (2 ^ 54 + s.me.jtile * 2 ^ 21 ≤ k) && decide (k < 2 ^ 54 + (s.me.jtile + 1) * 2 ^ 21)
    && s.ownWide (k % 2 ^ 21))

/-- Whether an update writes host memory: those of one context leave in program order (R391). -/
def Update.toHost (u : Update) : Bool := u.isStore && u.addrs.any (fun a => regionOf a == 5)

/-- A store of the executing context after steps 1 to 3 of R180: performed, or put into the side log where a page fault or
an earlier logged write of the same bytes, or of host memory, says so (R214, R391). -/
def State.storeUpdate (s : State) (ord : MemOrd) (scope : Nat) (u : Update) : Except Stop State :=
  let p := s.postOf ord scope s.nextId u
  let clash (q : Posted) : Bool := q.owner == s.cur && (q.keys.any (fun k => p.keys.contains k) || (q.upd.toHost && u.toHost))
  if s.strongPending || s.onOwnWide p || s.onLate p.keys then .error .stall
  else
    match s.perform p with
    | .error (.fault va _) => s.logUpdates [p] (some va)
    | .error x => .error x
    | .ok t =>
      if s.myTile.sideLog.any clash then s.logUpdates [p] none
      else if s.myTile.posted.any clash then .error .stall
      else .ok t

/-- Stores bytes as accesses of `acc` bytes in units of `unit` bytes (R181 to R184). -/
def State.storeBytes (s : State) (o : Bool) (e unit acc : Nat) (ord : MemOrd) (scope : Nat) (cells : List Host.Cell) :
    Except Stop State :=
  s.storeUpdate ord scope (.store o e unit acc cells)

end Sys2Proof.Machine
end

