-- ==== Sys2Proof/Machine/Memory.lean ====
section
/-! DEFINITION. The loads and stores of group 0x140 with a format-M address (spec/07 R155 to R157, R179 to R185). -/

namespace Sys2Proof.Machine

/-- The view element size of a scalar access (R157). -/
def viewSize (sz : Size) : Nat := Nat.min 4 sz.bytes

/-- Whether an access of this ORD is ordered or atomic (R207). -/
def ordered : MemOrd → Bool
  | .plain => false
  | _ => true

/-- Whether an access of this ORD comes after every earlier access of its context (R198 cases b and c). -/
def releases : MemOrd → Bool
  | .rel | .sc => true
  | _ => false

/-- What an access waits for because of its ORD; region 0 behaves as ORD = 3 (R198, R199, R214, R217). Every access waits
for an earlier one in region 0 that has not performed. -/
def State.order (s : State) (rel : Bool) (scope : BitVec 5) (ea : Word) : Except Stop Unit := do
  ready (!s.strongPending)
  if rel || regionOf ea.toNat == 0 then s.release scope.toNat ea else .ok ()

/-- ORD of a vector access from its one bit. -/
def acqOrd (acq : Bool) : MemOrd := if acq then .acq else .plain
/-- ORD of a vector store from its one bit. -/
def relOrd (rel : Bool) : MemOrd := if rel then .rel else .plain

/-- The alignment check of a scalar access whose ORD field is not 0 (R180); what ORD acts as in region 0 does not count
(notes/assumptions/16.md). -/
def alignOrd (ordered : Bool) (ea : Word) (n : Nat) : Except Stop Unit := if ordered then aligned ea n else .ok ()

/-- Writes a scalar destination and, for 16-byte values, the next g register; the latch takes the low half (R181). -/
def State.writePair (s : State) (d : SDst) (lo hi : Word) : Except Stop State :=
  match d with
  | .g n => (s.setMe (s.me.putG (n + 1) hi)).writeS (.g n) lo
  | _ => s.writeS d lo

/-- The high half of a 16-byte scalar source: the next g register (R181). -/
def State.readHigh (s : State) : SSrc → Word
  | .g n => s.me.r.getG (n + 1)
  | _ => 0

/-- The value that a load delivers from its bytes (R181). -/
def loadValue (sx : Bool) (n : Nat) (bs : List Byte) : Word :=
  if sx then BitVec.ofInt 64 (intVal true (8 * n) (leNat bs)) else BitVec.ofNat 64 (leNat bs)

/-- `ld` (R181). -/
def execLd (g : Guard) (sz : Size) (o : Bool) (ord : MemOrd) (rep : Bool) (scope : BitVec 5) (sx : Bool) (d : SDst)
    (m : MemOp) (s : State) : Host.Outcome State Fault Refusal :=
  runInstr g 12 s (fun s => do
    s.dstReady d
    let (ea, s1) ← s.memEa m
    let n := sz.bytes
    s1.scopeCheck (ordered ord) scope.toNat (atHost ea)
    let l := span ea n
    let locs ← s1.access s1.agent false o (viewSize sz) l l (alignOrd (ordered ord) ea n)
    s1.order (ord == .sc) scope ea
    let (bs, s2) ← s1.loadBytes (s1.attr ord scope.toNat) rep (!ordered ord) o (viewSize sz) n
      (unitSize o (viewSize sz) n ea.toNat) l locs
    match sz with
    | .q => s2.writePair d (BitVec.ofNat 64 (leNat (bs.take 8))) (BitVec.ofNat 64 (leNat (bs.drop 8)))
    | _ => s2.writeS d (loadValue sx n bs))

/-- Addresses with the bytes of a number, lowest first. -/
def cellsOf (l : List Nat) (v : Nat) : List Host.Cell := l.zip (bytesOf l.length v)

/-- Steps 1 to 3 of R180 and the WS_WRITE check for a store, then what its ORD waits for, then the store. -/
def State.storeChecked (s : State) (o : Bool) (e unit acc : Nat) (ord : MemOrd) (strong : Bool) (scope : BitVec 5) (ea : Word)
    (pre : List Nat) (al : Except Stop Unit) (cells : List Host.Cell) : Except Stop State := do
  preCheck o pre al
  checkAll (cells.map Prod.fst) (stepW true) .wsWrite
  s.order (releases ord || strong) scope ea
  s.storeBytes o e unit acc ord scope.toNat cells

/-- `st` (R181). -/
def execSt (g : Guard) (sz : Size) (o : Bool) (ord : MemOrd) (scope : BitVec 5) (m : MemOp) (c : SSrc) (s : State) :
    Host.Outcome State Fault Refusal :=
  runInstr g 12 s (fun s => do
    let (ea, s1) ← s.memEa m
    let (x, s2) ← s1.readS c
    let n := sz.bytes
    s2.scopeCheck (ordered ord) scope.toNat (atHost ea)
    let l := span ea n
    s2.storeChecked o (viewSize sz) (unitSize o (viewSize sz) n ea.toNat) n ord false scope ea l
      (alignOrd (ordered ord) ea n) (cellsOf l (x.toNat + 2 ^ 64 * (s1.readHigh c).toNat)))

/-! Vector accesses (R182). -/

/-- The bytes of a vector register that lie in active elements of width `w`. -/
def activeBytes (m : BitVec 32) (w : Nat) : List Nat := (List.range 128).filter (fun t => activeElem m w (8 * t / w))

/-- The addresses of bytes of a register that starts at `ea`. -/
def byteAddrs (ea : Word) (ts : List Nat) : List Nat := ts.map (fun t => (ea + BitVec.ofNat 64 t).toNat)

/-- Element `j` from bytes listed by position. -/
def gatherElem (bs : Assoc Byte) (n j : Nat) : Nat := leNat ((List.range n).map (fun i => (aget bs (n * j + i)).getD 0))

/-- `vld` (R182). -/
def execVld (g : Guard) (sz : Size) (o acq rep : Bool) (scope : BitVec 5) (c : VCtl) (d : VDst) (m : MemOp) (s : State) :
    Host.Outcome State Fault Refusal :=
  runInstr g 12 s (fun s => do
    let (ea, s1) ← s.memEa m
    s1.scopeCheck acq scope.toNat (atHost ea)
    let w := 8 * sz.bytes
    let ts := activeBytes (s1.readM c.mask) w
    let l := byteAddrs ea ts
    let locs ← s1.access s1.agent false o (viewSize sz) (ea.toNat :: l) l (aligned ea 128)
    s1.order false scope ea
    let (bs, s2) ← s1.loadBytes (s1.attr (acqOrd acq) scope.toNat) rep (!acq) o (viewSize sz) 128
      (if o then viewSize sz else 4) l locs
    .ok (s2.writeV d (s2.maskedFor w c d (gatherElem (ts.zip bs) sz.bytes))))

/-- A `vst` with no active lane performs its ORD as a fence of its kind (R182): a release fence, and in region 0, where ORD acts
as 3, a full fence (notes/assumptions/16.md). -/
def State.emptyVst (s : State) (rel : Bool) (scope : BitVec 5) (ea : Word) : State :=
  if regionOf ea.toNat = 0 then s.fenceFull scope.toNat else if rel then s.fenceReleases scope.toNat else s

/-- `vst` (R182). -/
def execVst (g : Guard) (sz : Size) (o rel : Bool) (scope : BitVec 5) (mk : BitVec 3) (m : MemOp) (c : VSrc) (s : State) :
    Host.Outcome State Fault Refusal :=
  runInstr g 12 s (fun s => do
    let (ea, s1) ← s.memEa m
    s1.scopeCheck rel scope.toNat (atHost ea)
    let w := 8 * sz.bytes
    let ts := activeBytes (s1.readM mk) w
    let v := s1.readV c
    let l := byteAddrs ea ts
    let s2 ← s1.storeChecked o (viewSize sz) (if o then viewSize sz else 4) 128 (relOrd rel) false scope ea (ea.toNat :: l)
      (aligned ea 128) (l.zip (ts.map (fun t => BitVec.ofNat 8 (elem v 8 t))))
    .ok (if ts.isEmpty then s2.emptyVst rel scope ea else s2))

/-! Gathers and scatters (R183). -/

/-- The address of lane `L` (R183). -/
def laneEa (base : Word) (idx : VWord) (scl : BitVec 2) (disp : BitVec 32) (n : Nat) : Word :=
  base + (BitVec.ofInt 64 (intVal true 32 (elem idx 32 n))) <<< scl.toNat + disp.signExtend 64

/-- The active lanes of a mask. -/
def activeLanes (m : BitVec 32) : List Nat := (List.range 32).filter (fun l => m.getLsbD l)

/-- `vldx` (R183). -/
def execVldx (g : Guard) (sz : Size) (o acq rep : Bool) (scope : BitVec 5) (sx : Bool) (c : VCtl) (d : VDst)
    (base : SSrc) (idx : VSrc) (scl : BitVec 2) (disp : BitVec 32) (s : State) : Host.Outcome State Fault Refusal :=
  runInstr g 12 s (fun s => do
    let (b, s1) ← s.readS base
    let n := sz.bytes
    let lanes := activeLanes (s1.readM c.mask)
    let eas := lanes.map (laneEa b (s1.readV idx) scl disp)
    s1.scopeCheck acq scope.toNat (eas.any atHost)
    let l := eas.flatMap (fun a => span a n)
    let locs ← s1.access s1.agent false o n l l (checkAll (eas.map BitVec.toNat) (fun a => a % n == 0) .align)
    s1.order (eas.any (fun a => regionOf a.toNat == 0)) scope (eas.headD (BitVec.allOnes 64))
    let (bs, s2) ← s1.loadBytes (s1.attr (acqOrd acq) scope.toNat) rep (!acq) o n n n l locs
    let listed := (lanes.flatMap (fun i => (List.range n).map (fun k => n * i + k))).zip bs
    .ok (s2.writeV d (s2.maskedFor 32 c d (fun i =>
      let x := gatherElem listed n i
      if sx then wrapTo 32 (intVal true (8 * n) x) else x))))

/-- `vstx` (R183). -/
def execVstx (g : Guard) (sz : Size) (o rel : Bool) (scope : BitVec 5) (mk : BitVec 3) (base : SSrc) (idx : VSrc)
    (scl : BitVec 2) (disp : BitVec 32) (c : VSrc) (s : State) : Host.Outcome State Fault Refusal :=
  runInstr g 12 s (fun s => do
    let (b, s1) ← s.readS base
    let n := sz.bytes
    let lanes := activeLanes (s1.readM mk)
    let ea := laneEa b (s1.readV idx) scl disp
    let v := s1.readV c
    s1.scopeCheck rel scope.toNat (lanes.any (fun i => atHost (ea i)))
    let cells := lanes.flatMap (fun i => cellsOf (span (ea i) n) (elem v 32 i))
    s1.storeChecked o n n n (relOrd rel) (lanes.any (fun i => regionOf (ea i).toNat == 0)) scope
      ((lanes.map ea).headD (BitVec.allOnes 64))
      (cells.map Prod.fst) (checkAll (lanes.map (fun i => (ea i).toNat)) (fun a => a % n == 0) .align) cells)

/-- Whether a prefetch does anything: it lies in regions 0 to 3 and passes the checks of a plain read (R185). -/
def State.prefetches (s : State) (ea : Word) : Bool :=
  step1 ea.toNat && decide (regionOf ea.toNat < 4) &&
    (match s.locate s.agent false false 1 [ea.toNat] with
     | .ok _ => true
     | .error _ => false)

/-- The bytes of a sector that a prefetch brings in: all, or the 128-byte block of an address (R185). -/
def prefetchMask (sector : Bool) (ea : Word) : BitVec 1024 :=
  if sector then BitVec.allOnes 1024 else BitVec.ofNat 1024 ((2 ^ 128 - 1) * 2 ^ (ea.toNat % 1024 / 128 * 128))

/-- `pf` brings a block or a sector into its home slice, and with `.rep` places a replica; no value can show it, and it raises
no trap (R185). -/
def execPf (g : Guard) (rep sector : Bool) (m : MemOp) (s : State) : Host.Outcome State Fault Refusal :=
  runInstr g 12 s (fun s => do
    let (ea, s1) ← s.memEa m
    if s1.prefetches ea then
      let s2 := s1.fillSlice s1.mySlot.asid ea.toNat (prefetchMask sector ea) 0
      .ok (if s2.usesReplica rep true ea.toNat then s2.fillReplica ea.toNat else s2)
    else .ok s1)

end Sys2Proof.Machine
end

