-- ==== Sys2Proof/Machine/Tensor.lean ====
section
/-! DEFINITION. Tensor entries: their fields, validity and element addresses (spec/07 R169 to R177), and `tld`, `tst`,
`tdef`, `tget`, `taddr` (R184, R186 to R190). -/

namespace Sys2Proof.Machine

/-! Fields. -/

/-- A field of a word of an entry. -/
def tf (t : Tensor) (w : Fin 8) (lo n : Nat) : Nat := bits (t[w]).toNat lo n

/-- The kinds of R170. -/
inductive TKind where
  | plain | unfold | hgrid | ring | weights
  deriving DecidableEq, Repr

/-- KIND. -/
def tKind (t : Tensor) : Option TKind :=
  match tf t 0 0 4 with
  | 0 => some .plain
  | 1 => some .unfold
  | 2 => some .hgrid
  | 3 => some .ring
  | 4 => some .weights
  | _ => none
/-- HOME. -/
def tHome (t : Tensor) : Nat := tf t 0 4 3
/-- FMT; none for 0xF. -/
def tFmt (t : Tensor) : Option ElemTy := elemTy (tf t 0 8 4)
/-- FMT of an entry known to be valid. -/
def tTy (t : Tensor) : ElemTy := (tFmt t).getD (.int .n8)
/-- ND. -/
def tNd (t : Tensor) : Nat := tf t 0 12 2
/-- LAYOUT. -/
def tLayout (t : Tensor) : Nat := tf t 0 14 2
/-- SBK. -/
def tSbk (t : Tensor) : Nat := tf t 0 16 4
/-- SDIM. -/
def tSdim (t : Tensor) : Nat := tf t 0 20 2
/-- KX. -/
def tKx (t : Tensor) : Nat := tf t 0 32 32

/-- Whether a format is packed (R60). -/
def isPacked : ElemTy → Bool
  | .q3 | .q4 => true
  | _ => false

/-- Elements of a packed format in one 32-bit word (R60). -/
def perWord : ElemTy → Nat
  | .q3 => 10
  | _ => 8

/-! Validity (R177). -/

/-- The conditions on a PLAIN entry (R171, R172). -/
def plainOk (t : Tensor) : Bool :=
  let e := [tf t 2 0 32, tf t 2 32 32, tf t 3 0 32, tf t 3 32 32]
  let w := ((tFmt t).getD .q4).width
  tKx t == 0 && e.all (fun x => x != 0) && (e.drop (tNd t + 1)).all (fun x => x == 1)
    && (tSbk t == 5 || t[7] == 0)
    && (tLayout t == 0 || ((w == 8 || w == 16 || w == 32) && tf t 1 0 10 == 0 && tf t 4 0 10 == 0))

/-- The conditions on an UNFOLD entry (R173). -/
def unfoldOk (t : Tensor) : Bool :=
  tKx t == 0 && tNd t == 1 && tf t 1 8 56 == 0
    && (List.range 6).all (fun i => tf t 2 (8 * i) 8 != 0)
    && t[3] == 0 && t[4] == 0 && t[5] == 0 && t[6] == 0 && t[7] == 0

/-- The conditions on an HGRID entry (R174). -/
def hgridOk (t : Tensor) : Bool :=
  tf t 0 8 4 == 0xA && tHome t == 1 && tNd t == 0 && tLayout t == 0 && tSbk t == 0 && tSdim t == 0
    && bits (tKx t) 3 1 == 0 && bits (tKx t) 11 5 == 0 && bits (tKx t) 24 8 == 0
    && tf t 3 0 4 == 0 && tf t 3 52 12 == 3 && t[4] == 0 && t[5] == 0 && t[6] == 0 && t[7] == 0

/-- The conditions on a RING entry (R175). That w6[63:32] is zero is the model's choice: the rule's table assigns these bits
nothing and does not call them zero (notes/assumptions/17.md). -/
def ringOk (t : Tensor) : Bool :=
  let n := tf t 2 0 32
  let len := tf t 2 32 32
  let low := tf t 6 0 16
  let high := tf t 6 16 16
  tf t 0 8 4 == 4 && decide (tHome t < 2) && tNd t == 0 && tLayout t == 0 && tSbk t == 0 && tSdim t == 0 && tKx t == 0
    && decide (1 ≤ n) && decide (n ≤ 2 ^ 20) && decide (64 ≤ len) && decide (len ≤ 2 ^ 20) && len % 64 == 0
    && tf t 1 0 6 == 0 && tf t 4 0 4 == 0 && tf t 5 0 4 == 0
    && decide (low < high) && decide (high ≤ n) && tf t 6 32 32 == 0 && t[7] == 0

/-- The conditions on a WEIGHTS entry (R176). That ND is 1, LAYOUT 0 and SDIM 0, also for BF16, and that w3[63:32] and w4[63:24]
are zero, is the model's choice: the rule names no other value for the fields and assigns these bits nothing
(notes/assumptions/17.md). -/
def weightsOk (t : Tensor) : Bool :=
  let f := tf t 0 8 4
  tHome t == 2 && tNd t == 1 && tLayout t == 0 && tKx t == 0 && tSdim t == 0
    && (((f == 0xD || f == 0xE || f == 0xB) && tSbk t == 5) || (f == 0xA && tSbk t == 0))
    && tf t 1 24 40 == 0 && tf t 2 0 32 != 0 && tf t 2 32 32 != 0
    && tf t 3 0 2 == 0 && tf t 3 32 32 == 0 && tf t 4 24 40 == 0
    && t[5] == 0 && t[6] == 0 && t[7] == 0

/-- Whether an entry is valid (R170, R177). -/
def tValid (t : Tensor) : Bool :=
  tf t 0 7 1 == 1 && tf t 0 22 10 == 0 && decide (tHome t ≤ 2) && (tFmt t).isSome && decide (tLayout t ≤ 1)
    && (tSbk t == 0 || tSbk t == 5) &&
    (match tKind t with
     | some .plain => plainOk t
     | some .unfold => unfoldOk t
     | some .hgrid => hgridOk t
     | some .ring => ringOk t
     | some .weights => weightsOk t
     | none => false)

/-- Entry `id` of a job's table; an entry that nothing wrote has w0 = 0 (R169). -/
def Slot.tensor (j : Slot) (id : Nat) : Tensor := (aget j.tensors id).getD (Vector.replicate 8 0)

/-! UNFOLD (R173). -/

/-- A byte of w2 of an UNFOLD entry: KH, KW, SH, SW, DH, DW, PH, PW. -/
def uf (t : Tensor) (i : Nat) : Nat := tf t 2 (8 * i) 8

/-- Extent `d` of a PLAIN entry. -/
def plainExt (t : Tensor) (d : Nat) : Nat :=
  match d with
  | 0 => tf t 2 0 32
  | 1 => tf t 2 32 32
  | 2 => tf t 3 0 32
  | _ => tf t 3 32 32

/-- OH, of which only values of at least 1 are legal. -/
def unfoldOH (t src : Tensor) : Int :=
  ((plainExt src 2 + 2 * uf t 6 : Int) - uf t 4 * ((uf t 0 : Int) - 1) - 1).tdiv (uf t 2) + 1

/-- OW, of which only values of at least 1 are legal. -/
def unfoldOW (t src : Tensor) : Int :=
  ((plainExt src 1 + 2 * uf t 7 : Int) - uf t 5 * ((uf t 1 : Int) - 1) - 1).tdiv (uf t 3) + 1

/-- Whether an UNFOLD entry and its source make a pair (R173). -/
def unfoldPair (t src : Tensor) : Bool :=
  tValid src && tKind src == some .plain && tf src 0 8 4 == tf t 0 8 4 && tSbk src == tSbk t
    && decide (1 ≤ unfoldOH t src) && decide (1 ≤ unfoldOW t src)

/-- The source coordinates of element (k, m); none where the element is +0 (R173). -/
def unfoldAt (t src : Tensor) (k m : Nat) : Option (List Nat) :=
  let c := plainExt src 0
  let oh := (unfoldOH t src).toNat
  let ow := (unfoldOW t src).toNat
  let kw := k / c % uf t 1
  let kh := k / (c * uf t 1)
  let ih : Int := (m / ow % oh * uf t 2 + kh * uf t 4 : Nat) - (uf t 6 : Int)
  let iw : Int := (m % ow * uf t 3 + kw * uf t 5 : Nat) - (uf t 7 : Int)
  if 0 ≤ ih ∧ ih < plainExt src 2 ∧ 0 ≤ iw ∧ iw < plainExt src 1 then
    some [k % c, iw.toNat, ih.toNat, m / (ow * oh)]
  else none

/-! Element addresses (R172, R175, R176). -/

/-- Where an element lies: its address, or that of the 32-bit word that holds it with its first bit there; the bytes of
the access. -/
structure Place where
  addr : Nat
  bit : Nat
  n : Nat
  deriving DecidableEq, Repr

/-- Coordinate `d` of a list. -/
def co (c : List Nat) (d : Nat) : Nat := c.getD d 0

/-- Where an access to slice offset `ofs` of a job tile goes; an offset past the slice stays past it, and as aligned as it is
(R180, R311). -/
def wsAddr (jt ofs : Nat) : Nat :=
  6 * 2 ^ 52 + jt * 2 ^ 24 + (if ofs < 2 ^ 24 then ofs else 2 ^ 24 - 16 + ofs % 16)

/-- An element of a packed run that starts at `run`. -/
def packedPlace (ty : ElemTy) (run c0 : Nat) : Place :=
  ⟨(run + 4 * (c0 / perWord ty)) % 2 ^ 64, ty.width * (c0 % perWord ty), 4⟩

/-- The element of a PLAIN entry (R172). -/
def plainPlace (t : Tensor) (c : List Nat) : Place :=
  let ty := tTy t
  let rest := (t[1]).toNat + co c 2 * (t[5]).toNat + co c 3 * (t[6]).toNat
  if isPacked ty then packedPlace ty (rest + co c 1 * (t[4]).toNat) (co c 0)
  else
    let es := ty.width / 8
    let bc := co c 0 * es
    if tLayout t = 0 then ⟨(rest + bc + co c 1 * (t[4]).toNat) % 2 ^ 64, 0, es⟩
    else
      ⟨(rest + co c 1 / 32 * (t[4]).toNat + bc / 32 * 1024 + 32 * (co c 1 % 32) + bc % 32) % 2 ^ 64, 0, es⟩

/-- The byte of a slot of a RING entry (R175, R184). -/
def ringPlace (t : Tensor) (c : List Nat) : Place :=
  ⟨((t[1]).toNat + co c 1 * tf t 2 32 32 + co c 0) % 2 ^ 64, 0, 1⟩

/-- The slice offset of the bytes that hold an element of a WEIGHTS entry (R176). -/
def weightOfs (t : Tensor) (c : List Nat) : Nat :=
  let run := tf t 1 0 24 + co c 1 * tf t 3 0 32
  if isPacked (tTy t) then run + 4 * (co c 0 / perWord (tTy t)) else run + co c 0 * ((tTy t).width / 8)

/-- The element of a WEIGHTS entry in the slice of a job tile (R176). -/
def weightPlace (t : Tensor) (jt : Nat) (c : List Nat) : Place :=
  let ty := tTy t
  if isPacked ty then ⟨wsAddr jt (weightOfs t c), ty.width * (co c 0 % perWord ty), 4⟩
  else ⟨wsAddr jt (weightOfs t c), 0, ty.width / 8⟩

/-- Extent `d` of an entry with its source (R171, R173, R175, R176). The rules give WEIGHTS, UNFOLD and RING entries two
coordinates; that c2 and c3 have extent 1 in them, so that only 0 lies within, is the model's choice
(notes/assumptions/17.md). -/
def tExt (t src : Tensor) (d : Nat) : Nat :=
  match tKind t, d with
  | some .plain, d => plainExt t d
  | some .unfold, 0 => uf t 0 * uf t 1 * plainExt src 0
  | some .unfold, 1 => plainExt src 3 * (unfoldOH t src).toNat * (unfoldOW t src).toNat
  | some .ring, 0 => tf t 2 32 32
  | some .ring, 1 => tf t 2 0 32
  | some .weights, 0 => tf t 2 0 32
  | some .weights, 1 => tf t 2 32 32
  | _, _ => 1

/-- Whether coordinates lie within the extents. -/
def tInside (t src : Tensor) (c : List Nat) : Bool := (List.range 4).all (fun d => decide (co c d < tExt t src d))

/-- Where an element within the extents lies; none for an UNFOLD element that is +0. -/
def placeOf (t src : Tensor) (jt : Nat) (c : List Nat) : Option Place :=
  match tKind t with
  | some .plain => some (plainPlace t c)
  | some .unfold => (unfoldAt t src (co c 0) (co c 1)).map (plainPlace src)
  | some .ring => some (ringPlace t c)
  | some .weights => some (weightPlace t jt c)
  | _ => none

/-- The address of the scale byte of an element of a PLAIN entry with SBK = 5 (R172). -/
def scaleAddr (t : Tensor) (c : List Nat) : Nat :=
  let step (a : Nat × Nat) (d : Nat) : Nat × Nat :=
    let x := if d = tSdim t then co c d / 32 else co c d
    let e := if d = tSdim t then (plainExt t d + 31) / 32 else plainExt t d
    (a.1 + x * a.2, a.2 * e)
  ((List.range 4).foldl step ((t[7]).toNat, 1)).1 % 2 ^ 64

/-- The four coordinates of two scalar operands (R184). -/
def coords (a b : Word) : List Nat := [bits a.toNat 0 32, bits a.toNat 32 32, bits b.toNat 0 32, bits b.toNat 32 32]

/-! The entry of an instruction (R187, R190). -/

/-- The source entry of an UNFOLD entry, and the entry itself otherwise. -/
def Slot.source (j : Slot) (t : Tensor) : Tensor := if tKind t = some .unfold then j.tensor (tf t 1 0 8) else t

/-- An entry and its source, valid and of an accepted kind, or TENSOR with its identifier (R190). -/
def State.entry (s : State) (id : Nat) (accept : TKind → Bool) : Except Stop (Tensor × Tensor) := do
  let t := s.mySlot.tensor id
  let src := s.mySlot.source t
  need (tValid t && (match tKind t with
    | some .unfold => accept .unfold && unfoldPair t src
    | some k => accept k
    | none => false)) .tensor (BitVec.ofNat 64 id)
  .ok (t, src)

/-- The entry of a `tld`, a `tst` or a grid instruction: the copy that it read at its issue where it has been held since
(R187). -/
def State.entryOnce (s : State) (id : Nat) (accept : TKind → Bool) : Except Stop (Tensor × Tensor) :=
  match s.me.kept with
  | some (n, e) => if n = id then .ok e else s.entry id accept
  | none => s.entry id accept

/-! `tld` and `tst` (R184). -/

/-- An element of the register: its first bit, its width, its lane for masking, its coordinates. -/
structure RegElem where
  bit : Nat
  lane : Nat
  c : List Nat
  deriving DecidableEq, Repr

/-- The elements of the register and their coordinates (R184). -/
def regElems (ty : ElemTy) (o : Bool) (c : List Nat) : List RegElem :=
  let w := ty.width
  if o then
    (List.range (32 / w)).flatMap fun i => (List.range 32).map fun r =>
      ⟨w * (32 * i + r), w * (32 * i + r) / 32, [co c 0 + i, co c 1 + r, co c 2, co c 3]⟩
  else if ty = .q3 then
    (List.range 320).map fun j => ⟨32 * (j / 10) + 3 * (j % 10), j / 10, (co c 0 + j) :: c.drop 1⟩
  else (List.range (1024 / w)).map fun j => ⟨w * j, w * j / 32, (co c 0 + j) :: c.drop 1⟩

/-- Whether a register element may be named with O = 1 (R184). -/
def viewOk (ty : ElemTy) : Bool := !isPacked ty && decide (ty.width ≤ 32)

/-- The elements that are active and within the extents, with their places; +0 elements of UNFOLD have none. -/
def movedElems (t src : Tensor) (jt : Nat) (o : Bool) (m : BitVec 32) (c : List Nat) : List (RegElem × Place) :=
  (regElems (tTy t) o c).filterMap fun x =>
    if m.getLsbD x.lane && tInside t src x.c then (placeOf t src jt x.c).map (fun p => (x, p)) else none

/-- The distinct accesses of a list of places, in order. -/
def accessesOf (ps : List Place) : List (Nat × Nat) := (ps.map (fun p => (p.addr, p.n))).eraseDups

/-- The alignment checks of `tld` and `tst` (R180). -/
def tensorAlign (t src : Tensor) (jt : Nat) (o ordered : Bool) (c : List Nat) (acc : List (Nat × Nat)) :
    Except Stop Unit := do
  let ty := tTy t
  let first := match placeOf t src jt c with
    | some p => p.addr
    | none => 0
  need (!(isPacked ty && !o && co c 0 % perWord ty != 0)) .align (BitVec.ofNat 64 first)
  match acc.find? (fun p => ordered && p.1 % p.2 != 0) with
  | some p => .error (.trap .align (BitVec.ofNat 64 p.1))
  | none => .ok ()

/-- The bytes of a list of accesses. -/
def accessBytes (acc : List (Nat × Nat)) : List Nat := acc.flatMap (fun p => span (BitVec.ofNat 64 p.1) p.2)

/-- The mask under which a register of width-`w` elements merges by lanes (R129). -/
def laneMask (m : BitVec 32) (w : Nat) : BitVec 32 :=
  if w = 64 then maskOf (fun l => m.getLsbD (l / 2 * 2)) else m

/-- Whether an access touches the host-memory window. -/
def accessHost (acc : List (Nat × Nat)) : Bool := acc.any (fun p => regionOf p.1 == 5)

/-- Sums the elements into a register. -/
def sumElems (l : List (Nat × Nat)) : Nat := (l.map (fun p => p.2 * 2 ^ p.1)).sum

/-- The bytes of an element: each is an access of its own, and single-copy atomic where it is aligned (R184). -/
def elemUnit (acc : List (Nat × Nat)) : Nat :=
  match acc with
  | [] => 1
  | p :: _ => p.2

/-- `tld` (R184, R190). The addresses of R172 are those of the elements' own bytes, whichever way they are taken. -/
def execTld (g : Guard) (o acq rep : Bool) (id : BitVec 8) (scope : BitVec 5) (c : VCtl) (d : VDst) (a b : SSrc)
    (s : State) : Host.Outcome State Fault Refusal :=
  runInstr g 16 s (fun s => do
    let (x, s1) ← s.readS a
    let (y, s2) ← s1.readS b
    let (t, src) ← s2.entryOnce id.toNat (fun k => k == .plain || (k == .unfold && !o) || k == .ring || k == .weights)
    need (!o || viewOk (tTy t)) .tensor (id.setWidth 64)
    let jt := s2.me.jtile
    let w := (tTy t).width
    let m := laneMask (s2.readM c.mask) w
    let els := movedElems t src jt o m (coords x y)
    let acc := accessesOf (els.map Prod.snd)
    s2.scopeCheck acq scope.toNat (accessHost acc)
    let l := accessBytes acc
    preCheck o l (tensorAlign t src jt o acq (coords x y) acc)
    s.keeping (id.toNat, t, src) (do
      let locs ← s2.locate s2.agent false false 1 l
      s2.order (acc.any (fun p => regionOf p.1 == 0)) scope (BitVec.ofNat 64 (2 ^ 52))
      let (bs, s3) ← s2.loadBytes (s2.attr (acqOrd acq) scope.toNat) rep (!acq) false 1 (elemUnit acc) (elemUnit acc) l locs
      let listed := l.zip bs
      let vals := els.map (fun p =>
        (p.1.bit, bits (leNat ((span (BitVec.ofNat 64 p.2.addr) p.2.n).map (fun a => (aget listed a).getD 0))) p.2.bit w))
      let v := BitVec.ofNat 1024 (sumElems vals)
      .ok (s3.writeV d (masked 32 m c.zm (s3.readVD d) (elem v 32)))))

/-- The words that packed elements, given with their places, coordinates c0 and values, are written to: pad bits and slots
past the run's end become zero (R60). -/
def packWords (ty : ElemTy) (e0 : Nat) (els : List (Place × Nat × Nat)) : List (Nat × BitVec 32 × BitVec 32) :=
  ((els.map (fun p => p.1.addr)).eraseDups).map fun a =>
    let mine := els.filter (fun p => p.1.addr == a)
    let first := match mine with
      | p :: _ => p.2.1 / perWord ty * perWord ty
      | [] => 0
    let kept := ty.width * Nat.min (perWord ty) (e0 - first)
    let val := sumElems (mine.map (fun p => (p.1.bit, p.2.2)))
    let own := sumElems (mine.map (fun p => (p.1.bit, 2 ^ ty.width - 1)))
    (a, BitVec.ofNat 32 val, BitVec.ofNat 32 own ||| ~~~(BitVec.ofNat 32 (2 ^ kept - 1)))

/-- The update of a `tst`. -/
def tensorUpdate (t src : Tensor) (v : VWord) (els : List (RegElem × Place)) (unit : Nat) : Update :=
  if isPacked (tTy t) then .packed (packWords (tTy t) (tExt t src 0)
    (els.map (fun p => (p.2, co p.1.c 0, bits v.toNat p.1.bit (tTy t).width))))
  else .store false 1 unit unit (els.flatMap (fun p =>
    cellsOf (span (BitVec.ofNat 64 p.2.addr) p.2.n) (bits v.toNat p.1.bit (tTy t).width)))

/-- A word of packed elements in host memory with its other bits as the host's answers give them. -/
def wholeWord (got : Assoc (List Byte)) (w : Nat × BitVec 32 × BitVec 32) : Nat × BitVec 32 × BitVec 32 :=
  let old := leNat ((span (BitVec.ofNat 64 w.1) 4).map (fun a => (answerByte got a).getD 0))
  (w.1, BitVec.ofNat 32 (packWord old w.2.1 w.2.2), BitVec.allOnes 32)

/-- A store of packed elements with the words of host memory made whole: the context reads their other bits from the host
first (R60, R391; notes/assumptions/17.md). One that meets a page fault goes to the side log as it is, and its replay reads them
(R214). -/
def State.wholeWords (s : State) (u : Update) : Except Stop Update :=
  match u with
  | .packed ws => do
    let hosts := (ws.filter (fun w => regionOf w.1 == 5)).flatMap (fun w => span (BitVec.ofNat 64 w.1) 4)
    if hosts.isEmpty then .ok u
    else do
      match s.locate s.agent true false 1 (ws.flatMap (fun w => span (BitVec.ofNat 64 w.1) 4)) with
      | .error (.fault ..) => .ok u
      | _ => do
        let locs ← s.locate s.agent true false 1 hosts
        match hostNeed s.answers (hosts.zip locs) with
        | some (va, h, n) => s.askHost va h (.read n)
        | none => .ok (.packed (ws.map (fun w => if regionOf w.1 == 5 then wholeWord s.answers w else w)))
  | _ => .ok u

/-- `tst` (R184, R190). -/
def execTst (g : Guard) (o rel : Bool) (id : BitVec 8) (scope : BitVec 5) (mk : BitVec 3) (a b : SSrc) (c : VSrc)
    (s : State) : Host.Outcome State Fault Refusal :=
  runInstr g 16 s (fun s => do
    let (x, s1) ← s.readS a
    let (y, s2) ← s1.readS b
    let (t, src) ← s2.entryOnce id.toNat (fun k => k == .plain || k == .ring)
    need (!o || viewOk (tTy t)) .tensor (id.setWidth 64)
    let jt := s2.me.jtile
    let m := laneMask (s2.readM mk) (tTy t).width
    let els := movedElems t src jt o m (coords x y)
    let acc := accessesOf (els.map Prod.snd)
    s2.scopeCheck rel scope.toNat (accessHost acc)
    let l := accessBytes acc
    preCheck o l (tensorAlign t src jt o rel (coords x y) acc)
    checkAll l (stepW true) .wsWrite
    s.keeping (id.toNat, t, src) (do
      s2.order (rel || acc.any (fun p => regionOf p.1 == 0)) scope (BitVec.ofNat 64 (2 ^ 52))
      let u ← s2.wholeWords (tensorUpdate t src (s2.readV c) els (elemUnit acc))
      s2.storeUpdate (relOrd rel) scope.toNat u))

/-! `tdef` (R186). -/

/-- The entry that a 64-byte image gives. -/
def tensorOf (bs : List Byte) : Tensor :=
  Vector.ofFn (fun i : Fin 8 => BitVec.ofNat 64 (leNat ((bs.drop (8 * i.val)).take 8)))

/-- Whether `tdef` accepts an image: R177, and for UNFOLD the pair with its source where that is valid (R178). A source that
is not valid at that moment leaves nothing to check, and the entry is accepted (notes/assumptions/17.md). -/
def Slot.accepts (j : Slot) (t : Tensor) : Bool :=
  tValid t && (tKind t != some .unfold || !tValid (j.source t) || unfoldPair t (j.source t))

/-- `tdef` sends the new entry to every tile and waits until each holds it (R186). -/
def execTdef (g : Guard) (a b : SSrc) (s : State) : Host.Outcome State Fault Refusal :=
  runInstr g 16 s (fun s => do
    ready (s.me.wait != .tdef)
    let (ea, s1) ← s.readS a
    let (id, s2) ← s1.readS b
    need (decide (id.toNat < 256)) .tensor id
    let l := span ea 64
    let locs ← s2.access s2.agent false false 1 l l (aligned ea 64)
    s2.order false 2 ea
    let (bs, s3) ← s2.loadBytes (s2.attr .plain 2) false true false 1 64 8 l locs
    let t := tensorOf bs
    need (s3.mySlot.accepts t) .tensor id
    let j := s3.mySlot
    let s4 := s3.setSlot s3.me.slot { j with tdefs := j.tdefs ++ [(s3.cur, id.toNat, t)] }
    .error (.wait (s4.setMe { s4.me with wait := .tdef })))

/-- TDEF_BROADCAST: the oldest new entry reaches every tile, and the context goes on (R186). -/
def execTdefBroadcast (slot : Nat) (s : State) : Host.Outcome State Fault Refusal :=
  runEvent s (
    let j := s.slot slot
    match j.tdefs with
    | [] => none
    | (id, n, t) :: rest =>
      let s1 := s.setSlot slot { j with tensors := aset j.tensors n t, tdefs := rest }
      let s2 := { s1 with cur := id, inProg := false }
      if s2.me.wait = .tdef then some ((s2.setMe { s2.me with wait := .none, kept := none, waited := [] }).advance 16)
      else some s2)

/-! `tget` and `taddr` (R188, R189). -/

/-- `tget` (R188). -/
def execTget (g : Guard) (w : BitVec 3) (d : SDst) (a : SSrc) (s : State) : Host.Outcome State Fault Refusal :=
  runInstr g 8 s (fun s => do
    s.dstReady d
    let (id, s1) ← s.readS a
    need (decide (id.toNat < 256)) .tensor id
    s1.writeS d ((s1.mySlot.tensor id.toNat)[w.toNat]'(w.isLt)))

/-- The column-view address of the byte at a row-view address under element size `e` (R156, R166). -/
def columnAddr (plate : Bool) (e a : Nat) : Nat :=
  let blk := if plate then 4096 else 1024
  let row := if plate then 128 else 32
  let o := a % blk
  let bc := o % row
  a / blk * blk + 32 * e * (bc / e) + e * (o / row) + bc % e

/-- The address that `taddr` returns; none where it traps TENSOR (R189). -/
def taddrOf (t : Tensor) (jt : Nat) (o : Bool) (c : List Nat) : Option Nat :=
  if !tInside t t c then none
  else
    match tKind t, o with
    | some .plain, false => some (plainPlace t c).addr
    | some .plain, true =>
      let plate := tHome t == 0 && tLayout t == 0 && t[4] == 128
      if viewOk (tTy t) && (tLayout t == 1 || plate) then
        some (columnAddr (tLayout t != 1) ((tTy t).width / 8) (plainPlace t c).addr)
      else none
    | some .ring, false => some (ringPlace t c).addr
    | some .weights, false => some ((6 * 2 ^ 52 + jt * 2 ^ 24 + weightOfs t c) % 2 ^ 64)
    | _, _ => none

/-- `taddr` (R189). -/
def execTaddr (g : Guard) (o : Bool) (id : BitVec 8) (d : SDst) (a b : SSrc) (s : State) :
    Host.Outcome State Fault Refusal :=
  runInstr g 16 s (fun s => do
    s.dstReady d
    let (x, s1) ← s.readS a
    let (y, s2) ← s1.readS b
    let (t, _) ← s2.entry id.toNat (fun k => k == .plain || k == .ring || k == .weights)
    match taddrOf t s2.me.jtile o (coords x y) with
    | none => .error (.trap .tensor (id.setWidth 64))
    | some v => s2.writeS d (BitVec.ofNat 64 v))

end Sys2Proof.Machine
end

