-- ==== Sys2Proof/Machine/Atomics.lean ====
section
/-! DEFINITION. Atomics, reductions, fences and counter instructions (spec/09 R218 to R235). -/

namespace Sys2Proof.Machine

/-! Checks (R222). -/

/-- The checks of R180 with the alignment and the region checks of R222, through allotment: `host` accepts region 5,
`counter` makes region 6 ADDR. -/
def State.rmwChecks (s : State) (l : List Nat) (al : Except Stop Unit) (host counter : Bool) : Except Stop Unit := do
  preCheck false l al
  checkAll l (fun a => regionOf a != 5 || host) .addr
  checkAll l (fun a => regionOf a != 6) (if counter then .addr else .wsWrite)
  checkAll l (step4 s.mySlot) .addr
  checkAll l (step5 s.mySlot) .perm

/-- The counter checks of R222. -/
def State.counterChecks (s : State) (ea : Word) : Except Stop Unit :=
  s.rmwChecks (span ea 16) (aligned ea 16) false true

/-- The locations of bytes of a read-modify-write by the executing context, once its own earlier updates of them have
performed (R195). -/
def State.rmwLocs (s : State) (scope : Nat) (ea : Word) (n : Nat) : Except Stop (List Loc) := do
  let locs ← s.locateRmw s.agent (span ea n)
  ready (!s.blocked false 1 (span ea n) && !s.portBusy s.agent scope ea.toNat)
  .ok locs

/-- The host physical address of an access to region 5. -/
def hostOf : List Loc → Option Nat
  | .host h :: _ => some h
  | _ => none

/-- The 64-bit pattern in the low bits of a number. -/
def word64 (v : Nat) : Word := BitVec.ofNat 64 v

/-! `amo` and `cas` (R224, R225, R235). -/

/-- Whether an `amo` may address host memory (R222, R235). -/
def amoHost : AmoOp → Bool
  | .add | .swap => true
  | _ => false

/-- The executing context has had the host's answer to an atomic: it knows the events that the old value came from, and that
of the new value, if the atomic wrote one (R217). -/
def State.learnHost (s : State) (a : Attr) (ea : Word) (locs : List Loc) (h : Nat) (new : Option (List Byte)) : State :=
  let s1 := s.learnRead a [locs] (s.hostEvents ((span ea locs.length).zip locs))
  match new with
  | none => s1
  | some bs =>
    let at_ := a.at locs
    let (made, s2) := s1.hostMade .rmw at_ (s.passing.rels at_) (bs.zipIdx.map (fun b => (h + b.2, b.1)))
    s2.learnWrite made

/-- The update of `amo` at its point: the old value, and the state after (R224, R235). -/
def State.amoAt (s : State) (a : Attr) (op : AmoOp) (ea : Word) (n y : Nat) (locs : List Loc) : Except Stop (Nat × State) :=
  match hostOf locs with
  | some h =>
    match aget s.answers ea.toNat with
    | some bs => .ok (leNat bs, s.learnHost a ea locs h (some (bytesOf n (amoNew op (8 * n) (leNat bs) y))))
    | none => s.askHost ea.toNat h (.amo op n (BitVec.ofNat 64 y))
  | none => .ok (s.atomically a locs (fun x => some (bytesOf n (amoNew op (8 * n) x y))))

/-- `amo` (R224). -/
def execAmo (g : Guard) (op : AmoOp) (dbl : Bool) (ord : MemOrd) (scope : BitVec 5) (d : SDst) (m : MemOp) (c : SSrc)
    (s : State) : Host.Outcome State Fault Refusal :=
  runInstr g 12 s (fun s => do
    s.dstReady d
    let (ea, s1) ← s.memEa m
    let (y, s2) ← s1.readS c
    let n := if dbl then 8 else 4
    s2.scopeCheck true scope.toNat (atHost ea)
    s2.rmwChecks (span ea n) (aligned ea n) (amoHost op) false
    s2.order (releases ord) scope ea
    let locs ← s2.rmwLocs scope.toNat ea n
    let (x, s3) ← s2.amoAt (s2.attr ord scope.toNat) op ea n (y.toNat % 2 ^ (8 * n)) locs
    s3.writeS d (word64 x))

/-- A scalar destination as the source that `cas` reads (R225). -/
def SDst.asSrc : SDst → SSrc
  | .g n => .g n
  | .o n => .o n
  | .zr => .zr
  | .q n => .q n

/-- The comparison of `cas` at its point: the old value, and the state after; a failed `cas` is a read (R225, R235). -/
def State.casAt (s : State) (a : Attr) (ea : Word) (n e v : Nat) (locs : List Loc) : Except Stop (Nat × State) :=
  match hostOf locs with
  | some h =>
    match aget s.answers ea.toNat with
    | some bs => .ok (leNat bs, s.learnHost a ea locs h (if leNat bs = e then some (bytesOf n v) else none))
    | none => s.askHost ea.toNat h (.cas n (BitVec.ofNat 128 e) (BitVec.ofNat 128 v))
  | none => .ok (s.atomically a locs (fun x => if x = e then some (bytesOf n v) else none))

/-- `cas` (R225). -/
def execCas (g : Guard) (sz : Size) (ord : MemOrd) (scope : BitVec 5) (ps : BitVec 3) (d : SDst) (m : MemOp) (c : SSrc)
    (s : State) : Host.Outcome State Fault Refusal :=
  runInstr g 12 s (fun s => do
    s.dstReady d
    let (ea, s1) ← s.memEa m
    let (v, s2) ← s1.readS c
    let (e, s3) ← s2.readS (SDst.asSrc d)
    let n := sz.bytes
    let ev := (e.toNat + 2 ^ 64 * (s.readHigh (SDst.asSrc d)).toNat) % 2 ^ (8 * n)
    let vv := (v.toNat + 2 ^ 64 * (s.readHigh c).toNat) % 2 ^ (8 * n)
    s3.scopeCheck true scope.toNat (atHost ea)
    s3.rmwChecks (span ea n) (aligned ea n) true false
    s3.order (releases ord) scope ea
    let locs ← s3.rmwLocs scope.toNat ea n
    let (x, s4) ← s3.casAt (s3.attr ord scope.toNat) ea n ev vv locs
    let s5 ← (match sz with
      | .q => s4.writePair d (word64 x) (word64 (x / 2 ^ 64))
      | _ => s4.writeS d (word64 x))
    .ok (s5.writeP ps (decide (x = ev))))

/-! `red` (R226, R227). -/

/-- Checks at issue that a lost block or an expired window would make, apart from page faults, which the posted update
meets itself (R223, R336). -/
def State.issueLocate (s : State) (l : List Nat) : Except Stop Unit :=
  match s.locateRmw s.agent l with
  | .ok _ => .ok ()
  | .error (.fault _ _) => .ok ()
  | .error x => .error x

/-- Posts updates with the arrival that follows them (R226, R227). -/
def State.post (s : State) (ord : MemOrd) (scope : BitVec 5) (us : List Update) (ctr : Option Word) : State :=
  let (k, s1) := s.freshGroup
  let all := us ++ (match ctr with
    | some a => [.arrive a]
    | none => [])
  let t := s1.myTile
  s1.setTile s1.cur.tile { t with posted := t.posted ++ all.map (s1.postOf ord scope.toNat k) }

/-- Reads the counter operand of a reduction; none for `zr` (R222). A queue named in D is popped after those of A, B and C,
whose order alone R35 gives (notes/assumptions/20.md). -/
def State.counterOf (s : State) (ctr : SSrc) : Except Stop (Option Word × State) :=
  match ctr with
  | .zr => .ok (none, s)
  | _ => (s.readS ctr).map (fun p => (some p.1, p.2))

/-- The checks of the scope of a reduction and of its counter, once every queue that it pops is known to hold an entry (R35,
R222). -/
def State.redScope (s : State) (scope : BitVec 5) (host : Bool) (ctr : Option Word) : Except Stop Unit := do
  s.scopeCheck true scope.toNat host
  match ctr with
  | none => .ok ()
  | some a => s.scopeCheck true scope.toNat (atHost a)

/-- The checks of the counter of a reduction (R222). -/
def State.counterOk (s : State) : Option Word → Except Stop Unit
  | none => .ok ()
  | some a => do
    s.counterChecks a
    s.issueLocate (span a 8)

/-- A reduction that releases, as every one in region 0 does, waits at scope 3 for earlier host writes (R199, R217). -/
def State.flushFor (s : State) (rel : Bool) (scope : BitVec 5) (ea : Word) : Except Stop Unit :=
  if (rel || regionOf ea.toNat == 0) && scope == 3 then s.flushHost ea else .ok ()

/-- `red`, scalar (R226). -/
def execRed (g : Guard) (op : AmoOp) (dbl rel : Bool) (scope : BitVec 5) (ctr : SSrc) (m : MemOp) (c : SSrc)
    (s : State) : Host.Outcome State Fault Refusal :=
  runInstr g 12 s (fun s => do
    let (ea, s1) ← s.memEa m
    let (y, s2) ← s1.readS c
    let n := if dbl then 8 else 4
    let (k, s3) ← s2.counterOf ctr
    s3.redScope scope (atHost ea) k
    s3.rmwChecks (span ea n) (aligned ea n) (op == .add) false
    s3.issueLocate (span ea n)
    s3.counterOk k
    s3.flushFor rel scope ea
    .ok (s3.post (relOrd rel) scope [.rmw op n ea (BitVec.ofNat 64 (y.toNat % 2 ^ (8 * n)))] k))

/-- `red`, vector: 32 events of 4 bytes (R226). -/
def execRedVector (g : Guard) (op : AmoOp) (rel : Bool) (scope : BitVec 5) (ctr : SSrc) (m : MemOp) (c : VSrc)
    (s : State) : Host.Outcome State Fault Refusal :=
  runInstr g 12 s (fun s => do
    let (ea, s1) ← s.memEa m
    let (k, s2) ← s1.counterOf ctr
    s2.redScope scope (atHost ea) k
    s2.rmwChecks (span ea 128) (aligned ea 128) false false
    s2.issueLocate (span ea 128)
    s2.counterOk k
    s2.flushFor rel scope ea
    let v := s2.readV c
    .ok (s2.post (relOrd rel) scope ((List.range 32).map (fun i =>
      .rmw op 4 (ea + BitVec.ofNat 64 (4 * i)) (BitVec.ofNat 64 (elem v 32 i)))) k))

/-! Fences (R204, R228). -/

/-- Whether every earlier read-modify-write of the executing context has performed: what an acquire fence waits for. -/
def State.readsDone (s : State) : Bool :=
  s.ownPosted.all (fun p => match p.upd with
    | .store .. | .packed _ => true
    | _ => false)

/-- `fence.acq` (R228): the releases that earlier reads met, at scopes that reach each other, come before what follows
(R204). -/
def execFenceAcq (g : Guard) (scope : BitVec 5) (s : State) : Host.Outcome State Fault Refusal :=
  runInstr g 8 s (fun s => do
    s.scopeCheck false scope.toNat false
    ready (s.readsDone && s.hostRmwsDone)
    .ok (s.fenceAcquires scope.toNat))

/-- `fence.rel` (R228). -/
def execFenceRel (g : Guard) (scope : BitVec 5) (s : State) : Host.Outcome State Fault Refusal :=
  runInstr g 8 s (fun s => do
    s.scopeCheck false scope.toNat false
    s.release scope.toNat 0
    .ok (s.fenceReleases scope.toNat))

/-- `fence.sc` (R228): both of these, and its place in the sc order (R203). -/
def execFenceSc (g : Guard) (scope : BitVec 5) (s : State) : Host.Outcome State Fault Refusal :=
  runInstr g 8 s (fun s => do
    s.scopeCheck false scope.toNat false
    s.release scope.toNat 0
    .ok (s.fenceFull scope.toNat))

/-! Counters (R229 to R232). -/

/-- `cadd` (R229). -/
def execCadd (g : Guard) (ord : MemOrd) (scope : BitVec 5) (m : MemOp) (c : SSrc) (s : State) :
    Host.Outcome State Fault Refusal :=
  runInstr g 12 s (fun s => do
    let (ea, s1) ← s.memEa m
    let (a, s2) ← s1.readS c
    s2.scopeCheck true scope.toNat (atHost ea)
    s2.counterChecks ea
    need (!a.getLsbD 63) .counterNeg ea
    s2.order (releases ord) scope ea
    let locs ← s2.rmwLocs scope.toNat ea 8
    let (v, s3) := s2.atomically (s2.attr ord scope.toNat) locs
      (fun v => if 2 ^ 64 ≤ v + a.toNat then none else some (bytesOf 8 (v + a.toNat)))
    let past := decide (2 ^ 64 ≤ v + a.toNat)
    if past then .error (.trapIn s3 .counterOvf ea) else .ok s3)

/-- Reads VALUE of the counter at an address (R230, R231): a read at TILE or HOME (R208, R220). One that fails its test
synchronises with nothing (R230). -/
def State.readCounter (s : State) (acq : Bool) (passes : Word → Bool) (scope : Nat) (ea : Word) :
    Except Stop (Word × State) := do
  let locs ← s.locate s.agent false false 1 (span ea 8)
  ready (!s.blocked false 1 (span ea 8))
  let a := s.attr (acqOrd acq) scope
  let r := s.rmwAs false a s.me.view.own s.passing locs (fun _ => none)
  let v := word64 r.old
  .ok (v, r.after.learnRead a (if passes v then [locs] else []) r.got)

/-- Reads a timeline of the executing core: one that passes its test comes after every operation that the value counts
(R212). -/
def State.readTimeline (s : State) (matrix : Bool) (passes : Word → Bool) : Word × State :=
  let n := if matrix then s.myJob.matTl else s.myJob.copyTl
  let c := s.me
  let done := s.record.performed.filter (fun p => p.tile == s.cur.tile && p.core == s.cur.core
    && p.job == jobKey c.slot c.jtile && p.matrix == matrix && decide (p.num ≤ n))
  let v := word64 n
  (v, if s.record.keep && passes v then
    s.setMe { c with view := done.foldl (fun x p => x.meet p.seen) c.view } else s)

/-- Reads the counter at an address, or a timeline (R212, R219, R230, R231); `acq` is whether the read is ordered. -/
def State.readSource (s : State) (acq : Bool) (passes : Word → Bool) (src : CtrSrc) (ea : Word) :
    Except Stop (Word × State) :=
  match src with
  | .copyTl => .ok (s.readTimeline false passes)
  | .matTl => .ok (s.readTimeline true passes)
  | .mem _ scope => do
    s.scopeCheck acq scope.toNat (atHost ea)
    s.counterChecks ea
    s.order false scope ea
    s.readCounter acq passes scope.toNat ea

/-- The device tile at which a counter's updates are watched, and whether its LLC slice holds the watch (R220). -/
def State.watchPoint (s : State) (ea : Word) : Nat × Bool :=
  let a := ea.toNat
  if regionOf a = 7 then (s.mySlot.devTile (s.agent.target a), false) else (s.sliceOf s.mySlot.asid a, true)

/-- Whether an execution point has a free watch of its 64 (R220). -/
def State.freeWatch (s : State) (p : Nat × Bool) : Bool :=
  decide (((s.tile p.1).watches.filter (fun w => w.slice == p.2)).length < 64)

/-- Whether a watch belongs to a context. -/
def Watch.isOf (w : Watch) (id : CtxId) : Bool := w.owner == id

/-- Frees the watches of a context (R220, R230). -/
def State.dropWatches (s : State) (id : CtxId) : State :=
  { s with tiles := s.tiles.map (fun p => (p.1, { p.2 with watches := p.2.watches.filter (fun w => !w.isOf id) })) }

/-- Installs a watch for `n`, which is compared with VALUE at once, for the read may have missed an update of another point;
with none free the `cwait` re-reads, and its execution point counts it once (R220). -/
def State.beginWatch (s : State) (ea n : Word) : State :=
  let p := s.watchPoint ea
  let t := s.tile p.1
  let c := s.me
  if s.freeWatch p then
    ((s.setTile p.1 { t with watches := t.watches ++ [⟨s.cur, c.gen, c.slot, p.2, ea, n⟩] }).setMe
      { s.me with wait := .watch }).respond
  else
    let u := match c.wait with
      | .reread .. => s
      | _ => s.setTile p.1 (if p.2 then { t with sliceRereads := t.sliceRereads + 1 } else { t with rereads := t.rereads + 1 })
    u.setMe { u.me with wait := .reread s.time false }

/-- A blocking `cwait` may not run in a handler context (R79). -/
def State.mayBlock (s : State) : Except Stop Unit := need (s.inProg || !s.me.handler) .queue 0

/-- The address of a counter source, with its pops; a timeline has none. -/
def State.sourceEa (s : State) : CtrSrc → Except Stop (Word × State)
  | .mem m _ => s.memEa m
  | _ => .ok (0, s)

/-- The operands of a `cwait`, with their pops: the address of its counter, and n. -/
def State.cwaitOperands (s : State) (src : CtrSrc) (c : SSrc) : Except Stop (Word × Word × State) := do
  let (ea, s1) ← s.sourceEa src
  let (n, s2) ← s1.readS c
  .ok (ea, n, s2)

/-- The test of a `cwait` (R230). -/
def reaches (n v : Word) : Bool := decide (n.toNat ≤ v.toNat)

/-- The acquire of an answer that a watch gave (R220, R230). -/
def State.learnAnswer (s : State) (src : CtrSrc) (ea : Word) (got : Seen) : State :=
  match src with
  | .mem _ scope =>
    match s.locate s.agent false false 1 (span ea 8) with
    | .ok locs => s.learnRead (s.attr .acq scope.toNat) [locs] got
    | .error _ => s
  | _ => s

/-- `cwait` (R230): the value read when it is enough; else a watch, a re-read or a wait for the timeline. -/
def execCwait (g : Guard) (src : CtrSrc) (d : SDst) (c : SSrc) (s : State) : Host.Outcome State Fault Refusal :=
  runInstr g 12 s (fun s => do
    s.mayBlock
    s.dstReady d
    let (ea, n, s1) ← s.cwaitOperands src c
    match s.me.wait with
    | .watch => .error .stall
    | .answered v got => (s1.learnAnswer src ea got).writeS d v
    | _ => do
      let (v, s2) ← s.readSource true (reaches n) src ea
      if reaches n v then
        let (_, _, s3) ← s2.cwaitOperands src c
        s3.writeS d v
      else
        match src with
        | .mem .. => .error (.wait (s2.beginWatch ea n))
        | _ => .error .stall)

/-- What a twin makes of an instruction that would wait: nothing (R32). -/
def neverWaits {α : Type} (x : Except Stop α) : Except Stop (Option α) :=
  match x with
  | .ok a => .ok (some a)
  | .error .stall | .error (.ask ..) | .error (.fold _) => .ok none
  | .error e => .error e

/-- `cwait.nb` tests once (R230). It never waits, so that a read which would have to leaves p[PS] at 0 (R32); then it pops
nothing (notes/assumptions/20.md). -/
def execCwaitNb (g : Guard) (ps : BitVec 3) (src : CtrSrc) (d : SDst) (c : SSrc) (s : State) :
    Host.Outcome State Fault Refusal :=
  runInstr g 12 s (fun s => do
    s.dstReady d
    let (ea, n, _) ← s.cwaitOperands src c
    match ← neverWaits (s.readSource true (reaches n) src ea) with
    | none => .ok (s.writeP ps false)
    | some (v, s2) =>
      if reaches n v then
        let (_, _, s3) ← s2.cwaitOperands src c
        (s3.writeS d v).map (fun t => t.writeP ps true)
      else .ok (s2.writeP ps false))

/-- CWAIT_REREAD: a `cwait` without a watch may read again after 128 core clocks (R220). -/
def execCwaitReread (tile core ctx : Nat) (s : State) : Host.Outcome State Fault Refusal :=
  runEvent s (
    let id : CtxId := ⟨tile, core, ctx⟩
    let c := s.ctx id
    match c.wait with
    | .reread since false => if since + 128 ≤ s.time then some (s.setCtx id { c with wait := .reread since true }) else none
    | _ => none)

/-- `cread` (R231). -/
def execCread (g : Guard) (acq : Bool) (src : CtrSrc) (d : SDst) (s : State) : Host.Outcome State Fault Refusal :=
  runInstr g 12 s (fun s => do
    s.dstReady d
    let (ea, s1) ← s.sourceEa src
    let (v, s2) ← s1.readSource acq (fun _ => true) src ea
    s2.writeS d v)

/-- The end of the range that `claim` returns (R232). -/
def claimEnd (c n p minc : Nat) : Nat :=
  if n ≤ c then c else Nat.min n (c + Nat.max minc ((n - c + 2 * p - 1) / (2 * p)))

/-- `claim` (R232). -/
def execClaim (g : Guard) (ord : MemOrd) (scope : BitVec 5) (d : BitVec 6) (m : MemOp) (c : SSrc) (s : State) :
    Host.Outcome State Fault Refusal :=
  runInstr g 12 s (fun s => do
    let (ea, s1) ← s.memEa m
    let (x, s2) ← s1.readS c
    s2.scopeCheck true scope.toNat (atHost ea)
    s2.counterChecks ea
    s2.order (releases ord) scope ea
    let locs ← s2.rmwLocs scope.toNat ea 16
    let upto (v : Nat) : Nat :=
      claimEnd (v % 2 ^ 64) (v / 2 ^ 64) (Nat.max 1 (bits x.toNat 0 32)) (Nat.max 1 (bits x.toNat 32 32))
    let (v, s3) := s2.atomically (s2.attr ord scope.toNat) locs
      (fun v => if v % 2 ^ 64 = upto v then none else some (bytesOf 8 (upto v)))
    s3.writePair (.g d) (word64 v) (word64 (upto v)))

end Sys2Proof.Machine
end

