-- ==== Sys2Proof/Machine/Late.lean ====
section
/-! DEFINITION. Loads that take their values after later accesses of their context (spec/08 R198, R202; spec/04 R91;
notes/assumptions/3.md): which instructions may issue meanwhile, how a load is put off, and how it lands. -/

namespace Sys2Proof.Machine

/-! What an instruction reads. -/

/-- A scalar source with the one after it, the high half of a 16-byte operand (R181). -/
def SSrc.pair : SSrc → List SSrc
  | .g n => [.g n, .g (n + 1)]
  | a => [a]

/-- The scalar sources of an address. -/
def MemOp.sources (m : MemOp) : List SSrc := [m.base, m.index]

/-- A run of v registers. -/
def vrun (r : BitVec 5) (n : Nat) : List VSrc := (List.range n).map (fun i => .v (BitVec.ofNat 5 (r.toNat + i)))

/-- The scalar and vector sources of an instruction that may issue while an earlier load of its context is late; none for one
that waits for every earlier load: it orders them, leaves the context, or takes its sources otherwise. -/
def Instr.sources : Instr → Option (List SSrc × List VSrc)
  | .nop .. | .br .. | .jmp .. | .call .. | .plog .. | .who .. | .li .. | .vmpop .. | .vmlog .. => some ([], [])
  | .jr _ a | .callr _ _ a | .ret _ a => some ([a], [])
  | .pmov _ _ f => some ((match f with
      | .toPred a | .toMask a => [a]
      | .fromPred _ | .fromMask _ => []), [])
  | .mov _ _ a | .addi _ _ a _ | .muli _ _ a _ | .andi _ _ a _ | .ori _ _ a _ | .xori _ _ a _ | .shli _ _ a _
  | .shri _ _ a _ | .sari _ _ a _ | .roli _ _ a _ | .abs _ _ _ a | .neg _ _ _ a | .cmpi _ _ _ a _ | .clz _ _ _ a
  | .ctz _ _ _ a | .popc _ _ _ a | .brev _ _ _ a | .bfx _ _ _ a _ _ | .ext _ _ _ a => some ([a], [])
  | .add _ _ _ a b | .sub _ _ _ a b | .mul _ _ _ a b | .mulh _ _ _ a b | .div _ _ _ a b | .rem _ _ _ a b
  | .and _ _ _ a b | .or _ _ _ a b | .xor _ _ _ a b | .andn _ _ _ a b | .shl _ _ _ a b | .shr _ _ _ a b
  | .sar _ _ _ a b | .rol _ _ _ a b | .min _ _ _ a b | .max _ _ _ a b | .sel _ _ _ a b | .cmp _ _ _ _ a b
  | .bfi _ _ a b _ _ | .lea _ _ a b _ _ => some ([a, b], [])
  | .fsqrt _ _ _ _ a | .frcp _ _ _ _ a | .frsq _ _ _ _ a | .fabs _ _ _ a | .fneg _ _ _ a | .fclass _ _ _ a
  | .fcvt _ _ _ _ _ a | .faddi _ _ a _ | .fmuli _ _ a _ => some ([a], [])
  | .fadd _ _ _ _ a b | .fsub _ _ _ _ a b | .fmul _ _ _ _ a b | .fdiv _ _ _ _ a b | .fmin _ _ _ a b
  | .fmax _ _ _ a b | .fcmp _ _ _ _ a b => some ([a, b], [])
  | .fma _ _ _ _ a b c => some ([a, b, c], [])
  | .vabs _ _ _ _ a | .vneg _ _ _ _ a | .vaddi _ _ a _ | .vred _ _ _ _ _ a | .vscan _ _ _ _ _ a | .vmov _ _ _ a
  | .vfabs _ _ _ _ _ a | .vexp2 _ _ _ _ a | .vlog2 _ _ _ _ a | .vrcp _ _ _ _ a | .vrsq _ _ _ _ a
  | .vfred _ _ _ _ _ _ a => some ([], [a])
  | .vadd _ _ _ _ a b | .vsub _ _ _ _ a b | .vmul _ _ _ _ a b | .vmin _ _ _ _ a b | .vmax _ _ _ _ a b
  | .vand _ _ _ _ a b | .vor _ _ _ _ a b | .vxor _ _ _ _ a b | .vshl _ _ _ _ a b | .vshr _ _ _ _ a b
  | .vsar _ _ _ _ a b | .vcmp _ _ _ _ _ a b | .vsel _ _ _ a b | .vfadd _ _ _ _ _ a b | .vfsub _ _ _ _ _ a b
  | .vfmul _ _ _ _ _ a b | .vfmin _ _ _ _ a b | .vfmax _ _ _ _ a b | .vfcmp _ _ _ _ _ a b => some ([], [a, b])
  | .vmad _ _ _ _ a b x | .vperm _ _ _ _ a b x | .vfma _ _ _ _ _ a b x => some ([], [a, b, x])
  | .vbcast _ _ _ _ a => some ([a], [])
  | .vextr _ _ _ a b => some ([b], [a])
  | .vins _ _ _ a b => some ([a, b], [])
  | .vmovToIndex _ a b => some ([b], [a])
  | .vfcvt _ _ _ _ _ _ _ a row => some ([row], [a])
  | .ld _ _ _ _ _ _ _ _ m => some (MemOp.sources m, [])
  | .st _ _ _ _ _ m c => some (MemOp.sources m ++ SSrc.pair c, [])
  | .vld _ _ _ _ _ _ _ _ m => some (MemOp.sources m, [])
  | .vst _ _ _ _ _ _ m c => some (MemOp.sources m, [c])
  | .vldx _ _ _ _ _ _ _ _ _ b i _ _ => some ([b], [i])
  | .vstx _ _ _ _ _ _ b i _ _ c => some ([b], [i, c])
  | .tld _ _ _ _ _ _ _ _ a b => some ([a, b], [])
  | .tst _ _ _ _ _ _ a b c => some ([a, b], [c])
  | .hgl _ _ _ _ _ _ _ a b => some ([b], vrun a 8)
  | .hgw _ _ _ _ a b c => some ([b, c], vrun a 8)
  | .amo _ _ _ _ _ _ m c => some (MemOp.sources m ++ [c], [])
  | .cas _ _ _ _ _ _ m c => some (MemOp.sources m ++ SSrc.pair c, [])
  | .cadd _ _ _ m c => some (MemOp.sources m ++ [c], [])
  | _ => none

/-- The plain loads, whose values may be taken late. -/
def Instr.plainLoad : Instr → Bool
  | .ld _ _ _ ord .. => ord == .plain
  | .vld _ _ _ acq .. | .vldx _ _ _ acq .. | .tld _ _ acq .. | .hgl _ acq .. => !acq
  | _ => false

/-- Whether a source is the result of a late load, or is a register that holds it. -/
def Late.feeds (x : Late) : SSrc → Bool
  | .g n => x.g.getLsbD n.toNat
  | .lat => x.lat
  | _ => false

/-- The same of a vector source. -/
def Late.feedsV (x : Late) : VSrc → Bool
  | .v n => x.v.getLsbD n.toNat
  | .lat => x.vlat
  | _ => false

/-- The late loads of a context. -/
def State.lateOf (s : State) (id : CtxId) : List Late := s.late.filter (fun x => x.owner == id)

/-- Whether an instruction may issue while loads of its context are late: its sources are ready (R91). -/
def Instr.mayPass (i : Instr) (late : List Late) : Bool :=
  late.isEmpty || (match Instr.sources i with
    | none => false
    | some (a, v) => late.all (fun x => !a.any x.feeds && !v.any x.feedsV))

/-- Whether an instruction takes a source that changes when it is read, or later. -/
def Instr.movingSource (i : Instr) : Bool :=
  match Instr.sources i with
  | none => true
  | some (a, _) => a.any (fun x => match x with
    | .q _ | .i _ => true
    | _ => false)

/-! Issue beside late loads. -/

/-- Dirty bits of either. -/
def Dirty.join (a b : Dirty) : Dirty :=
  ⟨a.g ||| b.g, a.o ||| b.o, a.lat || b.lat, a.v ||| b.v, a.vo ||| b.vo, a.vlat || b.vlat, a.p || b.p, a.m ||| b.m, a.q || b.q⟩

/-- The trial of an instruction with the context's dirty bits clear, so that they tell what it writes, and with a trace of
what it reads. -/
def State.forTrial (s : State) (id : CtxId) : State :=
  let s1 := s.setCtx id { s.ctx id with dirty := Dirty.clear }
  { s1 with record := { s1.record with trace := some [] } }

/-- The late loads of a context after an instruction that wrote a latch: that latch no longer waits for them. -/
def passLatches (id : CtxId) (d : Dirty) (l : List Late) : List Late :=
  l.map (fun x => if x.owner = id then { x with lat := x.lat && !d.lat, vlat := x.vlat && !d.vlat } else x)

/-- Whether a load that has been tried may be put off: it has completed, and all that it did was to write g or v registers
and the latches from bytes that it may read later. -/
def State.mayDelay (s t : State) (id : CtxId) (i : Instr) : Bool :=
  let c := t.ctx id
  let d := c.dirty
  s.record.keep && s.record.delay && Instr.plainLoad i && !Instr.movingSource i && c.wait == .none && c.csr == (s.ctx id).csr
    && d.o == 0 && d.vo == 0 && !d.q && !d.p && d.m == 0
    && (match t.record.trace with
      | some (_ :: _) => true
      | _ => false)

/-- The load is put off: control flows on, and its registers keep their values until it lands. -/
def State.putOff (s t : State) (id : CtxId) (i : Instr) : State :=
  let c := s.ctx id
  let u := t.ctx id
  let d := u.dirty
  let x : Late := ⟨id, i, c.r, (t.record.trace).getD [], d.g, d.v, d.lat, d.vlat⟩
  let s1 := s.setCtx id { c with r := { c.r with pc := u.r.pc }, fetched := u.fetched, wanted := u.wanted, wait := .none }
  { s1 with late := passLatches id d s1.late ++ [x] }

/-- An instruction issues beside late loads, or where loads may become late: it writes no register that a late load is to
write, and a plain load may itself be put off. -/
def issueBeside (ex : Instr → State → Host.Outcome State Fault Refusal) (s : State) (id : CtxId) (i : Instr) :
    Option (Host.Outcome State Fault Refusal) :=
  let late := s.lateOf id
  if !Instr.mayPass i late then none
  else
    match ex i (s.forTrial id) with
    | .next t =>
      let d := (t.ctx id).dirty
      if t.stalled || late.any (fun x => x.g &&& d.g != 0 || x.v &&& d.v != 0) then none
      else if s.mayDelay t id i then some (.next (s.putOff t id i))
      else
        let t1 := t.setCtx id { t.ctx id with dirty := (s.ctx id).dirty.join d }
        some (.next { t1 with late := passLatches id d t1.late, record := { t1.record with trace := none } })
    | o => some o

/-- An instruction of a context issues; none when it is not ready. -/
def issueInstr (ex : Instr → State → Host.Outcome State Fault Refusal) (s : State) (id : CtxId) (i : Instr) :
    Option (Host.Outcome State Fault Refusal) :=
  let v := { s with cur := id, inProg := false, stalled := false }
  if s.record.delay || !s.late.isEmpty then issueBeside ex v id i
  else
    match ex i v with
    | .next t => if t.stalled then none else some (.next t)
    | o => some o

/-! Landing. -/

/-- Registers of a context with those that a load has written. -/
def Late.merge (x : Late) (r u : Regs) : Regs :=
  { r with
    g := Vector.ofFn (fun i : Fin 64 => if x.g.getLsbD i.val then u.g[i.val] else r.g[i.val])
    v := Vector.ofFn (fun i : Fin 32 => if x.v.getLsbD i.val then u.v[i.val] else r.v[i.val])
    lat := if x.lat then u.lat else r.lat
    vlat := if x.vlat then u.vlat else r.vlat }

/-- The n-th late load takes its value: the instruction runs with the registers it issued with, and what it writes goes into
its registers. It has reached the scratchpads that it names, and waits for no job tile any more (R361). -/
def landAt (ex : Instr → State → Host.Outcome State Fault Refusal) (s : State) (n : Nat) : Option State :=
  match s.late[n]? with
  | none => none
  | some x =>
    let c := s.ctx x.owner
    let open_ := (s.slot c.slot).loads.map (fun p => (p.1, 0))
    let s1 := s.setCtx x.owner { c with r := x.regs, wait := .none, waited := open_ }
    match ex x.instr { s1 with cur := x.owner, inProg := false, stalled := false, late := [] } with
    | .next t =>
      let u := t.ctx x.owner
      if t.stalled || u.wait != .none || u.csr != c.csr then none
      else
        let d : Dirty := { Dirty.clear with g := x.g, v := x.v, lat := x.lat, vlat := x.vlat }
        let t1 := t.setCtx x.owner { c with r := x.merge c.r u.r, dirty := c.dirty.join d, view := u.view }
        some { t1 with cur := s.cur, inProg := s.inProg, stalled := s.stalled, late := s.late.eraseIdx n }
    | _ => none

/-- Every late load takes its value, the oldest first; `n` bounds their number. -/
def landSome (ex : Instr → State → Host.Outcome State Fault Refusal) (s : State) : Nat → State
  | 0 => s
  | n + 1 =>
    match landAt ex s 0 with
    | some t => landSome ex t n
    | none => s

/-- Every late load takes its value. -/
def landAll (ex : Instr → State → Host.Outcome State Fault Refusal) (s : State) : State := landSome ex s s.late.length

/-- The events that may come between a load's issue and its landing: those of memory and of the fetch port. Before any other
event every late load lands. -/
def Instr.besideLate : Instr → Bool
  | .accessPerform .. | .arrival .. | .sideLogReplay .. | .wideUpdate _ | .copyGranule .. | .nmopLineUpdate ..
  | .matrixTileStep .. | .fetchDelivery _ | .icacheFill .. => true
  | _ => false

end Sys2Proof.Machine
end

