-- ==== Sys2Proof/Machine/Issue.lean ====
section
/-! DEFINITION. Issue choice (spec/04 R91, R92, spec/11 R266), the fetch of an instruction's bytes, the passing of time,
and the schedule that the state holds (notes/assumptions/2.md). The meaning of an instruction is a parameter here, so
that the step only calls these. -/

namespace Sys2Proof.Machine

/-- The core clock in MHz is between 800 and 1600 (R19): ticks of WSTIME in one core clock, in units of 1/720720. -/
def Mgmt.tickOf (m : Mgmt) : Nat := 720720 * 16 / (Nat.max 8 (m.clock / 100))

/-- Core clocks pass (R109, R332). -/
def State.tick (s : State) (n : Nat) : State :=
  { s with time := s.time + n, ticks := s.ticks + n * s.mg.tickOf }

/-! Fetching. -/

/-- The bits of the block at an address and above it. -/
def blockBits (blk : BitVec 256) (pc : Word) : Nat := blk.toNat / 2 ^ (8 * (pc.toNat % 32))

/-- The instruction at an address of a block, as the decoder reads its bytes (R20, R47). -/
def instrAt (blk : BitVec 256) (pc : Word) : Except Reason Instr :=
  (decode (bytesOf 16 (blockBits blk pc))).map Prod.fst

/-- The block of the fetch buffer that holds the next instruction (R97). -/
def fetchedBlock (f : List (Word × BitVec 256)) (pc : Word) : Option (BitVec 256) :=
  (f.find? (fun p => p.1 == blockOf pc)).map Prod.snd

/-! Which contexts may issue. -/

/-- Whether a wait ends only with its own instruction, so that a trap or a stop waits for it (R131, R186, R234, R291,
R391). -/
def Wait.uninterrupted : Wait → Bool
  | .outcome .. | .host .. | .tdef | .flow .. | .answered .. => true
  | _ => false

/-- The pending traps that may be taken: while a handler runs only CANCEL and HALT_REQ (R373). -/
def Ctx.takeable (c : Ctx) : List Pending :=
  if c.inTrap then c.pend.filter (fun p => p.code == 0x0E || p.code == 0x18) else c.pend

/-- The pending trap that a boundary takes: HALT_REQ, then CANCEL, then the oldest (R373). -/
def pickPending (l : List Pending) : Option Pending :=
  match l.find? (fun p => p.code == TrapCode.haltReq.num), l.find? (fun p => p.code == TrapCode.cancel.num) with
  | some p, _ => some p
  | none, some p => some p
  | none, none => l.head?

/-- Whether the trap that the context takes next is CANCEL, which takes its issue slot (R94). -/
def Ctx.cancelDue (c : Ctx) : Bool :=
  match pickPending c.takeable with
  | some p => p.code == TrapCode.cancel.num
  | none => false

/-- Whether the context is stopped by a pre-emption in progress on its tile (R379 step 2). -/
def Tile.stops (t : Tile) (c : Ctx) : Bool := (aget t.stopping c.slot).isSome

/-- Whether a context may execute its next instruction, apart from that instruction's own conditions (R91, R373). -/
def Ctx.mayIssue (c : Ctx) (t : Tile) : Bool :=
  c.active && t.runs c.slot c.jtile &&
    (match c.wait with
     | .fault _ | .ending _ => false
     | .reread _ r => r
     | .outcome _ r => r.isSome
     | w => w.uninterrupted || (c.takeable.isEmpty && !t.stops c))

/-- The trial of one context's instruction: not ready, or its outcome. -/
def instrTrial (ex : Instr → State → Host.Outcome State Fault Refusal) (s : State) (id : CtxId) :
    Option (Host.Outcome State Fault Refusal) :=
  let c := s.ctx id
  if !c.mayIssue (s.tile id.tile) then none
  else
    match fetchedBlock c.fetched c.r.pc with
    | none => none
    | some blk =>
      match instrAt blk c.r.pc with
      | .error _ => some (.fault .illegalWord)
      | .ok i => issueInstr ex s id i

/-- Whether an event changes anything. -/
def eventTurn (ex : Instr → State → Host.Outcome State Fault Refusal) (s : State) (e : Instr) : Option State :=
  match ex e s with
  | .next t => if t = s then none else some t
  | _ => none

/-- What a context does with an issue slot: the trap of a forbidden transfer that waited, or CANCEL in place of its
instruction (R94), or its instruction. -/
def trial (ex : Instr → State → Host.Outcome State Fault Refusal) (s : State) (id : CtxId) :
    Option (Host.Outcome State Fault Refusal) :=
  let c := s.ctx id
  let v := { s with cur := id, inProg := false, stalled := false }
  match c.wait with
  | .flow code val =>
    if c.active && (s.tile id.tile).runs c.slot c.jtile && !v.wideBusy then
      some (.next (v.takeTrap (trapOf code) 0 c.r.pc val))
    else none
  | _ =>
    match (if c.cancelDue then eventTurn ex v (.asyncTrap id.tile id.core id.ctx) else none) with
    | some t => some (.next t)
    | none => instrTrial ex s id

/-- The first of a list that answers. -/
def firstSome {α β : Type} (f : α → Option β) : List α → Option (α × β)
  | [] => none
  | a :: t =>
    match f a with
    | some b => some (a, b)
    | none => firstSome f t

/-- The contexts of one class of a core in the cyclic order from its pointer (R92). -/
def classOrder (k : Core) (cls : Fin 4) : List Nat :=
  ((List.range 8).map (fun i => (k.rr[cls] + i) % 8)).filter
    (fun n => match aget k.ctxs n with
      | some c => c.active && c.cls == cls.val
      | none => false)

/-- The ordinary contexts of a core in the order in which R92 considers them. -/
def issueOrder (k : Core) : List Nat := classOrder k 0 ++ classOrder k 1 ++ classOrder k 2 ++ classOrder k 3

/-- Moves the class pointer past the context that issued (R92). -/
def State.pointPast (s : State) (t c n : Nat) (cls : Nat) : State :=
  let k := s.core t c
  if h : cls < 4 then s.setCore t c { k with rr := k.rr.set cls ((n + 1) % 8) h } else s

/-- Notes that a core has issued in this clock. -/
def State.noteIssue (s : State) (t c : Nat) (bittern : Bool) : State :=
  let k := s.core t c
  s.setCore t c { k with issued := some s.time, bittern := if bittern then some s.time else k.bittern }

/-- The instruction that a core issues in a clock, none when no context is ready or one has issued in this clock (R92). -/
def issueOf (ex : Instr → State → Host.Outcome State Fault Refusal) (s : State) (t c : Nat) :
    Option (Host.Outcome State Fault Refusal) :=
  let k := s.core t c
  if k.issued = some s.time then none
  else
    let recent := match k.bittern with
      | none => false
      | some b => decide (s.time ≤ b + 8)
    let noted (bittern : Bool) (o : Host.Outcome State Fault Refusal) : Host.Outcome State Fault Refusal :=
      match o with
      | .next u => .next (u.noteIssue t c bittern)
      | o => o
    match trial ex s ⟨t, c, 8⟩, recent with
    | some o, false => some (noted true o)
    | b, _ =>
      match firstSome (fun n => trial ex s ⟨t, c, n⟩) (issueOrder k) with
      | some (n, .next u) => some (noted false (.next (u.pointPast t c n (s.ctx ⟨t, c, n⟩).cls)))
      | some (_, o) => some o
      | none => b.map (noted true)

/-! Sequencer programs (R266, R267). -/

/-- A specifier that program code may use as a source (R267). -/
def progSrc : SSrc → Bool
  | .g n => decide (n.toNat < 8)
  | .zr => true
  | _ => false

/-- A specifier that program code may use as a destination (R267). -/
def progDst : SDst → Bool
  | .g n => decide (n.toNat < 8)
  | .zr => true
  | _ => false

/-- The instructions and specifiers of program code (R267). -/
def progAllows : Instr → Bool
  | .nop .. => true
  | .li _ d _ => progDst d
  | .mov _ d a => progDst d && progSrc a
  | .add _ _ d a b | .sub _ _ d a b | .and _ _ d a b | .or _ _ d a b | .shl _ _ d a b | .shr _ _ d a b =>
    progDst d && progSrc a && progSrc b
  | .addi _ d a _ | .shli _ d a _ | .shri _ d a _ => progDst d && progSrc a
  | .cmp _ _ _ _ a b => progSrc a && progSrc b
  | .cmpi _ _ _ a _ => progSrc a
  | .br .. | .jmp .. => true
  | .cpy _ _ _ _ _ _ _ _ d a b c | .cpyk _ d a b c | .cfill _ d a b c | .cring _ _ d a b c =>
    progDst d && progSrc a && progSrc b && progSrc c
  | .rfree _ _ _ a => progSrc a
  | .qpush _ _ a | .qpushNb _ _ _ a => progSrc a
  | .qpop _ _ d | .qpopNb _ _ _ d => progDst d
  | .cwait _ .copyTl d c | .cwaitNb _ _ .copyTl d c => progDst d && progSrc c
  | .cread _ _ .copyTl d => progDst d
  | .fenceAcq .. | .fenceRel .. | .fenceSc .. => true
  | .rdv _ d => d == .g 0
  | _ => false

/-- The context with its program's registers, and what its program knows, in the place of its own (R266, R272). -/
def Ctx.asProg (c : Ctx) (p : Prog) : Ctx :=
  { c with
    r := { c.r with pc := p.pc, p := p.p, g := Vector.ofFn (fun i : Fin 64 => if h : i.val < 8 then p.g[i.val] else 0) }
    wait := .none
    view := p.view
    fetched := p.fetched
    wanted := p.wanted }

/-- The context's own registers again, and the program's registers taken out of the context. -/
def Ctx.fromProg (own after : Ctx) : Ctx :=
  { after with
    r := own.r
    dirty := { own.dirty with q := after.dirty.q }
    fetched := own.fetched
    wanted := own.wanted
    wait := own.wait
    view := own.view
    prog := after.prog.map (fun p => { p with
      pc := after.r.pc
      g := Vector.ofFn (fun i : Fin 8 => after.r.g[i.val])
      p := after.r.p
      view := after.view
      fetched := after.fetched
      wanted := after.wanted }) }

/-- Ends a closing program in place of waiting, or at its instruction limit (R271). -/
def Prog.limit (p : Prog) : Bool := p.closing && decide (4096 ≤ p.count)

/-- The trial of one program: none when it is not ready. -/
def progTrial (ex : Instr → State → Host.Outcome State Fault Refusal) (s : State) (id : CtxId) :
    Option (Host.Outcome State Fault Refusal) :=
  let c := s.ctx id
  match c.prog with
  | none => none
  | some p =>
    if !c.active || p.ended.isSome || p.held || (s.tile id.tile).stops c || !(s.tile id.tile).runs c.slot c.jtile then none
    else if p.limit then
      some (.next (s.setCtx id { c with prog := some { p with ended := some p.g[0] } }))
    else
      match fetchedBlock p.fetched p.pc with
      | none => none
      | some blk =>
        match instrAt blk p.pc with
        | .error _ => some (.fault .illegalWord)
        | .ok i =>
          let v := { (s.setCtx id (c.asProg p)) with cur := id, inProg := true, stalled := false }
          let back (u : State) : State :=
            let a := u.ctx id
            let a := if p.closing then { a with prog := a.prog.map (fun q => { q with count := q.count + 1 }) } else a
            { (u.setCtx id (c.fromProg a)) with inProg := false }
          if !progAllows i then some (.next (back (v.failProgram .addr)))
          else
            match ex i v with
            | .next u => if u.stalled then none else some (.next (back u))
            | o => some o

/-- The contexts of a core with programs of one forking class, in the cyclic order from its pointer (R266). -/
def progOrder (k : Core) (cls : Fin 4) : List Nat :=
  ((List.range 8).map (fun i => (k.seqRr[cls] + i) % 8)).filter
    (fun n => match aget k.ctxs n with
      | some c => c.prog.isSome && c.cls == cls.val
      | none => false)

/-- The instruction that a core's copy sequencer executes in a clock (R266). The Bittern context's program comes after
those of class 0 (notes/assumptions/23.md). -/
def sequenceOf (ex : Instr → State → Host.Outcome State Fault Refusal) (s : State) (t c : Nat) :
    Option (Host.Outcome State Fault Refusal) :=
  let k := s.core t c
  if k.sequenced = some s.time then none
  else
    let order := progOrder k 0 ++ [8] ++ progOrder k 1 ++ progOrder k 2 ++ progOrder k 3
    match firstSome (fun n => progTrial ex s ⟨t, c, n⟩) order with
    | some (n, .next u) =>
      let k := { u.core t c with sequenced := some s.time }
      let cls := (s.ctx ⟨t, c, n⟩).cls
      some (.next (u.setCore t c (
        if h : n < 8 ∧ cls < 4 then { k with seqRr := k.seqRr.set cls ((n + 1) % 8) h.2 } else k)))
    | some (_, o) => some o
    | none => none

/-! What Tueno and the host do between instructions. -/

/-- Whether the reserved bits of a Sluice rule are zero (R396). -/
def ruleLegal (w : Vector Word 8) : Bool :=
  bits w[0].toNat 38 26 == 0 && bits w[2].toNat 11 5 == 0 && bits w[2].toNat 43 21 == 0 && w[7] == 0

/-- Tueno writes a rule, disables a home's swaps, adjusts a PTP clock, or cancels the job of a drain, whose levels
UNBIND_RELEASE then cancels (R322, R358, R395, R396). -/
def State.tuenoActs (s : State) : TuenoAct → State
  | .rule n w =>
    if n < 4096 && ruleLegal w then
      { s with sluice := { s.sluice with
          rules := if w[0].getLsbD 0 then aset s.sluice.rules n w else s.sluice.rules.filter (fun p => p.1 != n) } }
    else s
  | .noSwap h off => if h < 64 then s.setHome h { s.home h with noSwap := off } else s
  | .ptp n base rate =>
    if n < 4 then
      { s with ports := aset s.ports n { (aget s.ports n).getD Port.reset with ptp := ⟨base, rate, s.wstime⟩ } }
    else s
  | .cancelDrain n =>
    let j := s.slot n
    if j.bound && j.unbind == .drain then s.setSlot n { j with unbind := .cancel } else s

/-- The host reads BAR0 (R389): MGSTS and MGBUF have values, the write-only registers read zero, and what is not listed
reads zero and is counted (notes/assumptions/28.md). -/
def State.bar0Read (s : State) (ofs size : Nat) : State :=
  let zeros := List.replicate size (0 : Byte)
  if ofs = 0x1008 && size == 8 then { s with outsideGot := bytesOf 8 s.mg.status.toNat }
  else if (ofs == 0 || ofs == 0x1000) && size == 8 then { s with outsideGot := zeros }
  else if decide (0x2000 ≤ ofs) && decide (ofs + size ≤ 0x3000) && (size == 1 || size == 2 || size == 4 || size == 8) then
    { s with outsideGot := (List.range size).map (fun i => memGet s.mg.buf (ofs - 0x2000 + i)) }
  else { s with outsideGot := zeros, mg := { s.mg with badAccess := s.mg.badAccess + 1 } }

/-! The schedule. -/

/-- Whether an event is a trap that only an issue slot takes (R94). -/
def State.needsSlot (s : State) : Instr → Bool
  | .asyncTrap t c n => (s.ctx ⟨t, c, n⟩).cancelDue
  | _ => false

/-- The events that a part in reset or without power can still have: the sensors, the reset, the boot, the power (R19). -/
def Instr.inReset : Instr → Bool
  | .thermalTrip | .coldReset | .boot | .monitorSample .. | .powerLoss => true
  | _ => false

/-- An event of the schedule, before which the late loads land unless it may come between. A part whose clocks are stopped
has only those of its reset (R19). -/
def eventOf (ex : Instr → State → Host.Outcome State Fault Refusal) (s : State) (e : Instr) :
    Host.Outcome State Fault Refusal :=
  if !e.isEvent || s.needsSlot e || (!s.up && !Instr.inReset e) then .next s
  else ex e (if Instr.besideLate e then s else landAll ex s)

/-- One turn of the schedule. A turn that nothing can take leaves the state as it is (notes/assumptions/2.md). While the
part's clocks are stopped nothing but the events of its reset happens (R19). -/
def takeTurn (ex : Instr → State → Host.Outcome State Fault Refusal) (s : State) : Turn →
    Host.Outcome State Fault Refusal
  | .issue t c => if s.up then (issueOf ex s t c).getD (.next s) else .next s
  | .sequencer t c => if s.up then (sequenceOf ex s t c).getD (.next s) else .next s
  | .event e => eventOf ex s e
  | .clock n => .next (if s.up then s.tick n else s)
  | .reorder keep choices => .next (s.reorder keep choices)
  | .delay on => .next { s with record := { s.record with delay := on } }
  | .land n => .next ((landAt ex s n).getD s)
  | .tueno act => .next (if s.up then (landAll ex s).tuenoActs act else s)
  | .bar0Read ofs size => .next (s.bar0Read ofs size)

/-- The events that serve the focus core when no turn is named and no context of it is ready: its fetch requests, its
posted accesses and arrivals, and pending traps. -/
def servingEvents (s : State) : List Instr :=
  let t := s.focus.1
  let c := s.focus.2
  let ids := List.range 9
  ids.map (fun n => Instr.asyncTrap t c n) ++ [.fetchDelivery t]
    ++ ids.flatMap (fun n =>
        let x := s.ctx ⟨t, c, n⟩
        x.wanted.map (fun w => Instr.icacheFill t (BitVec.ofNat 16 (s.slot x.slot).asid) w.1))
    ++ [.accessPerform t 0, .arrival t 0, .wideUpdate t]
    ++ ids.map (fun n => Instr.doneComplete t c n)

/-- What happens when the schedule names no turn: a late load lands, or the focus core issues, or an event serves it, or a
clock passes. -/
def idleTurn (ex : Instr → State → Host.Outcome State Fault Refusal) (s : State) : Host.Outcome State Fault Refusal :=
  if !s.up then .next s
  else
    match landAt ex s 0 with
    | some u => .next u
    | none =>
      match issueOf ex s s.focus.1 s.focus.2 with
      | some (.next u) => .next (u.tick 1)
      | some o => o
      | none =>
        match firstSome (eventTurn ex s) ((servingEvents s).filter (fun e => !s.needsSlot e)) with
        | some (_, u) => .next u
        | none => .next (s.tick 1)

/-- One step of the schedule. -/
def scheduled (ex : Instr → State → Host.Outcome State Fault Refusal) (s : State) : Host.Outcome State Fault Refusal :=
  match s.turns with
  | [] => idleTurn ex s
  | t :: rest => takeTurn ex { s with turns := rest } t

/-- Places the bits of an instruction in the fetch buffer of context 0 of core 0 of tile 0, resident with allotment 32
and alone on its core, as the next that core issues. A counter whose offset leaves no room goes to its block's start. -/
def placeWord (s : State) (w : Nat) : State :=
  let t := s.tile 0
  let k := t.core 0
  let c := k.ctx 0
  let pc := if 16 < c.r.pc.toNat % 32 then blockOf c.r.pc else c.r.pc
  let blk := BitVec.ofNat 256 (w * 2 ^ (8 * (pc.toNat % 32)))
  let c' := { c with
    active := true, handler := false, allot := 32, cls := 0, wait := .none, pend := []
    r := { c.r with pc := pc }, fetched := [(blockOf pc, blk)], wanted := [] }
  let k' := { k with ctxs := [(0, c')], issued := none }
  let t' := { t.setCore 0 k' with holder := some c.slot, jtile := c.jtile, stopping := [] }
  { s.setTile 0 t' with
    turns := [], focus := (0, 0), late := []
    mg := { s.mg with powered := true, inReset := false, tripped := false } }

end Sys2Proof.Machine
end

