-- ==== Sys2Proof/Machine/Copy.lean ====
section
/-! DEFINITION. Copy commands and the copy engine (spec/11 R260 to R264, R273 to R277, R280): issue, granules, failure. -/

namespace Sys2Proof.Machine

/-! Timelines (R212, R219, R260). -/

/-- Moves a timeline over the numbers that have performed; `n` bounds the moves. -/
def timelineRun : Nat → Nat → List Nat → Nat × List Nat
  | 0, tl, d => (tl, d)
  | n + 1, tl, d => if d.contains (tl + 1) then timelineRun n (tl + 1) (d.filter (fun x => x != tl + 1)) else (tl, d)

/-- A copy command's number counts as performed (R212). -/
def JobCore.copyPerformed (j : JobCore) (n : Nat) : JobCore :=
  let d := sinsert j.copyDone n
  let r := timelineRun d.length j.copyTl d
  { j with copyTl := r.1, copyDone := r.2 }

/-! The box of `cpy` (R273, R274). -/

/-- Coordinates of the i-th element of a box in traversal order. -/
def boxCoord (o : Bool) (n : List Nat) (i : Nat) : List Nat :=
  let n0 := co n 0
  let n1 := co n 1
  let n2 := co n 2
  (if o then [i / n1 % n0, i % n1] else [i % n0, i / n0 % n1]) ++ [i / (n0 * n1) % n2, i / (n0 * n1 * n2)]

/-- Adds coordinates. -/
def addCoord (a b : List Nat) : List Nat := (List.range 4).map (fun d => co a d + co b d)

/-- Exchanges the first two coordinates. -/
def swapCoord (a : List Nat) : List Nat := [co a 1, co a 0, co a 2, co a 3]

/-- A tile's coordinate on the axis of MCAX. -/
def axisTile (mcax p n : Nat) : Nat :=
  if mcax = 1 then tileNum p (tileY n) (tileZ n)
  else if mcax = 2 then tileNum (tileX n) p (tileZ n)
  else tileNum (tileX n) (tileY n) p

/-- The set bits of MCMAP. -/
def mapBits (m : BitVec 24) : List Nat := (List.range 24).filter (fun i => m.getLsbD i)

/-- The addresses that an element is written at (R274). -/
def castAddrs (jt mcax : Nat) (m : BitVec 24) (a : Nat) : List Nat :=
  if mcax = 0 then [a]
  else
    let n := bits a 21 11
    let t := if n = 2047 then jt else n
    (mapBits m).map (fun p => a - n * 2 ^ 21 + axisTile mcax p t * 2 ^ 21)

/-- One element of a box copy: its source, none for +0; its destinations; its destination coordinate c0. -/
structure BoxMove where
  src : Option Place
  dsts : List Place
  c0 : Nat
  deriving DecidableEq, Repr

/-- The i-th element of a box copy (R273). -/
def boxMove (jt : Nat) (tr o : Bool) (sv dv : Tensor) (so d n : List Nat) (mcax : Nat) (m : BitVec 24) (i : Nat) : BoxMove :=
  let k := boxCoord o n i
  let sc := addCoord so k
  let dc := addCoord d (if tr then swapCoord k else k)
  let dst := if tInside dv dv dc then placeOf dv dv jt dc else none
  { src := if tInside sv sv sc then placeOf sv sv jt sc else none
    dsts := match dst with
      | none => []
      | some p => (castAddrs jt mcax m p.addr).map (fun a => { p with addr := a })
    c0 := co dc 0 }

/-- Elements of a box. -/
def boxCount (n : List Nat) : Nat := co n 0 * co n 1 * co n 2 * co n 3

/-- Elements of a box copy in one granule of 1,024 bytes (R261). -/
def boxPer (ty : ElemTy) : Nat := if isPacked ty then 256 * perWord ty else 1024 / (ty.width / 8)

/-! The Rake (R275, R276). -/

/-- RAKE.LB. -/
def rakeLb (r : Word) : Nat := bits r.toNat 12 4
/-- RAKE.N. -/
def rakeN (r : Word) : Nat := bits r.toNat 5 6
/-- RAKE.S. -/
def rakeS (r : Word) : Nat := bits r.toNat 0 5

/-- The destination address of byte `b` of a raked burst. -/
def rakeByte (dst r : Word) (b : Nat) : Nat :=
  let bs := 2 ^ rakeLb r
  let i := b / bs
  dst.toNat / 2 ^ 21 * 2 ^ 21 + (bits dst.toNat 16 5 + i % rakeN r * rakeS r) * 2 ^ 16 + bits dst.toNat 0 16
    + i / rakeN r * bs + b % bs

/-- One past the last core offset that a raked burst writes. -/
def rakeTop (dst r : Word) (len : Nat) : Nat :=
  let bs := 2 ^ rakeLb r
  let last := (len - 1) / bs
  let row := bits dst.toNat 0 16 + last / rakeN r * bs
  if last % rakeN r = 0 then row + (len - last * bs) else row + bs

/-- Whether the fields, the length and the destination range of `cpyk` are legal (R276). -/
def rakeOk (r len dst : Word) : Bool :=
  decide (5 ≤ rakeLb r) && decide (rakeLb r ≤ 12) && decide (1 ≤ rakeN r) && decide (rakeN r ≤ 32)
    && !(rakeS r == 0 && decide (2 ≤ rakeN r))
    && decide (bits dst.toNat 16 5 + (rakeN r - 1) * rakeS r ≤ 31)
    && len != 0 && decide (len.toNat ≤ 2 ^ 24)
    && decide (rakeTop dst r len.toNat ≤ 2 ^ 16)

/-! Checks of ranges. -/

/-- The first byte of a range and of each 256-byte unit after it: where an address check can first fail. -/
def rangeUnits (ea : Word) (n : Nat) : List Nat :=
  if n = 0 then []
  else
    let first := 256 - ea.toNat % 256
    ea.toNat :: (List.range ((n - first + 255) / 256)).map (fun i => (ea + BitVec.ofNat 64 (first + 256 * i)).toNat)

/-- Steps 1, 4 and 5 of R180 for an engine at issue. -/
def State.engineChecks (s : State) (l : List Nat) : Except Stop Unit := do
  checkAll l step1 .addr
  checkAll l (step4 s.mySlot) .addr
  checkAll l (step5 s.mySlot) .perm

/-! Issue (R260). -/

/-- Whether the engine's queue of 32 commands has a free entry. -/
def Core.copyRoom (k : Core) : Bool := decide ((k.copies.filter (fun r => !r.started)).length < 32)

/-- What the executing context knows as it issues a command, a message or a launch: every access before, in every region,
comes before what it starts (R198 case e, R210, R213). -/
def State.issues (s : State) : Seen × State :=
  if !s.record.keep then ([], s) else (s.me.view.own, s.setMe { s.me with view := s.me.view.flush })

/-- Issues a copy command once the context's earlier accesses have performed; a program's command waits for them itself
(R210, R260, R272). -/
def State.issueCopy (s : State) (d : SDst) (cmd : CopyCmd) : Except Stop State := do
  ready (s.myCore.copyRoom && (s.inProg || s.drained))
  let (seen, s) := s.issues
  let j := s.myJob
  let n := j.copyIssued + 1
  let s1 := s.setMyJob { j with copyIssued := n }
  let k := s1.myCore
  let after := match s.inProg, s.me.prog with
    | true, some p => p.after
    | _, _ => 0
  let r : CopyRun := ⟨n, s.me.slot, s.cur.ctx, s.inProg, s.me.launch, false, 0, none, [], false, false, [], seen, [], after, cmd⟩
  (s1.setCore s.cur.tile s.cur.core { k with copies := k.copies ++ [r] }).writeS d (BitVec.ofNat 64 n)

/-- Whether the executing activation belongs to a phase-boundary launch (R356). -/
def State.inBoundary (s : State) : Bool :=
  match s.me.launch with
  | none => false
  | some n => s.mySlot.launches.any (fun l => l.serial == n && l.phb)

/-- The tensor checks of `cpy`, item 1 of R273. -/
def State.cpyEntries (s : State) (tr o d4 : Bool) (sid did : BitVec 8) (so d n : List Nat) (c : Word) :
    Except Stop (Tensor × Tensor) := do
  let kinds (k : TKind) : Bool := k == .plain || k == .ring || k == .weights
  let (sv, _) ← s.entry sid.toNat kinds
  let (dv, _) ← s.entry did.toNat kinds
  let ty := tTy sv
  let per := perWord ty
  need (tf sv 0 8 4 == tf dv 0 8 4 && !((tr || o) && isPacked ty) && !(o && ty == .fp .f64)
    && (d4 || c.toNat / 2 ^ 32 == 0)
    && (!isPacked ty || (co so 0 % per == 0 && co d 0 % per == 0 && co n 0 % per == 0))) .tensor (sid.setWidth 64)
  .ok (sv, dv)

/-- The bytes of places. -/
def placeBytes (ps : List Place) : List Nat := ps.flatMap (fun p => span (BitVec.ofNat 64 p.addr) p.n)

/-- The checks of one element (R273 item 5): `ws` is whether its bytes may lie in region 6. -/
def State.placeChecks (s : State) (ws : Bool) (p : Place) : Except Stop Unit := do
  let l := span (BitVec.ofNat 64 p.addr) p.n
  s.engineChecks l
  checkAll l (fun v => regionOf v != 6 || ws) .wsWrite

/-- `cpy` (R273, R274). -/
def execCpy (g : Guard) (tr o d4 : Bool) (sid did : BitVec 8) (mcax : BitVec 2) (mcmap : BitVec 24) (d : SDst)
    (a b c : SSrc) (s : State) : Host.Outcome State Fault Refusal :=
  runInstr g 16 s (fun s => do
    s.dstReady d
    let (x, s1) ← s.readS a
    let (y, s2) ← s1.readS b
    let (z, s3) ← s2.readS c
    let four (w : Word) : List Nat := (List.range 4).map (fun i => bits w.toNat (16 * i) 16)
    let so := if d4 then four x else [bits x.toNat 0 32, bits x.toNat 32 32, 0, 0]
    let dO := if d4 then four y else [bits y.toNat 0 32, bits y.toNat 32 32, 0, 0]
    let n := if d4 then four z else [bits z.toNat 0 16, bits z.toNat 16 16, 1, 1]
    let (sv, dv) ← s3.cpyEntries tr o d4 sid did so dO n z
    let j := s3.mySlot
    let jt := s3.me.jtile
    let origin : Word := match placeOf dv dv jt dO with
      | some p => BitVec.ofNat 64 p.addr
      | none => 0
    need (mcax == 0 || tHome dv == 0) .tensor (did.setWidth 64)
    need (tHome dv != 2 || s3.inBoundary) .wsWrite origin
    let lim := if mcax = 1 then j.sx else if mcax = 2 then j.sy else j.sz
    need ((mapBits mcmap).all (fun p => decide (p < lim))) .addr origin
    let moves := (List.range (boxCount n)).map (boxMove jt tr o sv dv so dO n mcax.toNat mcmap)
    (moves.filterMap (fun m => m.src)).forM (s3.placeChecks true)
    (moves.flatMap (fun m => m.dsts)).forM (s3.placeChecks (tHome dv == 2))
    s3.issueCopy d (.box tr o sv dv did.toNat so dO n mcax.toNat mcmap))

/-- `cpyk` (R276). -/
def execCpyk (g : Guard) (d : SDst) (a b c : SSrc) (s : State) : Host.Outcome State Fault Refusal :=
  runInstr g 16 s (fun s => do
    s.dstReady d
    let (src, s1) ← s.readS a
    let (len, s2) ← s1.readS b
    let (dst, s3) ← s2.readS c
    let rk := s3.me.csr.rake
    need (rakeOk rk len dst) .addr dst
    need (step1 src.toNat && decide (regionOf src.toNat < 4)) .addr src
    need (step1 dst.toNat && regionOf dst.toNat == 7) .addr dst
    s3.engineChecks (rangeUnits src len.toNat)
    let bs := 2 ^ rakeLb rk
    s3.engineChecks ((List.range ((len.toNat + bs - 1) / bs)).flatMap (fun i =>
      rangeUnits (BitVec.ofNat 64 (rakeByte dst rk (i * bs))) (Nat.min bs (len.toNat - i * bs))))
    s3.issueCopy d (.rake src dst len rk))

/-- `cfill` (R277). -/
def execCfill (g : Guard) (d : SDst) (a b c : SSrc) (s : State) : Host.Outcome State Fault Refusal :=
  runInstr g 16 s (fun s => do
    s.dstReady d
    let (ea, s1) ← s.readS a
    let (len, s2) ← s1.readS b
    let (pat, s3) ← s2.readS c
    need (decide (len.toNat ≤ 2 ^ 32)) .addr ea
    let l := rangeUnits ea len.toNat
    checkAll l step1 .addr
    checkAll l (stepW true) .wsWrite
    s3.engineChecks l
    s3.issueCopy d (.fill ea len pat))

/-! Rings as `cring` sees them (R175, R278). -/

/-- Slots of a ring. -/
def ringN (t : Tensor) : Nat := tf t 2 0 32
/-- Bytes of a slot. -/
def ringLen (t : Tensor) : Nat := tf t 2 32 32
/-- The byte that holds the tag of a slot. -/
def tagAddr (t : Tensor) (slot : Nat) : Word := t[3] + BitVec.ofNat 64 (slot / 4)

/-- Whether TAGS, HEAD and TAIL lie together (R278). -/
def ringTogether (ag : Agent) (t : Tensor) : Bool :=
  let n := (ringN t + 3) / 4
  let objs := [((t[3]).toNat, n), ((t[4]).toNat, 16), ((t[5]).toNat, 16)]
  if tHome t = 0 then
    objs.all (fun p => step1 p.1 && regionOf p.1 == 7 && (p.1 + p.2 - 1) / 2 ^ 21 == p.1 / 2 ^ 21
      && bits p.1 32 20 == 0 && ag.target p.1 == ag.target (t[3]).toNat)
  else
    objs.all (fun p => step1 p.1 && decide (regionOf p.1 < 4) && p.1 / 1024 == (t[3]).toNat / 1024
      && (p.1 + p.2 - 1) / 1024 == (t[3]).toNat / 1024)

/-- A valid ring whose objects lie together, or TENSOR (R278). -/
def State.ringEntry (s : State) (id : BitVec 8) : Except Stop Tensor := do
  let (t, _) ← s.entry id.toNat (fun k => k == .ring)
  need (ringTogether s.agent t) .tensor (id.setWidth 64)
  .ok t

/-- The first byte that a `cring` writes. -/
def ringDst (t : Tensor) (slot ofs : Nat) : Word := t[1] + BitVec.ofNat 64 (slot * ringLen t + ofs)

/-- `cring` (R278, R280). -/
def execCring (g : Guard) (id : BitVec 8) (d : SDst) (a b c : SSrc) (s : State) : Host.Outcome State Fault Refusal :=
  runInstr g 16 s (fun s => do
    s.dstReady d
    let (ea, s1) ← s.readS a
    let (slot, s2) ← s1.readS b
    let (x, s3) ← s2.readS c
    let t ← s3.ringEntry id
    let len := bits x.toNat 0 32
    let ofs := bits x.toNat 32 32
    need (decide (slot.toNat < ringN t) && len != 0 && decide (ofs + len ≤ ringLen t)) .tensor (id.setWidth 64)
    s3.engineChecks (rangeUnits ea len)
    let dl := rangeUnits (ringDst t slot.toNat ofs) len
    s3.engineChecks dl
    checkAll dl (stepW true) .wsWrite
    s3.issueCopy d (.ring ea slot (BitVec.ofNat 64 ofs) (BitVec.ofNat 64 len) id.toNat t))

/-! Granules (R261). -/

/-- Granules of a command; for a near-memory command, its lines. -/
def CopyCmd.granules : CopyCmd → Nat
  | .box _ _ sv _ _ _ _ n _ _ => (boxCount n + boxPer (tTy sv) - 1) / boxPer (tTy sv)
  | .rake _ _ len _ => (len.toNat + 1023) / 1024
  | .fill _ len _ => (len.toNat + 1023) / 1024
  | .ring _ _ _ len _ _ => (len.toNat + 1023) / 1024
  | .near _ _ _ _ _ n _ _ => n

/-- One byte that a granule moves: its source, or the constant it writes; its destinations. -/
structure ByteMove where
  src : Option Nat
  const : Byte
  dsts : List Nat
  deriving DecidableEq, Repr

/-- The positions of granule `k` of a stream of `n` units, `per` a granule. -/
def granuleRange (per n k : Nat) : List Nat := (List.range (Nat.min per (n - per * k))).map (fun i => per * k + i)

/-- The bytes that granule `k` of a command moves; packed boxes and near-memory commands move none here. -/
def CopyCmd.bytes (jt : Nat) (k : Nat) : CopyCmd → List ByteMove
  | .box tr o sv dv _ so d n mcax m =>
    (granuleRange (boxPer (tTy sv)) (boxCount n) k).flatMap (fun i =>
      let mv := boxMove jt tr o sv dv so d n mcax m i
      (List.range ((tTy sv).width / 8)).map (fun b =>
        ⟨mv.src.map (fun p => (p.addr + b) % 2 ^ 64), 0, mv.dsts.map (fun p => (p.addr + b) % 2 ^ 64)⟩))
  | .rake src dst len rk =>
    (granuleRange 1024 len.toNat k).map (fun i => ⟨some (src.toNat + i), 0, [rakeByte dst rk i]⟩)
  | .fill ea len pat =>
    (granuleRange 1024 len.toNat k).map (fun i =>
      let a := (ea + BitVec.ofNat 64 i).toNat
      ⟨none, BitVec.ofNat 8 (bits pat.toNat (a % 8 * 8) 8), [a]⟩)
  | .ring src slot ofs len _ t =>
    (granuleRange 1024 len.toNat k).map (fun i =>
      ⟨some (src + BitVec.ofNat 64 i).toNat, 0, [(ringDst t slot.toNat (ofs.toNat + i)).toNat]⟩)
  | .near .. => []

/-- The values of byte moves, the bytes read being given in order. -/
def moveValues : List ByteMove → List Byte → List Host.Cell
  | [], _ => []
  | m :: t, bs =>
    match m.src, bs with
    | some _, b :: rest => m.dsts.map (fun a => (a, b)) ++ moveValues t rest
    | _, bs => m.dsts.map (fun a => (a, m.const)) ++ moveValues t bs

/-- The WSSL registers of a job on a tile (R333). -/
def Tile.wsslOf (t : Tile) (slot : Nat) : Vector Word 4 :=
  if t.holder = some slot then t.wssl else (aget t.wssls slot).getD (Vector.replicate 4 0)

/-- Whether a unit of a weight store lies in a valid short-lived region of a job (R333). -/
def Tile.wsShort (t : Tile) (slot unit : Nat) : Bool :=
  (t.wsslOf slot).toList.any (fun w => w.getLsbD 63 && decide (bits w.toNat 40 8 ≤ unit)
    && decide (unit < bits w.toNat 40 8 + bits w.toNat 48 8))

/-- A copy-engine write of a job to a unit of a weight store sets or clears its deadline (R333). -/
def State.restoreUnit (s : State) (slot tile unit : Nat) : State :=
  let t := s.tile tile
  let d := if t.wsShort slot unit then aset t.deadlines unit (s.wstime + 2400000) else aerase t.deadlines unit
  s.setTile tile { t with deadlines := d }

/-- The units of weight stores that locations lie in. -/
def wsUnits (locs : List Loc) : List (Nat × Nat) :=
  (locs.filterMap (fun l => match l with
    | .ws t ofs => some (t, ofs / 65536)
    | _ => none)).eraseDups

/-- Writes bytes for an engine that comes after the events `v`, at addresses whose locations are given, each byte on its
own (R211): the events it makes, and the state. A byte in region 0 is a release of what comes before it (R199). -/
def State.engineStore (s : State) (ag : Agent) (v : Seen) (cells : List Host.Cell) (locs : List Loc) : Seen × State :=
  let bs := cells.map Prod.snd
  let (made, s1) := s.writeAs (plainAttr ag) .engine v ⟨[], v⟩ s.record.choices ((locs.zip bs).map (fun p => [[p]]))
  let s2 := s1.hostStores none (((cells.map Prod.fst).zip locs).zip bs)
  (made, (wsUnits locs).foldl (fun (u : State) p => u.restoreUnit ag.slot p.1 p.2) s2)

/-- The bytes at addresses for an engine that comes after the events `v`, with the host's answers so far (R211); with the events
they came from, and those of the releases that its reads in region 0 meet (R199). -/
def State.engineRead (s : State) (ag : Agent) (got : Assoc (List Byte)) (v : Seen) (l : List (Nat × Loc)) :
    Except Stop (List Byte × Seen × State) :=
  match s.bytesAs (plainAttr ag) got v l with
  | .ok (bs, met, s1) => .ok (bs, (s.viewRead View.empty (plainAttr ag) (l.map (fun p => [p.2])) met).own, s1)
  | .error (va, h, n) => .error (.ask va h (.read n))

/-- Performs byte moves (R261, R263): the events met and made, and the state. -/
def State.moveBytes (s : State) (ag : Agent) (r : CopyRun) (ms : List ByteMove) : Except Stop (Seen × State) := do
  let srcs := ms.filterMap (fun m => m.src)
  let sl ← s.locate ag false false 1 srcs
  let dsts := ms.flatMap (fun m => m.dsts)
  let dl ← s.locate ag true false 1 dsts
  let (bs, met, s1) ← s.engineRead ag r.got r.seen (srcs.zip sl)
  let (made, s2) := s1.engineStore ag r.seen (moveValues ms bs) dl
  .ok (Seen.join met made, s2)

/-- Performs the moves of packed elements of a granule: every destination word is read, and its elements replaced (R60,
R273). -/
def State.movePacked (s : State) (ag : Agent) (r : CopyRun) (ty : ElemTy) (e0 : Nat) (ms : List BoxMove) :
    Except Stop (Seen × State) := do
  let srcs := placeBytes (ms.filterMap (fun m => m.src))
  let sl ← s.locate ag false false 1 srcs
  let dsts := placeBytes (ms.flatMap (fun m => m.dsts))
  let _ ← s.locate ag true false 1 dsts
  let (bs, met, s1) ← s.engineRead ag r.got r.seen (srcs.zip sl)
  let listed := srcs.zip bs
  let value (p : Place) : Nat :=
    bits (leNat ((span (BitVec.ofNat 64 p.addr) 4).map (fun a => (aget listed a).getD 0))) p.bit ty.width
  let els := ms.flatMap (fun m =>
    let v := match m.src with
      | some p => value p
      | none => 0
    m.dsts.map (fun p => (p, m.c0, v)))
  let words := packWords ty e0 els
  let addrs := words.flatMap (fun w => span (BitVec.ofNat 64 w.1) 4)
  let dl ← s.locate ag true false 1 addrs
  let (olds, met2, s2) ← s1.engineRead ag r.got r.seen (addrs.zip dl)
  let oldAt := addrs.zip olds
  let new := words.flatMap (fun w =>
    let l := span (BitVec.ofNat 64 w.1) 4
    bytesOf 4 (packWord (leNat (l.map (fun a => (aget oldAt a).getD 0))) w.2.1 w.2.2))
  let (made, s3) := s2.engineStore ag r.seen (addrs.zip new) dl
  .ok (Seen.join (Seen.join met met2) made, s3)

/-- Granule `next` of a command (R261). -/
def State.moveGranule (s : State) (ag : Agent) (r : CopyRun) : Except Stop (Seen × State) :=
  match r.cmd with
  | .box tr o sv dv _ so d n mcax m =>
    if isPacked (tTy sv) then
      s.movePacked ag r (tTy sv) (tExt dv dv 0)
        ((granuleRange (boxPer (tTy sv)) (boxCount n) r.next).map (boxMove ag.jt tr o sv dv so d n mcax m))
    else s.moveBytes ag r (r.cmd.bytes ag.jt r.next)
  | _ => s.moveBytes ag r (r.cmd.bytes ag.jt r.next)

/-! The queue of commands. -/

/-- Which job tile of a slot runs on a tile. -/
def Tile.jtileOf (t : Tile) (slot : Nat) : Nat :=
  if t.holder = some slot then t.jtile
  else match aget t.overlays slot with
    | some p => p.1
    | none => 0

/-- Whether the engines of a tile work for a job now: it runs there and no stop is in progress (R264, R379). -/
def Tile.works (t : Tile) (slot : Nat) : Bool :=
  (t.holder == some slot || (aget t.overlays slot).isSome) && (aget t.stopping slot).isNone

/-- Whether the k-th command may take a granule: it runs, or it is the next to start and fewer than four run (R261). -/
def canRun (l : List CopyRun) (k : Nat) : Bool :=
  match l[k]? with
  | none => false
  | some r => r.started || ((l.take k).all (fun x => x.started) && decide ((l.filter (fun x => x.started)).length < 4))

/-- Replaces a command. -/
def State.setRun (s : State) (tile core k : Nat) (r : CopyRun) : State :=
  let e := s.core tile core
  s.setCore tile core { e with copies := e.copies.set k r }

/-- A command has performed: an acquire of its timeline comes after it, and so does the join of the program that issued it
(R212, R271). -/
def State.notePerformed (s : State) (id : CtxId) (job : Nat) (matrix byProg : Bool) (num : Nat) (seen : Seen) : State :=
  if !s.record.keep then s
  else
    let s1 := { s with record := { s.record with
      performed := s.record.performed ++ [⟨id.tile, id.core, job, matrix, num, seen⟩] } }
    if byProg then
      let c := s1.ctx id
      s1.setCtx id { c with prog := c.prog.map (fun p => { p with done := Seen.join p.done seen }) }
    else s1

/-- A copy command has performed: it leaves the engine and its number counts (R212). -/
def State.copyDone (s : State) (tile core : Nat) (r : CopyRun) : State :=
  let e := s.core tile core
  let e1 := { e with copies := e.copies.filter (fun x => !(x.slot == r.slot && x.num == r.num)) }
  let key := jobKey r.slot ((s.tile tile).jtileOf r.slot)
  (s.setCore tile core (e1.setJob key ((e1.job key).copyPerformed r.num))).notePerformed ⟨tile, core, r.ctx⟩ key false
    r.byProg r.num (Seen.join r.seen r.made)

/-- Whether a command is a later unstarted one of the same issuer (R263). -/
def CopyRun.follows (x r : CopyRun) : Bool :=
  x.slot == r.slot && x.ctx == r.ctx && x.byProg == r.byProg && !x.started && decide (r.num < x.num)

/-- CPSTAT of a failed command (R262). -/
def cpstatOf (r : CopyRun) (code : Nat) : Word :=
  BitVec.ofNat 64 (r.num % 2 ^ 32 * 2 ^ 32 + code * 2 ^ 24 + b2n r.byProg * 2 ^ 16 + r.ctx)

/-- Ends a context's program where it stands; a page fault of its own is no longer waited for (R263, R264). -/
def State.endProgram (s : State) (id : CtxId) : State :=
  let c := s.ctx id
  let s1 := s.setCtx id { c with
    prog := c.prog.map (fun p => { p with ended := some (p.ended.getD p.g[0]), held := false }) }
  { s1 with mg := { s1.mg with faults := s1.mg.faults.filter (fun f => f.who != .prog id) } }

/-- COPY_FAILURE (R263). -/
def State.copyFail (s : State) (tile core : Nat) (r : CopyRun) (code : TrapCode) : State :=
  let e := s.core tile core
  let gone := r.num :: (e.copies.filter (fun x => x.follows r)).map (fun x => x.num)
  let e1 := { e with copies := e.copies.filter (fun x => !(x.follows r) && !(x.slot == r.slot && x.num == r.num)) }
  let key := jobKey r.slot ((s.tile tile).jtileOf r.slot)
  let j := gone.foldl (fun (j : JobCore) n => j.copyPerformed n) (e1.job key)
  let id : CtxId := ⟨tile, core, r.ctx⟩
  let s1 := (s.setCore tile core (e1.setJob key { j with cpstat := cpstatOf r code.num })).notePerformed id key false
    r.byProg r.num (Seen.join r.seen r.made)
  let s2 := if r.byProg then s1.endProgram id else s1
  let c := s2.ctx id
  if r.cut then s2 else s2.setCtx id { c with pend := c.pend ++ [⟨code.num, 2, BitVec.ofNat 64 r.num⟩] }

/-- Puts an engine's page fault before Tueno (R263, R378). -/
def State.reportFault (s : State) (who : FaultOf) (slot : Nat) (va : Word) (write : Bool) : State :=
  { s with mg := { s.mg with faults := s.mg.faults ++ [⟨who, slot, va, write⟩] } }

/-- Whether a command already waits for the host. -/
def State.viaWaits (s : State) (owner : CtxId) (slot : Nat) (v : Via) : Bool :=
  s.hostReqs.any (fun q => q.owner == owner && q.slot == slot && q.via == v && !q.posted)

/-- A read of host memory for a command (R391). -/
def State.viaAsk (s : State) (owner : CtxId) (slot : Nat) (v : Via) (va hpa : Nat) (op : HostOp) : State :=
  s.hostSend ⟨owner, v, (s.ctx owner).gen, slot, BitVec.ofNat 64 va, hpa, op, false, none, none, s.wstime⟩

/-- What follows when a granule of a command did not complete. -/
def State.copyStopped (s : State) (tile core k : Nat) (r : CopyRun) : Stop → Option State
  | .trap code _ => some (s.copyFail tile core r code)
  | .trapIn _ code _ => some (s.copyFail tile core r code)
  | .fault va w =>
    some ((s.setRun tile core k { r with started := true, held := some va }).reportFault (.copy tile core r.num) r.slot va w)
  | .ask va h op =>
    let id : CtxId := ⟨tile, core, r.ctx⟩
    if s.viaWaits id r.slot (.copy r.num) then none
    else some ((s.setRun tile core k { r with started := true }).viaAsk id r.slot (.copy r.num) va h op)
  | .fold jt => (s.waitFold r.slot jt r.waited).map (fun l => s.setRun tile core k { r with started := true, waited := l })
  | .wait _ => none
  | .stall => none

/-- A near-memory command. -/
def CopyCmd.isNear : CopyCmd → Bool
  | .near .. => true
  | _ => false

/-- A `cring`. -/
def CopyCmd.isRing : CopyCmd → Bool
  | .ring .. => true
  | _ => false

/-- The command after granule `next` has moved: a `cring` keeps its fill count to add (R280). -/
def State.granuleMoved (s : State) (tile core k : Nat) (r : CopyRun) (seen : Seen) : State :=
  let r1 := { r with started := true, next := r.next + 1, waited := [], got := [], made := Seen.join r.made seen }
  if r.cut then s.copyDone tile core r1
  else if r.next + 1 < r.cmd.granules then s.setRun tile core k r1
  else if r.cmd.isRing then s.setRun tile core k { r1 with moved := true }
  else s.copyDone tile core r1

/-- Whether a program's command still waits for updates of its context (R272). -/
def State.programWaits (s : State) (tile core jt : Nat) (r : CopyRun) : Bool :=
  let id : CtxId := ⟨tile, core, r.ctx⟩
  r.byProg && s.pendingBelow id (s.ctx id).gen r.slot jt r.after

/-- One granule of the k-th command of a core. -/
def State.granule (s : State) (tile core k : Nat) : Option State :=
  let t := s.tile tile
  match (t.core core).copies[k]? with
  | none => none
  | some r =>
    if !t.works r.slot || r.held.isSome || r.moved || r.cmd.isNear || !canRun (t.core core).copies k
      || s.programWaits tile core (t.jtileOf r.slot) r then none
    else if r.cmd.granules ≤ r.next then some (s.copyDone tile core r)
    else
      let s1 := { s with cur := ⟨tile, core, r.ctx⟩, inProg := false }
      match s1.moveGranule ⟨r.slot, t.jtileOf r.slot, tile, core, r.waited⟩ r with
      | .ok (seen, u) => some (u.granuleMoved tile core k r seen)
      | .error x => s.copyStopped tile core k r x

/-- COPY_GRANULE (R261). -/
def execCopyGranule (tile core k : Nat) (s : State) : Host.Outcome State Fault Refusal :=
  runEvent s (s.granule tile core k)

end Sys2Proof.Machine
end

