-- ==== Sys2Proof/Machine/Matrix.lean ====
section
/-! DEFINITION. Matrix units (spec/10 R236 to R259): issue, tile steps, the block sums, factorisations, failures. -/

namespace Sys2Proof.Machine

/-! Accumulators and B slots (R236). -/

/-- A matrix unit of a tile. -/
def Tile.unit (t : Tile) (g : Nat) : MUnit := (aget t.units g).getD MUnit.reset
/-- Replaces a matrix unit. -/
def State.setUnit (s : State) (tile g : Nat) (u : MUnit) : State :=
  let t := s.tile tile
  s.setTile tile { t with units := aset t.units g u }
/-- Element (i, j) of accumulator `a`. -/
def MUnit.accAt (u : MUnit) (a i j : Nat) : Nat := (aget u.acc (1024 * a + 32 * i + j)).getD 0
/-- Replaces accumulator `a` whole. -/
def MUnit.setAcc (u : MUnit) (a : Nat) (f : Nat → Nat → Nat) : MUnit :=
  let new := (List.range 1024).filterMap (fun k =>
    let v := f (k / 32) (k % 32)
    if v = 0 then none else some (1024 * a + k, v))
  { u with acc := u.acc.filter (fun p => decide (p.1 < 1024 * a)) ++ new
                  ++ u.acc.filter (fun p => decide (1024 * (a + 1) ≤ p.1)) }
/-- A B slot. -/
def MUnit.slot (u : MUnit) (b : Nat) : BSlot := (aget u.slots b).getD BSlot.reset
/-- Element (k, n) of a B slot. -/
def BSlot.at (b : BSlot) (k n : Nat) : Nat := (aget b.elems (32 * k + n)).getD 0
/-- The exponent of block `blk` of column `n`. -/
def BSlot.exp (b : BSlot) (blk n : Nat) : Nat := (aget b.exps (32 * blk + n)).getD 127
/-- K for a B format and AF8 (R246). -/
def bigK (af8 : Bool) (ty : ElemTy) : Nat := if !af8 then 32 else if isPacked ty then 128 else 64
/-- K of the tile that a slot holds. -/
def BSlot.k (b : BSlot) : Nat := bigK b.af8 b.fmt

/-! Operands (R245, R247). -/

/-- Coordinates of operand element (row, k); the output C(i, j) has the same form. -/
def operandCo (o : Bool) (c : List Nat) (i k : Nat) : List Nat :=
  if o then [co c 0 + i, co c 1 + k, co c 2, co c 3] else [co c 0 + k, co c 1 + i, co c 2, co c 3]

/-- The (row, k) pairs of an operand in increasing element order. -/
def operandPairs (o : Bool) (rows ks : Nat) : List (Nat × Nat) :=
  if o then (List.range ks).flatMap (fun k => (List.range rows).map (fun i => (i, k)))
  else (List.range rows).flatMap (fun i => (List.range ks).map (fun k => (i, k)))

/-- A matrix operand: its entry, its source, its direction and its origin. -/
structure Operand where
  t : Tensor
  src : Tensor
  o : Bool
  c : List Nat
  deriving DecidableEq, Repr

/-- Where element (i, k) lies; none where it reads +0. -/
def Operand.place (x : Operand) (jt i k : Nat) : Option Place :=
  let e := operandCo x.o x.c i k
  if tInside x.t x.src e then placeOf x.t x.src jt e else none

/-- The places of an operand in element order. -/
def Operand.places (x : Operand) (jt rows ks : Nat) : List Place :=
  (operandPairs x.o rows ks).filterMap (fun p => x.place jt p.1 p.2)

/-- The places of some rows of an operand. -/
def Operand.rowPlaces (x : Operand) (jt ks : Nat) (rows : List Nat) : List Place :=
  rows.flatMap (fun i => (List.range ks).filterMap (fun k => x.place jt i k))

/-- The address of the scale byte of an element of an entry (R172, R176, R247). -/
def Operand.scaleOf (x : Operand) (jt : Nat) (e : List Nat) : Option Nat :=
  match tKind x.t with
  | some .unfold => (unfoldAt x.t x.src (co e 0) (co e 1)).map (scaleAddr x.src)
  | some .weights =>
    some (wsAddr jt (tf x.t 4 0 24 + co e 1 * ((tf x.t 2 0 32 + 31) / 32) + co e 0 / 32))
  | _ => some (scaleAddr x.t e)

/-- The address of the scale byte of block `b` of row `i`; none where the exponent is 127 (R247). Where the 32 values of k of
a block span several source pixels or scale blocks, the spec does not say whose scale it takes; here it is that of the first
element of the block that reads no +0 (notes/assumptions/18.md). -/
def Operand.scale (x : Operand) (jt i b : Nat) : Option Nat :=
  if tSbk x.t != 5 then none
  else (List.range 32).findSome? (fun q =>
    let e := operandCo x.o x.c i (32 * b + q)
    if tInside x.t x.src e then x.scaleOf jt e else none)

/-- The bytes that an operand's read touches. -/
def Operand.bytes (x : Operand) (jt rows ks : Nat) : List Nat :=
  accessBytes (accessesOf (x.places jt rows ks))
    ++ ((List.range rows).flatMap (fun i => (List.range (ks / 32)).filterMap (fun b => x.scale jt i b))).eraseDups

/-- The pattern of element (i, k) out of bytes listed by address. -/
def Operand.pattern (x : Operand) (jt : Nat) (got : Assoc Byte) (i k : Nat) : Nat :=
  match x.place jt i k with
  | none => 0
  | some p => bits (leNat ((span (BitVec.ofNat 64 p.addr) p.n).map (fun a => (aget got a).getD 0))) p.bit (tTy x.t).width

/-- The exponent of block `b` of row `i` out of bytes listed by address. -/
def Operand.exponent (x : Operand) (jt : Nat) (got : Assoc Byte) (i b : Nat) : Nat :=
  match x.scale jt i b with
  | none => 127
  | some a => ((aget got a).getD 0).toNat

/-- The events that a matrix command comes after, with its own (R210, R240). -/
def MatRun.all (r : MatRun) : Seen := Seen.join r.seen r.made

/-- Reads bytes for a command of a matrix unit: by address, with the events met and the state. -/
def State.matrixRead (s : State) (ag : Agent) (r : MatRun) (l : List Nat) : Except Stop (Assoc Byte × Seen × State) := do
  let locs ← s.locate ag false false 1 l
  let (bs, met, s1) ← s.engineRead ag r.got r.all (l.zip locs)
  .ok (l.zip bs, met, s1)

/-! Block sums (R249, R250). -/

/-- The exact value of a pattern of an element type (R57, R60). -/
def elemVal (ty : ElemTy) (x : Nat) : FVal :=
  match ty with
  | .fp t => (fmtOf t).val x
  | ty =>
    let v := intVal (elemSigned ty) ty.width x
    .fin (decide (v < 0)) v.natAbs 0

/-- The exact sum of finite products as an integer at an exponent. -/
def finSum (l : List (Option FVal)) : Int × Int :=
  l.foldl (fun (a : Int × Int) v =>
    match v with
    | some (.fin n m e) => exactSum (decide (a.1 < 0)) a.1.natAbs a.2 n m e
    | _ => a) (0, 0)

/-- The exact block sum S of products (R250). -/
def blockSum (l : List (Option FVal)) : FVal :=
  let isInf (neg : Bool) (v : Option FVal) : Bool := v == some (.inf neg)
  if l.any (fun v => match v with
    | none => true
    | some x => x.isNan) then .nan false
  else if l.any (isInf true) && l.any (isInf false) then .nan false
  else if l.any (isInf true) then .inf true
  else if l.any (isInf false) then .inf false
  else
    let s := finSum l
    if s.1 = 0 then .fin (l.all (fun v => match v with
      | some (.fin n m _) => n && m == 0
      | _ => false)) 0 0
    else .fin (decide (s.1 < 0)) s.1.natAbs s.2

/-- The block's addend v: S under the combined exponent, rounded to FP32 (R247, R249). -/
def blockValue (ea eb : Nat) (l : List (Option FVal)) : Nat :=
  let f := fmtOf .f32
  if ea = 255 ∨ eb = 255 then f.nan
  else
    match blockSum l with
    | .fin n m e => (f.round .rne 0 false n m (e + ea + eb - 254) false).1
    | v => (f.deliver .rne 0 false v).1

/-- One FP32 addition to nearest even. -/
def f32Add (x y : Nat) : Nat := (addVal (fmtOf .f32) .rne 0 ((fmtOf .f32).val x) ((fmtOf .f32).val y)).1

/-- One output element of `mma`: blocks in increasing k (R249). -/
def mmaElem (aTy bTy : ElemTy) (k : Nat) (a b : Nat → Nat) (ea eb : Nat → Nat) (acc : Nat) : Nat :=
  (List.range (k / 32)).foldl (fun x blk =>
    f32Add x (blockValue (ea blk) (eb blk)
      ((List.range 32).map (fun i =>
        mulExact (elemVal aTy (a (32 * blk + i))) (elemVal bTy (b (32 * blk + i))))))) acc

/-! Commands (R239, R241). -/

/-- The path of a command. -/
def MatCmd.path : MatCmd → MPath
  | .load .. | .loadAcc .. => .bPath
  | .store .. => .outPath
  | _ => .macArray

/-- Tile steps of a command. -/
def MatCmd.steps : MatCmd → Nat
  | .factor _ _ _ n _ => n
  | .solve _ _ _ _ _ n => n
  | _ => 1

/-- The accumulators and slots that a command uses: accumulators below 16, slots from 16. -/
def MatCmd.uses : MatCmd → List Nat
  | .load b .. => [16 + b]
  | .mulAcc a b .. => [a, 16 + b]
  | .store a .. | .clear a | .loadAcc a .. | .factor a .. | .solve a .. => [a]

/-- The right-hand sides of a solve as an operand of `n` rows. -/
def solveOperand (ent : Tensor) (c : List Nat) : Operand := ⟨ent, ent, false, c⟩

/-- The bytes that a command reads; `k` is the K of its slot. -/
def MatCmd.reads (jt k : Nat) : MatCmd → List Nat
  | .load _ o af8 _ ent c => (⟨ent, ent, o, c⟩ : Operand).bytes jt 32 (bigK af8 (tTy ent))
  | .mulAcc _ _ o _ ent src c => (⟨ent, src, o, c⟩ : Operand).bytes jt 32 k
  | .store _ _ _ _ _ _ _ _ sc => match sc with
    | some a => span a 128
    | none => []
  | .loadAcc _ o _ ent c => accessBytes (accessesOf ((⟨ent, ent, o, c⟩ : Operand).places jt 32 32))
  | .solve _ _ _ ent c n => accessBytes (accessesOf ((solveOperand ent c).places jt n 32))
  | _ => []

/-- The bytes that a command writes. -/
def MatCmd.writes (jt : Nat) : MatCmd → List Nat
  | .store _ o _ _ _ _ ent c _ => accessBytes (accessesOf ((⟨ent, ent, o, c⟩ : Operand).places jt 32 32))
  | .solve _ _ _ ent c n => accessBytes (accessesOf ((solveOperand ent c).places jt n 32))
  | _ => []

/-- A matrix command's number counts as performed (R212). -/
def JobCore.matPerformed (j : JobCore) (n : Nat) : JobCore :=
  let d := sinsert j.matDone n
  let r := timelineRun d.length j.matTl d
  { j with matTl := r.1, matDone := r.2 }

/-! Issue (R239, R251, R252). -/

/-- The queue of a core of the unit. -/
def MUnit.queue (u : MUnit) (n : Nat) : List MatRun := u.queues.toList.getD n []

/-- Replaces a queue. -/
def MUnit.setQueue (u : MUnit) (n : Nat) (q : List MatRun) : MUnit :=
  if h : n < 8 then { u with queues := u.queues.set n q h } else u

/-- The queue register of a status destination. -/
def statusQueue (st : BitVec 2) : BitVec 3 := BitVec.ofNat 3 (4 + st.toNat)

/-- What every matrix command waits for and checks first (R239, R210, R252); a status queue is a specifier that a handler
context may not use (R79, R265). -/
def State.matrixOpen (s : State) (status : Option (BitVec 2)) : Except Stop Unit := do
  let u := s.myTile.unit (s.cur.core / 8)
  need (!s.mySlot.ovl) .perm 0
  match status with
  | some st => need (!s.me.handler) .queue (BitVec.ofNat 64 (0x54 + st.toNat))
  | none => pure ()
  ready (s.drained && decide ((u.queue (s.cur.core % 8)).length < 16))
  ready (match status with
    | some st => (s.me.queue (statusQueue st)).hasRoom
    | none => true)

/-- The events that come before a matrix command of the executing core: those of its context, and those of the commands
that the core's queue has performed (R210, R240). -/
def State.matrixPast (s : State) (seen : Seen) : Seen :=
  (s.record.performed.filter (fun p => p.matrix && p.tile == s.cur.tile && p.core == s.cur.core)).foldl
    (fun v p => Seen.join v p.seen) seen

/-- Enters a command into its core's queue (R239), after every earlier access of its context and every command that the
core's queue has performed (R210, R240); an entry of its status queue is held. -/
def State.issueMatrix (s : State) (d : SDst) (status : Option (BitVec 2)) (cmd : MatCmd) : Except Stop State :=
  let (seen, s) := s.issues
  let past := s.matrixPast seen
  let j := s.myJob
  let n := j.matIssued + 1
  let s1 := s.setMyJob { j with matIssued := n }
  let g := s.cur.core / 8
  let u := s1.myTile.unit g
  let r : MatRun :=
    ⟨n, s.me.slot, s.cur.ctx, s.me.launch, status.map (fun st => st.toNat), 0, 0, false, false, none, [], [], past, [], cmd⟩
  let s2 := s1.setUnit s.cur.tile g (u.setQueue (s.cur.core % 8) (u.queue (s.cur.core % 8) ++ [r]))
  let s3 := match status with
    | some st =>
      let c := s2.me
      let q := c.queue (statusQueue st)
      s2.setMe (c.setQueue (statusQueue st) { q with held := q.held + 1 })
    | none => s2
  s3.writeS d (BitVec.ofNat 64 n)

/-- The checks of R252 on SBK and O. -/
def kOk (t src : Tensor) (o : Bool) (c : List Nat) : Bool :=
  (tSbk t != 5 || (tSdim src == b2n o && co c (b2n o) % 32 == 0))
    && !(o && (tKind t == some .weights || tKind t == some .unfold || isPacked (tTy t)))

/-- Whether an entry is BF16 without scales, or of one of the given codes with scales. -/
def fmtOk (t : Tensor) (scaled : List ElemTy) : Bool :=
  (tTy t == .fp .bf16 && tSbk t == 0) || (scaled.contains (tTy t) && tSbk t == 5)

/-- The element checks of R252, item 4. -/
def State.elementChecks (s : State) (x : Operand) (rows ks : Nat) : Except Stop Unit :=
  (x.places s.me.jtile rows ks).forM (s.placeChecks true)

/-- The index of the executing core's accumulator or slot in its unit (R236). -/
def State.unitIndex (s : State) (which : Bool) : Nat := 2 * (s.cur.core % 8) + b2n which

/-- Reads the two origin sources (R245). -/
def State.origin (s : State) (a b : SSrc) : Except Stop (List Nat × State) := do
  let (x, s1) ← s.readS a
  let (y, s2) ← s1.readS b
  .ok (coords x y, s2)

/-- `mwl` (R254). -/
def execMwl (g : Guard) (slot o af8 : Bool) (id : BitVec 8) (d : SDst) (a b : SSrc) (s : State) :
    Host.Outcome State Fault Refusal :=
  runInstr g 16 s (fun s => do
    s.matrixOpen none
    let (c, s1) ← s.origin a b
    let (t, src) ← s1.entry id.toNat (fun k => k == .plain || k == .weights)
    need (fmtOk t [.fp .e4m3, .q4, .q3] && kOk t src o c) .tensor (id.setWidth 64)
    s1.elementChecks ⟨t, src, o, c⟩ 32 (bigK af8 (tTy t))
    s1.issueMatrix d none (.load (s.unitIndex slot) o af8 id.toNat t c))

/-- K of the tile that a slot holds after some unperformed commands (R240, R246). -/
def MUnit.kAfter (u : MUnit) (l : List MatRun) (b : Nat) : Nat :=
  l.foldl (fun k r => match r.cmd with
    | .load b' _ af8 _ ent _ => if b' = b then bigK af8 (tTy ent) else k
    | _ => k) (u.slot b).k

/-- K of the tile that a slot holds after the commands already queued. -/
def MUnit.queuedK (u : MUnit) (n b : Nat) : Nat := u.kAfter (u.queue n) b

/-- `mma` (R255). -/
def execMma (g : Guard) (acc slot o : Bool) (id : BitVec 8) (d : SDst) (a b : SSrc) (s : State) :
    Host.Outcome State Fault Refusal :=
  runInstr g 16 s (fun s => do
    s.matrixOpen none
    let (c, s1) ← s.origin a b
    let (t, src) ← s1.entry id.toNat (fun k => k == .plain || k == .unfold)
    need ((tKind t == some .unfold || tHome t != 2) && fmtOk t [.fp .e4m3, .fp .e5m2] && kOk t src o c) .tensor
      (id.setWidth 64)
    let u := s1.myTile.unit (s.cur.core / 8)
    let k := if tTy t = .fp .bf16 then 32 else u.queuedK (s.cur.core % 8) (s.unitIndex slot)
    s1.elementChecks ⟨t, src, o, c⟩ 32 k
    s1.issueMatrix d none (.mulAcc (s.unitIndex acc) (s.unitIndex slot) o id.toNat t src c))

/-- The formats that `mst` writes (R256). -/
def mstFmt (t : Tensor) : Bool :=
  [ElemTy.fp .f32, .fp .bf16, .fp .e4m3, .fp .e5m2, .int .s8, .int .s32].contains (tTy t)

/-- The scale array of `mst`: its address, none for `zr` (R256). -/
def State.scaleSource (s : State) (c : SSrc) : Except Stop (Option Word × State) :=
  match c with
  | .zr => .ok (none, s)
  | _ => (s.readS c).map (fun p => (some p.1, p.2))

/-- `mst` (R256). -/
def execMst (g : Guard) (acc o clr fz8 : Bool) (rm : RMode) (id : BitVec 8) (d : SDst) (a b c : SSrc) (s : State) :
    Host.Outcome State Fault Refusal :=
  runInstr g 16 s (fun s => do
    s.matrixOpen none
    let (org, s1) ← s.origin a b
    let (sc, s2) ← s1.scaleSource c
    let (t, src) ← s2.entry id.toNat (fun k => k == .plain)
    need (mstFmt t) .tensor (id.setWidth 64)
    need (tHome t != 2) .wsWrite (BitVec.ofNat 64 (plainPlace t org).addr)
    match sc with
    | none => pure ()
    | some ea => do
      checkAll (span ea 128) step1 .addr
      aligned ea 128
      s2.engineChecks (span ea 128)
    let x : Operand := ⟨t, src, o, org⟩
    s2.elementChecks x 32 32
    checkAll (accessBytes (accessesOf (x.places s2.me.jtile 32 32))) (stepW true) .wsWrite
    s2.issueMatrix d none (.store (s.unitIndex acc) o clr fz8 rm id.toNat t org sc))

/-- `mclr`, zero form (R257). -/
def execMclr (g : Guard) (acc : Bool) (d : SDst) (s : State) : Host.Outcome State Fault Refusal :=
  runInstr g 8 s (fun s => do
    s.matrixOpen none
    s.issueMatrix d none (.clear (s.unitIndex acc)))

/-- `mclr`, load form (R257). -/
def execMclrLoad (g : Guard) (acc o : Bool) (id : BitVec 8) (d : SDst) (a b : SSrc) (s : State) :
    Host.Outcome State Fault Refusal :=
  runInstr g 8 s (fun s => do
    s.matrixOpen none
    let (c, s1) ← s.origin a b
    let (t, src) ← s1.entry id.toNat (fun k => k == .plain)
    need (tTy t == .fp .f32 && tHome t != 2) .tensor (id.setWidth 64)
    s1.elementChecks ⟨t, src, o, c⟩ 32 32
    s1.issueMatrix d none (.loadAcc (s.unitIndex acc) o id.toNat t c))

/-- `mfac` (R258). -/
def execMfac (g : Guard) (acc lu ptrap : Bool) (status : Option (BitVec 2)) (num : SDst) (a c : SSrc) (s : State) :
    Host.Outcome State Fault Refusal :=
  runInstr g 16 s (fun s => do
    s.matrixOpen status
    let (n, s1) ← s.readS a
    let (tau, s2) ← s1.readS c
    s2.issueMatrix num status (.factor (s.unitIndex acc) lu ptrap (bits n.toNat 0 5 + 1) (tau.setWidth 32)))

/-- `mtrs` (R259). The rule names the right-hand sides by c0 and c1 alone; c2 and c3 are 0 here (notes/assumptions/18.md). -/
def execMtrs (g : Guard) (acc : Bool) (kind : SolveKind) (id : BitVec 8) (status : Option (BitVec 2)) (num : SDst)
    (a b : SSrc) (s : State) : Host.Outcome State Fault Refusal :=
  runInstr g 16 s (fun s => do
    s.matrixOpen status
    let (x, s1) ← s.readS a
    let (y, s2) ← s1.readS b
    let (t, _) ← s2.entry id.toNat (fun k => k == .plain)
    need (tTy t == .fp .f32 && tHome t == 0 && tLayout t == 0) .tensor (id.setWidth 64)
    let c := coords x 0
    let n := bits y.toNat 0 5 + 1
    s2.elementChecks (solveOperand t c) n 32
    checkAll (accessBytes (accessesOf ((solveOperand t c).places s2.me.jtile n 32))) (stepW true) .wsWrite
    s2.issueMatrix num status (.solve (s.unitIndex acc) kind id.toNat t c n))

/-! Status words (R238). -/

/-- What one operation shows: whether an infinity came from finite operands, and whether a NaN was met or made. -/
def opFlags (xs : List Nat) (r : Nat) : Bool × Bool :=
  let v (x : Nat) : FVal := (fmtOf .f32).val x
  let fin (x : Nat) : Bool := match v x with
    | .fin .. => true
    | _ => false
  let inf : Bool := match v r with
    | .inf _ => true
    | _ => false
  (inf && xs.all fin, (v r).isNan || xs.any (fun x => (v x).isNan))

/-- The low status word after a step: PIV with its count, OVF, NAN, and IDX at the first of them (R238). -/
def statusAfter (low : BitVec 32) (step : Nat) (piv : Bool) (fs : List (Bool × Bool)) : BitVec 32 :=
  let x := low.toNat
  let new := b2n piv + 2 * b2n (fs.any Prod.fst) + 4 * b2n (fs.any Prod.snd)
  let cnt := Nat.min 31 (bits x 16 5 + b2n piv)
  let idx := if bits x 0 3 = 0 && new != 0 then step else bits x 8 5
  BitVec.ofNat 32 ((bits x 0 3 ||| new) + 2 ^ 8 * idx + 2 ^ 16 * cnt)

/-! `mfac` (R258). -/

/-- FP32 division, square root and fused multiply-subtract to nearest even. -/
def f32Div (x y : Nat) : Nat := (divVal (fmtOf .f32) .rne 0 ((fmtOf .f32).val x) ((fmtOf .f32).val y)).1
/-- The square root. -/
def f32Sqrt (x : Nat) : Nat := (sqrtVal (fmtOf .f32) .rne 0 ((fmtOf .f32).val x)).1
/-- z - x * y with one rounding. -/
def f32Fms (z x y : Nat) : Nat :=
  (fmaVal (fmtOf .f32) .rne 0 ((fmtOf .f32).val x).opp ((fmtOf .f32).val y) ((fmtOf .f32).val z)).1
/-- x >= y for FP32 patterns; false with a NaN. -/
def f32Ge (x y : Nat) : Bool := (fcmpVal .ge ((fmtOf .f32).val x) ((fmtOf .f32).val y)).1
/-- The magnitude; a NaN stays the canonical NaN. -/
def f32Abs (x : Nat) : Nat := if ((fmtOf .f32).val x).isNan then (fmtOf .f32).nan else x % 2 ^ 31
/-- The negative; a NaN stays the canonical NaN. -/
def f32Neg (x : Nat) : Nat := if ((fmtOf .f32).val x).isNan then (fmtOf .f32).nan else (x + 2 ^ 31) % 2 ^ 32

/-- Step `j` of a factorisation of the leading n × n block: the block after it, whether the pivot was replaced, and what
its operations show. -/
def factorStep (lu : Bool) (n : Nat) (tau0 : BitVec 32) (j : Nat) (a : Nat → Nat → Nat) :
    (Nat → Nat → Nat) × Bool × List (Bool × Bool) :=
  let tau := f32Abs tau0.toNat
  let d0 := a j j
  let rep := !(f32Ge (if lu then f32Abs d0 else d0) tau) && !((fmtOf .f32).val d0).isNan
  let d1 := if rep then (if !lu || f32Ge d0 0 then tau else f32Neg tau) else d0
  let d := if lu then d1 else f32Sqrt d1
  let col (i : Nat) : Nat := f32Div (a i j) d
  let new (i k : Nat) : Nat := f32Fms (a i k) (col i) (if lu then a j k else col k)
  let inner (i k : Nat) : Bool := decide (j < i) && decide (i < n) && decide (j < k) && decide (k < n)
    && (lu || decide (k ≤ i))
  let rows := (List.range n).filter (fun i => decide (j < i))
  let nan (x : Nat) : Bool := ((fmtOf .f32).val x).isNan
  let fs := (false, nan d0 || nan d1) :: (opFlags [d1] d) :: rows.map (fun i => opFlags [a i j, d] (col i))
    ++ rows.flatMap (fun i => (rows.filter (fun k => inner i k)).map (fun k =>
      opFlags [a i k, col i, if lu then a j k else col k] (new i k)))
  (fun i k =>
    if i = j ∧ k = j then d
    else if k = j ∧ j < i ∧ i < n then col i
    else if inner i k then new i k
    else a i k, rep, fs)

/-! `mtrs` (R259). -/

/-- The row of a solve's step. -/
def solveRow (kind : SolveKind) (n step : Nat) : Nat :=
  match kind with
  | .l | .l1 => step
  | .lt | .u => n - 1 - step

/-- The coefficients of row `i` in increasing k: k and t(i, k). -/
def solveCoefs (kind : SolveKind) (n i : Nat) (a : Nat → Nat → Nat) : List (Nat × Nat) :=
  match kind with
  | .l | .l1 => (List.range i).map (fun k => (k, a i k))
  | .lt => ((List.range n).filter (fun k => decide (i < k))).map (fun k => (k, a k i))
  | .u => ((List.range n).filter (fun k => decide (i < k))).map (fun k => (k, a i k))

/-- One column of one row: its value, and what its right-hand side and its operations show (R238). -/
def solveElem (divide : Bool) (diag x : Nat) (cs : List (Nat × Nat)) (xs : Nat → Nat) : Nat × List (Bool × Bool) :=
  let r := cs.foldl (fun (p : Nat × List (Bool × Bool)) c =>
    let v := f32Fms p.1 c.2 (xs c.1)
    (v, opFlags [p.1, c.2, xs c.1] v :: p.2)) (x, [(false, ((fmtOf .f32).val x).isNan)])
  if divide then (f32Div r.1 diag, opFlags [r.1, diag] (f32Div r.1 diag) :: r.2) else r

/-! One tile step (R241). -/

/-- What a step leaves: the state, the unit, the status so far, and the events met and made. -/
structure Stepped where
  s : State
  u : MUnit
  low : BitVec 32
  seen : Seen
  deriving DecidableEq, Repr

/-- The conversion of an exact product to an element of `mst` (R256): the bits in its format. -/
def mstConvert (ty : ElemTy) (rm : RMode) (fz8 : Bool) (t : Nat) (x : Option FVal) : Nat :=
  let v := x.getD (.nan false)
  match ty with
  | .fp f => ((fmtOf f).deliver rm t fz8 v).1
  | ty =>
    let put (z : Int) : Nat := (z % (2 ^ ty.width : Nat)).toNat
    match v with
    | .nan _ => 0
    | .inf n => put (if n then elemLo ty else elemHi ty)
    | .fin n m e => put (max (elemLo ty) (min (elemHi ty) (roundToInt rm t n m e).1))

/-- The product of two FP32 patterns, exact; none for a NaN. -/
def exactProduct (x y : Nat) : Option FVal := mulExact ((fmtOf .f32).val x) ((fmtOf .f32).val y)

/-- The cells that `mst` writes. -/
def mstCells (jt : Nat) (x : Operand) (rm : RMode) (fz8 : Bool) (acc : Nat → Nat → Nat) (sc : Nat → Nat) :
    List Host.Cell :=
  (operandPairs x.o 32 32).flatMap fun p =>
    match x.place jt p.1 p.2 with
    | none => []
    | some pl =>
      let e := operandCo x.o x.c p.1 p.2
      let v := mstConvert (tTy x.t) rm fz8 (dither (co e 1) (co e 0)) (exactProduct (acc p.1 p.2) (sc p.2))
      (span (BitVec.ofNat 64 pl.addr) pl.n).zip (bytesOf pl.n v)

/-- The next tile step of a command (R254 to R259). -/
def State.matrixStep (s : State) (ag : Agent) (u : MUnit) (r : MatRun) : Except Stop Stepped :=
  let jt := ag.jt
  match r.cmd with
  | .load b o af8 _ ent c => do
    let x : Operand := ⟨ent, ent, o, c⟩
    let k := bigK af8 (tTy ent)
    let (got, met, s1) ← s.matrixRead ag r (x.bytes jt 32 k)
    let es := (List.range (32 * k)).filterMap (fun q =>
      let v := x.pattern jt got (q % 32) (q / 32)
      if v = 0 then none else some (q, v))
    let xs := (List.range k).filterMap (fun q =>
      let v := x.exponent jt got (q % 32) (q / 32)
      if v = 127 then none else some (q, v))
    .ok ⟨s1, { u with slots := aset u.slots b ⟨af8, tTy ent, es, xs⟩ }, r.low, met⟩
  | .mulAcc a b o id ent src c => do
    let bs := u.slot b
    let x : Operand := ⟨ent, src, o, c⟩
    need ((tTy ent == .fp .bf16) != bs.af8) .tensor (BitVec.ofNat 64 id)
    let (got, met, s1) ← s.matrixRead ag r (x.bytes jt 32 bs.k)
    .ok ⟨s1, u.setAcc a (fun m n => mmaElem (tTy ent) bs.fmt bs.k (x.pattern jt got m) (fun k => bs.at k n)
      (x.exponent jt got m) (fun blk => bs.exp blk n) (u.accAt a m n)), r.low, met⟩
  | .store a o clr fz8 rm _ ent c sc => do
    let (scale, met, s1) ← (match sc with
      | none => .ok ([], [], s)
      | some ea => s.matrixRead ag r (span ea 128))
    let sv (j : Nat) : Nat := match sc with
      | none => 0x3F800000
      | some ea => leNat ((span (ea + BitVec.ofNat 64 (4 * j)) 4).map (fun q => (aget scale q).getD 0))
    let cells := mstCells jt ⟨ent, ent, o, c⟩ rm fz8 (u.accAt a) sv
    let locs ← s.locate ag true false 1 (cells.map Prod.fst)
    let (made, s2) := s1.engineStore ag r.all cells locs
    .ok ⟨s2, if clr then u.setAcc a (fun _ _ => 0) else u, r.low, Seen.join met made⟩
  | .clear a => .ok ⟨s, u.setAcc a (fun _ _ => 0), r.low, []⟩
  | .loadAcc a o _ ent c => do
    let x : Operand := ⟨ent, ent, o, c⟩
    let (got, met, s1) ← s.matrixRead ag r (accessBytes (accessesOf (x.places jt 32 32)))
    .ok ⟨s1, u.setAcc a (x.pattern jt got), r.low, met⟩
  | .factor a lu _ n tau =>
    let f := factorStep lu n tau r.next (u.accAt a)
    .ok ⟨s, u.setAcc a f.1, statusAfter r.low r.next f.2.1 f.2.2, []⟩
  | .solve a kind _ ent c n => do
    let x := solveOperand ent c
    let i := solveRow kind n r.next
    let divide := kind != .l1
    let diag := u.accAt a i i
    let cs := solveCoefs kind n i (u.accAt a)
    let (got, met, s1) ← s.matrixRead ag r (accessBytes (accessesOf (x.rowPlaces jt 32 (i :: cs.map Prod.fst))))
    let cols := (List.range 32).filterMap (fun q => (x.place jt i q).map (fun p =>
      (p, solveElem divide diag (x.pattern jt got i q) cs (fun k => x.pattern jt got k q))))
    let cells := cols.flatMap (fun p => (span (BitVec.ofNat 64 p.1.addr) 4).zip (bytesOf 4 p.2.1))
    let locs ← s.locate ag true false 1 (cells.map Prod.fst)
    let (made, s2) := s1.engineStore ag r.all cells locs
    .ok ⟨s2, u, statusAfter r.low r.next (divide && diag % 2 ^ 31 == 0) (cols.flatMap (fun p => p.2.2)),
      Seen.join met made⟩

/-! Completion and failure (R238, R253). -/

/-- Replaces a command of a queue. -/
def State.setMatRun (s : State) (tile g n : Nat) (r : MatRun) : State :=
  let u := (s.tile tile).unit g
  s.setUnit tile g (u.setQueue n ((u.queue n).map (fun y => if y.slot = r.slot ∧ y.num = r.num then r else y)))

/-- The context that issued a command of queue `n` of unit `g`. -/
def MatRun.owner (r : MatRun) (tile g n : Nat) : CtxId := ⟨tile, 8 * g + n, r.ctx⟩

/-- Gives up the held entry of a command's status queue, writing a status word there or nothing. -/
def State.settleStatus (s : State) (id : CtxId) (r : MatRun) (w : Option Word) : State :=
  match r.status with
  | none => s
  | some st =>
    let c := s.ctx id
    let qn := BitVec.ofNat 3 (4 + st)
    let q := c.queue qn
    s.setCtx id (c.setQueue qn { q with
      items := match w with
        | some v => q.items ++ [v]
        | none => q.items
      held := q.held - 1 })

/-- Removes commands from a queue; their numbers count as performed, and an acquire of the timeline comes after what they
made and met (R212, R244). -/
def State.matrixRetire (s : State) (tile g n : Nat) (gone : List MatRun) : State :=
  gone.foldl (fun (t : State) r =>
    let u := (t.tile tile).unit g
    let t1 := t.setUnit tile g (u.setQueue n ((u.queue n).filter (fun x => !(x.slot == r.slot && x.num == r.num))))
    let k := t1.core tile (8 * g + n)
    let key := jobKey r.slot ((t.tile tile).jtileOf r.slot)
    (t1.setCore tile (8 * g + n) (k.setJob key ((k.job key).matPerformed r.num))).notePerformed (r.owner tile g n) key true
      false r.num r.all) s

/-- Marks commands of a queue whose step in progress is their last: they report nothing (R244, R253). -/
def State.matrixCut (s : State) (tile g n : Nat) (rs : List MatRun) : State :=
  rs.foldl (fun (t : State) r => t.setMatRun tile g n { r with cut := true, status := none }) s

/-- Commands leave a queue unperformed, each at once, or once its step in progress is done; they push no status (R244,
R253). -/
def State.matrixDiscard (s : State) (tile g n : Nat) (rs : List MatRun) : State :=
  let s1 := (s.matrixRetire tile g n (rs.filter (fun x => !x.begun))).matrixCut tile g n (rs.filter MatRun.begun)
  rs.foldl (fun (t : State) x => t.settleStatus (x.owner tile g n) x none) s1

/-- Writes MXSTAT of a job on a core. -/
def State.setMxstat (s : State) (tile core slot : Nat) (w : Word) : State :=
  let k := s.core tile core
  let key := jobKey slot ((s.tile tile).jtileOf slot)
  s.setCore tile core (k.setJob key { k.job key with mxstat := w })

/-- The status word of a command with a trap code (R238). -/
def statusWord (num : Nat) (low : BitVec 32) (code : Nat) : Word :=
  BitVec.ofNat 64 (num % 2 ^ 32 * 2 ^ 32 + code * 2 ^ 24 + low.toNat)

/-- A factorisation or solve, which reports a status. -/
def MatCmd.reports : MatCmd → Bool
  | .factor .. | .solve .. => true
  | _ => false

/-- MATRIX_COMMAND_COMPLETE (R238, R239, R258). -/
def State.matrixDone (s : State) (tile g n : Nat) (r : MatRun) : State :=
  let id := r.owner tile g n
  let s1 := s.matrixRetire tile g n [r]
  if r.cmd.reports && !r.cut then
    let w := statusWord r.num r.low 0
    let s2 := (s1.setMxstat tile (8 * g + n) r.slot w).settleStatus id r (some w)
    match r.cmd with
    | .factor _ _ true _ _ =>
      if r.low.getLsbD 0 then s2.postTrap id ⟨TrapCode.pivot.num, 1, BitVec.ofNat 64 r.num⟩ else s2
    | _ => s2
  else s1

/-- MATRIX_FAILURE (R253). -/
def State.matrixFail (s : State) (tile g n : Nat) (r : MatRun) (code : TrapCode) : State :=
  let id := r.owner tile g n
  let later := (((s.tile tile).unit g).queue n).filter (fun x => x.slot == r.slot && x.ctx == r.ctx && decide (r.num < x.num))
  let s1 := s.matrixRetire tile g n [r]
  if r.cut then s1
  else
    let w := statusWord r.num r.low code.num
    (((s1.setMxstat tile (8 * g + n) r.slot w).settleStatus id r (some w)).matrixDiscard tile g n later).postTrap id
      ⟨code.num, 1, BitVec.ofNat 64 r.num⟩

/-- The commands of a cancelled activation leave its core's queue, one with a step in progress once that step is done
(R244). -/
def State.matrixCancel (s : State) (tile core slot ctx : Nat) : State :=
  s.matrixDiscard tile (core / 8) (core % 8)
    ((((s.tile tile).unit (core / 8)).queue (core % 8)).filter (fun x => x.slot == slot && x.ctx == ctx && !x.cut))

/-! Eligibility and arbitration (R241, R242). -/

/-- The 1 KiB blocks of bytes. -/
def blocksOf (ag : Agent) (l : List Nat) : List Nat := (l.map (fun a => byteKey ag false 1 a / 1024)).eraseDups

/-- Whether two lists have a member in common. -/
def meets (a b : List Nat) : Bool := a.any (fun x => b.contains x)

/-- K of the slot of an `mma` that comes after some unperformed commands. -/
def MUnit.kOf (u : MUnit) (before : List MatRun) : MatCmd → Nat
  | .mulAcc _ b .. => u.kAfter before b
  | _ => 0

/-- Whether a later command may start while an earlier one is unperformed, each reading with the K it will have (R240,
R241). -/
def mayOverlap (ag : Agent) (ke kl : Nat) (early late : MatCmd) : Bool :=
  let er := blocksOf ag (early.reads ag.jt ke)
  let ew := blocksOf ag (early.writes ag.jt)
  let lr := blocksOf ag (late.reads ag.jt kl)
  let lw := blocksOf ag (late.writes ag.jt)
  early.path != late.path && !meets early.uses late.uses && !meets ew (lr ++ lw) && !meets lw er

/-- The command of a queue whose next step is eligible on a path. -/
def MUnit.candidate (u : MUnit) (t : Tile) (tile core n : Nat) (path : MPath) : Option MatRun :=
  let q := u.queue n
  match q.zipIdx.find? (fun p => p.1.cmd.path == path) with
  | none => none
  | some (r, i) =>
    let ag : Agent := ⟨r.slot, t.jtileOf r.slot, tile, core, r.waited⟩
    if t.works r.slot && r.held.isNone
        && (q.take i).zipIdx.all (fun e => e.1.held.isNone
          && mayOverlap ag (u.kOf (q.take e.2) e.1.cmd) (u.kOf (q.take i) r.cmd) e.1.cmd r.cmd) then some r
    else none

/-- The position of a path's pointer and credit. -/
def pathIndex : MPath → Fin 3
  | .bPath => 0
  | .macArray => 1
  | .outPath => 2

/-- The queue that a path serves next, with its new credit (R242). -/
def MUnit.arbitrate (p r : Nat) (w : Nat → Nat) (ok : Nat → Bool) : Option (Nat × Nat) :=
  if ok p && decide (r < w p) then some (p, r + 1)
  else
    match ((List.range 8).map (fun i => (p + 1 + i) % 8)).find? ok with
    | some q => some (q, 1)
    | none => none

/-- The command whose step was taken, after it; the later ones of its queue come after its events (R240). -/
def Stepped.after (x : Stepped) (tile g n : Nat) (r : MatRun) : State :=
  let r1 := { r with next := r.next + 1, low := x.low, begun := false, waited := [], got := [], made := Seen.join r.made x.seen }
  let s1 := x.s.setUnit tile g (x.u.setQueue n ((x.u.queue n).map (fun y =>
    if y.slot = r.slot ∧ y.num = r.num then r1
    else if y.slot = r.slot ∧ r.num < y.num then { y with seen := Seen.join y.seen x.seen }
    else y)))
  if r.cut || decide (r.cmd.steps ≤ r.next + 1) then s1.matrixDone tile g n r1 else s1

/-- What follows when a step did not complete (R253, R378, R391): it stays in progress while it waits for a page, for
the host or for a job tile. -/
def State.matrixStopped (s : State) (tile g n : Nat) (r : MatRun) : Stop → Option State
  | .trap code _ => some (s.matrixFail tile g n r code)
  | .trapIn _ code _ => some (s.matrixFail tile g n r code)
  | .fault va w =>
    some ((s.setMatRun tile g n { r with begun := true, held := some va }).reportFault (.matrix tile g n) r.slot va w)
  | .ask va h op =>
    let id := r.owner tile g n
    if s.viaWaits id r.slot (.matrix g n r.num) then none
    else some ((s.setMatRun tile g n { r with begun := true }).viaAsk id r.slot (.matrix g n r.num) va h op)
  | .fold jt => (s.waitFold r.slot jt r.waited).map (fun l => s.setMatRun tile g n { r with begun := true, waited := l })
  | .wait _ => none
  | .stall => none

/-- The step in progress on a path that no page fault holds: its queue and its command. -/
def MUnit.begunOn (u : MUnit) (path : MPath) : Option (Nat × MatRun) :=
  (List.range 8).findSome? (fun n =>
    ((u.queue n).find? (fun r => r.begun && r.held.isNone && r.cmd.path == path)).map (fun r => (n, r)))

/-- A step of a command goes on. -/
def State.matrixRun (s : State) (tile g n : Nat) (r : MatRun) : Option State :=
  let t := s.tile tile
  let s1 := { s with cur := r.owner tile g n, inProg := false }
  match s1.matrixStep ⟨r.slot, t.jtileOf r.slot, tile, 8 * g + n, r.waited⟩ (t.unit g) r with
  | .ok x => some (x.after tile g n r)
  | .error e => s.matrixStopped tile g n r e

/-- One tile step of a path of a unit: the one in progress, which waits for the host, or the next that the path starts. One
that fails, faults or asks the host has started all the same (R242). -/
def State.matrixPath (s : State) (tile g : Nat) (path : MPath) : Option State :=
  let t := s.tile tile
  let u := t.unit g
  match u.begunOn path with
  | some (n, r) => if t.works r.slot then s.matrixRun tile g n r else none
  | none =>
    let core (n : Nat) : Nat := 8 * g + n
    let cand (n : Nat) : Option MatRun := u.candidate t tile (core n) n path
    let weight (n : Nat) : Nat := match cand n with
      | some r => ((t.core (core n)).job (jobKey r.slot (t.jtileOf r.slot))).mxw
      | none => 0
    match MUnit.arbitrate u.ptr[(pathIndex path)] u.credit[(pathIndex path)] weight (fun n => (cand n).isSome) with
    | none => none
    | some (n, credit) =>
      match cand n with
      | none => none
      | some r =>
        (s.setUnit tile g { u with ptr := u.ptr.set (pathIndex path) n, credit := u.credit.set (pathIndex path) credit }).matrixRun
          tile g n r

/-- MATRIX_TILE_STEP (R241, R242). -/
def execMatrixTileStep (tile unit : Nat) (path : MPath) (s : State) : Host.Outcome State Fault Refusal :=
  runEvent s (s.matrixPath tile unit path)

end Sys2Proof.Machine
end

