-- ==== Sys2Proof/Machine/Paging.lean ====
section
/-! DEFINITION. Tueno's page tables, frames, evictions and resident ranges (spec/13 R312 to R318, R329, R330, R335, R336),
and what the floor die reads of a job's memory. -/

namespace Sys2Proof.Machine

/-! Frames (R312, R313). -/

/-- One past the last device physical address (R312). -/
def devTop : Nat := 0x9000000000

/-- Colour of a frame by its first byte (R313). -/
def frameColour (f : Nat) : Nat := fold6 (bits f 16 24 * 16)

/-- Colour of a virtual page (R313). -/
def pageColour (va : Nat) : Nat := fold6 (bits va 16 36 * 16)

/-- Whether two ranges of bytes meet. -/
def overlap (a n b k : Nat) : Bool := decide (a < b + k) && decide (b < a + n)

/-- Whether a range of device memory may hold frames: inside device memory, outside the retirement reserve, with no lost
or removed block (R312, R335, R336). -/
def State.frameUsable (s : State) (f n : Nat) : Bool :=
  decide (f + n ≤ devTop) && !overlap f n 0xFC0000000 0x40000000
    && s.mg.lost.all (fun b => !overlap f n (4096 * b) 4096) && s.mg.removed.all (fun b => !overlap f n (4096 * b) 4096)

/-- Whether a page is held in device memory now. -/
def Mapping.inDevice (m : Mapping) : Bool := m.evicted.isNone && regionOf m.va.toNat != 5

/-- Roots of the bound jobs of an address space. -/
def State.rootsOf (s : State) (asid : Nat) : List Nat :=
  ((s.slots.filter (fun p => p.2.bound && p.2.asid == asid)).map (fun p => p.2.root)).eraseDups

/-- Whether a range of device memory is free for Tueno to give out. -/
def State.frameFree (s : State) (f n : Nat) : Bool :=
  s.mg.maps.all (fun m => !(m.inDevice && overlap f n m.frame m.size))
    && s.mg.tables.all (fun t => !overlap f n t 65536)
    && s.slots.all (fun p => !(p.2.bound && overlap f n p.2.root 65536))

/-- A free frame of a size, and of a colour where one is needed. Which one Tueno takes is open: the search begins at a free
value (notes/assumptions/25.md). -/
def State.takeFrame (s : State) (colour : Option Nat) (n : Nat) : Option (Nat × State) :=
  let (x, s1) := s.draw
  let count := devTop / n
  let ok (f : Nat) : Bool :=
    s.frameUsable f n && s.frameFree f n &&
      (match colour with
       | some c => frameColour f == c
       | none => true)
  ((List.range count).find? (fun i => ok ((x.toNat + i) % count * n))).map
    (fun i =>
      let f := (x.toNat + i) % count * n
      (f, s1.settleAt (fun k => decide (f ≤ k) && decide (k < f + n))))

/-! Writing tables (R314, R315, R318). -/

/-- Writes the little-endian bytes of a number into memory. -/
def memPut (m : Memory) (a n v : Nat) : Memory :=
  ((List.range n).zip (bytesOf n v)).foldl (fun (m : Memory) p => memSet m (a + p.1) p.2) m

/-- Removes every byte of a range: it reads zero. -/
def memClear (m : Memory) (a n : Nat) : Memory := m.filter (fun c => !(decide (a ≤ c.1) && decide (c.1 < a + n)))

/-- The bytes of a range that are not zero, by offset. -/
def memCut (m : Memory) (a n : Nat) : List Host.Cell :=
  (m.filter (fun c => decide (a ≤ c.1) && decide (c.1 < a + n))).map (fun c => (c.1 - a, c.2))

/-- CLASS, HOST and V of an entry for an address (R315). -/
def pteBase (va : Nat) : Nat := 32 * regionOf va + (if regionOf va = 5 then 256 else 0) + 1

/-- The leaf entry of a mapping (R315). -/
def Mapping.pte (m : Mapping) : Nat :=
  m.frame + pteBase m.va.toNat + 16 * b2n m.x + 8 * b2n m.w + 4 * b2n m.r + 2

/-- The next table below an entry: the one it names, or a fresh one of zeros. -/
def State.nextTable (s : State) (entry va : Nat) : Option (Nat × State) :=
  let e := memNat s.mem entry 8
  if pteOk va e && bits e 1 1 == 0 then some (bits e 16 36 * 65536, s)
  else
    match s.takeFrame none 65536 with
    | none => none
    | some (f, s1) =>
      some (f, { s1 with
        mem := memPut (memClear s1.mem f 65536) entry 8 (f + pteBase va)
        mg := { s1.mg with tables := f :: s1.mg.tables } })

/-- Writes the leaf entry of a page, `pte`, below a root; none when no frame is left for a table. -/
def State.writeLeaf (s : State) (root va : Nat) (large : Bool) (pte : Nat) : Option State :=
  match s.nextTable (root + 8 * bits va 42 13) va with
  | none => none
  | some (t2, s1) =>
    let e2 := t2 + 8 * bits va 29 13
    if large then some { s1 with mem := memPut s1.mem e2 8 pte }
    else
      match s1.nextTable e2 va with
      | none => none
      | some (t3, s2) => some { s2 with mem := memPut s2.mem (t3 + 8 * bits va 16 13) 8 pte }

/-- Writes the leaf entry of a page below every root of a list. -/
def State.writeLeaves (s : State) (roots : List Nat) (va : Nat) (large : Bool) (pte : Nat) : Option State :=
  match roots with
  | [] => some s
  | r :: t =>
    match s.writeLeaf r va large pte with
    | none => none
    | some s1 => s1.writeLeaves t va large pte

/-- Writes back and drops every sector and replica of a page (R318, step 3). -/
def State.dropPage (s : State) (asid va n : Nat) : State :=
  { s with tiles := s.tiles.map (fun p => (p.1, { p.2 with
      slice := p.2.slice.filter (fun f => !(f.asid == asid && overlap (1024 * f.sec) 1024 (va % 2 ^ 52) n)) })) }

/-- Whether a mapping is the page of an address space at an address. -/
def Mapping.isPage (m : Mapping) (asid va : Nat) : Bool := m.asid.toNat == asid && m.va.toNat == va

/-- Records a mapping in Tueno's own table, in place of one of the same page. -/
def State.recordMap (s : State) (m : Mapping) : State :=
  { s with mg := { s.mg with maps := s.mg.maps.filter (fun q => !q.isPage m.asid.toNat m.va.toNat) ++ [m] } }

/-- Maps a page: the entry, the dropped sectors, Tueno's record (R318). -/
def State.putMap (s : State) (m : Mapping) : Option State :=
  (s.writeLeaves (s.rootsOf m.asid.toNat) m.va.toNat m.large m.pte).map
    (fun u => (u.dropPage m.asid.toNat m.va.toNat m.size).recordMap m)

/-- Writes the entries of an address space's mappings below a root, as a bind needs them. -/
def State.installAll (s : State) (asid root : Nat) : Option State :=
  (s.mg.maps.filter (fun m => m.asid.toNat == asid && m.evicted.isNone)).foldl
    (fun (u : Option State) m => u.bind (fun v => v.writeLeaf root m.va.toNat m.large m.pte)) (some s)

/-- Clears V in a page's entries below every root (R330 step 4). -/
def State.clearLeaf (s : State) (m : Mapping) : State :=
  (s.writeLeaves (s.rootsOf m.asid.toNat) m.va.toNat m.large (m.pte - 1)).getD s

/-- Lost blocks of a page that has been unmapped are lost no more, unless another mapping of the frame is left (R336). -/
def State.forgetLost (s : State) (m : Mapping) : State :=
  if m.inDevice then
    { s with mg := { s.mg with lost := s.mg.lost.filter (fun b => !overlap m.frame m.size (4096 * b) 4096
        || s.mg.maps.any (fun q => q.inDevice && overlap q.frame q.size (4096 * b) 4096)) } }
  else s

/-- The record keys of a mapping's bytes. -/
def Mapping.keys (m : Mapping) (k : Nat) : Bool :=
  let base := if regionOf m.va.toNat = 5 then 2 ^ 63 + m.frame else m.frame
  m.evicted.isNone && decide (base ≤ k) && decide (k < base + m.size)

/-- Removes a mapping: its entry, its sectors, its blocks in every instruction cache, Tueno's records, and the loss of its
blocks (R46, R318, R336). -/
def State.unmapPage (s : State) (m : Mapping) : State :=
  let asid := m.asid.toNat
  let va := m.va.toNat
  let s1 := (s.clearLeaf m).dropPage asid va m.size
  ((({ s1 with
    mg := { s1.mg with
      maps := s1.mg.maps.filter (fun q => !q.isPage asid va)
      pages := s1.mg.pages.filter (fun p => !(p.asid.toNat == asid && p.va.toNat == va)) }
    tiles := s1.tiles.map (fun (t : Nat × Tile) => (t.1, { t.2 with icache := t.2.icache.filter (fun b =>
      !(b.asid.toNat == asid && decide (va ≤ b.va.toNat) && decide (b.va.toNat < va + m.size))) })) } : State)).settleAt
        m.keys).forgetLost m

/-! Evictions (R330). -/

/-- The numbers, within a range of device memory, of the blocks that are lost. -/
def Mgmt.lostIn (g : Mgmt) (a n : Nat) : List Nat :=
  (g.lost.filter (fun b => overlap a n (4096 * b) 4096)).map (fun b => b - a / 4096)

/-- Evicts the pages of a frame to host memory: every alias of it (R330 step 4). A lost block stays lost with its page
(R336). -/
def State.evictFrame (s : State) (asid frame : Nat) : State :=
  let mine (m : Mapping) : Bool := m.asid.toNat == asid && m.inDevice && m.frame == frame
  let s1 := (s.mg.maps.filter mine).foldl (fun (u : State) m => (u.clearLeaf m).dropPage asid m.va.toNat m.size) s
  let maps := s1.mg.maps.map (fun m =>
    if mine m then { m with evicted := some (memCut s1.mem m.frame m.size), lost := s1.mg.lostIn m.frame m.size } else m)
  let lost := s1.mg.lost.filter (fun b => maps.any (fun m => m.inDevice && overlap m.frame m.size (4096 * b) 4096)
    || !(s.mg.maps.any (fun m => mine m && overlap m.frame m.size (4096 * b) 4096)))
  ({ s1 with mg := { s1.mg with maps, lost } } : State).settleAt
    (fun k => s.mg.maps.any (fun m => mine m && decide (m.frame ≤ k) && decide (k < m.frame + m.size)))

/-- Brings an evicted page and its aliases back into a free frame of its colour. -/
def State.bringBack (s : State) (m : Mapping) : Option State :=
  match s.takeFrame (some (pageColour m.va.toNat)) m.size, m.evicted with
  | some (f, s1), some cells =>
    let mem := cells.foldl (fun (q : Memory) (c : Host.Cell) => memSet q (f + c.1) c.2) (memClear s1.mem f m.size)
    let s2 := { s1 with mem := mem, mg := { s1.mg with lost := s1.mg.lost ++ m.lost.map (fun b => f / 4096 + b) } }
    let same (q : Mapping) : Bool := q.asid == m.asid && q.evicted.isSome && q.frame == m.frame
      && q.va.toNat % 2 ^ 52 == m.va.toNat % 2 ^ 52
    (s2.mg.maps.filter same).foldl (fun (u : Option State) q =>
      u.bind (fun v => v.putMap { q with frame := f, evicted := none, lost := [] })) (some s2)
  | _, _ => none

/-! What the floor die reads of a job's memory, and ranges (R329, R330, R352). -/

/-- A byte of a job's memory in regions 0 to 3, where it is mapped readable and not lost; one of an evicted page stands in
the page's copy. -/
def State.jobByte (s : State) (slot a : Nat) : Option Byte :=
  if a / 2 ^ 55 != 0 || decide (4 ≤ regionOf a) then none
  else
    match s.xlate slot a with
    | some (p, f) => if f.r && !s.mg.lost.contains (blockNum p) then some (memGet s.mem p) else none
    | none => (s.evictedAt (s.slot slot).asid a).bind (fun m =>
        let ofs := a - m.va.toNat
        if m.r && !m.lost.contains (ofs / 4096) then some (memGet (m.evicted.getD []) ofs) else none)

/-- The bytes of a job's memory, none where one of them cannot be read. -/
def State.readJob (s : State) (slot va n : Nat) : Option (List Byte) :=
  let l := (List.range n).map (fun i => s.jobByte slot (va + i))
  if l.all Option.isSome then some (l.map (fun b => b.getD 0)) else none

/-- Whether a read of a job's memory waits: one of its blocks is in a swap or under test (R322, R386). -/
def State.readBusy (s : State) (slot : Nat) (p : Nat × Nat) : Bool :=
  (!s.mg.selfTests.isEmpty || s.homes.any (fun h => h.2.swap.isSome)) &&
    (List.range ((p.1 % 4096 + p.2 + 4095) / 4096)).any (fun i =>
      match s.xlate slot (p.1 / 4096 * 4096 + 4096 * i) with
      | some (a, f) => !f.host && s.blockBusy (blockNum a)
      | none => false)

/-- A word of a job's memory. -/
def State.readWord (s : State) (slot va : Nat) : Option Word :=
  (s.readJob slot va 8).map (fun bs => BitVec.ofNat 64 (leNat bs))

/-- A launch record (R352). -/
def State.launchRecord (s : State) (slot va : Nat) : Option (Vector Word 8) :=
  (s.readJob slot va 64).map (fun bs =>
    Vector.ofFn (fun i : Fin 8 => BitVec.ofNat 64 (leNat ((bs.drop (8 * i.val)).take 8))))

/-- A field of a word of a record. -/
def rf (w : Vector Word 8) (i : Fin 8) (lo n : Nat) : Nat := bits (w[i]).toNat lo n

/-- A range descriptor (R329). -/
structure RangeDesc where
  base : Nat
  len : Nat
  wr : Bool
  rest : Nat
  deriving DecidableEq, Repr

/-- The range table of a record; none where it cannot be read. -/
def State.recordRanges (s : State) (slot : Nat) (w : Vector Word 8) : Option (List RangeDesc) :=
  ((List.range (rf w 0 41 4)).map (fun i => s.readJob slot ((w[4]).toNat + 16 * i) 16)).foldr
    (fun b acc => match b, acc with
      | some bs, some l =>
        let v := leNat bs
        some (⟨bits v 0 64, bits v 64 40, bits v 104 1 == 1, bits v 105 23⟩ :: l)
      | _, _ => none) (some [])

/-- Whether a record's ranges meet a range. -/
def State.lists (s : State) (slot : Nat) (w : Vector Word 8) (r : Range) : Bool :=
  match s.recordRanges slot w with
  | none => false
  | some l => l.any (fun d => overlap (d.base % 2 ^ 52) d.len (r.base.toNat % 2 ^ 52) r.len)

/-- Position in the launch queue of the next launch that lists a range; the queue's length when none does. -/
def State.nextUse (s : State) (slot : Nat) (r : Range) : Nat :=
  let j := s.slot slot
  match j.queue.zipIdx.find? (fun q => match s.launchRecord slot q.1.va.toNat with
    | some w => s.lists slot w r
    | none => false) with
  | some q => q.2
  | none => j.queue.length

/-- Whether range `a` is evicted before range `b`, given their next uses (R330). -/
def evictsBefore (a b : Range × Nat) : Bool :=
  decide (b.2 < a.2) || (a.2 == b.2 && (decide (b.1.len < a.1.len)
    || (a.1.len == b.1.len && decide (a.1.base.toNat < b.1.base.toNat))))

/-- Whether a range holds bytes of a spill heap of a job, which Tueno keeps mapped (R296, R304). -/
def State.heapMeets (s : State) (slot va n : Nat) : Bool :=
  s.tiles.any (fun t => t.2.cores.any (fun k => k.2.jobs.any (fun p =>
    p.1 % 64 == slot && bits p.2.mbcfg.toNat 24 16 != 0
      && overlap (va % 2 ^ 52) n (p.2.mbspb.toNat % 2 ^ 52) (72 * bits p.2.mbcfg.toNat 24 16))))

/-- The range that Tueno evicts next for a job (R330, rules 1 to 3), apart from those that must stay. -/
def State.evictChoice (s : State) (slot : Nat) (keep : Range → Bool) : Option Range :=
  let j := s.slot slot
  let cands := (j.ranges.filter (fun r => r.resident && !keep r && !s.heapMeets slot r.base.toNat r.len
      && j.launches.all (fun l => !l.ranges.any (fun d => overlap (d.1 % 2 ^ 52) d.2 (r.base.toNat % 2 ^ 52) r.len)))).map
    (fun r => (r, s.nextUse slot r))
  (cands.foldl (fun (best : Option (Range × Nat)) c =>
    match best with
    | none => some c
    | some b => if evictsBefore c b then some c else some b) none).map Prod.fst

/-- Marks a range of a job. -/
def State.markRange (s : State) (slot : Nat) (q : Range) (resident : Bool) : State :=
  let j := s.slot slot
  s.setSlot slot { j with ranges := j.ranges.map (fun r => if r = q then { r with resident := resident } else r) }

/-- Evicts a whole range (R330 step 4). -/
def State.evictRange (s : State) (slot : Nat) (r : Range) : State :=
  let asid := (s.slot slot).asid
  let pages := s.mg.maps.filter (fun m => m.asid.toNat == asid && m.inDevice
    && overlap (m.va.toNat % 2 ^ 52) m.size (r.base.toNat % 2 ^ 52) r.len)
  ((pages.map (fun m => m.frame)).eraseDups.foldl (fun (u : State) f => u.evictFrame asid f) s).markRange slot r false

/-- Brings a page back, evicting ranges of the job as long as it takes (R330). -/
def State.makeRoom (s : State) (slot : Nat) (keep : Range → Bool) (m : Mapping) : Nat → Option State
  | 0 => s.bringBack m
  | n + 1 =>
    match s.bringBack m with
    | some u => some u
    | none =>
      match s.evictChoice slot keep with
      | none => none
      | some r => (s.evictRange slot r).makeRoom slot keep m n

/-- Adds a range to those of a job, in place of the same range. -/
def State.addRange (s : State) (slot : Nat) (r : Range) : State :=
  let j := s.slot slot
  s.setSlot slot { j with ranges := j.ranges.filter (fun q => !(q.base == r.base && q.len == r.len)) ++ [r] }

/-- Makes the page of an address resident, and with it a range that may be evicted (R330): none when no evicted page holds
it or no frame can be had. -/
def State.pageIn (s : State) (slot va : Nat) : Option State :=
  match s.evictedAt (s.slot slot).asid va with
  | none => none
  | some m =>
    (s.makeRoom slot (fun _ => false) m (s.slot slot).ranges.length).map (fun u => u.addRange slot ⟨m.va, m.size, true⟩)

end Sys2Proof.Machine
end

