-- ==== Sys2Proof/Machine/Queues.lean ====
section
/-! DEFINITION. Rings, queue registers and sequencer programs (spec/11 R265 to R272, R278 to R281). -/

namespace Sys2Proof.Machine

/-! The claim point of a ring (R278 to R281). -/

/-- The tags of R278. -/
inductive RTag where
  | empty | filling | full | draining
  deriving DecidableEq, Repr

/-- The code of a tag. -/
def RTag.code : RTag → Nat
  | .empty => 0
  | .filling => 1
  | .full => 2
  | .draining => 3

/-- The tag of a code. -/
def tagOf (n : Nat) : RTag :=
  match n % 4 with
  | 0 => .empty
  | 1 => .filling
  | 2 => .full
  | _ => .draining

/-- The tag of a slot in its byte. -/
def tagIn (b : Byte) (slot : Nat) : RTag := tagOf (b.toNat / 2 ^ (2 * (slot % 4)))

/-- The byte with the tag of a slot replaced. -/
def tagPut (b : Byte) (slot : Nat) (t : RTag) : Byte :=
  let p := 2 * (slot % 4)
  (b &&& ~~~(BitVec.ofNat 8 (3 * 2 ^ p))) ||| BitVec.ofNat 8 (t.code * 2 ^ p)

/-- The location of the byte that holds a slot's tag. -/
def State.tagLoc (s : State) (ag : Agent) (t : Tensor) (slot : Nat) : Except Stop (List Loc) :=
  s.locateRmw ag [(tagAddr t slot).toNat]

/-- The tag at a location. -/
def State.readTag (s : State) (locs : List Loc) (slot : Nat) : RTag :=
  tagIn (BitVec.ofNat 8 (s.loadNat locs)) slot

/-- The byte at a location with a slot's tag replaced. -/
def State.tagByte (s : State) (locs : List Loc) (slot : Nat) (t : RTag) : List Byte :=
  [tagPut (BitVec.ofNat 8 (s.loadNat locs)) slot t]

/-- Bytes of a ring's objects change at its claim point (R278), for an agent that has seen `v`: what its read met, and the
events made, and the state. -/
def State.changeRing (s : State) (a : Attr) (v : Seen) (pass : Passing) (locs : List Loc) (bs : List Byte) : Rmw :=
  s.rmwAs false a v pass locs (fun _ => some bs)

/-- The device tile of a ring's claim point: that of its TAGS bytes (R278). -/
def State.claimTile (s : State) (ag : Agent) (t : Tensor) : Nat :=
  let a := (t[3]).toNat
  if regionOf a = 7 then (s.slot ag.slot).devTile (ag.target a) else s.sliceOf (s.slot ag.slot).asid a

/-- The key of a slot's fill count in the fill table of its claim point. -/
def fillKey (ag : Agent) (t : Tensor) (slot : Nat) : Nat :=
  ag.slot * 2 ^ 60 + byteKey ag false 1 (tagAddr t slot).toNat * 4 + slot % 4

/-- Whether a fill table of 64 counts has a free entry: scratchpad rings and memory rings have claim points of their own. -/
def fillRoom (fills : Assoc (Nat × Seen)) (key : Nat) : Bool :=
  decide ((fills.filter (fun p => decide (2 ^ 56 ≤ p.1 % 2 ^ 60) == decide (2 ^ 56 ≤ key % 2 ^ 60))).length < 64)

/-- Replaces the fill table of a tile. -/
def State.setFills (s : State) (tile : Nat) (f : Assoc (Nat × Seen)) : State :=
  s.setTile tile { s.tile tile with fills := f }

/-- A fill count that an image of the job holds (R264). -/
def Slot.savedFill (j : Slot) (k : Nat) : Option (Nat × Seen) :=
  (firstSome (fun (p : Nat × Image) => aget p.2.fills k) j.images).map Prod.snd

/-- A fill count leaves the job's images. -/
def State.dropSaved (s : State) (slot k : Nat) : State :=
  let j := s.slot slot
  if (j.savedFill k).isNone then s
  else s.setSlot slot { j with images := j.images.map (fun p => (p.1, { p.2 with fills := aerase p.2.fills k })) }

/-- Clears a slot's fill count at its claim point (R280, R281). -/
def State.clearFill (s : State) (tile : Nat) (ag : Agent) (t : Tensor) (slot : Nat) : State :=
  (s.setFills tile (aerase (s.tile tile).fills (fillKey ag t slot))).dropSaved ag.slot (fillKey ag t slot)

/-- The attributes of a change of a ring: `acq`, `rel` and the scope. -/
def ringAttr (ag : Agent) (acq rel : Bool) (scope : Nat) : Attr := ⟨ag, acq, rel, false, scope, false⟩

/-- Adds a length, with the events behind it, to a slot's fill count (R280): at SLEN the slot turns FULL, a release at scope
2 of every command counted; a count for a slot that is not FILLING is discarded and recorded; a table without a free entry
makes the update wait. -/
def State.addFill (s : State) (ag : Agent) (t : Tensor) (slot len : Nat) (seen : Seen) : Except Stop State := do
  let locs ← s.tagLoc ag t slot
  let p := s.claimTile ag t
  let f := (s.tile p).fills
  let k := fillKey ag t slot
  if s.readTag locs slot ≠ .filling then
    .ok ((s.clearFill p ag t slot).logAt (s.rmwPoint 2 locs))
  else
    let old := ((aget f k).or ((s.slot ag.slot).savedFill k)).getD (0, [])
    let n := old.1 + len
    let all := Seen.join old.2 seen
    if ringLen t ≤ n then
      let r := s.changeRing (ringAttr ag false true 2) all ⟨[], all⟩ locs (s.tagByte locs slot .full)
      .ok (r.after.clearFill p ag t slot)
    else if (aget f k).isSome || fillRoom f k then .ok ((s.setFills p (aset f k (n, all))).dropSaved ag.slot k)
    else .error .stall

/-- The fill-count update of the k-th command of a core, a `cring` whose bytes have all moved. -/
def State.fillUpdateOf (s : State) (tile core k : Nat) : Option State :=
  let t := s.tile tile
  match (t.core core).copies[k]? with
  | some r =>
    if !r.moved || r.held.isSome || !t.works r.slot then none
    else
      match r.cmd with
      | .ring _ slot _ len _ ent =>
        match s.addFill ⟨r.slot, t.jtileOf r.slot, tile, core, r.waited⟩ ent slot.toNat len.toNat (Seen.join r.seen r.made) with
        | .ok u => some (u.copyDone tile core r)
        | .error x => s.copyStopped tile core k r x
      | _ => none
  | none => none

/-- The first fill-count update of a core that can be made (R280). -/
def State.fillUpdate (s : State) (tile core : Nat) : Option State :=
  (firstSome (s.fillUpdateOf tile core) (List.range (s.core tile core).copies.length)).map Prod.snd

/-- FILL_COUNT_UPDATE (R280). -/
def execFillCountUpdate (tile core : Nat) (s : State) : Host.Outcome State Fault Refusal :=
  runEvent s (s.fillUpdate tile core)

/-! `rclaim` and `rfree` (R279, R281). -/

/-- The executing context changes a ring's tag, and the ticket that goes with it, at the claim point: a claim is an acquire,
a produce claim one of whatever released the slot, whichever its scope (R279). -/
def State.takeSlot (s : State) (cons : Bool) (scope : Nat) (tag ticket : List Loc) (tb : List Byte) (n : Nat) : State :=
  let a := ringAttr s.agent true false scope
  let v := s.me.view.own
  let r := s.changeRing a v s.passing tag tb
  let met := s.record.met (tag.map s.keyOf) r.got
  let s1 := (r.after.learnRead { a with acq := false } [tag] r.got).learnWrite r.made
  let s2 := if !s.record.keep then s1 else
    s1.setMe { s1.me with view := s1.me.view.acquire (if cons then s.heard a.ag scope met else met) }
  let q := s2.changeRing { a with acq := false } s2.me.view.own s2.passing ticket (bytesOf 8 n)
  q.after.learnWrite q.made

/-- A claim at the claim point: the slot and the state after, or none when it fails (R279). -/
def State.claimSlot (s : State) (t : Tensor) (cons : Bool) (scope : Nat) : Except Stop (Option (Nat × State)) := do
  let ag := s.agent
  let hl ← s.rmwLocs 0 t[4] 8
  let tl ← s.rmwLocs 0 t[5] 8
  let head := s.loadNat hl
  let tail := s.loadNat tl
  let slot := (if cons then head else tail) % ringN t
  let locs ← s.tagLoc ag t slot
  ready (!s.blocked false 1 [(tagAddr t slot).toNat] && !s.strongPending)
  let tag := s.readTag locs slot
  if cons then
    if tag = .full then
      .ok (some (slot, s.takeSlot true scope locs hl (s.tagByte locs slot .draining) ((head + 1) % 2 ^ 64)))
    else .ok none
  else if tag = .empty ∧ (tail : Int) - head < ringN t then
    .ok (some (slot, s.takeSlot false scope locs tl (s.tagByte locs slot .filling) ((tail + 1) % 2 ^ 64)))
  else .ok none

/-- The checks of `rclaim` and `rfree` at issue. -/
def State.ringIssue (s : State) (id : BitVec 8) (scope : BitVec 5) : Except Stop Tensor := do
  s.scopeCheck true scope.toNat false
  s.ringEntry id

/-- `rclaim` waits for its slot, at most 65,536 core clocks (R279). -/
def execRclaim (g : Guard) (cons : Bool) (id : BitVec 8) (scope : BitVec 5) (d : SDst) (s : State) :
    Host.Outcome State Fault Refusal :=
  runInstr g 16 s (fun s => do
    s.dstReady d
    match s.me.wait with
    | .ring _ true => s.writeS d (BitVec.allOnes 64)
    | w => do
      let t ← s.ringIssue id scope
      let r ← s.claimSlot t cons scope.toNat
      match r with
      | some (n, s1) => s1.writeS d (BitVec.ofNat 64 n)
      | none =>
        match w with
        | .ring _ _ => .error .stall
        | _ => .error (.wait (s.setMe { s.me with wait := .ring s.time false })))

/-- `rclaim.nb` (R279); a claim that would have to wait for the context's own earlier writes of the ring fails (R32). -/
def execRclaimNb (g : Guard) (ps : BitVec 3) (cons : Bool) (id : BitVec 8) (scope : BitVec 5) (d : SDst) (s : State) :
    Host.Outcome State Fault Refusal :=
  runInstr g 16 s (fun s => do
    s.dstReady d
    let t ← s.ringIssue id scope
    let r ← neverWaits (s.claimSlot t cons scope.toNat)
    match r.join with
    | some (n, s1) => (s1.writeS d (BitVec.ofNat 64 n)).map (fun u => u.writeP ps true)
    | none => .ok (s.writeP ps false))

/-- RCLAIM_TIMEOUT: 65,536 core clocks have passed since a blocking `rclaim` began to wait (R279). -/
def execRclaimTimeout (tile core ctx : Nat) (s : State) : Host.Outcome State Fault Refusal :=
  runEvent s (
    let id : CtxId := ⟨tile, core, ctx⟩
    let c := s.ctx id
    match c.wait with
    | .ring since false => if since + 65536 ≤ s.time then some (s.setCtx id { c with wait := .ring since true }) else none
    | _ => none)

/-- `rfree` (R281). -/
def execRfree (g : Guard) (id : BitVec 8) (scope : BitVec 5) (a : SSrc) (s : State) : Host.Outcome State Fault Refusal :=
  runInstr g 16 s (fun s => do
    let (x, s1) ← s.readS a
    let t ← s1.ringIssue id scope
    need (decide (x.toNat < ringN t)) .tensor (id.setWidth 64)
    s1.release scope.toNat (tagAddr t x.toNat)
    let locs ← s1.tagLoc s1.agent t x.toNat
    let tag := s1.readTag locs x.toNat
    need (tag == .draining || tag == .filling) .tensor (id.setWidth 64)
    let p := s1.claimTile s1.agent t
    let v := s1.me.view
    let a := ringAttr s1.agent false true scope.toNat
    let r := s1.changeRing a v.own ⟨v.fences, v.own⟩ locs (s1.tagByte locs x.toNat .empty)
    let s2 := r.after.learnWrite r.made
    .ok (s2.clearFill p s1.agent t x.toNat))

/-! Queue registers (R265, R272). -/

/-- A blocking queue instruction may not run in a handler context (R79); the direction is that of R265. -/
def State.queueCheck (s : State) (blocking allowed : Bool) (qn : BitVec 3) : Except Stop Unit := do
  need (!blocking || s.inProg || !s.me.handler) .queue 0
  need allowed .queue (qn.setWidth 64)

/-- Ends the executing program in place of waiting when it is closing; otherwise waits (R271). -/
def State.endOrWait (s : State) : Except Stop State :=
  let c := s.me
  match s.inProg, c.prog with
  | true, some p =>
    if p.closing then .ok (s.setMe { c with prog := some { p with ended := some c.r.g[0] } }) else .error .stall
  | _, _ => .error .stall

/-- Whether a queue has a free entry (R272). -/
def State.roomIn (s : State) (qn : BitVec 3) : Bool := (s.me.queue qn).hasRoom

/-- `qpush` (R272). -/
def execQpush (g : Guard) (qn : BitVec 3) (a : SSrc) (s : State) : Host.Outcome State Fault Refusal :=
  runInstr g 8 s (fun s => do
    s.queueCheck true (s.mayPush qn) qn
    if s.roomIn qn then do
      let (v, s1) ← s.readS a
      .ok (s1.pushItem qn v)
    else s.endOrWait)

/-- A queue named as a source traps QUEUE where it may not be read, even when the instruction then leaves it alone (R79,
R265). -/
def State.srcLegal (s : State) : SSrc → Except Stop Unit
  | .q n => need (!(!s.inProg && s.me.handler) && s.mayPop n) .queue (BitVec.ofNat 64 (0x50 + n.toNat))
  | _ => .ok ()

/-- `qpush.nb` (R272): with the queue full it does not read its source. -/
def execQpushNb (g : Guard) (ps qn : BitVec 3) (a : SSrc) (s : State) : Host.Outcome State Fault Refusal :=
  runInstr g 8 s (fun s => do
    s.queueCheck false (s.mayPush qn) qn
    if s.roomIn qn then do
      let (v, s1) ← s.readS a
      .ok ((s1.pushItem qn v).writeP ps true)
    else do
      s.srcLegal a
      .ok (s.writeP ps false))

/-- `qpop` (R272). -/
def execQpop (g : Guard) (qn : BitVec 3) (d : SDst) (s : State) : Host.Outcome State Fault Refusal :=
  runInstr g 8 s (fun s => do
    s.queueCheck true (s.mayPop qn) qn
    s.dstReady d
    let c := s.me
    match (c.queue qn).items with
    | x :: rest => do
      (s.popItem qn rest).writeS d x
    | [] => s.endOrWait)

/-- `qpop.nb` (R272). -/
def execQpopNb (g : Guard) (ps qn : BitVec 3) (d : SDst) (s : State) : Host.Outcome State Fault Refusal :=
  runInstr g 8 s (fun s => do
    s.queueCheck false (s.mayPop qn) qn
    s.dstReady d
    let c := s.me
    match (c.queue qn).items with
    | x :: rest => ((s.popItem qn rest).writeS d x).map (fun u => u.writeP ps true)
    | [] => .ok (s.writeP ps false))

/-! Sequencer programs (R268, R270, R271). -/

/-- A program that begins at `pc` with its argument; its commands come after the events `seen` (R270). -/
def Prog.begin (pc x : Word) (time : Nat) (seen : Seen) : Prog where
  pc := pc
  g := (Vector.replicate 8 0).set 0 x
  p := 1
  count := 0
  ended := none
  finished := false
  closing := false
  held := false
  view := ⟨seen, seen, [], []⟩
  after := 0
  done := []
  fetched := []
  wanted := entryBlocks time pc

/-- `fork` (R270). A program stays the context's until `rdv` joins it (notes/assumptions/24.md). -/
def execFork (g : Guard) (a : SSrc) (ofs : BitVec 34) (s : State) : Host.Outcome State Fault Refusal :=
  runInstr g 8 s (fun s => do
    let c := s.me
    let (x, s1) ← s.readS a
    need c.prog.isNone .queue 0
    let t := c.r.pc + ofs.signExtend 64 * 4
    match s.targetBad c.slot c.allot true t with
    | some b => .error (.trap b.1 b.2)
    | none => do
      ready s.drained
      let (seen, s2) := s1.issues
      .ok (s2.setMe { s2.me with prog := some (Prog.begin t x s.time seen) }))

/-- `rdv` in a context joins its program; in a program it ends it (R271). -/
def execRdv (g : Guard) (d : SDst) (s : State) : Host.Outcome State Fault Refusal :=
  runInstr g 8 s (fun s => do
    s.dstReady d
    let c := s.me
    match s.inProg, c.prog with
    | true, some p => .ok (s.setMe { c with prog := some { p with ended := some c.r.g[0] } })
    | _, none => s.writeS d 0
    | false, some p =>
      match p.finished, p.ended with
      | true, some v => (s.setMe { c with prog := none, view := c.view.meet p.done }).writeS d v
      | _, _ =>
        if p.closing then .error .stall
        else .error (.wait (s.setMe { c with prog := some { p with closing := true } })))

/-- Whether a command of a program of the context is still in the engine. -/
def Core.progBusy (k : Core) (slot ctx : Nat) : Bool :=
  k.copies.any (fun r => r.byProg && r.slot == slot && r.ctx == ctx)

/-- PROGRAM_END: an ended program whose commands have all performed; entries left in q0 and q1 are discarded (R265,
R268). -/
def execProgramEnd (tile core ctx : Nat) (s : State) : Host.Outcome State Fault Refusal :=
  runEvent s (
    let id : CtxId := ⟨tile, core, ctx⟩
    let c := s.ctx id
    match c.prog with
    | some p =>
      if p.ended.isSome && !p.finished && !(s.core tile core).progBusy c.slot ctx then
        let c1 := (c.setQueue 0 Queue.empty).setQueue 1 Queue.empty
        some (s.setCtx id { c1 with prog := some { p with finished := true } })
      else none
    | none => none)

end Sys2Proof.Machine
end

