-- ==== Sys2Proof/Machine/Events.lean ====
section
/-! DEFINITION. Events that serve a tile: posted updates and arrivals, the side log, page faults, host completions,
asynchronous traps and the fetch port (spec/04 R95 to R97; spec/08 R210, R214; spec/09 R223, R227, R235; spec/16 R372,
R373, R378; spec/17 R391). -/

namespace Sys2Proof.Machine

/-- Acts for a context. -/
def State.actAs (s : State) (id : CtxId) : State := { s with cur := id, inProg := false }

/-! Posted updates, arrivals and the side log. -/

/-- Whether an update is an arrival. -/
def Posted.isArrival (p : Posted) : Bool :=
  match p.upd with
  | .arrive _ => true
  | _ => false

/-- Whether an update of the tile comes before `p` in its context's program order (R210). -/
def Tile.earlier (t : Tile) (p : Posted) : Bool :=
  (t.posted ++ t.sideLog).any (fun q => q.sameOwner p && decide (q.group < p.group))

/-- Whether members of an arrival's group are still to perform (R227). -/
def Tile.groupLeft (t : Tile) (p : Posted) : Bool :=
  (t.posted ++ t.sideLog).any (fun q => q.sameOwner p && q.group == p.group && !q.isArrival)

/-- Whether a request to the host is of the occupancy of an update. -/
def HostReq.ofOwner (r : HostReq) (p : Posted) : Bool := r.owner == p.owner && r.gen == p.gen && r.via == .self

/-- Whether a request is a posted write. -/
def HostReq.isWrite (r : HostReq) : Bool :=
  match r.op with
  | .write _ => r.posted
  | _ => false

/-- Whether the host still has something to do that comes before an update: a FetchAdd of an earlier reduction, or of the
reduction whose arrival it is (R210, R227, R235); for an arrival at scope 3, a write of its context (R217). -/
def State.hostFirst (s : State) (p : Posted) : Bool :=
  s.hostReqs.any (fun r => r.ofOwner p && (match r.group with
    | some g => decide (g < p.group) || (g == p.group && p.isArrival)
    | none => r.isWrite && p.isArrival && p.scope == 3))

/-- Whether an update is one of the events of a `red` (R226). -/
def Posted.isRed (p : Posted) : Bool :=
  match p.upd with
  | .rmw .. => true
  | _ => false


/-- Whether `q` goes with `p` when `p` does not perform: the rest of its `red`, or the arrival that it comes before (R223,
R227). -/
def Posted.takes (p q : Posted) : Bool := p.sameGroup q && (p.isRed || q.isArrival)

/-- The address at which an update meets a page fault. -/
def State.faultOf (s : State) (p : Posted) : Option Word :=
  let at_ (l : List Nat) : Option Word :=
    match s.locateRmw p.agent l with
    | .error (.fault va _) => some va
    | _ => none
  match p.upd with
  | .rmw _ n va _ => at_ (span va n)
  | .arrive va => at_ (span va 8)
  | _ => none

/-- An update performs; a `red` only as a whole free of page faults, on its targets and its counter (R223). -/
def State.performOne (s : State) (tile : Nat) (p : Posted) : Except Stop State :=
  let t := s.tile tile
  match p.isRed, (firstSome s.faultOf (p :: (t.posted ++ t.sideLog).filter p.sameGroup)).map Prod.snd with
  | true, some va => .error (.fault va true)
  | _, _ => s.perform p

/-- Removes what goes with an update that is gone. -/
def State.dropWith (s : State) (tile : Nat) (p : Posted) : State :=
  let t := s.tile tile
  s.setTile tile { t with
    posted := t.posted.filter (fun q => !p.takes q)
    sideLog := t.sideLog.filter (fun q => !p.takes q) }

/-- An update leaves the posted ones without having performed: into the side log on a page fault, a `red` as a whole, or
with a trap. -/
def State.postedStop (s : State) (tile : Nat) (p : Posted) : Stop → Option State
  | .fault va _ =>
    let t := s.tile tile
    let group := t.posted.filter p.takes
    match (s.setTile tile { t with posted := t.posted.filter (fun q => !p.takes q) }).logUpdates (p :: group) (some va) with
    | .ok u => some u
    | .error _ => none
  | .trap code v => some ((s.dropWith tile p).postTrap p.owner ⟨code.num, 3, v⟩)
  | _ => none

/-- An update that has found a scratchpad whose job tile does not run waits for that tile (R361). -/
def State.waiting (s : State) (p : Posted) (jt : Nat) : Option Posted :=
  (s.waitFold p.slot jt p.waited).map (fun l => { p with waited := l })

/-- The k-th posted update of a tile performs, or goes to the side log. -/
def State.performPosted (s : State) (tile k : Nat) (arrival : Bool) : Option State :=
  let t := s.tile tile
  match t.posted[k]? with
  | none => none
  | some p =>
    if p.isArrival != arrival || !(t.runs p.slot p.jtile) then none
    else if (arrival && t.groupLeft p) || s.hostFirst p then none
    else if t.earlier p || t.wide.any (fun w => w.owner == p.owner) then none
    else
      let s1 := (s.setTile tile { t with posted := t.posted.eraseIdx k }).actAs p.owner
      match s1.performOne tile p with
      | .ok u => some u
      | .error (.fold jt) => (s.waiting p jt).map (fun q => s.setTile tile { t with posted := t.posted.set k q })
      | .error e => s1.postedStop tile p e

/-- ACCESS_PERFORM (R208, R226). -/
def execAccessPerform (tile k : Nat) (s : State) : Host.Outcome State Fault Refusal :=
  runEvent s (s.performPosted tile k false)

/-- ARRIVAL (R227). -/
def execArrival (tile k : Nat) (s : State) : Host.Outcome State Fault Refusal :=
  runEvent s (s.performPosted tile k true)

/-- Whether the side log's fault at an address is with Tueno. -/
def State.reported (s : State) (tile slot : Nat) (va : Word) : Bool :=
  s.mg.faults.any (fun f => f.who == .sideLog tile && f.slot == slot && f.va == va)

/-- The first word of packed elements that an update writes in part, and that lies in host memory: its address there, and its
host address (R60). -/
def State.hostWord (s : State) (p : Posted) : Option (Nat × Nat) :=
  match p.upd with
  | .packed ws =>
    (firstSome (fun (w : Nat × BitVec 32 × BitVec 32) =>
      if regionOf w.1 == 5 && w.2.2 != BitVec.allOnes 32 then (s.xlate p.slot w.1).map (fun l => (w.1, l.1)) else none) ws).map
        Prod.snd
  | _ => none

/-- A packed store with a word of host memory made whole by the host's answer (R60, R391). -/
def Posted.mergeWord (p : Posted) (va : Nat) (data : List Byte) : Posted :=
  { p with upd := match p.upd with
      | .packed ws => .packed (ws.map (fun w => if w.1 == va then wholeWord [(va, data)] w else w))
      | u => u }

/-- Whether an entry of a side log is one of a request's instruction. -/
def HostReq.forEntry (r : HostReq) (p : Posted) : Bool :=
  r.owner == p.owner && r.gen == p.gen && r.slot == p.slot && r.via == .log p.group

/-- Asks the host for the rest of a word that a side-log entry writes in part. -/
def State.askWord (s : State) (p : Posted) (va h : Nat) : Option State :=
  if s.hostReqs.any (fun r => r.forEntry p) then none
  else some (s.hostSend ⟨p.owner, .log p.group, p.gen, p.slot, BitVec.ofNat 64 va, h, .read 4, false, none, none, s.wstime⟩)

/-- The k-th entry of a side log replays: entries of one context in its program order, those of one instruction in none, its
arrival after them all (R214, R227, R378). -/
def State.replay (s : State) (tile k : Nat) : Option State :=
  let t := s.tile tile
  match t.sideLog[k]? with
  | none => none
  | some p =>
    if !t.runs p.slot p.jtile || (t.sideLog.take k).any (fun q => q.sameOwner p && !(p.sameGroup q && q.isArrival))
        || t.posted.any (fun q => q.sameOwner p && decide (q.group < p.group))
        || (p.isArrival && t.groupLeft p) || s.hostFirst p then none
    else
      let s1 := s.actAs p.owner
      let gone (u : State) : State :=
        u.setTile tile { u.tile tile with sideLog := (u.tile tile).sideLog.eraseIdx k }
      match s1.performOne tile p, s1.hostWord p with
      | .ok _, some (va, h) => s1.askWord p va h
      | .ok u, none => some (gone u)
      | .error (.fold jt), _ =>
        (s.waiting p jt).map (fun q => s.setTile tile { t with sideLog := t.sideLog.set k q })
      | .error (.fault va w), _ =>
        if s1.reported tile p.slot va then none else some (s1.reportFault (.sideLog tile) p.slot va w)
      | .error (.trap code v), _ => some (((gone s1).dropWith tile p).postTrap p.owner ⟨code.num, 3, v⟩)
      | .error _, _ => none

/-- SIDE_LOG_REPLAY (R214). -/
def execSideLogReplay (tile k : Nat) (s : State) : Host.Outcome State Fault Refusal :=
  runEvent s (s.replay tile k)

/-! Traps that a context takes for something outside its instruction (R372, R373). -/

/-- Drops the page fault of a held context. -/
def State.dropFault (s : State) (id : CtxId) : State :=
  { s with mg := { s.mg with faults := s.mg.faults.filter (fun f => f.who != .ctx id) } }

/-- Takes one pending trap at an instruction boundary, leaving the wait the context is in (R373, R378). -/
def State.takeAsync (s : State) (id : CtxId) : Option State :=
  let c := s.ctx id
  let s1 := s.actAs id
  match pickPending c.takeable with
  | none => none
  | some p =>
    if !c.active || !(s.tile id.tile).runs c.slot c.jtile || c.wait.uninterrupted || s1.wideBusy then none
    else
      let s2 := (s1.setMe { c with pend := c.pend.erase p }).dropWatches id
      match c.wait with
      | .ending true => none
      | .ending false => some (s2.trapEnding p.code p.src c.r.pc p.val)
      | .align .. => some ((s1.setMe { c with wait := .none }).advance 8)
      | .fault _ =>
        if c.takeable.any (fun q => q.code == TrapCode.cancel.num) then
          some ((s2.dropFault id).takeTrap (trapOf p.code) p.src c.r.pc p.val)
        else none
      | _ => some (s2.takeTrap (trapOf p.code) p.src c.r.pc p.val)

/-- ASYNC_TRAP (R373). -/
def execAsyncTrap (tile core ctx : Nat) (s : State) : Host.Outcome State Fault Refusal :=
  runEvent s (s.takeAsync ⟨tile, core, ctx⟩)

/-- A trap of the instruction that a context waits in; in the wait of `done` it is a trap ending (R373, R391). -/
def State.trapWaiting (s : State) (id : CtxId) (code : TrapCode) (val : Word) : State :=
  let s1 := s.actAs id
  let c := s1.me
  match c.wait with
  | .ending false => s1.trapEnding code.num 0 c.r.pc val
  | .ending true => s1
  | _ => (s1.setMe { c with wait := .none }).takeTrap code 0 c.r.pc val

/-! Page faults (R317, R378). -/

/-- Whether the page of a fault now translates with the permission it needs. -/
def State.faultOver (s : State) (f : PageFault) : Bool :=
  match s.xlate f.slot f.va.toNat with
  | none => false
  | some (_, l) => if f.write then l.w else l.r

/-- Whether a fault can be resolved: a mapping exists for the address, and it does not forbid the access. -/
def State.resolvable (s : State) (f : PageFault) : Bool :=
  s.faultOver f || (match s.evictedAt (s.slot f.slot).asid f.va.toNat with
    | some m => if f.write then m.w else m.r
    | none => false)

/-- The page of a fault made resident. -/
def State.resolvePage (s : State) (f : PageFault) : Option State :=
  if s.faultOver f then some s
  else
    match s.evictedAt (s.slot f.slot).asid f.va.toNat with
    | none => none
    | some _ => s.pageIn f.slot f.va.toNat

/-- What the fault held goes on. -/
def State.release? (s : State) (f : PageFault) : State :=
  match f.who with
  | .ctx id => s.setCtx id { s.ctx id with wait := .none }
  | .prog id =>
    let c := s.ctx id
    s.setCtx id { c with prog := c.prog.map (fun p => { p with held := false }) }
  | .sideLog _ => s
  | .copy tile core num =>
    let k := s.core tile core
    s.setCore tile core { k with copies := k.copies.map (fun r =>
      if r.slot = f.slot ∧ r.num = num then { r with held := none } else r) }
  | .matrix tile g n =>
    let u := (s.tile tile).unit g
    s.setUnit tile g (u.setQueue n ((u.queue n).map (fun r =>
      if r.slot = f.slot ∧ r.held = some f.va then { r with held := none } else r)))

/-- The failure of a held sequencer program. -/
def State.failHeld (s : State) (id : CtxId) (code : TrapCode) : State :=
  let c := s.ctx id
  match c.prog with
  | none => s
  | some p =>
    let v := { (s.setCtx id (c.asProg p)) with cur := id, inProg := true }
    let u := v.failProgram code
    { (u.setCtx id (c.fromProg (u.ctx id))) with inProg := false }

/-- Discards the side-log entry whose replay meets a fault; its context takes PAGE (R378). -/
def State.discardLogged (s : State) (tile : Nat) (f : PageFault) : State :=
  let t := s.tile tile
  match t.sideLog.zipIdx.find? (fun q => q.1.slot == f.slot && (match (s.actAs q.1.owner).performOne tile q.1 with
    | .error (.fault va _) => va == f.va
    | _ => false)) with
  | none => s
  | some (p, k) =>
    ((s.setTile tile { t with sideLog := t.sideLog.eraseIdx k }).dropWith tile p).postTrap p.owner
      ⟨TrapCode.page.num, 3, f.va⟩

/-- What an unresolvable fault leads to (R253, R263, R378). -/
def State.failFault (s : State) (f : PageFault) : State :=
  match f.who with
  | .ctx id => s.trapWaiting id .page f.va
  | .prog id => s.failHeld id .page
  | .sideLog tile => s.discardLogged tile f
  | .copy tile core num =>
    match (s.core tile core).copies.find? (fun r => r.slot == f.slot && r.num == num) with
    | some r => s.copyFail tile core r .page
    | none => s
  | .matrix tile g n =>
    match (((s.tile tile).unit g).queue n).find? (fun r => r.slot == f.slot && r.held == some f.va) with
    | some r => s.matrixFail tile g n r .page
    | none => s

/-- Whether the trap of a held context must still wait (R131). -/
def State.faultBusy (s : State) (f : PageFault) : Bool :=
  match f.who with
  | .ctx id => (s.actAs id).wideBusy
  | _ => false

/-- FAULT_RESOLUTION: Tueno answers the k-th fault; it resolves those that can be resolved, and no others (R378). -/
def execFaultResolution (k : Nat) (resolved : Bool) (s : State) : Host.Outcome State Fault Refusal :=
  runEvent s (
    match s.mg.faults[k]? with
    | none => none
    | some f =>
      if s.mg.switching.isSome || s.resolvable f != resolved then none
      else
        let s1 := { s with mg := { s.mg with faults := s.mg.faults.eraseIdx k } }
        if resolved then (s1.resolvePage f).map (fun u => u.release? f)
        else if s.faultBusy f then none
        else some (s1.failFault f))

/-! Host memory (R235, R391). -/

/-- The answer of the host reaches who asked for it. -/
def State.giveAnswer (s : State) (r : HostReq) (data : List Byte) : State :=
  match r.via with
  | .self | .prog =>
    let c := s.ctx r.owner
    match c.wait, r.op with
    | _, .flush => s.setCtx r.owner { c with
        hostWrote := s.hostReqs.any (fun q => q.owner == r.owner && q.gen == r.gen && q.isWrite) }
    | .host got, _ => s.setCtx r.owner { c with wait := .host (aset got r.va.toNat data) }
    | _, _ => s
  | .copy num =>
    let k := s.core r.owner.tile r.owner.core
    s.setCore r.owner.tile r.owner.core { k with copies := k.copies.map (fun x =>
      if x.slot = r.slot ∧ x.num = num then { x with got := aset x.got r.va.toNat data } else x) }
  | .matrix g n num =>
    let u := (s.tile r.owner.tile).unit g
    s.setUnit r.owner.tile g (u.setQueue n ((u.queue n).map (fun x =>
      if x.slot = r.slot ∧ x.num = num then { x with got := aset x.got r.va.toNat data } else x)))
  | .log _ =>
    let t := s.tile r.owner.tile
    s.setTile r.owner.tile { t with sideLog := t.sideLog.map (fun p =>
      if r.forEntry p then p.mergeWord r.va.toNat data else p) }

/-- A request to host memory failed: PERM, or MEM_LOST for poisoned data (R235, R391). A zero-length read that fails at an
ending is not sent again. -/
def State.failRequest (s : State) (r : HostReq) (code : TrapCode) : State :=
  match r.via with
  | .self =>
    let c := s.ctx r.owner
    (match c.wait with
     | .ending _ => s.setCtx r.owner { c with hostWrote := false }
     | _ => s).trapWaiting r.owner code r.va
  | .prog => s.failHeld r.owner code
  | .log _ =>
    let t := s.tile r.owner.tile
    match t.sideLog.find? (fun p => r.forEntry p) with
    | some p =>
      ((s.setTile r.owner.tile { t with sideLog := t.sideLog.erase p }).dropWith r.owner.tile p).postTrap r.owner
        ⟨code.num, 3, r.va⟩
    | none => s
  | .copy num =>
    match (s.core r.owner.tile r.owner.core).copies.find? (fun x => x.slot == r.slot && x.num == num) with
    | some x => s.copyFail r.owner.tile r.owner.core x code
    | none => s
  | .matrix g n num =>
    match (((s.tile r.owner.tile).unit g).queue n).find? (fun x => x.slot == r.slot && x.num == num) with
    | some x => s.matrixFail r.owner.tile g n x code
    | none => s

/-- Bytes that a request is answered with. -/
def HostOp.bytes : HostOp → Nat
  | .read n => n
  | .amo _ n _ => n
  | .cas n _ _ => n
  | _ => 0

/-- Whether an earlier write of the same context is still on its way: a zero-length read comes behind it (R391). -/
def State.writesBefore (s : State) (k : Nat) (r : HostReq) : Bool :=
  r.op == .flush && (s.hostReqs.take k).any (fun q => q.owner == r.owner && q.gen == r.gen && q.posted)

/-- A context of an image with a pending trap, if it is the occupancy of a generation. -/
def Image.pendTrap (i : Image) (core ctx : Nat) (gen : BitVec 16) (p : Pending) : Image :=
  match aget i.ctxs core with
  | none => i
  | some l =>
    match aget l ctx with
    | some c => if c.active && c.gen == gen then
        { i with ctxs := aset i.ctxs core (aset l ctx { c with pend := c.pend ++ [p] }) } else i
    | none => i

/-- A pending trap for an occupancy of a slot, whether it runs or lies in an image. -/
def State.trapOccupancy (s : State) (slot : Nat) (id : CtxId) (gen : BitVec 16) (p : Pending) : State :=
  let c := s.ctx id
  if c.active && c.gen == gen && c.slot == slot then s.postTrap id p
  else
    let j := s.slot slot
    s.setSlot slot { j with images := j.images.map (fun q =>
      (q.1, if j.devTile q.1 == id.tile then q.2.pendTrap id.core id.ctx gen p else q.2)) }

/-- A posted request ended without success: for a FetchAdd its context takes a trap, and the reduction makes no arrival
(R235; notes/assumptions/43.md). A posted write has no completion that could say so. -/
def State.failPosted (s : State) (r : HostReq) (code : TrapCode) : State :=
  match r.group with
  | none => s
  | some g =>
    let t := s.tile r.owner.tile
    let keep (p : Posted) : Bool := !(p.owner == r.owner && p.gen == r.gen && p.group == g && p.isArrival)
    (s.setTile r.owner.tile { t with posted := t.posted.filter keep, sideLog := t.sideLog.filter keep }).trapOccupancy
      r.slot r.owner r.gen ⟨code.num, 3, r.va⟩

/-- What a posted write or FetchAdd of host memory has written, when the host has completed it: the kind of the event, and the
bytes by host address; of a FetchAdd they follow from the old value, the data (R217, R235). -/
def HostReq.written (r : HostReq) (data : List Byte) : EventKind × List Host.Cell :=
  match r.op with
  | .write cells => (.write, cells)
  | .amo op n y =>
    (.rmw, if data.length = n then
      (bytesOf n (amoNew op (8 * n) (leNat data) y.toNat)).zipIdx.map (fun b => (r.hpa + b.2, b.1)) else [])
  | _ => (.write, [])

/-- A posted request has completed: what it wrote is an event, of which its context knows, and of a `red` its group (R195,
R217, R227). -/
def State.hostDone (s : State) (r : HostReq) (data : List Byte) : State :=
  match r.event with
  | none => s
  | some (a, rels) =>
    let w := r.written data
    let (made, s1) := s.hostMade w.1 a rels w.2
    let c := s1.ctx r.owner
    let s2 := if c.active && c.gen == r.gen && c.slot == r.slot then
      s1.setCtx r.owner { c with view := c.view.learn s1.record.isLoose made } else s1
    match r.group with
    | some g => s2.tellPosted r.owner r.gen r.slot g made
    | none => s2

/-- Ticks of 1.6 GHz in the completion timeout of 50 ms (R391). -/
def hostTimeout : Nat := 80000000

/-- HOST_COMPLETION: the host answers the k-th request before its timeout (R235, R391). -/
def execHostCompletion (k : Nat) (st : CplStatus) (data : List (BitVec 8)) (s : State) :
    Host.Outcome State Fault Refusal :=
  runEvent s (
    match s.hostReqs[k]? with
    | none => none
    | some r =>
      let s1 := { s with hostReqs := s.hostReqs.eraseIdx k }
      if s.writesBefore k r || decide (r.since + hostTimeout ≤ s.wstime) then none
      else if r.posted then
        some (match st with
          | .ok => s1.hostDone r data
          | .poisoned => s1.failPosted r .memLost
          | .abort => s1.failPosted r .perm)
      else if r.via == .self && (s.actAs r.owner).wideBusy then none
      else
        match st with
        | .ok => if data.length = r.op.bytes then some (s1.giveAnswer r data) else none
        | .poisoned => some (s1.failRequest r .memLost)
        | .abort => some (s1.failRequest r .perm))

/-- HOST_REQUEST_TIMEOUT (R391). -/
def execHostRequestTimeout (k : Nat) (s : State) : Host.Outcome State Fault Refusal :=
  runEvent s (
    match s.hostReqs[k]? with
    | none => none
    | some r =>
      if s.wstime < r.since + hostTimeout || (r.via == .self && (s.actAs r.owner).wideBusy) then none
      else
        let s1 := { s with hostReqs := s.hostReqs.eraseIdx k }
        some (if r.posted then s1.failPosted r .perm else s1.failRequest r .perm))

/-! The fetch port and the instruction cache (R95 to R97). -/

/-- A pending request for a block: who, whether for its program, its class, its address space, the block, since when. -/
structure FetchReq where
  id : CtxId
  prog : Bool
  cls : Nat
  asid : Nat
  block : Word
  since : Nat
  deriving DecidableEq, Repr

/-- The pending requests of a tile. -/
def State.fetchReqs (s : State) (tile : Nat) : List FetchReq :=
  let t := s.tile tile
  t.cores.flatMap fun k => k.2.ctxs.flatMap fun p =>
    let c := p.2
    let asid := (s.slot c.slot).asid
    let cls := if p.1 = 8 then 0 else c.cls
    if c.active && t.runs c.slot c.jtile then
      c.wanted.map (fun w => ⟨⟨tile, k.1, p.1⟩, false, cls, asid, w.1, w.2⟩)
        ++ (match c.prog with
          | some q => q.wanted.map (fun w => ⟨⟨tile, k.1, p.1⟩, true, cls, asid, w.1, w.2⟩)
          | none => [])
    else []

/-- The block of the instruction cache for an address space and address. -/
def Tile.iblock (t : Tile) (asid : Nat) (va : Word) : Option IBlock :=
  t.icache.find? (fun b => b.asid.toNat == asid && b.va == va)

/-- The requests for the same block. -/
def FetchReq.group (r : FetchReq) (l : List FetchReq) : List FetchReq :=
  l.filter (fun q => q.asid == r.asid && q.block == r.block)

/-- The rank of a group of requests: class, oldest request, core of the oldest (R96). -/
def fetchRank (g : List FetchReq) : Nat × Nat × Nat :=
  (g.foldl (fun m r => Nat.min m r.cls) 3, g.foldl (fun m r => Nat.min m r.since) (g.foldl (fun m r => Nat.max m r.since) 0),
   g.foldl (fun m r => Nat.min m r.id.core) 31)

/-- Whether one rank comes before another. -/
def rankBefore (a b : Nat × Nat × Nat) : Bool :=
  decide (a.1 < b.1) || (a.1 == b.1 && (decide (a.2.1 < b.2.1) || (a.2.1 == b.2.1 && decide (a.2.2 < b.2.2))))

/-- The group that the port serves next out of those that hit (R96); two of one core that still tie go in the order of the
core's contexts (notes/assumptions/47.md). -/
def nextGroup (t : Tile) (l : List FetchReq) : Option (List FetchReq) :=
  let hits := l.filter (fun r => (t.iblock r.asid r.block).isSome)
  hits.foldl (fun (best : Option (List FetchReq)) r =>
    let g := r.group hits
    match best with
    | none => some g
    | some b => if rankBefore (fetchRank g) (fetchRank b) then some g else some b) none

/-- A delivered block enters the fetch buffer of one requester. -/
def State.deliver (s : State) (r : FetchReq) (data : BitVec 256) : State :=
  let c := s.ctx r.id
  let f (fetched : List (Word × BitVec 256)) : List (Word × BitVec 256) :=
    fetched.filter (fun p => p.1 != r.block) ++ [(r.block, data)]
  let w (wanted : List (Word × Nat)) : List (Word × Nat) := wanted.filter (fun p => p.1 != r.block)
  s.setCtx r.id (
    if r.prog then { c with prog := c.prog.map (fun p => { p with fetched := f p.fetched, wanted := w p.wanted }) }
    else { c with fetched := f c.fetched, wanted := w c.wanted })

/-- FETCH_DELIVERY: the port delivers one block to every context that asks for it (R96). -/
def execFetchDelivery (tile : Nat) (s : State) : Host.Outcome State Fault Refusal :=
  runEvent s (
    let t := s.tile tile
    match nextGroup t (s.fetchReqs tile) with
    | none => none
    | some g =>
      match g with
      | [] => none
      | r :: _ =>
        match t.iblock r.asid r.block with
        | none => none
        | some b =>
          let cache := t.icache.map (fun x => if x.asid = b.asid ∧ x.va = b.va then { x with used := s.time } else x)
          some (g.foldl (fun (u : State) q => u.deliver q b.data) (s.setTile tile { t with icache := cache })))

/-- The set of a block (R95). -/
def iset (va : Word) : Nat := bits va.toNat 5 9

/-- The instruction cache with room for a block in its set: the least recently used unpinned block goes (R95). -/
def Tile.iroom (t : Tile) (va : Word) : Option (List IBlock) :=
  let mine := t.icache.filter (fun b => iset b.va == iset va)
  if mine.length < 8 then some t.icache
  else
    match (mine.filter (fun b => b.pinned.isNone)).foldl (fun (m : Option IBlock) b =>
        match m with
        | none => some b
        | some x => if b.used < x.used then some b else some x) none with
    | none => none
    | some v => some (t.icache.filter (fun b => b != v))

/-- Puts a block into a tile's instruction cache, filled from the LLC, whose home slice then holds its sector (R95, R319). -/
def State.ifill (s : State) (tile slot asid : Nat) (va : Word) (pinned : Option Nat) : Option State :=
  let t := s.tile tile
  match s.codeBlock slot va, t.iroom va with
  | some data, some l =>
    let s1 := s.setTile tile { t with icache := l ++ [⟨BitVec.ofNat 16 asid, va, pinned, s.time, data⟩] }
    some (if regionOf va.toNat ≤ 3 then s1.touchSector asid va.toNat 0 else s1)
  | _, _ => none

/-- A block that a context asks for comes into its tile's cache, once no unit of the part on its way is busy (R322, R386). -/
def State.fillBlock (s : State) (r : FetchReq) : Option State :=
  if s.unitBusy (s.agentOf r.id) r.block.toNat then none else s.ifill r.id.tile (s.ctx r.id).slot r.asid r.block none

/-- ICACHE_FILL: a block that is asked for and missing is filled (R95), after Tueno has brought back an evicted page. -/
def execIcacheFill (tile : Nat) (asid : BitVec 16) (block : BitVec 64) (s : State) :
    Host.Outcome State Fault Refusal :=
  runEvent s (
    let a := asid.toNat
    match (s.fetchReqs tile).find? (fun r => r.asid == a && r.block == block) with
    | none => none
    | some r =>
      if ((s.tile tile).iblock a block).isSome then none
      else if (s.execPage (s.ctx r.id).slot block).isNone then none
      else
        if (s.evictedAt a block.toNat).isSome then
          if s.mg.switching.isSome then none
          else (s.pageIn (s.ctx r.id).slot block.toNat).bind (fun u => u.fillBlock r)
        else s.fillBlock r)

end Sys2Proof.Machine
end

