-- ==== Sys2Proof/Machine/Messages.lean ====
section
/-! DEFINITION. Messages: the header words, sending, networks, the inbox, spilling and mailbox status (spec/12 R284 to
R302, R304 to R308; spec/15 R350). -/

namespace Sys2Proof.Machine

/-! Header words (R285, R286). -/

/-- A field of a word. -/
def hf (w : Word) (lo n : Nat) : Nat := bits w.toNat lo n

/-- A word with a field replaced. -/
def putBits (w : Word) (lo n v : Nat) : Word :=
  (w &&& ~~~(BitVec.ofNat 64 ((2 ^ n - 1) * 2 ^ lo))) ||| BitVec.ofNat 64 (v % 2 ^ n * 2 ^ lo)

/-- H0.HOFS. -/
def hOfs (h : Word) : Nat := hf h 0 32
/-- H0.DTILE. -/
def hTile (h : Word) : Nat := hf h 32 11
/-- H0.DCORE. -/
def hCore (h : Word) : Nat := hf h 43 5
/-- H0.STAGE. -/
def hStage (h : Word) : Bool := hf h 49 1 == 1
/-- The stage that a stage message names: DCORE[1:0]. -/
def hStageNum (h : Word) : Nat := hf h 43 2
/-- H0.CLS. -/
def hCls (h : Word) : Nat := hf h 50 2
/-- H0.VN: a reply. -/
def hReply (h : Word) : Bool := hf h 52 1 == 1
/-- H0.RFN. -/
def hRfn (h : Word) : Bool := hf h 53 1 == 1
/-- H0.LEN. -/
def hLen (h : Word) : Nat := hf h 56 3
/-- H1.TGEN. -/
def hTgen (h : Word) : Nat := hf h 20 16
/-- H1.STILE. -/
def hSrcTile (h : Word) : Nat := hf h 0 11
/-- H1.SCORE. -/
def hSrcCore (h : Word) : Nat := hf h 11 5

/-- The source fields of H1 (R286). -/
def srcFields (ctx core tile : Nat) : Nat := ctx * 2 ^ 16 + core * 2 ^ 11 + tile

/-- The network of a message (R295): 0 request, 1 reply, 2 class 0. -/
def Msg.net (m : Msg) : Fin 3 := if hCls m.h0 = 0 then 2 else if hReply m.h0 then 1 else 0

/-- The position of a network's arrival buffer. -/
def netIndex : Net → Fin 3
  | .request => 0
  | .reply => 1
  | .class0 => 2

/-! Launch members (R350). -/

/-- Changes the launch of a job with a serial number. -/
def State.onLaunch (s : State) (slot : Nat) (serial : Option Nat) (f : Launch → Launch) : State :=
  match serial with
  | none => s
  | some n =>
    let j := s.slot slot
    s.setSlot slot { j with launches := j.launches.map (fun l => if l.serial = n then f l else l) }

/-- A member message is enqueued. -/
def State.memberUp (s : State) (slot : Nat) (serial : Option Nat) : State :=
  s.onLaunch slot serial (fun l => { l with members := l.members + 1 })

/-- A member ends, or a member message is dropped. -/
def State.memberDown (s : State) (slot : Nat) (serial : Option Nat) : State :=
  s.onLaunch slot serial (fun l => { l with members := l.members - 1 })

/-- Whether the launch of a message has been cancelled (R368). -/
def State.cancelledMsg (s : State) (m : Msg) : Bool :=
  match m.launch with
  | none => false
  | some n => (s.slot m.slot).launches.any (fun l => l.serial == n && l.cancelled)

/-! What a core keeps for a job. -/

/-- The key of the job tile that a message goes to. -/
def Msg.key (m : Msg) : Nat := jobKey m.slot (hTile m.h0)

/-- Changes what a core keeps for a job tile. -/
def State.onJob (s : State) (tile core key : Nat) (f : JobCore → JobCore) : State :=
  let k := s.core tile core
  s.setCore tile core (k.setJob key (f (k.job key)))

/-- A count of R306, which saturates. -/
def satInc (n : Nat) : Nat := Nat.min (n + 1) (2 ^ 64 - 1)

/-- MBCFG.SPHL (R296). -/
def JobCore.sphl (j : JobCore) : Nat := hf j.mbcfg 24 16
/-- MBCFG.THR. -/
def JobCore.thr (j : JobCore) : Nat := hf j.mbcfg 16 5
/-- MBCFG.DEPTH. -/
def JobCore.depth (j : JobCore) : Nat := hf j.mbcfg 8 5

/-- Whether a tile lies in the box of a bind of class 0, so that c7 is reserved (R76). -/
def State.c7Reserved (s : State) (tile : Nat) : Bool :=
  s.slots.any (fun p => p.2.bound && p.2.cls == 0 && p.2.box.contains tile)

/-- R0 of R297. -/
def State.r0 (s : State) (tile : Nat) : Nat := b2n (s.c7Reserved tile)

/-! Sending (R288 to R294). -/

/-- The payload words from a base register (R290). -/
def State.payload (s : State) (b : Option (BitVec 6)) (n : Nat) : List Word :=
  (List.range 6).map (fun i =>
    match b with
    | none => 0
    | some r => if i < n then s.me.r.getG (r + BitVec.ofNat 6 i) else 0)

/-- The checks of R290 on reserved bits, LEN, payload range and class. -/
def State.headerOk (s : State) (h0 : Word) (b : Option (BitVec 6)) : Bool :=
  hf h0 59 5 == 0 && hf h0 54 2 == 0 && hLen h0 != 7
    && (match b with
        | none => true
        | some r => decide (r.toNat + hLen h0 ≤ 64))
    && decide (s.mySlot.cls ≤ hCls h0)

/-- A message of the executing activation (R286, R350). -/
def State.message (s : State) (h0 h1 : Word) (pay : List Word) : Msg where
  slot := s.me.slot
  h0 := h0
  h1 := putBits h1 0 20 (srcFields s.cur.ctx s.cur.core s.me.jtile)
  pay := pay
  launch := s.me.launch
  sluice := false
  dispatch := false
  waiter := none
  notice := false
  num := 0
  seen := []
  behind := none
  nest := none

/-- The message as it is enqueued: every access of the executing context so far comes before the activation that it
starts. Updates that have still to perform hold the message back, not the context (R213, R290, R294). -/
def State.departing (s : State) (m : Msg) : Msg × State :=
  let (seen, s1) := s.issues
  ({ m with num := s.nextId, seen, behind := if s.drained then none else some (s.cur, s.me.gen, s.nextId) },
    { s1 with nextId := s.nextId + 1 })

/-- Reads, checks and builds the request of `send` (R287, R290). -/
def State.sendDraft (s : State) (delay : Nat) (a : SSrc) (b : Option (BitVec 6)) (c : SSrc) :
    Except Stop (Msg × State) := do
  let (h0, s1) ← s.readS a
  let (h1, s2) ← s1.readS c
  let jt := s2.me.jtile
  let dt := if hTile h0 = 2047 then jt else hTile h0
  need (s2.headerOk h0 b && !(hStage h0 && hf h0 45 3 != 0) && s2.mySlot.inShape dt
    && !(delay != 0 && (hStage h0 || dt != jt || hCore h0 != s2.cur.core))) .msg h0
  .ok (s2.message (putBits (putBits (putBits h0 32 11 dt) 52 1 0) 48 1 0) h1 (s2.payload b (hLen h0)), s2)

/-- Whether a place for a message is free: in the delay list, or in the send queue for its class (R288). -/
def State.sendRoom (s : State) (m : Msg) (delay : Nat) : Bool :=
  let k := s.myCore
  if delay != 0 then decide (k.delays.length < 8)
  else
    decide (k.sendQ.length < 16) && (hCls m.h0 == 0 || !s.c7Reserved s.cur.tile
      || decide ((k.sendQ.filter (fun q => hCls q.h0 != 0)).length < 14))

/-- Enqueues a message: a member of its launch from now on (R290, R292, R350). -/
def State.enqueue (s : State) (m : Msg) (delay : Nat) : State :=
  let (m, s) := s.departing m
  let k := s.myCore
  let k1 := if delay != 0 then { k with delays := k.delays ++ [(s.time + delay, m)] } else { k with sendQ := k.sendQ ++ [m] }
  (s.setCore s.cur.tile s.cur.core k1).memberUp m.slot m.launch

/-- `send` (R290). -/
def execSend (g : Guard) (delay : BitVec 20) (a : SSrc) (b : Option (BitVec 6)) (c : SSrc) (s : State) :
    Host.Outcome State Fault Refusal :=
  runInstr g 16 s (fun s => do
    s.mayBlock
    let (m, s1) ← s.sendDraft delay.toNat a b c
    ready (s1.sendRoom m delay.toNat)
    .ok (s1.enqueue m delay.toNat))

/-- `send.nb`: a failing one only writes its predicate, and pops nothing (R32, R290). -/
def execSendNb (g : Guard) (ps : BitVec 3) (delay : BitVec 20) (a : SSrc) (b : Option (BitVec 6)) (c : SSrc)
    (s : State) : Host.Outcome State Fault Refusal :=
  runInstr g 16 s (fun s => do
    let (m, s1) ← s.sendDraft delay.toNat a b c
    .ok (if s1.sendRoom m delay.toNat then (s1.enqueue m delay.toNat).writeP ps true else s.writeP ps false))

/-- The trapping `send`: it waits for its outcome after it has enqueued (R290, R291). -/
def execSendTrapping (g : Guard) (delay : BitVec 20) (a : SSrc) (b : Option (BitVec 6)) (c : SSrc) (s : State) :
    Host.Outcome State Fault Refusal :=
  runInstr g 16 s (fun s =>
    match s.me.wait with
    | .outcome _ _ => .error .stall
    | _ => do
      s.mayBlock
      let (m, s1) ← s.sendDraft delay.toNat a b c
      need (s1.sendRoom m delay.toNat) .sqFull 0
      let s2 := s1.enqueue { m with waiter := some s1.cur } delay.toNat
      .error (.wait (s2.setMe { s2.me with wait := .outcome m.h0 none })))

/-- SEND_OUTCOME: a reported outcome completes the trapping `send`; a refusal then traps REFUSED (R291, R373). -/
def execSendOutcome (tile core ctx : Nat) (s : State) : Host.Outcome State Fault Refusal :=
  runEvent s (
    let s1 := s.actAs ⟨tile, core, ctx⟩
    let c := s1.me
    match c.active, c.wait with
    | true, .outcome h0 (some refused) =>
      let p := if refused then c.pend ++ [⟨TrapCode.refused.num, 0, h0⟩] else c.pend
      some ((s1.setMe { c with wait := .none, pend := p }).advance 16)
    | _, _ => none)

/-- Reports the outcome of a message to the context that waits for it (R291). -/
def State.report (s : State) (m : Msg) (refused : Bool) : State :=
  match m.waiter with
  | none => s
  | some id =>
    let c := s.ctx id
    match c.wait with
    | .outcome h0 _ => s.setCtx id { c with wait := .outcome h0 (some refused) }
    | _ => s

/-- `reply` (R293). -/
def execReply (g : Guard) (a : SSrc) (b : Option (BitVec 6)) (c : SSrc) (s : State) : Host.Outcome State Fault Refusal :=
  runInstr g 16 s (fun s => do
    let (h0, s1) ← s.readS a
    let (h1, s2) ← s1.readS c
    let x := s2.me
    need (x.ownsReply && !x.replied) .msg h0
    need (s2.headerOk h0 b && !hStage h0) .msg h0
    let h := putBits (putBits (putBits (putBits h0 52 1 1) 48 1 0) 32 11 (hSrcTile x.src)) 43 5 (hSrcCore x.src)
    let (m, s3) := (s2.setMe { x with replied := true }).departing (s2.message h h1 (s2.payload b (hLen h0)))
    let k := s3.myCore
    let rs := k.replies.map (fun r =>
      if r.slot = x.slot ∧ r.jtile = x.jtile ∧ r.ctx = s2.cur.ctx ∧ r.gen = x.gen then { r with msg := some m } else r)
    .ok ((s3.setCore s3.cur.tile s3.cur.core { k with replies := rs }).memberUp m.slot m.launch))

/-- The owner of a task's number k: its tile and core (R294). -/
def ownerOf (j : Slot) (k : Nat) : Nat × Nat :=
  let t := k / 32
  (tileNum (t % j.sx) (t / j.sx % j.sy) (t / (j.sx * j.sy)), k % 32)

/-- Owners of a job: N of R294. -/
def Slot.owners (j : Slot) : Nat := 32 * j.sx * j.sy * j.sz

/-- The hash of a path (R294). -/
def pathHash (p : Word) : Word :=
  let h := (p ^^^ (p >>> 31)) * 0xA3C59AC2F1E87D35
  h ^^^ (h >>> 29)

/-- The tile and core that an address names as owner of a task (R294). -/
def State.ownerAt (s : State) (va : Word) : Except Stop (Nat × Nat) :=
  let j := s.mySlot
  if va.toNat / 2 ^ 55 ≠ 0 then .error (.trap .addr va)
  else if regionOf va.toNat = 7 then
    let t := if hf va 21 11 = 2047 then s.me.jtile else hf va 21 11
    if j.inShape t then .ok (t, hf va 16 5) else .error (.trap .addr va)
  else if regionOf va.toNat < 4 then .ok (ownerOf j (hf va 10 45 % j.owners))
  else .error (.trap .addr va)

/-- Reads, checks and builds the request of `spawn` (R294). The checks of R290 apply to the fields that software fills. -/
def State.spawnDraft (s : State) (det : Bool) (a : SSrc) (b : Option (BitVec 6)) (c : SSrc) :
    Except Stop (Msg × State) := do
  let (h0, s1) ← s.readS a
  let (x, s2) ← s1.readS c
  need (s2.headerOk h0 b && !hStage h0) .msg h0
  let pay := s2.payload b (hLen h0)
  if det then
    let o := ownerOf s2.mySlot ((pathHash x).toNat % s2.mySlot.owners)
    let h := putBits (putBits (putBits (putBits h0 52 1 0) 48 1 0) 32 11 o.1) 43 5 o.2
    .ok (s2.message h (BitVec.ofNat 64 (hf x 0 28 * 2 ^ 36)) pay, s2)
  else do
    need (hLen h0 != 0) .msg h0
    let o ← s2.ownerAt (pay.headD 0)
    need (hTgen x == 0) .msg h0
    let h := putBits (putBits (putBits (putBits h0 52 1 0) 48 1 1) 32 11 o.1) 43 5 o.2
    .ok (s2.message h x pay, s2)

/-- `spawn` (R294). -/
def execSpawn (g : Guard) (det : Bool) (a : SSrc) (b : Option (BitVec 6)) (c : SSrc) (s : State) :
    Host.Outcome State Fault Refusal :=
  runInstr g 16 s (fun s => do
    let (m, s1) ← s.spawnDraft det a b c
    ready (s1.sendRoom m 0)
    .ok (s1.enqueue m 0))

/-- `spawn.nb`: a failing one only writes its predicate, and pops nothing (R32, R294). -/
def execSpawnNb (g : Guard) (ps : BitVec 3) (det : Bool) (a : SSrc) (b : Option (BitVec 6)) (c : SSrc) (s : State) :
    Host.Outcome State Fault Refusal :=
  runInstr g 16 s (fun s => do
    let (m, s1) ← s.spawnDraft det a b c
    .ok (if s1.sendRoom m 0 then (s1.enqueue m 0).writeP ps true else s.writeP ps false))

/-! Governors (R282, R302). -/

/-- The governor of a job on a tile: the tile's own for the holder, an overlay's own, or the saved one of a job tile that
does not run. -/
def State.govOf (s : State) (tile slot jt : Nat) : Governor :=
  let t := s.tile tile
  if t.holder = some slot ∧ t.jtile = jt then t.gov
  else if (s.slot slot).ovl then (aget t.govs slot).getD Governor.reset
  else ((s.slot slot).image jt).gov

/-- Replaces the governor of a job on a tile. -/
def State.setGov (s : State) (tile slot jt : Nat) (v : Governor) : State :=
  let t := s.tile tile
  let j := s.slot slot
  if t.holder = some slot ∧ t.jtile = jt then s.setTile tile { t with gov := v }
  else if j.ovl then s.setTile tile { t with govs := aset t.govs slot v }
  else s.setSlot slot { j with images := aset j.images jt { j.image jt with gov := v } }

/-- GOVSTi.V. -/
def govV (w : Word) : Bool := hf w 63 1 == 1
/-- GOVSTi.GRP. -/
def govGrp (w : Word) : Nat := hf w 52 4
/-- GOVSTi.RID. -/
def govRid (w : Word) : Nat := hf w 40 8
/-- GOVSTi.HOFS. -/
def govHofs (w : Word) : Nat := hf w 0 32

/-- A stage register by number. -/
def Governor.stage (v : Governor) (n : Nat) : Word := v.st.getD n 0

/-- Whether a core serves a stage and its group is not pending. -/
def Governor.serves (v : Governor) (n c : Nat) : Bool :=
  (govGrp (v.stage n)).testBit (c / 8) && (match v.move with
    | some m => m.1 != c / 8
    | none => true)

/-- The candidate cores of a stage in the order from its pointer (R302). -/
def Governor.candidates (v : Governor) (n : Nat) : List Nat :=
  ((List.range 32).map (fun i => (v.ptr.getD n 0 + i) % 32)).filter (v.serves n)

/-! The inbox (R296 to R301). -/

/-- Entries of the inbox that the job's requests of classes 1 to 3 may fill (R297). -/
def State.requestLimit (s : State) (tile core key : Nat) : Nat :=
  let j := (s.core tile core).job key
  Nat.min j.thr (j.depth - 1 - s.r0 tile)

/-- Whether the inbox admits a message now (R297). -/
def State.admits (s : State) (tile core : Nat) (m : Msg) : Bool :=
  let k := s.core tile core
  let o := k.inbox.length
  match m.net with
  | 2 => decide (o < 16)
  | 1 => decide (o < (k.job m.key).depth - s.r0 tile)
  | _ => decide (o < s.requestLimit tile core m.key)

/-- Requests of a job, or of any job, that hold spill credits on a core. -/
def Core.credited (k : Core) : List Arrived := (k.arrivals[0]).filter (fun a => a.credit.isSome)

/-- Requests of a job that hold spill credits. -/
def Core.creditsOf (k : Core) (key : Nat) : Nat := (k.credited.filter (fun a => a.msg.key == key)).length

/-- Room() of R305. -/
def State.room (s : State) (tile core key : Nat) : Bool :=
  let k := s.core tile core
  decide (k.inbox.length < s.requestLimit tile core key) && k.credited.isEmpty

/-- Adds a message to the inbox; a notice takes RHOFS, or is dropped when there is none (R299). -/
def State.letIn (s : State) (tile core : Nat) (m : Msg) : State :=
  let k := s.core tile core
  let rh := hf (k.job m.key).mbrh 0 32
  if m.notice && rh == 0 then
    (s.onJob tile core m.key (fun j => { j with dropped := satInc j.dropped })).memberDown m.slot m.launch
  else
    let m1 := if m.notice then { m with h0 := putBits m.h0 0 32 rh } else m
    (s.setCore tile core { k with inbox := k.inbox ++ [{ m1 with waiter := none }] }).report m false

/-- The notice of a refused, orphaned or malformed message (R299); the message's launch goes with it only where it takes
the message's place. -/
def noticeOf (m : Msg) (tile core reason : Nat) (launch : Option Nat) : Msg where
  slot := m.slot
  h0 := BitVec.ofNat 64 (6 * 2 ^ 56 + 2 ^ 52 + hCls m.h0 * 2 ^ 50 + hSrcCore m.h1 * 2 ^ 43 + hSrcTile m.h1 * 2 ^ 32)
  h1 := BitVec.ofNat 64 (srcFields 8 core tile)
  pay := [BitVec.ofNat 64 reason, m.h0, m.h1] ++ m.pay.take 3
  launch := launch
  sluice := false
  dispatch := false
  waiter := none
  notice := true
  num := m.num
  seen := m.seen
  behind := none
  nest := none

/-- Sends a notice where one is wanted; `member` when it takes the message's place in its launch. A notice that finds the
buffer of four full is dropped and counted (R299, R350). -/
def State.sendNotice (s : State) (tile core jt : Nat) (m : Msg) (reason : Nat) (member : Bool) : State :=
  let n := noticeOf m jt core reason (if member then m.launch else none)
  if !hRfn m.h0 || m.waiter.isSome then if member then s.memberDown m.slot m.launch else s
  else
    let k := s.core tile core
    if k.notices.length < 4 then s.setCore tile core { k with notices := k.notices ++ [n] }
    else (s.onJob tile core m.key (fun j => { j with dropped := satInc j.dropped })).memberDown n.slot n.launch

/-- Refuses a request at a core (R298, R299). -/
def State.refuse (s : State) (tile core : Nat) (m : Msg) (reason : Nat) : State :=
  let s1 := s.onJob tile core m.key (fun j => { j with refusals := satInc j.refusals })
  (s1.sendNotice tile core (hTile m.h0) m reason true).report m true

/-- Gives a message to the Bittern context: at most four are held; none where there is no Bittern code (R303). -/
def State.giveBittern (s : State) (tile core : Nat) (malformed : Bool) (m : Msg) : State :=
  let k := s.core tile core
  if (k.job m.key).mbbh == 0 then s
  else if k.held.length < 4 then s.setCore tile core { k with held := k.held ++ [⟨malformed, m⟩] }
  else s.onJob tile core m.key (fun j => { j with dropped := satInc j.dropped })

/-- An orphan is counted, answered, given to the Bittern context and dropped (R300). -/
def State.orphan (s : State) (tile core : Nat) (m : Msg) : State :=
  let s1 := s.onJob tile core m.key (fun j => { j with orphans := satInc j.orphans })
  let s2 := (s1.sendNotice tile core (hTile m.h0) m 2 false).giveBittern tile core false m
  (s2.memberDown m.slot m.launch).report m true

/-- Whether a context of a message's job on a core, or one saved in an image of its job tile, has the generation that the
message asks for (R300). -/
def State.targetLives (s : State) (tile core : Nat) (m : Msg) : Bool :=
  let mine (l : Assoc Ctx) : Bool := l.any (fun p => p.2.active && p.2.slot == m.slot && p.2.jtile == hTile m.h0
    && p.2.gen.toNat == hTgen m.h1)
  hTgen m.h1 == 0 || mine (s.core tile core).ctxs
    || mine ((aget ((s.slot m.slot).image (hTile m.h0)).ctxs core).getD [])

/-- Replaces an arrival buffer. -/
def State.setArrivals (s : State) (tile core : Nat) (n : Fin 3) (l : List Arrived) : State :=
  let k := s.core tile core
  s.setCore tile core { k with arrivals := k.arrivals.set n l }

/-! Networks (R288, R292, R295, R302). -/

/-- Puts a message into the arrival buffer of a core, which has four entries for each network. -/
def State.deliverTo (s : State) (tile core : Nat) (m : Msg) : Option State :=
  let l := (s.core tile core).arrivals[m.net]
  if l.length < 4 then some (s.setArrivals tile core m.net (l ++ [⟨m, false, none⟩])) else none

/-- Delivers a stage message to a core of the stage's groups, or refuses it (R302). -/
def State.deliverStage (s : State) (tile : Nat) (m : Msg) : Option State :=
  let jt := hTile m.h0
  let v := s.govOf tile m.slot jt
  let n := hStageNum m.h0
  let w := v.stage n
  match v.candidates n with
  | [] => some (s.refuse tile (hCore m.h0) m 4)
  | c0 :: rest =>
    if !govV w then some (s.refuse tile (hCore m.h0) m 4)
    else
      let m1 := { m with h0 := putBits m.h0 0 32 (govHofs w) }
      let c := ((c0 :: rest).find? (fun c => s.admits tile c m1)).getD c0
      (s.deliverTo tile c m1).map (fun u =>
        u.setGov tile m.slot jt { v with ptr := if h : n < 4 then v.ptr.set n ((c + 1) % 32) h else v.ptr })

/-- Whether every update that a message leaves behind has performed (R213). -/
def State.caughtUp (s : State) (m : Msg) : Bool :=
  match m.behind with
  | none => true
  | some (i, gen, n) => !s.pendingBelow i gen m.slot (hSrcTile m.h1) n

/-- A message whose updates have performed: its activation sees those too (notes/assumptions/32.md). -/
def State.follow (s : State) (m : Msg) : Msg :=
  match m.behind with
  | none => m
  | some _ => { m with seen := s.allSeen, behind := none }

/-- The routing class of a message (R393). -/
def Msg.route (m : Msg) : RouteClass :=
  if m.dispatch then .launch else match m.net with
    | 0 => .request
    | 1 => .reply
    | _ => .class0

/-- Whether a message waits for the test of a link on its way; one from the floor die rises from layer 0 of its column
(R386, R393). -/
def State.wayBusy (s : State) (m : Msg) : Bool :=
  let dest := (s.slot m.slot).devTile (hTile m.h0)
  let src := if hSrcTile m.h1 = 2047 then dest % 64 else (s.slot m.slot).devTile (hSrcTile m.h1)
  s.routeBusy m.route src dest

/-- Whether a class-0 message may leave its core: requests and replies of one context share the class-0 network, and keep
their order (R295, R307). -/
def Core.mayLeave (k : Core) (m : Msg) : Bool :=
  hCls m.h0 != 0 || !(k.sendQ ++ k.replies.filterMap ReplySlot.msg).any (fun q =>
    hCls q.h0 == 0 && q.slot == m.slot && hf q.h1 0 20 == hf m.h1 0 20 && decide (q.num < m.num))

/-- A message enters its network and reaches the arrival path of its destination, where that has room. A reply to a
replayed message whose image named no sender has no destination and is dropped. -/
def State.inject (s : State) (m : Msg) : Option State :=
  let tile := (s.slot m.slot).devTile (hTile m.h0)
  let caught := s.caughtUp m
  let m := s.follow m
  if !caught || s.wayBusy m then none
  else if !(s.slot m.slot).inShape (hTile m.h0) then some (s.memberDown m.slot m.launch)
  else if hStage m.h0 then s.deliverStage tile m else s.deliverTo tile (hCore m.h0) m

/-- The first position of a list whose message can be injected, with the state after. -/
def State.injectFirst (s : State) : List (Nat × Msg) → Option (Nat × State)
  | [] => none
  | (i, m) :: t =>
    match s.inject m with
    | some u => some (i, u)
    | none => s.injectFirst t

/-- The head of each class in a send queue, class 0 first (R288). -/
def sendHeads (q : List Msg) : List (Nat × Msg) :=
  (List.range 4).filterMap (fun c => (q.zipIdx.find? (fun p => hCls p.1.h0 == c)).map (fun p => (p.2, p.1)))

/-- MESSAGE_INJECTION (R288, R293, R299). -/
def execMessageInjection (tile core : Nat) (out : Outlet) (s : State) : Host.Outcome State Fault Refusal :=
  runEvent s (
    let k := s.core tile core
    let change (u : State) (f : Core → Core) : State := u.setCore tile core (f (u.core tile core))
    match out with
    | .sendQueue =>
      (s.injectFirst ((sendHeads k.sendQ).filter (fun p => k.mayLeave p.2))).map (fun p =>
        change p.2 (fun x => { x with sendQ := x.sendQ.eraseIdx p.1 }))
    | .replyBuffer =>
      (s.injectFirst ((k.replies.zipIdx.filterMap (fun p => p.1.msg.map (fun m => (p.2, m)))).filter
          (fun p => k.mayLeave p.2))).map (fun p =>
        change p.2 (fun x => { x with replies := x.replies.eraseIdx p.1 }))
    | .noticeBuffer =>
      (s.injectFirst (k.notices.zipIdx.map (fun p => (p.2, p.1)))).map (fun p =>
        change p.2 (fun x => { x with notices := x.notices.eraseIdx p.1 })))

/-- The delayed message of a core that expires first, with its position; in order of issue at one clock (R292). -/
def firstExpiry (l : List (Nat × Msg)) : Option (Nat × Nat × Msg) :=
  l.zipIdx.foldl (fun (best : Option (Nat × Nat × Msg)) p =>
    match best with
    | none => some (p.2, p.1)
    | some b => if p.1.1 < b.2.1 then some (p.2, p.1) else best) none

/-- DELAY_EXPIRY: the delay counts only while the job holds the tile, so the list of a stopped job is in its image
(R292). -/
def execDelayExpiry (tile core : Nat) (s : State) : Host.Outcome State Fault Refusal :=
  runEvent s (
    let k := s.core tile core
    match firstExpiry k.delays with
    | none => none
    | some (i, t, m) =>
      if s.time < t || !s.caughtUp m then none
      else ((s.setCore tile core { k with delays := k.delays.eraseIdx i }).deliverTo tile core (s.follow m)))

/-! Arrival (R297 to R300). -/

/-- The request that took its credit first, once the inbox admits it: no other credited request passes it (R298). -/
def State.creditedNext (s : State) (tile core : Nat) : Option Arrived :=
  ((s.core tile core).credited.foldl (fun (best : Option Arrived) a =>
    match best with
    | none => some a
    | some b => if a.credit.getD 0 < b.credit.getD 0 then some a else best) none).filter
      (fun a => s.admits tile core a.msg)

/-- The head of an arrival buffer, with its position: entries with a credit have given up the head (R298). -/
def headOf (l : List Arrived) : Option (Arrived × Nat) := l.zipIdx.find? (fun p => p.1.credit.isNone)

/-- Whether a request that is not admitted may take a spill credit (R298). -/
def State.mayCredit (s : State) (tile core : Nat) (m : Msg) : Bool :=
  let k := s.core tile core
  let j := k.job m.key
  decide (j.spcnt + k.creditsOf m.key < j.sphl) && j.mbbh != 0

/-- A request takes a spill credit (R298): its sender's wait ends, for it is spilled. -/
def State.takeCredit (s : State) (tile core i : Nat) (a : Arrived) : State :=
  let k := s.core tile core
  let l := (k.arrivals[0]).set i ⟨{ a.msg with waiter := none }, true, some k.credits⟩
  (s.setCore tile core { k with arrivals := k.arrivals.set 0 l, credits := k.credits + 1 }).report a.msg false

/-- Whether a message may enter the inbox now: a request only when no request of the core holds a credit (R297, R298). -/
def State.letsIn (s : State) (tile core : Nat) (m : Msg) : Bool :=
  s.admits tile core m && (m.net != 0 || (s.core tile core).credited.isEmpty)

/-- What happens to the head of an arrival buffer: it is admitted, takes a credit, is refused, is an orphan or, being a
member of a cancelled launch, is discarded; or it stays, checked. A credited request that can be admitted goes first. -/
def State.arriveHead (s : State) (tile core : Nat) (n : Fin 3) : Option State :=
  let l := (s.core tile core).arrivals[n]
  match headOf l with
  | none => none
  | some (a, i) =>
    let gone := s.setArrivals tile core n (l.eraseIdx i)
    if a.checked then none
    else if s.cancelledMsg a.msg then some ((gone.memberDown a.msg.slot a.msg.launch).report a.msg false)
    else if !s.targetLives tile core a.msg then some (gone.orphan tile core a.msg)
    else if n == 0 && (s.creditedNext tile core).isSome then none
    else if s.letsIn tile core a.msg then some (gone.letIn tile core a.msg)
    else if n != 0 then some (s.setArrivals tile core n (l.set i { a with checked := true }))
    else if s.mayCredit tile core a.msg then some (s.takeCredit tile core i a)
    else some (gone.refuse tile core a.msg 1)

/-- DEFERRED_ADMISSION: a reply or a class-0 message that waits at the head (R297). -/
def execDeferredAdmission (tile core : Nat) (net : Net) (s : State) : Host.Outcome State Fault Refusal :=
  runEvent s (
    let n := netIndex net
    let l := (s.core tile core).arrivals[n]
    match headOf l with
    | none => none
    | some (a, i) =>
      let gone := s.setArrivals tile core n (l.eraseIdx i)
      if !a.checked then none
      else if s.cancelledMsg a.msg then some ((gone.memberDown a.msg.slot a.msg.launch).report a.msg false)
      else if s.letsIn tile core a.msg then some (gone.letIn tile core a.msg)
      else none)

/-- CREDITED_ADMISSION: its credit returns (R298). -/
def execCreditedAdmission (tile core : Nat) (s : State) : Host.Outcome State Fault Refusal :=
  runEvent s ((s.creditedNext tile core).map (fun a =>
    let l := ((s.core tile core).arrivals[(0 : Fin 3)]).filter (fun b => b.credit != a.credit)
    (s.setArrivals tile core 0 l).letIn tile core a.msg))

/-! Spilling (R304, R305). -/

/-- The checks of R304 on context, alignment and heap range; the heap's first byte and its number of slots. -/
def State.heapCheck (s : State) (ea : Word) : Except Stop (Nat × Nat) := do
  let j := s.myJob
  let base := j.mbspb.toNat / 64 * 64
  need (ea.toNat % 64 == 0) .align ea
  need (decide (base ≤ ea.toNat) && decide (ea.toNat < base + 64 * j.sphl)) .addr ea
  .ok (base, j.sphl)

/-- The address of the spill tag of a heap slot. -/
def spillTag (base sphl ea : Nat) : Word := BitVec.ofNat 64 (base + 64 * sphl + 8 * ((ea - base) / 64))

/-- Whether an inbox entry may be spilled: a request of the job of class 1 to 3 that is not from the Sluice. -/
def spillable (key : Nat) (m : Msg) : Bool := m.key == key && m.net == 0 && !m.sluice

/-- The entry that `mspill` takes: the numerically highest class, within it the latest admitted (R304). -/
def spillChoice (key : Nat) (l : List Msg) : Option (Msg × Nat) :=
  l.zipIdx.foldl (fun (best : Option (Msg × Nat)) p =>
    if !spillable key p.1 then best
    else
      match best with
      | none => some p
      | some b => if hCls b.1.h0 ≤ hCls p.1.h0 then some p else best) none

/-- The image of a message in memory (R284). -/
def Msg.image (m : Msg) : List Byte := ([m.h0, m.h1] ++ m.pay).flatMap (fun w => bytesOf 8 w.toNat)

/-- The locations of `n` bytes at an address for a write of scope 1. -/
def State.heapLocs (s : State) (write : Bool) (ea : Word) (n : Nat) : Except Stop (List Loc) :=
  s.access s.agent write false 1 (span ea n) (span ea n) (.ok ())

/-- A plain write of scope 1 by the executing context that performs at once, wherever its bytes lie. -/
def State.heapStore (s : State) (ea : Word) (locs : List Loc) (bs : List Byte) : State :=
  let vas := span ea locs.length
  let a := s.attr .plain 1
  let (made, s1) := s.writeAs a .write s.me.view.own s.passing s.record.choices (accessUnits 8 8 (vas.zip (locs.zip bs)))
  (s1.learnWrite made).hostStores (some (a, s.passing)) ((vas.zip locs).zip bs)

/-- A plain read of scope 1 by the executing context. -/
def State.heapLoad (s : State) (ea : Word) (locs : List Loc) : Except Stop (List Byte × State) :=
  let vas := span ea locs.length
  s.loadBytes (s.attr .plain 1) false true false 1 8 8 vas locs

/-- The next spill sequence number (R304). -/
def JobCore.nextSpseq (j : JobCore) : Nat := if j.spseq = 2 ^ 31 - 1 then 1 else j.spseq + 1

/-- `mspill` (R304). -/
def execMspill (g : Guard) (d : SDst) (a : SSrc) (s : State) : Host.Outcome State Fault Refusal :=
  runInstr g 8 s (fun s => do
    let (ea, s1) ← s.readS a
    s1.dstReady d
    need (s1.cur.ctx == 8) .perm 0
    let (base, sphl) ← s1.heapCheck ea
    let j := s1.myJob
    match spillChoice (jobKey s1.me.slot s1.me.jtile) s1.myCore.inbox with
    | none => s1.writeS d 0
    | some (v, i) =>
      if sphl ≤ j.spcnt then s1.writeS d 0
      else do
        ready s1.drained
        let ta := spillTag base sphl ea.toNat
        let l ← s1.heapLocs true ea 64
        let s2 := s1.heapStore ea l v.image
        match s1.heapLocs true ta 8 with
        | .error (.fault va w) => .error (.wait (s2.hold va w))
        | .error x => .error x
        | .ok tl =>
          let tag := 2 ^ 63 + j.nextSpseq * 2 ^ 32 + v.launch.getD 0
          let s3 := s2.heapStore ta tl (bytesOf 8 tag)
          let s4 := s3.setMyJob { j with spseq := j.nextSpseq, spcnt := j.spcnt + 1 }
          let k := s4.myCore
          let s5 := s4.setCore s4.cur.tile s4.cur.core { k with inbox := k.inbox.eraseIdx i }
          (s5.onLaunch v.slot v.launch (fun q => { q with spilled := q.spilled + 1 })).writeS d (putBits v.h0 63 1 1))

/-- Whether an image may be replayed on the executing core (R305). Of a stage message, whose DCORE holds a stage number, the
rule does not say whether it names this core: DCORE is compared as it stands (notes/assumptions/33.md). -/
def State.replayOk (s : State) (tag : Nat) (h0 : Word) : Bool :=
  tag.testBit 63 && hf h0 59 5 == 0 && hf h0 54 2 == 0 && hTile h0 == s.me.jtile && hCore h0 == s.cur.core
    && !hReply h0 && hCls h0 != 0 && decide (s.mySlot.cls ≤ hCls h0) && hLen h0 != 7

/-- The launch that a replayed message joins: an open one with a member in spill heaps (R305). -/
def State.replayLaunch (s : State) (serial : Nat) : Option Nat :=
  (s.mySlot.launches.find? (fun l => l.serial == serial && !l.cancelled && decide (0 < l.spilled))).map (fun l => l.serial)

/-- `mreplay` (R305). The tag's byte must be writable before anything is admitted. An image holds no iteration range: the
activation of a replayed dispatch message starts with its fetcher inactive (notes/assumptions/33.md). -/
def execMreplay (g : Guard) (d : SDst) (a : SSrc) (s : State) : Host.Outcome State Fault Refusal :=
  runInstr g 8 s (fun s => do
    let (ea, s1) ← s.readS a
    s1.dstReady d
    need (s1.cur.ctx == 8) .perm 0
    let (base, sphl) ← s1.heapCheck ea
    let j := s1.myJob
    let tile := s1.cur.tile
    let core := s1.cur.core
    if j.spcnt = 0 || !s1.room tile core (jobKey s1.me.slot s1.me.jtile) then s1.writeS d 0
    else do
      ready s1.drained
      let ta := spillTag base sphl ea.toNat
      let l ← s1.heapLocs false ea 64
      let _ ← s1.heapLocs false ta 8
      let tl ← s1.heapLocs true ta 8
      let (image, s1) ← s1.heapLoad ea l
      let (bits8, s1) ← s1.heapLoad ta tl
      let tag := leNat bits8
      let word (i : Nat) : Word := BitVec.ofNat 64 (leNat ((image.drop (8 * i)).take 8))
      let h0 := word 0
      need (s1.replayOk tag h0) .msg h0
      let launch := s1.replayLaunch (bits tag 0 32)
      let m : Msg :=
        { slot := s1.me.slot, h0 := h0, h1 := word 1
          pay := (List.range 6).map (fun i => if i < hLen h0 then word (i + 2) else 0)
          launch := launch, sluice := false, dispatch := false, waiter := none, notice := false
          num := 0, seen := s1.allSeen, behind := none, nest := none }
      let s2 := (s1.setMyJob { j with spcnt := j.spcnt - 1 }).onLaunch m.slot launch
        (fun q => { q with spilled := q.spilled - 1 })
      let s3 := if s2.targetLives tile core m then s2.letIn tile core m else s2.orphan tile core m
      (s3.heapStore ta tl (bytesOf 8 (tag % 2 ^ 63))).writeS d 1)

/-! Status (R306). -/

/-- The value of `mstat` (R306). -/
def State.mstatValue (s : State) (sel : Nat) : Nat :=
  let k := s.myCore
  let slot := s.me.slot
  let j := s.myJob
  let key := jobKey slot s.me.jtile
  let own (l : List Msg) : Nat := (l.filter (fun m => m.key == key)).length
  let sent (l : List Msg) : Nat := (l.filter (fun m => m.slot == slot && hSrcTile m.h1 == s.me.jtile)).length
  if sel = 0 then k.inbox.length + own k.inbox * 2 ^ 8 + j.spcnt % 2 ^ 16 * 2 ^ 16 + k.creditsOf key * 2 ^ 32
  else if sel = 1 then j.refusals
  else if sel = 2 then j.orphans
  else if sel = 3 then j.malformed
  else if sel = 4 then j.dropped
  else sent k.sendQ + sent (k.delays.map Prod.snd) * 2 ^ 8
    + (k.replies.filter (fun r => r.slot == slot && r.jtile == s.me.jtile)).length * 2 ^ 16

/-- `mstat` (R306). -/
def execMstat (g : Guard) (sel : BitVec 3) (d : SDst) (s : State) : Host.Outcome State Fault Refusal :=
  runInstr g 8 s (fun s => s.writeS d (BitVec.ofNat 64 (s.mstatValue sel.toNat)))

end Sys2Proof.Machine
end

