-- ==== Sys2Proof/Machine/Activation.lean ====
section
/-! DEFINITION. Activations: their start, the Bittern context, stage governors, and how they end (spec/04 R75 to R80, R87,
R88; spec/11 R283; spec/12 R301, R303). -/

namespace Sys2Proof.Machine

/-! The pool of vector registers (R87, R88). -/

/-- Pool blocks that no activation of a core holds. -/
def Core.freeBlocks (k : Core) : Nat := 8 - (k.ctxs.map (fun p => if p.2.active then p.2.allot / 8 else 0)).sum

/-- Free blocks that are withheld for c7: two in all with those that an activation in c7 took from them (R88). -/
def State.withheld (s : State) (tile core : Nat) : Nat :=
  let k := s.core tile core
  if s.c7Reserved tile then Nat.min (2 - (k.ctxs.map (fun p => if p.2.active then p.2.reserved else 0)).sum) k.freeBlocks
  else 0

/-- Where an activation may start now: its context, and the blocks that it takes from those withheld (R76, R77, R88). -/
def State.placeFor (s : State) (tile core cls allot : Nat) : Option (Nat × Nat) :=
  let k := s.core tile core
  let free (n : Nat) : Bool := !(k.ctx n).active
  let blocks := allot / 8
  let w := s.withheld tile core
  let n := if s.c7Reserved tile then
      if cls = 0 ∧ free 7 then some 7 else (List.range 7).find? free
    else (List.range 8).find? free
  match n with
  | none => none
  | some c =>
    if s.c7Reserved tile && c == 7 && decide (blocks ≤ 2) then
      if blocks ≤ k.freeBlocks then some (c, Nat.min blocks w) else none
    else if blocks ≤ k.freeBlocks - w then some (c, 0)
    else none

/-! Starting (R78). -/

/-- What an activation starts with. -/
structure Start where
  msg : Msg
  pc : Word
  cls : Nat
  allot : Nat
  reserved : Nat
  owns : Bool
  stage : Option Nat
  deriving DecidableEq, Repr

/-- The next generation of a context (R75). -/
def nextGen (g : BitVec 16) : BitVec 16 := if g + 1 = 0 then 1 else g + 1

/-- Registers of an activation at its start (R78). -/
def Start.regs (a : Start) : Regs :=
  let pay := (List.range 6).map (fun i => if i < hLen a.msg.h0 then a.msg.pay.getD i 0 else 0)
  let words := [a.msg.h0] ++ pay ++ [a.msg.h1]
  { Regs.start with
    pc := a.pc
    g := Vector.ofFn (fun i : Fin 64 => if i.val < 8 then words.getD i.val 0 else 0) }

/-- RNGS at a start: the context number, or 0 in a DETERMINISTIC job (R72). -/
def rngsStart (det : Bool) (ctx : Nat) : Word := if det then 0 else BitVec.ofNat 64 ctx

/-- The fetcher of an activation at its start (R354). -/
def Start.nest (a : Start) : Nest :=
  match a.msg.nest with
  | none => Nest.idle
  | some (e, st, en, step) => Nest.idle.load e st en (step.setWidth 32)

/-- The context after an activation has started in it (R75, R78, R89). -/
def Start.ctx (a : Start) (old : Ctx) (det : Bool) (n jt time : Nat) : Ctx where
  active := true
  gen := nextGen old.gen
  slot := a.msg.slot
  jtile := jt
  cls := a.cls
  handler := true
  allot := a.allot
  r := a.regs
  csr := { Csrs.start with rngs := rngsStart det n }
  nest := a.nest
  q := Vector.replicate 8 Queue.empty
  dirty := { Dirty.clear with g := 0xFF }
  aligns := Vector.replicate 16 0
  view := ⟨a.msg.seen, a.msg.seen, [], []⟩
  hostWrote := false
  src := a.msg.h1
  ownsReply := a.owns
  replied := false
  launch := a.msg.launch
  stage := a.stage
  wait := .none
  pend := []
  prog := none
  kept := none
  waited := []
  reserved := a.reserved
  fetched := []
  wanted := entryBlocks time a.pc

/-- Starts an activation in context `n` of a core, for a job tile; a request's reply slot is taken at once, and no start waits
for one (R288, R293, R301; notes/assumptions/32.md). -/
def State.start (s : State) (tile core n jt : Nat) (a : Start) : State :=
  let k := s.core tile core
  let c := a.ctx (k.ctx n) (s.slot a.msg.slot).det n jt s.time
  let rs := if a.owns then k.replies ++ [⟨a.msg.slot, jt, n, c.gen, none⟩] else k.replies
  s.setCore tile core { (k.setCtx n c) with replies := rs }

/-- The header that a message starts at: its address and its allotment; none when the message is malformed (R301). -/
def State.headerOf (s : State) (m : Msg) : Option (Word × Nat) :=
  let j := s.slot m.slot
  let va := j.code + BitVec.ofNat 64 (4 * hOfs m.h0)
  if va.toNat < j.code.toNat || j.code.toNat + 65536 * j.clen ≤ va.toNat || (s.execPage m.slot va).isNone then none
  else
    match s.codeBlock m.slot va with
    | none => none
    | some blk =>
      if !isStart blk va then none
      else
        match instrAt blk va with
        | .ok (.nop _ (some h)) =>
          if h.getLsbD 4 || bits h.toNat 2 2 != hCls m.h0 then none else some (va, valAllot (bits h.toNat 0 2))
        | _ => none

/-- A malformed message is counted, answered, given to the Bittern context and dropped (R301). -/
def State.malformed (s : State) (tile core : Nat) (m : Msg) : State :=
  let s1 := s.onJob tile core m.key (fun j => { j with malformed := satInc j.malformed })
  let s2 := (s1.sendNotice tile core (hTile m.h0) m 3 false).giveBittern tile core true m
  s2.memberDown m.slot m.launch

/-- Whether activations of a job tile may start on a tile now (R308, R361, R379). -/
def Tile.starts (t : Tile) (slot jt : Nat) : Bool :=
  t.runs slot jt && (aget t.stopping slot).isNone

/-- Whether the activation of a message owns a reply slot: it was started by a request (R293). -/
def ownsReply (m : Msg) : Bool := !hReply m.h0 && !m.sluice && !m.dispatch

/-- The first inbox entry of a class that may be considered on a core, with its position (R301). -/
def State.considered (s : State) (tile core cls : Nat) : Option (Msg × Nat) :=
  (s.core tile core).inbox.zipIdx.find? (fun p => hCls p.1.h0 == cls && (s.tile tile).starts p.1.slot (hTile p.1.h0))

/-- What becomes of the entry that a class considers: none when it cannot start now (R301). -/
def State.tryStart (s : State) (tile core : Nat) (m : Msg) (i : Nat) : Option State :=
  let k := s.core tile core
  let gone := s.setCore tile core { k with inbox := k.inbox.eraseIdx i }
  match s.headerOf m with
  | none => some (gone.malformed tile core m)
  | some (pc, allot) =>
    (s.placeFor tile core (hCls m.h0) allot).map (fun p =>
      gone.start tile core p.1 (hTile m.h0)
        ⟨m, pc, hCls m.h0, allot, p.2, ownsReply m, if hStage m.h0 then some (hStageNum m.h0) else none⟩)

/-- The first of the classes that starts something. -/
def State.startFirst (s : State) (tile core : Nat) : List Nat → Option State
  | [] => none
  | c :: t =>
    match s.considered tile core c with
    | some (m, i) =>
      match s.tryStart tile core m i with
      | some u => some u
      | none => s.startFirst tile core t
    | none => s.startFirst tile core t

/-- ACTIVATION_START (R301). -/
def execActivationStart (tile core : Nat) (s : State) : Host.Outcome State Fault Refusal :=
  runEvent s (s.startFirst tile core [0, 1, 2, 3])

/-- MESSAGE_ARRIVAL (R297 to R300). A request that the inbox does not admit is decided once no admitted entry of the core
can start any more: entries start as soon as they may (R301, R408; notes/assumptions/32.md). -/
def execMessageArrival (tile core : Nat) (net : Net) (s : State) : Host.Outcome State Fault Refusal :=
  runEvent s (
    let n := netIndex net
    let full := (headOf (s.core tile core).arrivals[n]).any (fun p => !s.letsIn tile core p.1.msg)
    if n == 0 && full && (s.startFirst tile core [0, 1, 2, 3]).isSome then none else s.arriveHead tile core n)

/-! The Bittern context (R303). -/

/-- Why the Bittern context starts for a job on a core: the reason code, g2 to g6, and the state without a held message. -/
def State.bitternReason (s : State) (tile core slot jt : Nat) : Option (Nat × List Word × State) :=
  let k := s.core tile core
  let key := jobKey slot jt
  let held (mal : Bool) : Option (HeldMsg × Nat) :=
    k.held.zipIdx.find? (fun p => p.1.msg.key == key && p.1.malformed == mal)
  let take (code : Nat) (p : HeldMsg × Nat) : Nat × List Word × State :=
    (code, [p.1.msg.h0, p.1.msg.h1] ++ p.1.msg.pay.take 3, s.setCore tile core { k with held := k.held.eraseIdx p.2 })
  match held false, held true with
  | some p, _ => some (take 3 p)
  | none, some p => some (take 4 p)
  | none, none =>
    if k.creditsOf key != 0 then some (1, [0, 0, 0, 0, 0], s)
    else if (k.job key).spcnt != 0 && s.room tile core key then some (2, [0, 0, 0, 0, 0], s)
    else none

/-- BITTERN_START: for the job that holds the tile (R303, R308). -/
def execBitternStart (tile core : Nat) (s : State) : Host.Outcome State Fault Refusal :=
  runEvent s (
    let t := s.tile tile
    match t.holder with
    | none => none
    | some slot =>
      let bh := hf ((s.core tile core).job (jobKey slot t.jtile)).mbbh 0 32
      if (s.ctx ⟨tile, core, 8⟩).active || (aget t.stopping slot).isSome || bh == 0 then none
      else
        (s.bitternReason tile core slot t.jtile).map (fun p =>
          let m : Msg :=
            { slot := slot
              h0 := BitVec.ofNat 64 (6 * 2 ^ 56 + core * 2 ^ 43 + t.jtile * 2 ^ 32 + bh)
              h1 := BitVec.ofNat 64 (srcFields 8 core t.jtile)
              pay := BitVec.ofNat 64 p.1 :: p.2.1
              launch := none, sluice := false, dispatch := false, waiter := none, notice := false
              num := 0, seen := s.allSeen, behind := none, nest := none }
          p.2.2.start tile core 8 t.jtile
            ⟨m, (s.slot slot).code + BitVec.ofNat 64 (4 * bh), 0, 0, 0, false, none⟩))

/-! Stage governors (R283). -/

/-- The occupancy of a stage's ring as its claim point holds it, with the ring's entry; none where the stage names no
readable ring. -/
def State.occupancy (s : State) (ag : Agent) (rid : Nat) : Option (Tensor × Nat) :=
  let t := (s.slot ag.slot).tensor rid
  if !(tValid t && tKind t == some .ring) then none
  else
    let value (va : Word) : Option Nat :=
      match s.locate ag false false 1 (span va 8) with
      | .ok l => some (s.loadNat l)
      | .error _ => none
    match value t[4], value t[5] with
    | some h, some l => some (t, (l + 2 ^ 64 - h) % 2 ^ 64)
    | _, _ => none

/-- A ring's LOW threshold (R175). -/
def ringLow (t : Tensor) : Nat := hf t[6] 0 16
/-- A ring's HIGH threshold. -/
def ringHigh (t : Tensor) : Nat := hf t[6] 16 16

/-- GOVC.EN. -/
def Governor.enabled (v : Governor) : Bool := hf v.c 5 1 == 1
/-- Clocks between checks. -/
def Governor.period (v : Governor) : Nat := 2 ^ hf v.c 0 5

/-- The bits of a number below 4 that are set. -/
def grpBits (n : Nat) : List Nat := (List.range 4).filter (fun i => n.testBit i)

/-- The move that a check makes pending: group, from, to (R283). -/
def State.govChoice (s : State) (ag : Agent) (v : Governor) : Option (Nat × Nat × Nat) :=
  let occ (n : Nat) : Option (Tensor × Nat) :=
    if govV (v.stage n) then s.occupancy ag (govRid (v.stage n)) else none
  let high := (List.range 4).find? (fun n => match occ n with
    | some (t, o) => decide (ringHigh t ≤ o)
    | none => false)
  match high with
  | none => none
  | some b =>
    let low := (List.range 4).find? (fun n => n != b && (match occ n with
      | some (t, o) => decide (o ≤ ringLow t) && decide (2 ≤ (grpBits (govGrp (v.stage n))).length)
      | none => false))
    match low with
    | none => none
    | some a => (grpBits (govGrp (v.stage a))).getLast?.map (fun g => (g, a, b))

/-- The jobs that run on a tile and are not stopping, with their job tiles. -/
def Tile.running (t : Tile) : List (Nat × Nat) :=
  ((match t.holder with
    | some h => [(h, t.jtile)]
    | none => []) ++ t.overlays.map (fun p => (p.1, p.2.1))).filter (fun p => (aget t.stopping p.1).isNone)

/-- The first running job of a tile for which something applies. -/
def State.forRunning (s : State) (tile : Nat) (f : Nat → Nat → Option State) : Option State :=
  (firstSome (fun (p : Nat × Nat) => f p.1 p.2) (s.tile tile).running).map Prod.snd

/-- GOVERNOR_CHECK (R283). -/
def execGovernorCheck (tile : Nat) (s : State) : Host.Outcome State Fault Refusal :=
  runEvent s (s.forRunning tile (fun slot jt =>
    let v := s.govOf tile slot jt
    if !v.enabled || v.move.isSome || s.time < v.nextCheck then none
    else
      some (s.setGov tile slot jt
        { v with move := s.govChoice ⟨slot, jt, tile, 0, []⟩ v, nextCheck := s.time + v.period })))

/-- Whether a message is one of a stage of a job. -/
def ofStage (slot n : Nat) (m : Msg) : Bool := m.slot == slot && hStage m.h0 && hStageNum m.h0 == n

/-- Whether a stage's activations run on a group's cores or have been delivered to them (R283). -/
def State.stageBusy (s : State) (tile slot g n : Nat) : Bool :=
  (List.range 8).any (fun i =>
    let k := s.core tile (8 * g + i)
    k.ctxs.any (fun p => p.2.active && p.2.slot == slot && p.2.stage == some n)
      || k.inbox.any (ofStage slot n)
      || k.arrivals.toList.any (fun l => l.any (fun a => ofStage slot n a.msg)))

/-- A stage register with a group added or removed. -/
def govPut (w : Word) (g : Nat) (on : Bool) : Word :=
  putBits w 52 4 ((bitPut (BitVec.ofNat 4 (govGrp w)) g on).toNat)

/-- GOVERNOR_MOVE (R283). The stages' delivery pointers stay where they stand (notes/assumptions/35.md). -/
def execGovernorMove (tile : Nat) (s : State) : Host.Outcome State Fault Refusal :=
  runEvent s (s.forRunning tile (fun slot jt =>
    let v := s.govOf tile slot jt
    match v.move with
    | none => none
    | some (g, a, b) =>
      if s.stageBusy tile slot g a then none
      else
        let st := (List.range 4).zip v.st.toList
        let w := st.map (fun p => if p.1 = a then govPut p.2 g false else if p.1 = b then govPut p.2 g true else p.2)
        some (s.setGov tile slot jt
          { v with st := Vector.ofFn (fun i : Fin 4 => w.getD i.val 0), move := none, nextCheck := s.time + v.period })))

/-! Ending (R80). -/

/-- `done` ends the activation: the context stops issuing and waits (R80). -/
def execDone (g : Guard) (s : State) : Host.Outcome State Fault Refusal :=
  runBranch g 8 s (fun s => .ok s.endActivation)

/-- Whether commands of the executing context are still in its engines (R80 step 2). -/
def State.engineBusy (s : State) : Bool :=
  let c := s.me
  s.myCore.copies.any (fun r => r.slot == c.slot && r.ctx == s.cur.ctx)
    || ((s.myTile.unit (s.cur.core / 8)).queue (s.cur.core % 8)).any (fun r => r.slot == c.slot && r.ctx == s.cur.ctx)

/-- Whether the executing context's program, if it has one, has not ended (R268). -/
def State.programBusy (s : State) : Bool :=
  match s.me.prog with
  | some p => !p.finished
  | none => false

/-- Requests to the host of the executing context that have not completed (R391). -/
def State.hostPending (s : State) : Bool :=
  s.hostReqs.any (fun r => r.owner == s.cur && r.gen == s.me.gen)

/-- A context after its occupancy: FREE, with its generation and its registers as they were left (R75, R80). -/
def Ctx.freed (c : Ctx) : Ctx :=
  { c with active := false, allot := 0, reserved := 0, q := Vector.replicate 8 Queue.empty, prog := none, wait := .none,
           pend := [], fetched := [], wanted := [], ownsReply := false, launch := none, stage := none, kept := none, waited := [] }

/-- Steps 3 and 4 of R80: the member has ended, entries left in queues are discarded, and the context is FREE; a reply slot
without a reply is freed (R288). -/
def State.freeContext (s : State) : State :=
  let c := s.me
  let k := s.myCore
  let rs := k.replies.filter (fun r => !(r.slot == c.slot && r.jtile == c.jtile && r.ctx == s.cur.ctx && r.gen == c.gen && r.msg.isNone))
  let s1 := (s.setCore s.cur.tile s.cur.core { k with replies := rs }).dropWatches s.cur
  (s1.setMe c.freed).memberDown c.slot c.launch

/-- DONE_COMPLETE: the wait of `done`, or of a trap ending, is over (R80, R372, R391). -/
def execDoneComplete (tile core ctx : Nat) (s : State) : Host.Outcome State Fault Refusal :=
  runEvent s (
    let s1 := s.actAs ⟨tile, core, ctx⟩
    let c := s1.me
    match c.wait with
    | .ending _ =>
      if !c.active || !(s.tile tile).runs c.slot c.jtile || s1.engineBusy || s1.programBusy || !s1.drained then none
      else if c.hostWrote then
        if s1.asking then none else some (s1.hostRequest 0 0 .flush false)
      else if s1.hostPending then none
      else some s1.freeContext
    | _ => none)

end Sys2Proof.Machine
end

