-- ==== Sys2Proof/Machine/Cache.lean ====
section
/-! DEFINITION. Cache maintenance: `cinv` and `cwb` (spec/13 R327, R328). -/

namespace Sys2Proof.Machine

/-- A tile without a job's replicas of a sector. -/
def Tile.dropReplicas (t : Tile) (slot sec : Nat) : Tile :=
  { t with slice := t.slice.filter (fun f => !(f.sec == sec && (match f.replica with
      | some r => r.slot == slot
      | none => false))) }

/-- Drops a job's replicas of a sector in a list of device tiles. -/
def State.dropReplicas (s : State) (slot sec : Nat) (tiles : List Nat) : State :=
  { s with tiles := s.tiles.map (fun p => (p.1, if tiles.contains p.1 then p.2.dropReplicas slot sec else p.2)) }

/-- `cinv` (R327, R328). -/
def execCinv (g : Guard) (all : Bool) (m : MemOp) (s : State) : Host.Outcome State Fault Refusal :=
  runInstr g 12 s (fun s => do
    let (ea, s1) ← s.memEa m
    need (step1 ea.toNat) .addr ea
    if regionOf ea.toNat < 4 then
      .ok (s1.dropReplicas s1.me.slot (sectorOf ea.toNat) (if all then s1.mySlot.box else [s1.cur.tile]))
    else .ok s1)

/-- A slice whose frame of a sector has been written home, and with `drop` removed. -/
def cleanFrame (drop : Bool) (asid sec : Nat) (l : List SecFrame) : List SecFrame :=
  if drop then l.filter (fun f => !f.holds asid sec)
  else l.map (fun f => if f.holds asid sec then { f with dirty := 0 } else f)

/-- Writes a sector's dirty bytes to its home, and with `drop` removes it from its slice (R328). -/
def State.cleanSector (s : State) (drop : Bool) (asid va : Nat) : State :=
  let d := s.sliceOf asid va
  let t := s.tile d
  s.setTile d { t with slice := cleanFrame drop asid (sectorOf va) t.slice }

/-- Whether the write-back of a sector waits (R322, R386). -/
def State.cleanBusy (s : State) (asid va : Nat) : Bool :=
  (s.tile (s.sliceOf asid va)).slice.any (fun f => f.holds asid (sectorOf va) && s.writeBackBusy f)

/-- `cwb` (R327, R328); it waits while the sector's block is in a swap (R322). -/
def execCwb (g : Guard) (drop : Bool) (m : MemOp) (s : State) : Host.Outcome State Fault Refusal :=
  runInstr g 12 s (fun s => do
    let (ea, s1) ← s.memEa m
    need (step1 ea.toNat) .addr ea
    if regionOf ea.toNat < 4 then do
      ready (!s1.cleanBusy s1.mySlot.asid ea.toNat)
      .ok (s1.cleanSector drop s1.mySlot.asid ea.toNat)
    else .ok s1)

end Sys2Proof.Machine
end

