-- ==== Sys2Proof/Machine/Grid.lean ====
section
/-! DEFINITION. The hashed-grid instructions `hgl`, `hgs`, `hgw` (spec/14 R337 to R348). -/

namespace Sys2Proof.Machine

/-! The entry (R174, R337, R338). -/

/-- Dimensions. -/
def gridD (t : Tensor) : Nat := bits (tKx t) 0 3 + 1
/-- Levels. -/
def gridL (t : Tensor) : Nat := bits (tKx t) 4 4 + 1
/-- Features of an entry. -/
def gridF (t : Tensor) : Nat := 2 ^ bits (tKx t) 8 2
/-- WRAP. -/
def gridWrap (t : Tensor) : Bool := bits (tKx t) 10 1 == 1
/-- The gradient scale s. -/
def gridS (t : Tensor) : Int := intVal true 8 (bits (tKx t) 16 8)

/-- The conditions of R338 on FBASE and GBASE. -/
def gridBasesOk (t : Tensor) : Bool :=
  let f := (t[1]).toNat
  let gb := (t[3]).toNat
  step1 f && decide (regionOf f < 4) && f % (2 * gridF t) == 0 && step1 gb && regionOf gb == 3 && gb % 16 == 0

/-- A level: its resolution and the logarithm of its table size (R174). -/
structure Level where
  n : Nat
  t : Nat
  deriving DecidableEq, Repr

/-- The level that an entry of the level table gives (R174). -/
def levelOf (e : Nat) : Level := ⟨bits e 0 32, bits e 32 5⟩

/-- Whether an entry of the level table keeps the limits of R174 and R337. -/
def levelOk (e : Nat) : Bool :=
  let l := levelOf e
  bits e 37 27 == 0 && decide (1 ≤ l.n) && decide (l.n ≤ 2 ^ 24) && decide (4 ≤ l.t) && decide (l.t ≤ 24)

/-- Whether a level is dense (R337). -/
def Level.dense (l : Level) (d : Nat) : Bool := decide ((l.n + 1) ^ d ≤ 2 ^ l.t)

/-! Locating a point (R339, R340). -/

/-- The multipliers K of R340. -/
def gridK : List Nat :=
  [0x00000001, 0xB4E92C71, 0x8D3F5A17, 0xE62C9B4D, 0x5A97C3E5, 0x7F1D24A9, 0xC93B6E1B, 0x2E85D0F3]

/-- CornerIndex of a vector of grid coordinates (R340). -/
def cornerIndex (l : Level) (d : Nat) (k : List Nat) : Nat :=
  if l.dense d then k.foldr (fun x r => r * (l.n + 1) + x) 0
  else ((k.zip gridK).map (fun p => p.1 * p.2 % 2 ^ 32)).foldl (· ^^^ ·) 0 % 2 ^ l.t

/-- The floor of a finite value and its fraction as a magnitude at the value's exponent. -/
def floorFrac (n : Bool) (m : Nat) (e : Int) : Int × Nat × Int :=
  let v : Int := if n then -(m : Int) else m
  if 0 ≤ e then (v * (2 ^ e.toNat : Nat), 0, 0)
  else
    let u : Int := (2 ^ (-e).toNat : Nat)
    (v / u, (v % u).toNat, e)

/-- FP32. -/
def f32 : Fmt := fmtOf .f32

/-- Rounds a non-negative magnitude to FP32. -/
def round32 (rm : RMode) (m : Nat) (e : Int) : FVal := f32.val (f32.round rm 0 false false m e false).1

/-- The cell coordinate and the fraction of one coordinate at a level (R339). -/
def gridCell (wrap : Bool) (n : Nat) (x : FVal) : Nat × FVal :=
  let y := match x with
    | .fin neg m e =>
      if wrap then
        let r := floorFrac neg m e
        round32 .rtz r.2.1 r.2.2
      else .fin false m e
    | _ => .fin false 0 0
  match f32.val (mulVal f32 .rne 0 y (.fin false n 0)).1 with
  | .fin _ m e =>
    let r := floorFrac false m e
    if r.1 = n then (n - 1, .fin false 1 0) else (r.1.toNat, .fin false r.2.1 r.2.2)
  | _ => (0, .fin false 0 0)

/-- 1 - f, rounded (R339). -/
def oneLess (f : FVal) : FVal := f32.val (addVal f32 .rne 0 (.fin false 1 0) f.opp).1

/-- One corner of a cell: its index and its weight (R339). -/
def gridCorner (wrap : Bool) (l : Level) (d : Nat) (cells : List (Nat × FVal)) (c : Nat) : Nat × FVal :=
  let one (i : Nat) : Bool := bits c i 1 == 1
  let w := (cells.zipIdx).foldl (fun (w : FVal) p =>
    f32.val (mulVal f32 .rne 0 w (if one p.2 then p.1.2 else oneLess p.1.2)).1) (.fin false 1 0)
  let k := (cells.zipIdx).map (fun p =>
    let v := p.1.1 + (if one p.2 then 1 else 0)
    if wrap && v == l.n then 0 else v)
  (cornerIndex l d k, w)

/-- The corners of a lane's point (R339). -/
def gridCorners (t : Tensor) (l : Level) (xs : List Nat) : List (Nat × FVal) :=
  let cells := xs.map (fun x => gridCell (gridWrap t) l.n (f32.val x))
  (List.range (2 ^ gridD t)).map (gridCorner (gridWrap t) l (gridD t) cells)

/-- Whether a coordinate is legal (R339). -/
def coordOk (wrap : Bool) (x : Nat) : Bool :=
  match f32.val x with
  | .fin n m _ => wrap || m == 0 || (!n && decide (x < 0x3F800000))
  | _ => false

/-- Whether an FP32 pattern is finite. -/
def finite32 (x : Nat) : Bool :=
  match f32.val x with
  | .fin .. => true
  | _ => false

/-- An FP32 value as its pattern. -/
def pat32 : FVal → Nat
  | .fin n m e => (f32.round .rne 0 false n m e false).1
  | .inf n => f32.signed n f32.infEnc
  | .nan _ => f32.nan

/-! The checks of R347. -/

/-- Registers `r` to `r + n - 1` lie within the allotment, or VALLOT with the first that does not (R342). -/
def State.runOk (s : State) (r : BitVec 5) (n : Nat) : Except Stop Unit :=
  let lim := Nat.min 32 s.me.allot
  need (decide (r.toNat + n ≤ lim)) .vallot (BitVec.ofNat 64 (Nat.max lim r.toNat))

/-- Lane `L` of registers `r` to `r + n - 1`. -/
def State.laneRun (s : State) (r : BitVec 5) (n lane : Nat) : List Nat :=
  (List.range n).map (fun i => elem (s.me.r.getV (BitVec.ofNat 5 (r.toNat + i))) 32 lane)

/-- Step 1 of R347: the entry. -/
def State.gridEntry (s : State) (id : BitVec 8) : Except Stop Tensor := do
  let (t, _) ← s.entryOnce id.toNat (fun k => k == .hgrid)
  need (gridBasesOk t) .tensor (id.setWidth 64)
  .ok t

/-- Step 3 of R347: reads the level table up to level `l` in one plain read, which is single-copy atomic where it has 8 or 16
bytes and is aligned (R196); the level, the entries of the levels below it, and the
state. -/
def State.gridLevel (s : State) (id : BitVec 8) (t : Tensor) (l : Word) : Except Stop ((Level × Nat) × State) := do
  need (decide (l.toNat < gridL t)) .tensor (id.setWidth 64)
  let n := l.toNat + 1
  let addrs := span (t[2]) (8 * n)
  let locs ← s.access s.agent false false 1 addrs addrs (.ok ())
  s.order false 2 (t[2])
  let (bs, s1) ← s.loadBytes (s.attr .plain 2) false true false 1 (8 * n) (if n ≤ 2 then 8 * n else 1) addrs locs
  let es := (List.range n).map (fun i => leNat ((bs.drop (8 * i)).take 8))
  need (es.all levelOk) .tensor (id.setWidth 64)
  .ok ((levelOf (es.getD l.toNat 0), ((es.take l.toNat).map (fun e => 2 ^ (levelOf e).t)).sum), s1)

/-- Step 5 of R347: the lanes, in order, whose coordinates and gradients are legal, or GRID with the first that is not. -/
def State.gridLanes (s : State) (t : Tensor) (m : BitVec 32) (a : BitVec 5) (grads : Option (BitVec 5)) :
    Except Stop (List Nat) := do
  let lanes := activeLanes m
  let good (l : Nat) : Bool := (s.laneRun a (gridD t) l).all (coordOk (gridWrap t)) &&
    (match grads with
     | none => true
     | some c => (s.laneRun c (gridF t) l).all finite32)
  checkAll lanes good .grid
  .ok lanes

/-- The corners of each active lane. -/
def State.laneCorners (s : State) (t : Tensor) (l : Level) (a : BitVec 5) (lanes : List Nat) :
    List (Nat × List (Nat × FVal)) :=
  lanes.map (fun x => (x, gridCorners t l (s.laneRun a (gridD t) x)))

/-- Writes registers `d` on, each lane by lane under a mask; the latch takes the last (R342, R129). -/
def State.writeRun (s : State) (c : VCtl) (d : BitVec 5) (n : Nat) (f : Nat → Nat → Nat) : State :=
  (List.range n).foldl (fun (u : State) j =>
    let r := BitVec.ofNat 5 (d.toNat + j)
    u.writeV (.v r) (masked 32 (s.readM c.mask) c.zm (s.me.r.getV r) (f j))) s

/-! The instructions (R343, R344, R346). -/

/-- The blend of feature `j` over the corners of a lane (R343). -/
def blend (runs : List Nat) (ws : List FVal) (j : Nat) : Nat :=
  ((runs.zip ws).foldl (fun (acc : Nat) p =>
    (fmaVal f32 .rne 0 ((fmtOf .bf16).val (bits p.1 (16 * j) 16)) p.2 (f32.val acc)).1) 0)

/-- Cuts a list into pieces of `n`. -/
def pieces (n : Nat) : Nat → List Byte → List Nat
  | 0, _ => []
  | k + 1, l => leNat (l.take n) :: pieces n k (l.drop n)

/-- `hgl` (R343, R347). -/
def execHgl (g : Guard) (acq rep : Bool) (id : BitVec 8) (scope : BitVec 5) (c : VCtl) (d a : BitVec 5) (b : SSrc)
    (s : State) : Host.Outcome State Fault Refusal :=
  runInstr g 16 s (fun s => do
    let (x, s1) ← s.readS b
    s1.scopeCheck acq scope.toNat false
    let t ← s1.gridEntry id
    s.keeping (id.toNat, t, t) (do
      s1.runOk a (gridD t)
      s1.runOk d (gridF t)
      let ((l, below), s1) ← s1.gridLevel id t x
      let lanes ← s1.gridLanes t (s1.readM c.mask) a none
      let cs := s1.laneCorners t l a lanes
      let n := 2 * gridF t
      let base := (t[1]).toNat + n * below
      let runs := cs.flatMap (fun p => p.2.map (fun q => base + n * q.1))
      let addrs := runs.flatMap (fun r => span (BitVec.ofNat 64 r) n)
      checkAll addrs (fun r => regionOf r != 6) .addr
      let locs ← s1.access s1.agent false false 1 addrs addrs (.ok ())
      s1.order false scope (t[1])
      let (bs, s2) ← s1.loadBytes (s1.attr (acqOrd acq) scope.toNat) rep (!acq) false 1 n n addrs locs
      let vals := pieces n runs.length bs
      let k := 2 ^ gridD t
      let per (i : Nat) : List Nat := (vals.drop (k * i)).take k
      let table := (cs.zipIdx).map (fun p => (p.1.1, (per p.2, p.1.2.map Prod.snd)))
      .ok (s2.writeRun c d (gridF t) (fun j lane =>
        match aget table lane with
        | some (rs, ws) => blend rs ws j
        | none => 0))))

/-- The updates of one corner of a lane: a zero term makes none (R344). -/
def cornerUpdates (t : Tensor) (base : Nat) (grads : List Nat) (q : Nat × FVal) : List Update :=
  (grads.zipIdx).filterMap (fun p =>
    let term := (mulVal f32 .rne 0 (f32.val p.1) q.2).1
    let v := (fixFromFP32 term (gridS t)).1
    if v = 0 then none
    else some (.grid (BitVec.ofNat 64 (base + 16 * gridF t * q.1 + 16 * p.2)) (BitVec.ofNat 96 v)))

/-- `hgs` (R344, R347). -/
def execHgs (g : Guard) (id : BitVec 8) (scope : BitVec 5) (mk : BitVec 3) (ctr : SSrc) (a : BitVec 5) (b : SSrc)
    (c : BitVec 5) (s : State) : Host.Outcome State Fault Refusal :=
  runInstr g 16 s (fun s => do
    let (x, s1) ← s.readS b
    let (k, s2) ← s1.counterOf ctr
    s2.redScope scope false k
    let t ← s2.gridEntry id
    s.keeping (id.toNat, t, t) (do
      s2.runOk a (gridD t)
      s2.runOk c (gridF t)
      let ((l, below), s2) ← s2.gridLevel id t x
      let lanes ← s2.gridLanes t (s2.readM mk) a (some c)
      let cs := s2.laneCorners t l a lanes
      let f := gridF t
      let base := (t[3]).toNat + 16 * f * below
      let slots := cs.flatMap (fun p => p.2.flatMap (fun q =>
        span (BitVec.ofNat 64 (base + 16 * f * q.1)) (16 * f)))
      s2.rmwChecks slots (.ok ()) false true
      s2.issueLocate slots
      s2.counterOk k
      let us := cs.flatMap (fun p => p.2.flatMap (cornerUpdates t base (s2.laneRun c f p.1)))
      .ok (s2.post .plain scope us k)))

/-- `hgw` (R346, R347). -/
def execHgw (g : Guard) (id : BitVec 8) (c : VCtl) (d a : BitVec 5) (b corner : SSrc) (s : State) :
    Host.Outcome State Fault Refusal :=
  runInstr g 16 s (fun s => do
    let (x, s1) ← s.readS b
    let (y, s2) ← s1.readS corner
    let t ← s2.gridEntry id
    s.keeping (id.toNat, t, t) (do
      s2.runOk a (gridD t)
      s2.runOk d 2
      let ((l, _), s2) ← s2.gridLevel id t x
      need (decide (y.toNat < 2 ^ gridD t)) .tensor (id.setWidth 64)
      let lanes ← s2.gridLanes t (s2.readM c.mask) a none
      let cs := (s2.laneCorners t l a lanes).map (fun p => (p.1, p.2.getD y.toNat (0, .fin false 0 0)))
      .ok (s2.writeRun c d 2 (fun j lane =>
        match aget cs lane with
        | some q => if j = 0 then q.1 else pat32 q.2
        | none => 0))))

end Sys2Proof.Machine
end

