-- ==== Sys2Proof/Machine/Hash.lean ====
section
/-! DEFINITION. SHA-256, and the hash-based signatures of RFC 8554 with SHA-256 and LM-OTS chains of 8 bits: what the boot
ROM verifies and what ATTEST signs (spec/17 R399, R400). -/

namespace Sys2Proof.Machine

/-! SHA-256. -/

/-- The round constants. -/
def shaK : List (BitVec 32) :=
  [0x428a2f98, 0x71374491, 0xb5c0fbcf, 0xe9b5dba5, 0x3956c25b, 0x59f111f1, 0x923f82a4, 0xab1c5ed5] ++
  [0xd807aa98, 0x12835b01, 0x243185be, 0x550c7dc3, 0x72be5d74, 0x80deb1fe, 0x9bdc06a7, 0xc19bf174] ++
  [0xe49b69c1, 0xefbe4786, 0x0fc19dc6, 0x240ca1cc, 0x2de92c6f, 0x4a7484aa, 0x5cb0a9dc, 0x76f988da] ++
  [0x983e5152, 0xa831c66d, 0xb00327c8, 0xbf597fc7, 0xc6e00bf3, 0xd5a79147, 0x06ca6351, 0x14292967] ++
  [0x27b70a85, 0x2e1b2138, 0x4d2c6dfc, 0x53380d13, 0x650a7354, 0x766a0abb, 0x81c2c92e, 0x92722c85] ++
  [0xa2bfe8a1, 0xa81a664b, 0xc24b8b70, 0xc76c51a3, 0xd192e819, 0xd6990624, 0xf40e3585, 0x106aa070] ++
  [0x19a4c116, 0x1e376c08, 0x2748774c, 0x34b0bcb5, 0x391c0cb3, 0x4ed8aa4a, 0x5b9cca4f, 0x682e6ff3] ++
  [0x748f82ee, 0x78a5636f, 0x84c87814, 0x8cc70208, 0x90befffa, 0xa4506ceb, 0xbef9a3f7, 0xc67178f2]

/-- The initial hash value. -/
def shaStart : List (BitVec 32) :=
  [0x6a09e667, 0xbb67ae85, 0x3c6ef372, 0xa54ff53a, 0x510e527f, 0x9b05688c, 0x1f83d9ab, 0x5be0cd19]

/-- A number as `n` bytes, the most significant first. -/
def beBytes (n v : Nat) : List Byte := (bytesOf n v).reverse

/-- Bytes as a number, the most significant first. -/
def beNat (bs : List Byte) : Nat := leNat bs.reverse

/-- A message with its padding: a one bit, zeros, its length in bits. -/
def shaPad (m : List Byte) : List Byte :=
  m ++ [0x80] ++ List.replicate ((119 - m.length % 64) % 64) 0 ++ beBytes 8 (8 * m.length)

/-- The sixteen words of a block. -/
def shaWords (b : List Byte) : List (BitVec 32) :=
  (List.range 16).map (fun i => BitVec.ofNat 32 (beNat ((b.drop (4 * i)).take 4)))

/-- The next word of the message schedule after the last sixteen, oldest first. -/
def shaNext (w : List (BitVec 32)) : BitVec 32 :=
  let x := w.getD 14 0
  let y := w.getD 1 0
  ((x.rotateRight 17) ^^^ (x.rotateRight 19) ^^^ (x >>> 10)) + w.getD 9 0
    + ((y.rotateRight 7) ^^^ (y.rotateRight 18) ^^^ (y >>> 3)) + w.getD 0 0

/-- One round on the eight working variables. -/
def shaRound (v : List (BitVec 32)) (k w : BitVec 32) : List (BitVec 32) :=
  match v with
  | [a, b, c, d, e, f, g, h] =>
    let t1 := h + ((e.rotateRight 6) ^^^ (e.rotateRight 11) ^^^ (e.rotateRight 25)) + ((e &&& f) ^^^ (~~~e &&& g)) + k + w
    let t2 := ((a.rotateRight 2) ^^^ (a.rotateRight 13) ^^^ (a.rotateRight 22))
      + ((a &&& b) ^^^ (a &&& c) ^^^ (b &&& c))
    [t1 + t2, a, b, c, d + t1, e, f, g]
  | _ => v

/-- The rounds of a block, with the last sixteen words of its schedule. -/
def shaRounds (v w : List (BitVec 32)) : List (BitVec 32) → List (BitVec 32)
  | [] => v
  | k :: t => shaRounds (shaRound v k (w.headD 0)) (w.tail ++ [shaNext w]) t

/-- The hash value after a number of blocks. -/
def shaBlocks (h : List (BitVec 32)) (m : List Byte) : Nat → List (BitVec 32)
  | 0 => h
  | n + 1 => shaBlocks ((h.zip (shaRounds h (shaWords m) shaK)).map (fun p => p.1 + p.2)) (m.drop 64) n

/-- SHA-256 of a message: 32 bytes. -/
def sha256 (m : List Byte) : List Byte :=
  let p := shaPad m
  (shaBlocks shaStart p (p.length / 64)).flatMap (fun w => beBytes 4 w.toNat)

/-! LM-OTS with 32-byte hashes and chains of 8 bits (RFC 8554 section 4). -/

/-- What every hash of one leaf begins with: the identifier of the tree and the number of the leaf. -/
def otsHead (id : List Byte) (q : Nat) : List Byte := id ++ beBytes 4 q

/-- `n` steps of a chain from step `j`. -/
def otsChain (head : List Byte) (i : Nat) (x : List Byte) (j : Nat) : Nat → List Byte
  | 0 => x
  | n + 1 => otsChain head i (sha256 (head ++ beBytes 2 i ++ beBytes 1 j ++ x)) (j + 1) n

/-- The 34 digits of a message with a random value: those of its hash, then those of their checksum. -/
def otsDigits (head c m : List Byte) : List Nat :=
  let q := (sha256 (head ++ beBytes 2 0x8181 ++ c ++ m)).map BitVec.toNat
  q ++ (beBytes 2 ((q.map (fun d => 255 - d)).sum)).map BitVec.toNat

/-- The public key of a leaf from the ends of its chains. -/
def otsPublic (head : List Byte) (ends : List (List Byte)) : List Byte :=
  sha256 (head ++ beBytes 2 0x8080 ++ ends.flatten)

/-- The public key that a signature of a message gives; none where its type is another. -/
def otsCandidate (id : List Byte) (q : Nat) (sig m : List Byte) : Option (List Byte) :=
  let head := otsHead id q
  let c := (sig.drop 4).take 32
  if sig.length ≠ 1124 ∨ beNat (sig.take 4) ≠ 4 then none
  else some (otsPublic head ((otsDigits head c m).zipIdx.map (fun p =>
    otsChain head p.2 ((sig.drop (36 + 32 * p.2)).take 32) p.1 (255 - p.1))))

/-- The signature of a message with the starts of a leaf's chains. -/
def otsSign (id : List Byte) (q : Nat) (starts : Nat → List Byte) (c m : List Byte) : List Byte :=
  let head := otsHead id q
  beBytes 4 4 ++ c ++ (otsDigits head c m).zipIdx.flatMap (fun p => otsChain head p.2 (starts p.2) 0 p.1)

/-! LMS trees (RFC 8554 section 5). -/

/-- A leaf's node. -/
def lmsLeaf (id : List Byte) (node : Nat) (k : List Byte) : List Byte :=
  sha256 (id ++ beBytes 4 node ++ beBytes 2 0x8282 ++ k)

/-- An inner node. -/
def lmsInner (id : List Byte) (node : Nat) (l r : List Byte) : List Byte :=
  sha256 (id ++ beBytes 4 node ++ beBytes 2 0x8383 ++ l ++ r)

/-- The root from a node and the siblings on its path. -/
def lmsClimb (id : List Byte) (node : Nat) (x : List Byte) : List (List Byte) → List Byte
  | [] => x
  | y :: t => lmsClimb id (node / 2) (if node % 2 = 1 then lmsInner id (node / 2) y x else lmsInner id (node / 2) x y) t

/-- Whether a signature of a message verifies under an LMS public key, for trees of a type and height (56 bytes: type, type of
the leaves, identifier, root). -/
def lmsVerify (type height : Nat) (key sig m : List Byte) : Bool :=
  let id := (key.drop 8).take 16
  let q := beNat (sig.take 4)
  let path := (List.range height).map (fun i => (sig.drop (1132 + 32 * i)).take 32)
  key.length == 56 && beNat (key.take 4) == type && beNat ((key.drop 4).take 4) == 4
    && sig.length == 1132 + 32 * height && beNat ((sig.drop 1128).take 4) == type && decide (q < 2 ^ height)
    && (match otsCandidate id q ((sig.drop 4).take 1124) m with
        | some k => lmsClimb id (2 ^ height + q) (lmsLeaf id (2 ^ height + q) k) path == key.drop 24
        | none => false)

/-- A node of a tree from its leaves' public keys, at a height. -/
def lmsNode (id : List Byte) (leaves : Nat → List Byte) (height : Nat) : Nat → Nat → List Byte
  | node, 0 => lmsLeaf id node (leaves (node - 2 ^ height))
  | node, n + 1 =>
    lmsInner id node (lmsNode id leaves height (2 * node) n) (lmsNode id leaves height (2 * node + 1) n)

/-- The siblings of a leaf's path, from the leaf up. -/
def lmsPath (id : List Byte) (leaves : Nat → List Byte) (height q : Nat) : List (List Byte) :=
  (List.range height).map (fun i =>
    let node := (2 ^ height + q) / 2 ^ i
    lmsNode id leaves height (if node % 2 = 1 then node - 1 else node + 1) i)

/-! HSS of two levels (RFC 8554 section 6) and the images of the firmware (R399). -/

/-- Whether an HSS signature of a message verifies: two levels of trees of type 6, height 10 (public key of 60 bytes). -/
def hssVerify (key sig m : List Byte) : Bool :=
  let upper := (sig.drop 4).take 1452
  let sub := (sig.drop 1456).take 56
  beNat (key.take 4) == 2 && beNat (sig.take 4) == 1 && sig.length == 2964
    && lmsVerify 6 10 (key.drop 4) upper sub && lmsVerify 6 10 sub (sig.drop 1512) m

/-- Whether an image verifies: its version is not below the fused minimum, the public key that it carries has the fused
digest, and its HSS signature over the digest of the image verifies (R399). -/
def Mgmt.verifies (g : Mgmt) (image : BitVec 256) (version : Nat) : Bool :=
  let (key, sig) := Config.imageParts image version
  decide (g.fuseVersion ≤ version) && beNat (sha256 key) == g.keyDigest.toNat && hssVerify key sig (beBytes 32 image.toNat)

/-! The identity key (R400). -/

/-- The identifier of the identity tree. -/
def identityId : List Byte := beBytes 16 Config.identityId.toNat

/-- The start of a chain of a leaf. -/
def identityStart (q i : Nat) : List Byte := beBytes 32 (Config.identityChain q i).toNat

/-- The public key of a leaf. -/
def identityLeaf (q : Nat) : List Byte :=
  let head := otsHead identityId q
  otsPublic head ((List.range 34).map (fun i => otsChain head i (identityStart q i) 0 255))

/-- The LMS signature of a message with leaf `q` of the identity tree, of type 7 and height 15. -/
def identitySign (q : Nat) (m : List Byte) : List Byte :=
  beBytes 4 q ++ otsSign identityId q (identityStart q) (beBytes 32 (Config.identityRandom q).toNat) m ++ beBytes 4 7
    ++ (lmsPath identityId identityLeaf 15 q).flatten

end Sys2Proof.Machine
end

