-- ==== Sys2Proof/Machine/Bittern.lean ====
section
/-! DEFINITION. Tueno's Bittern code (spec/12 R296, R303 to R305; spec/19 R407). The spec gives its actions and not its
bytes: this program is the model's own (notes/assumptions/23.md). -/

namespace Sys2Proof.Machine

/-- The guard that always holds. -/
def always : Guard := ⟨0, false⟩

/-- A guard on a predicate. -/
def whenP (p : BitVec 3) : Guard := ⟨p, false⟩

/-- A jump by `n` bytes. -/
def jumpBy (g : Guard) (n : Int) : Instr := .jmp g (BitVec.ofInt 34 (n / 4))

/-- The word at the address in a g register. -/
def word0 (d a : BitVec 6) : Instr := .ld always .d false .plain false 0 false (.g d) ⟨.g a, .zr, 0, 0⟩

/-- The instructions of one fetch block each. g8 is a slot of the heap, g10 its tag, g9 the slots that are left; on REPLAY g14
is the slot found so far, g22 its SPSEQ, and p4 whether there is one. -/
def bitternBlocks : List (List Instr) :=
  -- 0: the header; the reason; the heap
  [[.nop always (some 0), .cmpi always .eq 1 (.g 1) 1, .cmpi always .eq 2 (.g 1) 2, .csrr always (.g 8) 0x019],
   [.csrr always (.g 9) 0x018, .shri always (.g 9) (.g 9) 24, .shli always (.g 10) (.g 9) 6,
     .add always .n64 (.g 10) (.g 8) (.g 10)],
   [jumpBy (whenP 1) 32, jumpBy (whenP 2) 120, .done always, .nop always none]] ++
  -- 96: SPILL, the first slot whose tag has USE = 0
  [[.cmpi always .eq 3 (.g 9) 0, .done (whenP 3), word0 12 10],
   [.cmpi always .ge 3 (.g 12) 0, .mspill (whenP 3) (.g 13) (.g 8), .done (whenP 3), .addi always (.g 8) (.g 8) 64],
   [.addi always (.g 10) (.g 10) 8, .addi always (.g 9) (.g 9) (-1), jumpBy always (-80), .nop always none]] ++
  -- 192: REPLAY, the slot with USE = 1 that was spilled earliest; 224: the loop
  [[.shri always (.g 20) (.g 0) 32, .andi always (.g 20) (.g 20) 0xFFFF, .nop always none, .nop always none],
   [.cmpi always .eq 3 (.g 9) 0, jumpBy (whenP 3) 280, word0 12 10],
   [.cmpi always .ge 3 (.g 12) 0, jumpBy (whenP 3) 216, word0 15 8]] ++
  -- 288: the image names this core, VN is 0, the reserved bits are 0, CLS is not 0, LEN is not 7
  [[.shri always (.g 16) (.g 15) 32, .andi always (.g 17) (.g 16) 0xFFFF, .cmp always .n64 .ne 3 (.g 17) (.g 20),
     jumpBy (whenP 3) 168],
   [.shri always (.g 17) (.g 15) 50, .andi always (.g 18) (.g 17) 0x3E34, .cmpi always .ne 3 (.g 18) 0,
     jumpBy (whenP 3) 136],
   [.andi always (.g 18) (.g 17) 3, .cmpi always .eq 3 (.g 18) 0, jumpBy (whenP 3) 112, .andi always (.g 18) (.g 17) 0x1C0],
   [.cmpi always .eq 3 (.g 18) 0x1C0, jumpBy (whenP 3) 88, .shli always (.g 18) (.g 12) 1, .shri always (.g 18) (.g 18) 33]] ++
  -- 416: its SPSEQ is earlier than the one found, modulo 2^31; 456: it is the one found; 480: the next slot
  [[jumpBy ⟨4, true⟩ 40, .sub always .n64 (.g 19) (.g 22) (.g 18), .shli always (.g 19) (.g 19) 33,
     .cmpi always .lt 3 (.g 19) 0],
   [jumpBy (whenP 3) 32, .mov always (.g 22) (.g 18), .mov always (.g 14) (.g 8), .cmp always .n64 .eq 4 .zr .zr],
   [.addi always (.g 8) (.g 8) 64, .addi always (.g 10) (.g 10) 8, .addi always (.g 9) (.g 9) (-1), jumpBy always (-280)],
   -- 512: one `mreplay`
   [.mreplay (whenP 4) (.g 13) (.g 14), .done always]]

/-- The bytes of a fetch block: the rest of it is `nop`s and a tail word, all zero (R21). -/
def blockBytes (l : List Instr) : List Byte :=
  let bs := l.flatMap (fun i => (encodeBytes i).getD [])
  bs ++ List.replicate (32 - bs.length) 0

/-- The bytes of the Bittern code page, whose entry is at its start. -/
def bitternBytes : List Byte := bitternBlocks.flatMap blockBytes

end Sys2Proof.Machine
end

