-- ==== Sys2Proof/Machine/System.lean ====
section
/-! DEFINITION. The system registers and their two instructions (spec/16 R376, R377 and the maps that R377 names). -/

namespace Sys2Proof.Machine

/-! WSSL (R333). -/

/-- The WSSL registers of the executing job: the tile's for its holder, an overlay's own. -/
def State.myWssl (s : State) : Vector Word 4 :=
  let t := s.myTile
  if t.holder = some s.me.slot then t.wssl else (aget t.wssls s.me.slot).getD (Vector.replicate 4 0)

/-- Replaces the WSSL registers of the executing job. -/
def State.setMyWssl (s : State) (v : Vector Word 4) : State :=
  let t := s.myTile
  s.setTile s.cur.tile
    (if t.holder = some s.me.slot then { t with wssl := v } else { t with wssls := aset t.wssls s.me.slot v })

/-- The earliest deadline among the units of a region, its low 40 bits; 0 when none is set. -/
def Tile.earliest (t : Tile) (w : Word) : Nat :=
  let l := (t.deadlines.filter (fun p => decide (hf w 40 8 ≤ p.1) && decide (p.1 < hf w 40 8 + hf w 48 8))).map Prod.snd
  bits (l.min?.getD 0) 0 40

/-! Reading. -/

/-- REGBn (R165). -/
def State.regb (s : State) (n : Nat) : Word :=
  match s.mySlot.regions.find? (fun r => r.num == n) with
  | none => 0
  | some r => BitVec.ofNat 64 (0x00700000FFE00000 + s.cur.core * 2 ^ 16 + 256 * r.ofs)

/-- WSPART (R331). -/
def State.wspart (s : State) : Word := BitVec.ofNat 64 (s.mySlot.wsLen * 2 ^ 8 + s.mySlot.wsBase)

/-- The governor of the executing job on its tile. -/
def State.myGov (s : State) : Governor := s.govOf s.cur.tile s.me.slot s.me.jtile

/-- The value of a system register (R377). -/
def State.readCsr (s : State) (n : Nat) : Word :=
  let c := s.me
  let j := s.myJob
  if n = 0x000 then c.csr.tvec
  else if n = 0x001 then c.csr.tcause
  else if n = 0x002 then c.csr.tepc
  else if n = 0x003 then c.csr.tval
  else if n = 0x010 then c.csr.fpcs
  else if n = 0x011 then c.csr.rngc
  else if n = 0x012 then c.csr.rngs
  else if n = 0x013 then c.csr.immc
  else if n = 0x014 then j.mxstat
  else if n = 0x015 then BitVec.ofNat 64 j.mxw
  else if n = 0x016 then j.cpstat
  else if n = 0x017 then c.csr.rake
  else if n = 0x018 then j.mbcfg
  else if n = 0x019 then j.mbspb
  else if n = 0x01A then j.mbrh
  else if n = 0x01B then j.mbbh
  else if 0x020 ≤ n ∧ n ≤ 0x02F then s.regb (n - 0x020)
  else if 0x030 ≤ n ∧ n ≤ 0x033 then s.myGov.stage (n - 0x030)
  else if n = 0x034 then s.myGov.c
  else if n = 0x036 then s.wspart
  else if n = 0x037 then BitVec.ofNat 64 s.wstime
  else if 0x038 ≤ n ∧ n ≤ 0x03B then
    let w := s.myWssl.getD (n - 0x038) 0
    BitVec.ofNat 64 (w.toNat / 2 ^ 40 * 2 ^ 40 + s.myTile.earliest w)
  else 0

/-! Writing: the value that each register stores. -/

/-- TVEC (R371). -/
def tvecField (v : Word) : Word := v &&& 0xFFFFFFFF
/-- FPCS (R65): a write of a rounding mode above 4 stores 0. -/
def fpcsField (v : Word) : Word :=
  let w := v &&& 0x1FF1F
  if 4 < hf v 13 3 then putBits w 13 3 0 else w
/-- RNGS (R72). -/
def rngsField (v : Word) : Word := v &&& 0xFFFF
/-- IMMC (R111). -/
def immcField (v : Word) : Word :=
  let f := if hf v 4 4 = 9 then 9 else 8
  let i := if hf v 0 4 < 8 then hf v 0 4 else 3
  BitVec.ofNat 64 (f * 16 + i)
/-- MXW (R237). -/
def mxwField (v : Word) : Nat := if hf v 0 4 = 0 then 1 else hf v 0 4
/-- RAKE (R275). -/
def rakeField (v : Word) : Word := v &&& 0xF7FF
/-- MBCFG (R296). -/
def mbcfgField (v : Word) : Word :=
  let thr := if hf v 16 5 = 0 then 1 else Nat.min (hf v 16 5) 16
  let depth := if 2 ≤ hf v 8 5 ∧ hf v 8 5 ≤ 16 then hf v 8 5 else 16
  BitVec.ofNat 64 (hf v 24 16 * 2 ^ 24 + thr * 2 ^ 16 + depth * 2 ^ 8)
/-- MBSPB (R296). -/
def mbspbField (v : Word) : Word := v &&& ~~~63
/-- MBRH (R296). -/
def mbrhField (v : Word) : Word := v &&& 0xFFFFFFFF
/-- GOVC (R282). -/
def govcField (v : Word) : Word :=
  let h := if 4 ≤ hf v 0 5 ∧ hf v 0 5 ≤ 20 then hf v 0 5 else 20
  BitVec.ofNat 64 (hf v 5 1 * 32 + h)
/-- WSSLn (R333): DL is read-only. -/
def wsslField (v : Word) : Word := BitVec.ofNat 64 (hf v 63 1 * 2 ^ 63 + hf v 40 16 * 2 ^ 40)

/-- Groups that other valid stages hold (R282). -/
def Governor.othersGrp (v : Governor) (n : Nat) : Nat :=
  (List.range 4).foldl (fun acc i => if i != n && govV (v.stage i) then acc ||| govGrp (v.stage i) else acc) 0

/-- GOVSTn (R282): a bit of GRP that another valid stage holds is cleared. -/
def Governor.stageField (v : Governor) (n : Nat) (w : Word) : Word :=
  let grp := (BitVec.ofNat 4 (hf w 52 4) &&& ~~~(BitVec.ofNat 4 (v.othersGrp n))).toNat
  BitVec.ofNat 64 (hf w 63 1 * 2 ^ 63 + grp * 2 ^ 52 + hf w 40 8 * 2 ^ 40 + hf w 0 32)

/-- Changes the executing context's own system registers. -/
def State.putCsr (s : State) (f : Csrs → Csrs) : State := s.setMe { s.me with csr := f s.me.csr }

/-- Writes a system register under its field rules; a read-only register ignores the write (R376, R377). Writing a stage
register leaves the stage's delivery pointer where it stands (notes/assumptions/35.md). -/
def State.writeCsr (s : State) (n : Nat) (v : Word) : State :=
  let j := s.myJob
  if n = 0x000 then s.putCsr (fun c => { c with tvec := tvecField v })
  else if n = 0x002 then s.putCsr (fun c => { c with tepc := v })
  else if n = 0x010 then s.putCsr (fun c => { c with fpcs := fpcsField v })
  else if n = 0x011 then s.putCsr (fun c => { c with rngc := v })
  else if n = 0x012 then s.putCsr (fun c => { c with rngs := rngsField v })
  else if n = 0x013 then s.putCsr (fun c => { c with immc := immcField v })
  else if n = 0x015 then s.setMyJob { j with mxw := mxwField v }
  else if n = 0x017 then s.putCsr (fun c => { c with rake := rakeField v })
  else if n = 0x018 then s.setMyJob { j with mbcfg := mbcfgField v }
  else if n = 0x019 then s.setMyJob { j with mbspb := mbspbField v }
  else if n = 0x01A then s.setMyJob { j with mbrh := mbrhField v }
  else if 0x030 ≤ n ∧ n ≤ 0x033 then
    let g := s.myGov
    let i := n - 0x030
    let st := if h : i < 4 then g.st.set i (g.stageField i v) h else g.st
    s.setGov s.cur.tile s.me.slot s.me.jtile { g with st := st }
  else if n = 0x034 then
    let g := { s.myGov with c := govcField v }
    s.setGov s.cur.tile s.me.slot s.me.jtile { g with nextCheck := s.time + g.period }
  else if 0x038 ≤ n ∧ n ≤ 0x03B then
    let i := n - 0x038
    s.setMyWssl (if h : i < 4 then s.myWssl.set i (wsslField v) h else s.myWssl)
  else s

/-- `csrr` (R376). -/
def execCsrr (g : Guard) (d : SDst) (num : BitVec 12) (s : State) : Host.Outcome State Fault Refusal :=
  runInstr g 8 s (fun s => s.writeS d (s.readCsr num.toNat))

/-- `csrw` (R376). -/
def execCsrw (g : Guard) (num : BitVec 12) (a : SSrc) (s : State) : Host.Outcome State Fault Refusal :=
  runInstr g 8 s (fun s => (s.readS a).map (fun p => p.2.writeCsr num.toNat p.1))

end Sys2Proof.Machine
end

