-- ==== Sys2Proof/Machine/Launch.lean ====
section
/-! DEFINITION. Dispatch: the launch port, launch records, regions, ranges, graphs, phases, completion and cancel (spec/07
R162, R163; spec/13 R329, R330; spec/15 R349 to R356, R367 to R369). -/

namespace Sys2Proof.Machine

/-! Queueing (R351, R367). -/

/-- Entries of a launch queue that count toward its 64. -/
def Slot.queued (j : Slot) : Nat := (j.queue.filter (fun q => q.gone.isNone)).length

/-- The serial number after another (R350). -/
def nextSerial (n : Nat) : Nat := if n = 2 ^ 32 - 1 then 1 else n + 1

/-- Accepts a record into the queue with the next serial number; one that enters while an unbind is in progress is marked
(R350, R358). -/
def State.queueLaunch (s : State) (slot : Nat) (va : Word) : State :=
  let j := s.slot slot
  let n := nextSerial j.serial
  s.setSlot slot { j with serial := n, queue := j.queue ++ [⟨va, n, j.unbind != .none, none⟩] }

/-- `launch` (R367). -/
def execLaunch (g : Guard) (d : SDst) (a : SSrc) (s : State) : Host.Outcome State Fault Refusal :=
  runInstr g 16 s (fun s => do
    let (ea, s1) ← s.readS a
    need (ea.toNat % 64 == 0) .align ea
    need (ea.toNat / 2 ^ 55 == 0 && decide (regionOf ea.toNat ≤ 3)) .addr ea
    s1.dstReady d
    if 64 ≤ s1.mySlot.queued then s1.writeS d 1
    else do
      ready s1.drained
      (s1.queueLaunch s1.me.slot ea).writeS d 0)

/-! Completion counters (R349, R352). -/

/-- The agent for which dispatch reads and writes a job's memory. -/
def dispatchAgent (s : State) (slot : Nat) : Agent := ⟨slot, 0, (s.slot slot).devTile 0, 0, []⟩

/-- Whether a page that an address lies in has been evicted. -/
def State.evicted (s : State) (slot a : Nat) : Bool := (s.evictedAt (s.slot slot).asid a).isSome

/-- Makes the pages of addresses resident where they have been evicted (R330, R352). -/
def State.touch (s : State) (slot : Nat) : List Nat → State
  | [] => s
  | a :: t => (if s.evicted slot a then (s.pageIn slot a).getD s else s).touch slot t

/-- Addresses of a table of `n` bytes, one in each page. -/
def pagesOf (va n : Nat) : List Nat :=
  if n = 0 then [] else (List.range ((n + 65535) / 65536)).map (fun i => va + 65536 * i) ++ [va + n - 1]

/-- Whether a completion counter stands where one may: aligned, in regions 0 to 3 (R352). -/
def ctrPlaced (ctr : Word) : Bool := ctr.toNat % 16 == 0 && ctr.toNat / 2 ^ 55 == 0 && decide (regionOf ctr.toNat ≤ 3)

/-- Whether dispatch can reach a completion counter: well placed and writable (R352). -/
def State.ctrReachable (s : State) (slot : Nat) (ctr : Word) : Bool :=
  ctrPlaced ctr && (match s.locateRmw (dispatchAgent s slot) (span ctr 16) with
    | .ok _ => true
    | .error _ => false)

/-- Whether an arrival at a completion counter waits: its block is in a swap or a unit on the way is under test, or no frame
can be had for its page now (R322, R330, R386). -/
def State.ctrBusy (s : State) (slot : Nat) (ctr : Word) : Bool :=
  let u := s.touch slot [ctr.toNat]
  ctr != 0 && ctrPlaced ctr && (u.evicted slot ctr.toNat || (match u.locateRmw (dispatchAgent u slot) (span ctr 16) with
    | .error .stall => true
    | _ => false))

/-- An arrival of dispatch, a release at scope 2 of everything that has performed (R80, R349). -/
def dispatchArrival (s : State) (ag : Agent) (ctr : Word) : Posted where
  owner := ⟨ag.tile, ag.core, 15⟩
  gen := 0
  slot := ag.slot
  jtile := ag.jt
  ord := .rel
  scope := 2
  group := 0
  seen := s.allSeen
  fences := []
  pub := []
  waited := []
  upd := .arrive ctr

/-- The completion arrival of a level: its status goes into AUX, then VALUE takes the arrival; a counter of 0 is none. A
counter that cannot be written is counted as a loss (R349, R352). -/
def State.levelArrive (s : State) (slot : Nat) (ctr : Word) (st : Nat) : State :=
  if ctr = 0 then s
  else
    let s1 := s.touch slot [ctr.toNat]
    let j := s1.slot slot
    let ag := dispatchAgent s1 slot
    let lost := s1.setSlot slot { j with lost := j.lost + 1 }
    if !s1.ctrReachable slot ctr then lost
    else
      match s1.locateRmw ag (span (ctr + 8) 8) with
      | .ok l =>
        let s2 := s1.storeTop ag [l.zip (bytesOf 8 st)]
        match s2.arriveFor (dispatchArrival s2 ag ctr) ctr with
        | .ok u => u
        | .error _ => lost
      | .error _ => lost

/-! Launch records (R352). -/

/-- H0's fields of w0. -/
def recHofs (w : Vector Word 8) : Nat := rf w 0 0 32
/-- KIND. -/
def recKind (w : Vector Word 8) : Nat := rf w 0 32 4
/-- NREG. -/
def recNreg (w : Vector Word 8) : Nat := rf w 0 36 5
/-- NRNG. -/
def recNrng (w : Vector Word 8) : Nat := rf w 0 41 4
/-- NMODE. -/
def recNmode (w : Vector Word 8) : Nat := rf w 0 45 2
/-- PHB. -/
def recPhb (w : Vector Word 8) : Bool := rf w 0 47 1 == 1
/-- SER. -/
def recSer (w : Vector Word 8) : Bool := rf w 0 48 1 == 1
/-- STRD. -/
def recStrd (w : Vector Word 8) : Nat := rf w 0 49 14
/-- CTR. -/
def recCtr (w : Vector Word 8) : Word := w[7]

/-- Whether an address lies in regions 0 to 3. -/
def inMemory (a : Nat) : Bool := a / 2 ^ 55 == 0 && decide (regionOf a ≤ 3)

/-- The targets of a launch in the order of their ordinals, x fastest, then y, then z, then core (R353): job tile and
core. -/
def recTargets (w : Vector Word 8) : List (Nat × Nat) :=
  ((List.range 32).filter (fun c => (w[1]).getLsbD (32 + c))).flatMap fun c =>
    (List.range (rf w 1 24 5)).flatMap fun k => (List.range (rf w 1 20 4)).flatMap fun j =>
      (List.range (rf w 1 16 4)).map fun i => (tileNum (rf w 1 0 3 + i) (rf w 1 4 3 + j) (rf w 1 8 5 + k), c)

/-- Whether the box of a record lies in the job's shape. -/
def boxInside (j : Slot) (w : Vector Word 8) : Bool :=
  decide (rf w 1 0 3 + rf w 1 16 4 ≤ j.sx) && decide (rf w 1 4 3 + rf w 1 20 4 ≤ j.sy)
    && decide (rf w 1 8 5 + rf w 1 24 5 ≤ j.sz)

/-- Whether the box word has only legal fields. -/
def boxLegal (w : Vector Word 8) : Bool :=
  rf w 1 3 1 == 0 && rf w 1 7 1 == 0 && rf w 1 13 3 == 0 && rf w 1 29 3 == 0
    && decide (1 ≤ rf w 1 16 4) && decide (rf w 1 16 4 ≤ 8) && decide (1 ≤ rf w 1 20 4) && decide (rf w 1 20 4 ≤ 8)
    && decide (1 ≤ rf w 1 24 5) && decide (rf w 1 24 5 ≤ 24)

/-- The address of the arguments of a target (R353). -/
def argAt (w : Vector Word 8) (o : Nat) : Nat := (w[2]).toNat + 8 * recStrd w * o

/-- The region descriptors of a record (R162); none where they cannot be read. -/
def State.recordRegions (s : State) (slot : Nat) (w : Vector Word 8) : Option (List Nat) :=
  (s.readJob slot (w[3]).toNat (8 * recNreg w)).map (fun bs =>
    (List.range (recNreg w)).map (fun i => leNat ((bs.drop (8 * i)).take 8)))

/-- A region descriptor's region; none where V is 0 (R162). -/
def descRegion (d : Nat) : Option Region :=
  if bits d 0 1 = 0 then none else some ⟨bits d 4 4, bits d 24 8, if bits d 32 8 = 0 then 256 else bits d 32 8⟩

/-- Whether a region descriptor's reserved bits are zero. -/
def descLegal (d : Nat) : Bool := bits d 40 24 == 0 && bits d 8 16 == 0 && bits d 1 1 == 0

/-- Whether two regions overlap. -/
def Region.meets (a b : Region) : Bool := overlap a.ofs a.size b.ofs b.size

/-- Whether two of a list of regions overlap. -/
def regionsMeet : List Region → Bool
  | [] => false
  | r :: t => t.any (fun q => r.meets q) || regionsMeet t

/-- Whether R163 refuses the regions of a launch. -/
def regionsRefused (j : Slot) (l : List Region) : Bool :=
  l.any (fun r => decide (256 < r.ofs + r.size)) || regionsMeet l
    || l.any (fun r => j.regions.any (fun q => if q.num = r.num then q != r else r.meets q))

/-- Whether a range descriptor is legal (R329). -/
def RangeDesc.legal (d : RangeDesc) : Bool :=
  d.rest == 0 && d.len != 0 && d.len % 65536 == 0 && d.base % 65536 == 0 && inMemory d.base

/-- Whether a launch record of KIND 0 is well formed, apart from its CTR (R352). -/
def State.launchLegal (s : State) (slot : Nat) (w : Vector Word 8) : Bool :=
  let args := (w[2]).toNat
  rf w 0 63 1 == 0 && recNmode w != 3 && decide (recNrng w ≤ 8) && decide (recNreg w ≤ 16) && boxLegal w && w[6] == 0
    && (args == 0 || (args % 8 == 0 && (List.range (recTargets w).length).all (fun o =>
          inMemory (argAt w o) && (s.readJob slot (argAt w o) 48).isSome)))
    && (recNreg w == 0 || ((w[3]).toNat % 8 == 0 && (match s.recordRegions slot w with
          | some l => l.all descLegal
          | none => false)))
    && (recNrng w == 0 || ((w[4]).toNat % 16 == 0 && (match s.recordRanges slot w with
          | some l => l.all RangeDesc.legal
          | none => false)))

/-! Nodes (R355). -/

/-- KIND of a node. -/
def nodeKind (w : Vector Word 4) : Nat := hf w[0] 0 4
/-- NSUCC. -/
def nodeSuccs (w : Vector Word 4) : Nat := hf w[0] 8 4
/-- DEPS. -/
def nodeDeps (w : Vector Word 4) : Nat := hf w[0] 16 8
/-- Successor k. -/
def nodeSucc (w : Vector Word 4) (k : Nat) : Nat := hf w[2] (16 * k) 16
/-- LIM. -/
def nodeLim (w : Vector Word 4) : Nat := hf w[3] 0 32

/-- The words of node i of a table. -/
def State.nodeWords (s : State) (slot base i : Nat) : Option (Vector Word 4) :=
  (s.readJob slot (base + 32 * i) 32).map (fun bs =>
    Vector.ofFn (fun k : Fin 4 => BitVec.ofNat 64 (leNat ((bs.drop (8 * k.val)).take 8))))

/-- The nodes of a table of n; none where one cannot be read. -/
def State.nodeTable (s : State) (slot base n : Nat) : Option (List (Vector Word 4)) :=
  ((List.range n).map (s.nodeWords slot base)).foldr (fun x acc => match x, acc with
    | some v, some l => some (v :: l)
    | _, _ => none) (some [])

/-- Whether a node is well formed in a table of n nodes (R355). -/
def State.nodeLegal (s : State) (slot n : Nat) (w : Vector Word 4) : Bool :=
  let kind := nodeKind w
  let ns := nodeSuccs w
  let arg := (w[1]).toNat
  decide (kind ≤ 4) && decide (ns ≤ 4) && hf w[0] 24 40 == 0 && hf w[0] 4 4 == 0 && hf w[0] 12 4 == 0
    && (List.range 4).all (fun k => if k < ns then decide (nodeSucc w k < n) else nodeSucc w k == 0)
    && hf w[3] 32 32 == 0 && (kind == 2 || nodeLim w == 0)
    && (match kind with
        | 0 => arg % 64 == 0 && inMemory arg && (match s.launchRecord slot arg with
            | some r => recKind r == 0 && !recPhb r && !recSer r
            | none => false)
        | 4 => ns == 0 && arg == 0
        | _ => arg % 8 == 0 && inMemory arg && (s.readWord slot arg).isSome
            && (if kind = 3 then decide (1 ≤ ns) else ns == 2))

/-- Whether a graph record and its nodes are well formed, apart from CTR (R352, R355). -/
def State.graphLegal (s : State) (slot : Nat) (w : Vector Word 8) : Bool :=
  let n := recHofs w
  rf w 0 63 1 == 0 && recStrd w == 0 && recNmode w == 0 && recNrng w == 0 && recNreg w == 0
    && w[1] == 0 && w[2] == 0 && w[3] == 0 && w[4] == 0 && w[5] == 0
    && decide (1 ≤ n) && decide (n ≤ 4096) && (w[6]).toNat % 32 == 0
    && (match s.nodeTable slot (w[6]).toNat n with
        | none => false
        | some l => l.all (s.nodeLegal slot n) && (l.filter (fun x => nodeKind x == 4)).length == 1)

/-- The statuses with which R352 refuses a record; none of them for one that may start. -/
def State.refusals (s : State) (slot : Nat) (w : Vector Word 8) : List Nat :=
  let j := s.slot slot
  let ctrBad := w[7] != 0 && !s.ctrReachable slot w[7]
  if recKind w = 1 then if s.graphLegal slot w && !ctrBad then [] else [5]
  else if recKind w != 0 then [5]
  else
    let regs := ((s.recordRegions slot w).getD []).filterMap descRegion
    (if boxLegal w && !boxInside j w then [2] else [])
      ++ (if recNreg w != 0 && !j.ovl && regionsRefused j regs then [3] else [])
      ++ (if s.launchLegal slot w && !ctrBad then [] else [5])
      ++ (if recNreg w != 0 && j.ovl then [7] else [])

/-- One of several statuses that apply: which one is open (notes/assumptions/26.md). -/
def State.pickStatus (s : State) (l : List Nat) : Option (Nat × State) :=
  match l with
  | [] => none
  | [a] => some (a, s)
  | l =>
    let (x, s1) := s.draw
    some (l.getD (x.toNat % l.length) 5, s1)

/-- The tables that dispatch reads for a record whose words are known: first byte and length. -/
def recordTables (w : Vector Word 8) : List (Nat × Nat) :=
  let tables := [((w[3]).toNat, 8 * recNreg w), ((w[4]).toNat, 16 * recNrng w)]
  if recKind w = 1 then tables ++ [((w[6]).toNat, 32 * Nat.min (recHofs w) 4096)]
  else if w[2] == 0 then tables
  else tables ++ (List.range (recTargets w).length).map (fun o => (argAt w o, 48))

/-- The words and records that the nodes of a graph name. -/
def State.nodeTables (s : State) (slot : Nat) (w : Vector Word 8) : List (Nat × Nat) :=
  if recKind w != 1 then []
  else ((s.nodeTable slot (w[6]).toNat (Nat.min (recHofs w) 4096)).getD []).map (fun x => ((x[1]).toNat, 64))

/-- Makes the pages of tables resident. -/
def State.touchTables (s : State) (slot : Nat) (l : List (Nat × Nat)) : State :=
  s.touch slot (l.flatMap (fun p => pagesOf p.1 p.2))

/-! Ranges (R329, R330). -/

/-- Makes one evicted page of a record's ranges resident, evicting ranges that neither a running launch nor the record
lists. -/
def State.residentPage (s : State) (slot : Nat) (w : Vector Word 8) (m : Mapping) : Option State :=
  match s.evictedAt (s.slot slot).asid m.va.toNat with
  | none => some s
  | some q => s.makeRoom slot (s.lists slot w) q (s.slot slot).ranges.length

/-- Makes every page of a record's ranges resident; none where they do not fit now (R330). -/
def State.residentAll (s : State) (slot : Nat) (w : Vector Word 8) : Option State :=
  let l := (s.recordRanges slot w).getD []
  let asid := (s.slot slot).asid
  let pages := s.mg.maps.filter (fun m => m.asid.toNat == asid && m.evicted.isSome
    && l.any (fun d => overlap (d.base % 2 ^ 52) d.len (m.va.toNat % 2 ^ 52) m.size))
  (pages.foldl (fun (u : Option State) m => u.bind (fun v => v.residentPage slot w m)) (some s)).map (fun u =>
    l.foldl (fun (v : State) d => v.addRange slot ⟨BitVec.ofNat 64 d.base, d.len, true⟩) u)

/-! Regions (R162). -/

/-- Removes every byte of a region from the scratchpads of a tile's 32 cores: it reads zero. -/
def zeroRegion (m : Memory) (r : Region) : Memory :=
  m.filter (fun c => !(decide (256 * r.ofs ≤ c.1 % 65536) && decide (c.1 % 65536 < 256 * (r.ofs + r.size))))

/-- The granules of a region in the scratchpads of a tile's 32 cores. -/
def regionGranules (r : Region) : List Nat :=
  (List.range 32).flatMap (fun c => (List.range r.size).map (fun i => 256 * c + r.ofs + i))

/-- The record keys of the bytes of a job's region in its scratchpads. -/
def regionKey (slot : Nat) (r : Region) (k : Nat) : Bool :=
  let ofs := k % 65536
  decide (2 ^ 60 ≤ k) && decide (k < 2 ^ 62) && (k - 2 ^ 60) / 2 ^ 32 == slot && decide (256 * r.ofs ≤ ofs)
    && decide (ofs < 256 * (r.ofs + r.size))

/-- Fills a region with zeros in every core of the job (R162). -/
def State.zeroEverywhere (s : State) (slot : Nat) (r : Region) : State :=
  (s.slot slot).jobTiles.foldl (fun (u : State) jt =>
    let j := u.slot slot
    let d := j.devTile jt
    let t := u.tile d
    if t.runs slot jt then
      u.setTile d { t with spad := zeroRegion t.spad r, granules := (regionGranules r).foldl sinsert t.granules }
    else u.setSlot slot { j with images := aset j.images jt { j.image jt with spad := zeroRegion (j.image jt).spad r } })
    (s.settleAt (regionKey slot r))

/-- Allots the regions of a launch that are not allotted yet (R162). Of two valid descriptors with one NUM the first is
allotted, and the second, of the same region or not, then names an allotted one: the spec does not say
(notes/assumptions/34.md). -/
def State.allotRegions (s : State) (slot : Nat) (w : Vector Word 8) : State :=
  ((s.recordRegions slot w).getD []).foldl (fun (u : State) d =>
    match descRegion d with
    | none => u
    | some r =>
      let j := u.slot slot
      if j.regions.any (fun q => q.num == r.num) then u
      else
        let u1 := u.setSlot slot { j with regions := j.regions ++ [r] }
        if bits d 2 1 = 1 then u1.zeroEverywhere slot r else u1) s

/-- The regions that a launch releases at its completion (R162). -/
def State.freeRegions (s : State) (slot : Nat) (w : Vector Word 8) : List Nat :=
  ((s.recordRegions slot w).getD []).filterMap (fun d =>
    if bits d 3 1 = 1 then (descRegion d).map (fun r => r.num) else none)

/-! Starting a launch (R350, R353, R354). -/

/-- The product of a nest descriptor's extents. -/
def recTotal (w : Vector Word 8) : Nat := nestTotal w[5]

/-- The iteration range of target `o` of `n`: extents, start, end, step (R354). -/
def nestOf (w : Vector Word 8) (o n : Nat) : Option (Word × Word × Word × Word) :=
  let total := recTotal w
  let chunk := (total + n - 1) / n
  if recNmode w = 1 then
    some (w[5], BitVec.ofNat 64 (o * chunk), BitVec.ofNat 64 (Nat.min total ((o + 1) * chunk)), 1)
  else if recNmode w = 2 then some (w[5], BitVec.ofNat 64 o, BitVec.ofNat 64 total, BitVec.ofNat 64 n)
  else none

/-- The dispatch message of a target (R353). -/
def State.dispatchMsg (s : State) (slot serial : Nat) (w : Vector Word 8) (o n jt core : Nat) : Msg where
  slot := slot
  h0 := BitVec.ofNat 64 (6 * 2 ^ 56 + (s.slot slot).cls * 2 ^ 50 + core * 2 ^ 43 + jt * 2 ^ 32 + recHofs w)
  h1 := BitVec.ofNat 64 (srcFields 15 31 2047)
  pay := if w[2] = 0 then List.replicate 6 0
    else
      let bs := (s.readJob slot (argAt w o) 48).getD []
      (List.range 6).map (fun i => BitVec.ofNat 64 (leNat ((bs.drop (8 * i)).take 8)))
  launch := some serial
  sluice := false
  dispatch := true
  waiter := none
  notice := false
  num := 0
  seen := s.allSeen
  behind := none
  nest := nestOf w o n

/-- Starts a launch: regions, messages to send. -/
def State.acceptLaunch (s : State) (slot serial : Nat) (w : Vector Word 8) (phb : Bool) (graph : Option (Nat × Nat)) :
    State :=
  let targets := recTargets w
  let n := targets.length
  let msgs := targets.zipIdx.map (fun p => s.dispatchMsg slot serial w p.2 n p.1.1 p.1.2)
  let free := s.freeRegions slot w
  let s1 := s.allotRegions slot w
  let j := s1.slot slot
  let l : Launch :=
    { serial := serial, ctr := w[7], words := w, graph := graph
      ranges := ((s.recordRanges slot w).getD []).map (fun d => (d.base, d.len)), todo := msgs, members := 0, spilled := 0
      cancelled := false, free := free, phb := phb }
  s1.setSlot slot { j with launches := j.launches ++ [l] }

/-- Starts a graph: entry nodes are due (R355). -/
def State.acceptGraph (s : State) (slot : Nat) (w : Vector Word 8) : State :=
  let j := s.slot slot
  let nodes := ((s.nodeTable slot (w[6]).toNat (recHofs w)).getD []).map (fun x =>
    (⟨x, 0, if nodeDeps x = 0 then 1 else 0, 0⟩ : Node))
  let g : Graph :=
    { serial := j.graphSerial + 1, ctr := w[7], nodes := nodes, phb := recPhb w, ended := false, cancelled := false
      status := 0 }
  s.setSlot slot { j with graphSerial := j.graphSerial + 1, graphs := j.graphs ++ [g] }

/-- What reaching a record leads to: it waits, it is refused with a status, or it starts. -/
inductive Reached where
  | wait
  | refused (st : Nat) (s : State)
  | started (s : State)
  deriving DecidableEq, Repr

/-- Whether no launch or graph of a job is open. -/
def Slot.idle (j : Slot) : Bool := j.launches.isEmpty && j.graphs.isEmpty

/-- Checks a readable record and starts it (R330, R352); it waits while the blocks of its tables or of its counter do. -/
def State.startRecord (s : State) (slot serial : Nat) (w : Vector Word 8) (phb : Bool) (graph : Option (Nat × Nat)) :
    Reached :=
  let s1 := s.touchTables slot (((w[7]).toNat, 16) :: recordTables w)
  let s2 := s1.touchTables slot (s1.nodeTables slot w)
  if (recordTables w ++ s2.nodeTables slot w).any (s2.readBusy slot) || s2.ctrBusy slot w[7] then .wait
  else
  match s2.pickStatus (s2.refusals slot w) with
  | some (st, s3) => .refused st s3
  | none =>
    if recKind w = 1 then .started (s2.acceptGraph slot w)
    else
      match s2.residentAll slot w with
      | some s3 => .started (s3.acceptLaunch slot serial w phb graph)
      | none => if (s2.slot slot).launches.isEmpty then .refused 4 s2 else .wait

/-! Sending (R353, R363). -/

/-- The first message that can be sent now, with its position: the messages of one column of the part leave in ordinal
order (R363). -/
def State.sendable (s : State) : List (Msg × Nat) → List Nat → Option (Nat × State)
  | [], _ => none
  | (m, i) :: t, blocked =>
    let col := (s.slot m.slot).devTile (hTile m.h0) % 64
    if blocked.contains col then s.sendable t blocked
    else
      match s.inject m with
      | some u => some (i, u)
      | none => s.sendable t (col :: blocked)

/-- Sends one message of a launch. -/
def State.sendOf (s : State) (slot : Nat) (l : Launch) : Option State :=
  (s.sendable l.todo.zipIdx []).map (fun p =>
    p.2.onLaunch slot (some l.serial) (fun x => { x with todo := x.todo.eraseIdx p.1, members := x.members + 1 }))

/-- The first launch of a job that can send sends one message. -/
def State.sendNext (s : State) (slot : Nat) : Option State :=
  (firstSome (s.sendOf slot) (s.slot slot).launches).map Prod.snd

/-- Whether the next record may be reached: everything before it has sent its last message. -/
def Slot.sentAll (j : Slot) : Bool :=
  j.launches.all (fun l => l.todo.isEmpty) && j.graphs.all (fun g => g.ended || g.cancelled)

/-- What dispatch or the Sluice does, unless it takes a page fault while the management core restarts: page faults wait for
the core (R401). -/
def State.unlessAway (s : State) (r : Option State) : Option State :=
  r.filter (fun u => s.mg.switching.isNone || u.mg.maps == s.mg.maps)

/-- Takes the head out of a launch queue. -/
def State.popQueue (s : State) (slot : Nat) : State :=
  let j := s.slot slot
  s.setSlot slot { j with queue := j.queue.drop 1 }

/-- Sets the phase of a job. -/
def State.setPhase (s : State) (slot : Nat) (p : Option (Option Nat)) : State :=
  s.setSlot slot { s.slot slot with phase := p }

/-- Refuses the record at the head of a queue: its counter receives its arrival, and a boundary ends its phase (R352,
R356). -/
def State.refuseHead (s : State) (slot : Nat) (w : Vector Word 8) (st : Nat) : State :=
  let s1 := (s.popQueue slot).levelArrive slot (recCtr w) st
  if recPhb w then s1.setPhase slot (some (some st)) else s1

/-- Dispatch reaches the head of a job's queue (R352, R356, R358). -/
def State.reachHead (s : State) (slot : Nat) : Option State :=
  let j := s.slot slot
  match j.queue with
  | [] => none
  | q :: _ =>
    if !j.sentAll || j.phase.isSome then none
    else
      match q.gone with
      | some st => if j.idle then some ((s.popQueue slot).setPhase slot (some (some st))) else none
      | none =>
        let s1 := s.touch slot (pagesOf q.va.toNat 64)
        if s1.readBusy slot (q.va.toNat, 64) then none
        else
        match s1.launchRecord slot q.va.toNat with
        | none => some ((s1.popQueue slot).setSlot slot { (s1.popQueue slot).slot slot with lost := j.lost + 1 })
        | some w =>
          if (recPhb w || recSer w) && !j.idle then none
          else if q.late then
            if s1.ctrBusy slot w[7] then none
            else
              let u := s1.refuseHead slot w 6
              some (u.setSlot slot { u.slot slot with cut := true })
          else
            match s1.startRecord slot q.serial w (recPhb w) none with
            | .wait => none
            | .refused st u => some (u.refuseHead slot w st)
            | .started u =>
              let u1 := u.popQueue slot
              some (if recPhb w then u1.setPhase slot (some none) else u1)

/-- Whether a launch has completed: every message sent, no member left (R350, R369). -/
def Launch.completed (l : Launch) : Bool := l.todo.isEmpty && l.members == 0

/-- Whether a launch belongs to a graph. -/
def Launch.ofGraph (l : Launch) (serial : Nat) : Bool :=
  match l.graph with
  | some (g, _) => g == serial
  | none => false

/-- Whether a graph has completed (R355, R369). -/
def Slot.graphCompleted (j : Slot) (g : Graph) : Bool :=
  g.ended && j.launches.all (fun l => !l.ofGraph g.serial || l.completed)

/-- Whether a job has a level that is queued, or one that has neither completed nor been cancelled. -/
def Slot.cuttable (j : Slot) : Bool :=
  j.queued != 0 || j.launches.any (fun l => !l.cancelled && !l.completed)
    || j.graphs.any (fun g => !g.cancelled && !j.graphCompleted g)

/-- Whether dispatch may serve a job: one that has been pre-empted only to end the phases of its cancelled boundary launches,
once an unbind has cancelled all its levels (R356, R358, R382). -/
def Slot.served (j : Slot) : Bool :=
  j.bound && (j.preempted.isNone || (j.unbind == .cancel && !j.cuttable))

/-- DISPATCH_LAUNCH: dispatch sends the next message of a launch, or reaches the next record (R352, R353). -/
def execDispatchLaunch (slot : Nat) (s : State) : Host.Outcome State Fault Refusal :=
  runEvent s (
    let j := s.slot slot
    if !j.served then none
    else
      match s.sendNext slot with
      | some u => some u
      | none => s.unlessAway (s.reachHead slot))

/-! Graphs (R355). -/

/-- Changes a running graph. -/
def State.onGraph (s : State) (slot serial : Nat) (f : Graph → Graph) : State :=
  let j := s.slot slot
  s.setSlot slot { j with graphs := j.graphs.map (fun g => if g.serial = serial then f g else g) }

/-- A node receives an arrival: at DEPS it becomes due and its count starts again. -/
def Node.arrive (n : Node) : Node :=
  if n.arrivals + 1 = nodeDeps n.w then { n with arrivals := 0, due := n.due + 1 } else { n with arrivals := n.arrivals + 1 }

/-- Gives one arrival to a node of a graph. -/
def Graph.arriveAt (g : Graph) (k : Nat) : Graph :=
  match g.nodes[k]? with
  | some n => { g with nodes := g.nodes.set k n.arrive }
  | none => g

/-- Gives one arrival to each successor of a node. -/
def Graph.arriveAll (g : Graph) (w : Vector Word 4) : Graph :=
  (List.range (nodeSuccs w)).foldl (fun (g : Graph) k => g.arriveAt (nodeSucc w k)) g

/-- The successor that a condition chooses at a node's c-th firing (R355). -/
def chosenSucc (w : Vector Word 4) (v c : Nat) : Nat :=
  if nodeKind w = 1 then if v ≠ 0 then 0 else 1
  else if nodeKind w = 2 then if v ≠ 0 ∧ (nodeLim w = 0 ∨ c ≤ nodeLim w) then 0 else 1
  else Nat.min v (nodeSuccs w - 1)

/-- Node `i` of a graph fires. -/
def State.fireNode (s : State) (slot : Nat) (g : Graph) (n : Node) (i : Nat) : Option State :=
  let w := n.w
  let n1 := { n with due := n.due - 1, fired := n.fired + 1 }
  let s1 := s.onGraph slot g.serial (fun g => { g with nodes := g.nodes.set i n1 })
  let s2 := s1.touch slot (pagesOf (w[1]).toNat (if nodeKind w = 0 then 64 else 8))
  let fail := s2.onGraph slot g.serial (fun g => { g with ended := true, status := 5 })
  if nodeKind w != 4 && s2.readBusy slot ((w[1]).toNat, if nodeKind w = 0 then 64 else 8) then none
  else
  match nodeKind w with
  | 0 =>
    match s2.launchRecord slot (w[1]).toNat with
    | none =>
      let j := s2.slot slot
      some ((s2.setSlot slot { j with lost := j.lost + 1 }).onGraph slot g.serial (fun g => g.arriveAll w))
    | some r =>
      if recKind r = 0 then
        let serial := nextSerial (s2.slot slot).serial
        let s3 := s2.setSlot slot { s2.slot slot with serial := serial }
        match s3.startRecord slot serial r g.phb (some (g.serial, i)) with
        | .wait => none
        | .refused st u => some ((u.levelArrive slot (recCtr r) st).onGraph slot g.serial (fun g => g.arriveAll w))
        | .started u => some u
      else if s2.ctrBusy slot (recCtr r) then none
      else some ((s2.levelArrive slot (recCtr r) 5).onGraph slot g.serial (fun g => g.arriveAll w))
  | 4 => some (s2.onGraph slot g.serial (fun g => { g with ended := true }))
  | _ =>
    match s2.readWord slot (w[1]).toNat with
    | none => some fail
    | some v => some (s2.onGraph slot g.serial (fun g => g.arriveAt (nodeSucc w (chosenSucc w v.toNat n1.fired))))

/-- GRAPH_NODE_FIRE: the due node of lowest index (R355). -/
def execGraphNodeFire (slot serial : Nat) (s : State) : Host.Outcome State Fault Refusal :=
  runEvent s (
    let j := s.slot slot
    if !j.bound || j.preempted.isSome then none
    else
      s.unlessAway <| match j.graphs.find? (fun g => g.serial == serial && !g.ended && !g.cancelled) with
      | none => none
      | some g =>
        match g.nodes.zipIdx.find? (fun p => decide (0 < p.1.due)) with
        | none => none
        | some (n, i) => s.fireNode slot g n i)

/-- What follows the end of a level: it waits while the arrivals at its counters do, and for a page that is away during a SWITCH
(R322, R386, R401). -/
def State.levelEnds (s : State) (slot : Nat) (ctrs : List Word) (r : Option State) : Option State :=
  if ctrs.any (s.ctrBusy slot) then none else s.unlessAway r

/-- GRAPH_COMPLETE (R355, R368). -/
def execGraphComplete (slot serial : Nat) (s : State) : Host.Outcome State Fault Refusal :=
  runEvent s (
    let j := s.slot slot
    match j.graphs.find? (fun g => g.serial == serial && (g.ended || g.cancelled)) with
    | none => none
    | some g =>
      s.levelEnds slot [g.ctr] <| if j.launches.any (fun l => match l.graph with
        | some (n, _) => n == serial
        | none => false) then none
      else
        let st := if g.cancelled then 1 else g.status
        let s1 := s.setSlot slot { j with graphs := j.graphs.filter (fun x => x.serial != serial) }
        let s2 := s1.levelArrive slot g.ctr st
        some (if g.phb then s2.setPhase slot (some (some st)) else s2))

/-! Completion (R350, R356). -/

/-- Whether a frame is a replica that a launch filled. -/
def SecFrame.filledBy (f : SecFrame) (slot serial : Nat) : Bool :=
  match f.replica with
  | some r => r.slot == slot && r.launch == serial
  | none => false

/-- Drops the replicas that a launch filled (R215). -/
def State.dropLaunchReplicas (s : State) (slot serial : Nat) : State :=
  { s with tiles := s.tiles.map (fun p => (p.1, { p.2 with
      slice := p.2.slice.filter (fun f => !f.filledBy slot serial) })) }

/-- The record keys of the weight store of a job. -/
def Slot.wsKey (j : Slot) (k : Nat) : Bool :=
  let u := k % 2 ^ 24 / 65536
  decide (2 ^ 62 ≤ k) && decide (k < 2 ^ 63) && j.box.contains ((k - 2 ^ 62) / 2 ^ 24) && decide (j.wsBase ≤ u)
    && decide (u < j.wsBase + j.wsLen)

/-- At a phase boundary every agent reads what the boundary has left in the weight store (R216). -/
def State.boundary (s : State) (slot : Nat) : State := s.settleAt (s.slot slot).wsKey

/-- LAUNCH_COMPLETE (R350). -/
def execLaunchComplete (slot serial : Nat) (s : State) : Host.Outcome State Fault Refusal :=
  runEvent s (
    let j := s.slot slot
    match j.launches.find? (fun l => l.serial == serial) with
    | none => none
    | some l =>
      s.levelEnds slot [l.ctr] <| if !l.completed then none
      else
        let s1 := (if l.phb then s.boundary slot else s).dropLaunchReplicas slot serial
        let s2 := s1.setSlot slot { j with
          regions := j.regions.filter (fun r => !l.free.contains r.num)
          launches := j.launches.filter (fun x => x.serial != serial) }
        let st := if l.cancelled then 1 else 0
        let s3 := s2.levelArrive slot l.ctr st
        match l.graph with
        | some (g, i) =>
          some (s3.onGraph slot g (fun x => match x.nodes[i]? with
            | some n => x.arriveAll n.w
            | none => x))
        | none => some (if l.phb then s3.setPhase slot (some (some st)) else s3))

/-- PHASE_END (R356). -/
def execPhaseEnd (slot : Nat) (s : State) : Host.Outcome State Fault Refusal :=
  runEvent s (
    let j := s.slot slot
    match j.phase with
    | some (some st) => s.levelEnds slot [j.lvlc] (some (((s.setPhase slot none).boundary slot).levelArrive slot j.lvlc st))
    | _ => none)

/-! Cancel (R244, R264, R368). -/

/-- What a cancel leaves of a copy command: a near-memory command still has the lines that are in progress (R324), another
the granule for which it waits on the host (R264). -/
def State.cutRun (s : State) (id : CtxId) (r : CopyRun) : Option CopyRun :=
  match r.cmd with
  | .near y x ctr _ kind n av sc =>
    if r.started ∧ r.next % 32 ≠ 0 ∧ r.next < n then
      some { r with cmd := .near y x ctr false kind (Nat.min n ((r.next + 31) / 32 * 32)) av sc }
    else none
  | _ => if !r.got.isEmpty || s.viaWaits id r.slot (.copy r.num) then some { r with cut := true } else none

/-- What a copy command met and made counts, though it is discarded (R212). -/
def State.noteCut (s : State) (id : CtxId) (key : Nat) (r : CopyRun) : State :=
  s.notePerformed id key false r.byProg r.num (Seen.join r.seen r.made)

/-- Discards a context's copy commands and ends its program (R264). -/
def State.cancelCopies (s : State) (id : CtxId) : State :=
  let c := s.ctx id
  let k := s.core id.tile id.core
  let mine (r : CopyRun) : Bool := r.slot == c.slot && r.ctx == id.ctx
  let gone := k.copies.filter (fun r => mine r && (s.cutRun id r).isNone)
  let key := jobKey c.slot c.jtile
  let j := gone.foldl (fun (j : JobCore) r => j.copyPerformed r.num) (k.job key)
  let left := k.copies.filterMap (fun r => if mine r then s.cutRun id r else some r)
  let s1 := s.setCore id.tile id.core ({ k with copies := left }.setJob key j)
  let s2 := (gone.foldl (fun (u : State) r => u.noteCut id key r) s1).endProgram id
  { s2 with mg := { s2.mg with faults := s2.mg.faults.filter (fun f => match f.who with
      | .copy t q n => !(t == id.tile && q == id.core && gone.any (fun r => r.num == n && r.slot == f.slot))
      | _ => true) } }

/-- The trap CANCEL of a level with a counter (R370). -/
def cancelTrap (ctr : Word) : Pending := ⟨TrapCode.cancel.num, 4, ctr⟩

/-- A context with CANCEL pending, once. -/
def Ctx.cancelPending (c : Ctx) (ctr : Word) : Ctx :=
  if c.pend.any (fun p => p.code == TrapCode.cancel.num) then c else { c with pend := c.pend ++ [cancelTrap ctr] }

/-- A running member takes CANCEL, and its engine commands are discarded (R368 step 4). -/
def State.cancelContext (s : State) (id : CtxId) (ctr : Word) : State :=
  let c := s.ctx id
  let s1 := (s.setCtx id (c.cancelPending ctr)).cancelCopies id
  s1.matrixCancel id.tile id.core c.slot id.ctx

/-- The contexts of a tile that hold members of a launch. -/
def Tile.membersOf (t : Tile) (tile slot serial : Nat) : List CtxId :=
  t.cores.flatMap fun k => k.2.ctxs.filterMap fun p =>
    if p.2.active && p.2.slot == slot && p.2.launch == some serial then some ⟨tile, k.1, p.1⟩ else none

/-- Whether a message is a member of a launch. -/
def memberOf (slot serial : Nat) (m : Msg) : Bool := m.slot == slot && m.launch == some serial

/-- Discards the admitted, unstarted members of a launch on a core, and those that wait to be admitted (R368 step 3). For a
trapping `send` none of the outcomes of R291 is its message's discarding here; it completes as for one that was admitted
(notes/assumptions/34.md). -/
def State.discardOn (s : State) (tile core slot serial : Nat) : State :=
  let k := s.core tile core
  let waiting := k.arrivals.toList.flatMap (fun l => (l.map (fun a => a.msg)).filter (memberOf slot serial))
  let n := (k.inbox.filter (memberOf slot serial)).length + waiting.length
  let k1 := { k with
    inbox := k.inbox.filter (fun m => !memberOf slot serial m)
    arrivals := k.arrivals.map (fun l => l.filter (fun a => !memberOf slot serial a.msg)) }
  let s1 := (s.setCore tile core k1).onLaunch slot (some serial) (fun l => { l with members := l.members - n })
  waiting.foldl (fun (u : State) m => u.report m false) s1

/-- A context without the entries that it held for the status words of discarded matrix commands (R239, R244). -/
def Ctx.unhold (c : Ctx) (gone : List MatRun) : Ctx :=
  { c with q := Vector.ofFn (fun i : Fin 8 =>
      { c.q[i] with held := c.q[i].held - (gone.filter (fun r => r.status.map (fun n => n + 4) == some i.val)).length }) }

/-- What a core keeps for a job tile once the commands of contexts that lose them count as performed (R212, R244, R264). -/
def Image.goneFrom (i : Image) (mine : Nat → Nat → Bool) (k : Nat) (j : JobCore) : JobCore :=
  let runs := (((aget i.units (k / 8)).getD MUnit.reset).queue (k % 8)).filter (fun r => mine k r.ctx)
  let copies := ((aget i.copies k).getD []).filter (fun r => mine k r.ctx)
  runs.foldl (fun (j : JobCore) r => j.matPerformed r.num) (copies.foldl (fun (j : JobCore) r => j.copyPerformed r.num) j)

/-- The members of a launch that an image holds take CANCEL; their engine commands are discarded (R368). -/
def Image.cancelMembers (i : Image) (slot serial : Nat) (ctr : Word) : Image :=
  let mine (k n : Nat) : Bool := match aget ((aget i.ctxs k).getD []) n with
    | some c => c.active && c.slot == slot && c.launch == some serial
    | none => false
  let runs (k n : Nat) : List MatRun := (((aget i.units (k / 8)).getD MUnit.reset).queue (k % 8)).filter (fun r => r.ctx == n)
  let cs := i.ctxs.map (fun k => (k.1, k.2.map (fun p =>
    (p.1, if mine k.1 p.1 then
        { (p.2.cancelPending ctr).unhold (runs k.1 p.1) with
          prog := p.2.prog.map (fun q => { q with ended := some (q.ended.getD q.g[0]), held := false }) }
      else p.2))))
  { i with
    ctxs := cs
    jobs := i.jobs.map (fun p => (p.1, i.goneFrom mine p.1 p.2))
    copies := i.copies.map (fun k => (k.1, k.2.filter (fun r => !mine k.1 r.ctx)))
    units := i.units.map (fun u => (u.1, { u.2 with queues := Vector.ofFn (fun n : Fin 8 =>
      (u.2.queues[n]).filter (fun r => !mine (8 * u.1 + n.val) r.ctx)) })) }

/-- The numbers of commands that an image loses with a launch count as performed. -/
def State.imageGone (s : State) (slot jt serial : Nat) (i : Image) : State :=
  let tile := (s.slot slot).devTile jt
  let key := jobKey slot jt
  let mine (k n : Nat) : Bool := match aget ((aget i.ctxs k).getD []) n with
    | some c => c.active && c.slot == slot && c.launch == some serial
    | none => false
  let s1 := i.copies.foldl (fun (u : State) k =>
    (k.2.filter (fun r => mine k.1 r.ctx)).foldl (fun (u : State) r =>
      (u.onJob tile k.1 key (fun j => j.copyPerformed r.num)).noteCut ⟨tile, k.1, r.ctx⟩ key r) u) s
  i.units.foldl (fun (u : State) x =>
    (List.range 8).foldl (fun (u : State) n =>
      ((x.2.queue n).filter (fun r => mine (8 * x.1 + n) r.ctx)).foldl (fun (u : State) r =>
        (u.onJob tile (8 * x.1 + n) key (fun j => j.matPerformed r.num)).notePerformed ⟨tile, 8 * x.1 + n, r.ctx⟩ key true
          false r.num (Seen.join r.seen r.made)) u) u) s1

/-- Cancels a dispatched launch that has not completed (R368 steps 2 to 5, R369). -/
def State.cancelLaunch (s : State) (slot serial : Nat) : State :=
  match (s.slot slot).launches.find? (fun l => l.serial == serial && !l.cancelled && !l.completed) with
  | none => s
  | some l =>
    let s1 := s.onLaunch slot (some serial) (fun l =>
      { l with cancelled := true, todo := [], members := l.members - l.spilled, spilled := 0 })
    let tiles := (s1.slot slot).box
    let s2 := tiles.foldl (fun (u : State) d =>
      ((u.tile d).cores.map Prod.fst).foldl (fun (u : State) k => u.discardOn d k slot serial) u) s1
    let s3 := tiles.foldl (fun (u : State) d =>
      ((u.tile d).membersOf d slot serial).foldl (fun (u : State) id => u.cancelContext id l.ctr) u) s2
    let s4 := (s3.slot slot).images.foldl (fun (u : State) p => u.imageGone slot p.1 serial p.2) s3
    let j := s4.slot slot
    s4.setSlot slot { j with
      images := j.images.map (fun p => (p.1, p.2.cancelMembers slot serial l.ctr)) }

/-- Cancels a running graph with every launch it has dispatched (R368). -/
def State.cancelGraph (s : State) (slot serial : Nat) : State :=
  let s1 := s.onGraph slot serial (fun g => { g with cancelled := true })
  ((s1.slot slot).launches.filter (fun l => l.ofGraph serial)).foldl
    (fun (u : State) l => u.cancelLaunch slot l.serial) s1

/-- Removes queued records from the queue: each completes with a status; a boundary leaves a mark that ends its phase in
its turn (R356, R368). `hit` says which records, by position and words. -/
def State.dropQueued (s : State) (slot st : Nat) (hit : Nat → Vector Word 8 → Bool) (unread : Bool) : State :=
  let s0 := (s.slot slot).queue.foldl (fun (u : State) q => u.touch slot (pagesOf q.va.toNat 64)) s
  let j := s0.slot slot
  let fate (q : Queued) (i : Nat) : Option (Option Queued × Option Word) :=
    if q.gone.isSome then none
    else
      match s0.launchRecord slot q.va.toNat with
      | none => if unread then some (none, none) else none
      | some w =>
        if hit i w then some (if recPhb w then some { q with gone := some st } else none, some (recCtr w)) else none
  let fates := j.queue.zipIdx.map (fun p => (p.1, fate p.1 p.2))
  let queue := fates.filterMap (fun p => match p.2 with
    | none => some p.1
    | some f => f.1)
  let lost := (fates.filter (fun p => match p.2 with
    | some (_, none) => true
    | _ => false)).length
  let s1 := s0.setSlot slot { j with queue := queue, lost := j.lost + lost }
  fates.foldl (fun (u : State) p => match p.2 with
    | some (_, some ctr) => u.levelArrive slot ctr st
    | _ => u) s1

/-- The position of the first queued phase-boundary launch; the queue's length when there is none. -/
def State.nextBoundary (s : State) (slot : Nat) : Nat :=
  let q := (s.slot slot).queue
  match q.zipIdx.find? (fun p => p.1.gone.isNone && (match s.launchRecord slot p.1.va.toNat with
    | some w => recPhb w
    | none => false)) with
  | some p => p.2
  | none => q.length

/-- Cancels every dispatched launch and graph of a job for which a condition holds and that has not completed (R369). -/
def State.cancelRunning (s : State) (slot : Nat) (fl : Launch → Bool) (fg : Graph → Bool) : State :=
  let j := s.slot slot
  let s1 := (j.graphs.filter (fun g => fg g && !g.cancelled && !j.graphCompleted g)).foldl
    (fun (u : State) g => u.cancelGraph slot g.serial) s
  (j.launches.filter fl).foldl (fun (u : State) l => u.cancelLaunch slot l.serial) s1

/-- The levels that a cancel of a kind names (R368). -/
def State.cancelLevels (s : State) (slot kind : Nat) (ctr : Word) : State :=
  if kind = 0 then
    if ctr = 0 then s
    else (s.dropQueued slot 1 (fun _ w => recKind w == 0 && recCtr w == ctr) false).cancelRunning slot
      (fun l => l.ctr == ctr) (fun _ => false)
  else if kind = 1 then
    if ctr = 0 then s
    else (s.dropQueued slot 1 (fun _ w => recKind w == 1 && recCtr w == ctr) false).cancelRunning slot
      (fun _ => false) (fun g => g.ctr == ctr)
  else if kind = 2 then
    let n := s.nextBoundary slot
    (s.dropQueued slot 1 (fun i _ => decide (i < n)) false).cancelRunning slot (fun l => !l.phb) (fun g => !g.phb)
  else (s.dropQueued slot 1 (fun _ _ => true) true).cancelRunning slot (fun _ => true) (fun _ => true)

/-- Whether a cancel waits: the blocks of a queued record, or of its counter, are in a swap or under test (R322, R386). -/
def State.queueBusy (s : State) (slot : Nat) : Bool :=
  (s.slot slot).queue.any (fun q => s.readBusy slot (q.va.toNat, 64) || (match s.launchRecord slot q.va.toNat with
    | some w => s.ctrBusy slot w[7]
    | none => false))

/-- `cancel` (R368). -/
def execCancel (g : Guard) (sel : CancelSel) (s : State) : Host.Outcome State Fault Refusal :=
  runInstr g 8 s (fun s =>
    let now (u : State) : Except Stop State :=
      match s.unlessAway (some u), s.queueBusy s.me.slot with
      | some u, false => .ok u
      | _, _ => .error .stall
    let go (kind : Nat) (a : SSrc) : Except Stop State := do
      let (ctr, s1) ← s.readS a
      now (s1.cancelLevels s1.me.slot kind ctr)
    match sel with
    | .launch a => go 0 a
    | .graph a => go 1 a
    | .phase a => go 2 a
    | .job => now (s.cancelLevels s.me.slot 3 0))

/-! The launch port (R351). -/

/-- SLOT of a port word. -/
def portSlot (w : Word) : Nat := hf w 58 6
/-- CK. -/
def portKind (w : Word) : Nat := hf w 56 2
/-- CAN. -/
def portCan (w : Word) : Bool := hf w 55 1 == 1

/-- A port word is discarded and counted for its slot (R351). -/
def State.discardPort (s : State) (slot : Nat) : State :=
  let j := s.slot slot
  s.setSlot slot { j with discards := j.discards + 1 }

/-- LAUNCH_PORT_LAUNCH (R351). -/
def execLaunchPortLaunch (w : BitVec 64) (s : State) : Host.Outcome State Fault Refusal :=
  runEvent s (
    if !s.up || portCan w then none
    else
      let j := s.slot (portSlot w)
      let va := hf w 6 49 * 64
      if !j.bound || portKind w != 0 || hf w 4 2 != 0 || hf w 0 4 != 0 || decide (3 < regionOf va) || decide (64 ≤ j.queued)
      then some (s.discardPort (portSlot w))
      else some (s.queueLaunch (portSlot w) (BitVec.ofNat 64 va)))

/-- LAUNCH_PORT_CANCEL: a word whose counter address is 0 changes nothing (R351, R368). -/
def execLaunchPortCancel (w : BitVec 64) (s : State) : Host.Outcome State Fault Refusal :=
  runEvent s (
    if !s.up || !portCan w then none
    else if !(s.slot (portSlot w)).bound || hf w 0 4 != 0 then some (s.discardPort (portSlot w))
    else if hf w 4 51 = 0 then some s
    else if s.queueBusy (portSlot w) then none
    else s.unlessAway (some (s.cancelLevels (portSlot w) (portKind w) (BitVec.ofNat 64 (hf w 4 51 * 16)))))

end Sys2Proof.Machine
end

