-- ==== Sys2Proof/Machine/Jobs.lean ====
section
/-! DEFINITION. Jobs: bind, pre-emption, fold switch, restore and unbind, with the management mailbox that asks for them
(spec/15 R357 to R361; spec/16 R379 to R384; spec/17 R389). -/

namespace Sys2Proof.Machine

/-! The mailbox (R389). -/

/-- `n` bytes of MGBUF as a number. -/
def State.bufNat (s : State) (ofs n : Nat) : Nat := memNat s.mg.buf ofs n

/-- A word of MGBUF. -/
def State.bufWord (s : State) (ofs : Nat) : Word := BitVec.ofNat 64 (s.bufNat ofs 8)

/-- Writes a number into MGBUF. -/
def State.putBuf (s : State) (ofs n v : Nat) : State := { s with mg := { s.mg with buf := memPut s.mg.buf ofs n v } }

/-- Whether Tueno may perform the command of a code now: it has been written and waits for nothing, and no restart of the
management core is in progress (R389, R401). -/
def State.commanded (s : State) (code : Nat) : Bool :=
  s.up && s.mg.switching.isNone && s.mg.wait == .none && (match s.mg.running with
    | some c => c.code == code
    | none => false)

/-- The command has its result: MAILBOX_RESPONSE gives it; any code but 0 is a refusal. -/
def State.answerCmd (s : State) (code len : Nat) : State :=
  { s with mg := { s.mg with wait := .response (if code = 0 then 2 else 4) code len } }

/-! Save images (R380, R381). -/

/-- The contexts of a job tile on a core. -/
def Core.contextsOf (k : Core) (slot jt : Nat) : Assoc Ctx :=
  k.ctxs.filter (fun p => p.2.active && p.2.slot == slot && p.2.jtile == jt)

/-- Whether a context of a tile is one of a job tile. -/
def Tile.isOf (t : Tile) (id : CtxId) (slot jt : Nat) : Bool :=
  let c := (t.core id.core).ctx id.ctx
  c.active && c.slot == slot && c.jtile == jt

/-- Whether a wait is for a job tile that has not run since (R361). -/
def Slot.stillFolded (j : Slot) (l : List (Nat × Nat)) : Bool := l.any (fun p => !decide (p.2 < j.loadsOf p.1))

/-- Whether an update of a job waits for a job tile that does not run, or behind another of its context that does (R361). -/
def State.foldWaits (s : State) (t : Tile) (p : Posted) : Bool :=
  t.posted.any (fun q => q.sameOwner p && decide (q.group ≤ p.group) && (s.slot q.slot).stillFolded q.waited)

/-- Whether everything of a job tile on a tile has stopped: instructions that must complete have completed, updates have
performed or wait for another job tile, near-memory commands stand at 32 lines, and no request to the host is outstanding
(R361, R379, R384, R391). -/
def State.quiet (s : State) (tile slot jt : Nat) : Bool :=
  let t := s.tile tile
  t.cores.all (fun k => (k.2.contextsOf slot jt).all (fun p => !p.2.wait.uninterrupted)
      && k.2.copies.all (fun r => r.slot != slot || !r.cmd.isNear || r.next % 32 == 0))
    && t.posted.all (fun p => p.slot != slot || p.jtile != jt || s.foldWaits t p)
    && t.wide.all (fun w => !t.isOf w.owner slot jt)
    && s.hostReqs.all (fun r => r.owner.tile != tile || r.slot != slot)
    && s.late.all (fun x => x.owner.tile != tile || !t.isOf x.owner slot jt)

/-- The wait of a context after a stop: only the wait of `done` goes on; the other waits are abandoned (R384). -/
def Wait.saved : Wait → Wait
  | .ending b => .ending b
  | _ => .none

/-- Registers of which the units whose dirty bits are set come from `r`, and the others from `old`; the program counter is
always saved (R89). -/
def Dirty.select (d : Dirty) (r old : Regs) : Regs where
  pc := r.pc
  g := Vector.ofFn (fun i : Fin 64 => if d.g.getLsbD i.val then r.g[i.val] else old.g[i.val])
  o := Vector.ofFn (fun i : Fin 8 => if d.o.getLsbD i.val then r.o[i.val] else old.o[i.val])
  lat := if d.lat then r.lat else old.lat
  v := Vector.ofFn (fun i : Fin 32 => if d.v.getLsbD i.val then r.v[i.val] else old.v[i.val])
  vo := Vector.ofFn (fun i : Fin 4 => if d.vo.getLsbD i.val then r.vo[i.val] else old.vo[i.val])
  vlat := if d.vlat then r.vlat else old.vlat
  p := if d.p then r.p else old.p
  m := Vector.ofFn (fun i : Fin 8 => if d.m.getLsbD i.val then r.m[i.val] else old.m[i.val])

/-- What the image area holds of an occupancy after a stop: its dirty units over those of its previous image, or over their
start values where it has none (R89, R380). -/
def Ctx.merged (c : Ctx) (old : Option Saved) : Saved :=
  let was : Saved := match old with
    | some v => if v.gen = c.gen then v else ⟨c.gen, Regs.start, Vector.replicate 8 Queue.empty⟩
    | none => ⟨c.gen, Regs.start, Vector.replicate 8 Queue.empty⟩
  ⟨c.gen, c.dirty.select c.r was.r, if c.dirty.q then c.q else was.q⟩

/-- A context as an image holds it: its units as the area has them, every dirty bit clear, and its instruction abandoned but
for the job tiles that it has waited for (R89, R361, R384). -/
def Ctx.saved (c : Ctx) (v : Saved) : Ctx :=
  { c with r := v.r, q := v.q, wait := c.wait.saved, dirty := Dirty.clear, kept := none, fetched := [], wanted := []
           prog := c.prog.map (fun p => { p with held := false, fetched := [], wanted := [] }) }

/-- A context as a restore brings it back: it asks for its block again. -/
def Ctx.restored (c : Ctx) (time : Nat) : Ctx :=
  { c with wanted := entryBlocks time c.r.pc
           prog := c.prog.map (fun p => { p with wanted := entryBlocks time p.pc }) }

/-- A context after its occupancy has gone into an image: FREE. -/
def Ctx.vacated (c : Ctx) : Ctx := { c.freed with dirty := Dirty.clear }

/-- Completes the `align`s in which contexts of a job tile wait (R384). -/
def State.finishAligns (s : State) (tile slot jt : Nat) : State :=
  (s.tile tile).cores.foldl (fun (u : State) k =>
    (k.2.contextsOf slot jt).foldl (fun (u : State) p =>
      match p.2.wait with
      | .align .. =>
        let v := u.actAs ⟨tile, k.1, p.1⟩
        (v.setMe { v.me with wait := .none }).advance 8
      | _ => u) u) s

/-- Whether a granule of a tile's scratchpad is allotted to a job. -/
def granuleAllotted (j : Slot) (g : Nat) : Bool := j.allotted (256 * g % 65536)

/-- The image's scratchpad after a stop: the dirty allotted granules are overwritten (R90, R380). -/
def imageSpad (j : Slot) (t : Tile) (old : Memory) : Memory :=
  (t.granules.filter (granuleAllotted j)).foldl (fun (m : Memory) g =>
    (memCut t.spad (256 * g) 256).foldl (fun (m : Memory) (c : Host.Cell) => memSet m (256 * g + c.1) c.2)
      (memClear m (256 * g) 256)) old

/-- Whether a fault is one of a job on a tile. -/
def PageFault.isOf (f : PageFault) (t : Tile) (tile slot jt : Nat) : Bool :=
  f.slot == slot && (match f.who with
    | .ctx i => i.tile == tile && t.isOf i slot jt
    | .prog i => i.tile == tile && t.isOf i slot jt
    | .sideLog n => n == tile
    | .copy n _ _ => n == tile
    | .matrix n _ _ => n == tile)

/-- A matrix unit that no job uses: its arbiter keeps its pointers and credits, which only a core reset changes (R242). -/
def MUnit.bare (u : MUnit) : MUnit := { MUnit.reset with ptr := u.ptr, credit := u.credit }

/-- The units of an image in the place of a tile's, whose arbiters keep their pointers and credits (R242). -/
def loadUnits (old img : Assoc MUnit) : Assoc MUnit :=
  img.foldl (fun (l : Assoc MUnit) p =>
    let o := (aget old p.1).getD MUnit.reset
    aset l p.1 { p.2 with ptr := o.ptr, credit := o.credit }) (old.map (fun p => (p.1, p.2.bare)))

/-- Whether an entry of a fill table counts for a ring of a job. -/
def fillOf (slot : Nat) (p : Nat × (Nat × Seen)) : Bool := p.1 / 2 ^ 60 == slot

/-- Writes the save image of the job tile that a slot runs on a tile, and empties the tile of it (R379, R380). -/
def State.saveTile (s : State) (tile slot jt : Nat) : State :=
  let s1 := s.finishAligns tile slot jt
  let t := s1.tile tile
  let j := s1.slot slot
  let old := j.image jt
  let held := t.holder == some slot
  let mineMsg (m : Msg) : Bool := m.slot == slot && hSrcTile m.h1 == jt
  let areaOf (k n : Nat) : Option Saved := aget ((aget old.area k).getD []) n
  let area := t.cores.map (fun k => (k.1, (k.2.contextsOf slot jt).map (fun p => (p.1, p.2.merged (areaOf k.1 p.1)))))
  let img : Image :=
    { ctxs := t.cores.map (fun k => (k.1, (k.2.contextsOf slot jt).map (fun p =>
        (p.1, p.2.saved (p.2.merged (areaOf k.1 p.1))))))
      area := area
      jobs := t.cores.filterMap (fun k => (aget k.2.jobs (jobKey slot jt)).map (fun j => (k.1, j)))
      spad := if held then imageSpad j t old.spad else old.spad
      units := if held then t.units.map (fun u => (u.1, { u.2 with queues := u.2.queues.map (fun q =>
          q.map (fun r => { r with held := none, begun := false })) })) else []
      copies := t.cores.map (fun k => (k.1, (k.2.copies.filter (fun r => r.slot == slot)).map (fun r => { r with held := none })))
      delays := t.cores.map (fun k => (k.1, (k.2.delays.filter (fun d => mineMsg d.2)).map (fun d => (d.1 - s1.time, d.2))))
      sideLog := t.sideLog.filter (fun p => p.slot == slot && p.jtile == jt)
      fills := t.fills.filter (fillOf slot)
      gov := s1.govOf tile slot jt
      wssl := if held then t.wssl else (aget t.wssls slot).getD (Vector.replicate 4 0) }
  let cores := t.cores.map (fun k => (k.1, { k.2 with
    ctxs := k.2.ctxs.map (fun (p : Nat × Ctx) => (p.1, if p.2.active && p.2.slot == slot && p.2.jtile == jt then p.2.vacated else p.2))
    copies := k.2.copies.filter (fun r => r.slot != slot)
    delays := k.2.delays.filter (fun d => !mineMsg d.2) }))
  let t1 := { t with
    cores := cores
    sideLog := t.sideLog.filter (fun p => !(p.slot == slot && p.jtile == jt))
    fills := t.fills.filter (fun p => !fillOf slot p)
    units := if held then t.units.map (fun (u : Nat × MUnit) => (u.1, u.2.bare)) else t.units
    spad := if held then [] else t.spad
    granules := if held then [] else t.granules }
  let s2 := { s1 with
    mg := { s1.mg with faults := s1.mg.faults.filter (fun f => !f.isOf t tile slot jt) }
    tiles := s1.tiles.map (fun (p : Nat × Tile) => (p.1, { p.2 with watches := p.2.watches.filter (fun w =>
      !(w.owner.tile == tile && t.isOf w.owner slot jt)) })) }
  let s3 := s2.setTile tile { t1 with watches := (s2.tile tile).watches }
  s3.setSlot slot { s3.slot slot with images := aset j.images jt img }

/-- The fill counts of a tile with those of an image. -/
def Image.fillsOver (i : Image) (l : Assoc (Nat × Seen)) : Assoc (Nat × Seen) :=
  i.fills.foldl (fun (f : Assoc (Nat × Seen)) p => aset f p.1 p.2) l

/-- Whether the claim points of a tile can hold fill counts: 64 for the scratchpad's rings, and 64 for those of memory (R280). -/
def fillsFit (l : Assoc (Nat × Seen)) : Bool :=
  let memory (p : Nat × (Nat × Seen)) : Bool := decide (2 ^ 56 ≤ p.1 % 2 ^ 60)
  decide ((l.filter memory).length ≤ 64) && decide ((l.filter (fun p => !memory p)).length ≤ 64)

/-- Whether a tile has room for an image: its contexts' numbers are FREE, the pool has their blocks, and the claim point can
hold its fill counts (R280). -/
def State.mayLoad (s : State) (tile slot jt : Nat) : Bool :=
  let i := (s.slot slot).image jt
  i.ctxs.all (fun k =>
    let c := s.core tile k.1
    k.2.all (fun p => !(c.ctx p.1).active)
      && decide ((k.2.map (fun p => p.2.allot / 8)).sum ≤ c.freeBlocks))
    && fillsFit (i.fillsOver (s.tile tile).fills)

/-- What a core keeps for a job tile after a restore: the image's, but for the counts of what came in meanwhile (R306, R308,
R380, R381). -/
def JobCore.restored (img now : JobCore) : JobCore :=
  { img with refusals := now.refusals, orphans := now.orphans, malformed := now.malformed, dropped := now.dropped }

/-- Makes a job tile the one that a slot runs on a tile, from its image, which keeps the scratchpad (R381). -/
def State.loadTile (s : State) (tile slot jt : Nat) : State :=
  let j := s.slot slot
  let i := j.image jt
  let t := s.tile tile
  let key := jobKey slot jt
  let t0 := i.jobs.foldl (fun (t : Tile) p =>
    t.setCore p.1 ((t.core p.1).setJob key (p.2.restored ((t.core p.1).job key)))) t
  let t1 := i.ctxs.foldl (fun (t : Tile) k =>
    t.setCore k.1 (k.2.foldl (fun (c : Core) p => c.setCtx p.1 (p.2.restored s.time)) (t.core k.1))) t0
  let t2 := i.copies.foldl (fun (t : Tile) k =>
    t.setCore k.1 { t.core k.1 with copies := (t.core k.1).copies ++ k.2 }) t1
  let t3 := i.delays.foldl (fun (t : Tile) k =>
    t.setCore k.1 { t.core k.1 with delays := (t.core k.1).delays ++ k.2.map (fun d => (s.time + d.1, d.2)) }) t2
  let t4 := { t3 with
    sideLog := t3.sideLog ++ i.sideLog
    fills := i.fillsOver t3.fills }
  let t5 :=
    if j.ovl then
      { t4 with
        overlays := aset t4.overlays slot (jt, s.wstime)
        govs := aset t4.govs slot i.gov
        wssls := aset t4.wssls slot i.wssl }
    else
      { t4 with
        holder := some slot
        jtile := jt
        since := s.wstime
        spad := i.spad
        units := loadUnits t4.units i.units
        granules := []
        gov := i.gov
        wssl := i.wssl }
  let left : Image := { Image.empty with area := i.area, spad := i.spad, gov := i.gov, wssl := i.wssl }
  (s.setTile tile t5).setSlot slot
    { j with images := aset j.images jt left, loads := aset j.loads jt (j.loadsOf jt + 1) }

/-! Pre-emption (R379). -/

/-- The end of one pre-emption on a tile: the image is written, and then what comes in loads. -/
def State.endStop (s : State) (tile : Nat) (p : Nat × (Nat × Nat)) : Option State :=
  let slot := p.1
  let jt := (s.tile tile).jtileOf slot
  if !s.quiet tile slot jt then none
  else
    let s1 := s.saveTile tile slot jt
    let t := s1.tile tile
    let held := t.holder == some slot
    let s2 := s1.setTile tile { t with
      stopping := aerase t.stopping slot
      holder := if held then none else t.holder
      overlays := aerase t.overlays slot }
    let s3 := if p.2.1 != slot then s2.setSlot slot { s2.slot slot with turn := aset (s2.slot slot).turn tile jt } else s2
    if s3.mayLoad tile p.2.1 p.2.2 then some (s3.loadTile tile p.2.1 p.2.2) else none

/-- PREEMPTION_COMPLETE (R379). -/
def execPreemptionComplete (tile : Nat) (s : State) : Host.Outcome State Fault Refusal :=
  runEvent s ((firstSome (s.endStop tile) (s.tile tile).stopping).map Prod.snd)

/-- Begins to pre-empt what a slot runs on a tile; no activation of it starts from now on (R379 step 1). -/
def State.beginStop (s : State) (tile slot incoming jt : Nat) : State :=
  let t := s.tile tile
  s.setTile tile { t with stopping := aset t.stopping slot (incoming, jt) }

/-! Folding (R361). -/

/-- The next number of a list after one, in turn. -/
def nextInTurn (l : List Nat) (n : Nat) : Nat := (l.find? (fun m => decide (n < m))).getD (l.headD n)

/-- Whether a context waits for something other than its own next issue. -/
def Wait.idle : Wait → Bool
  | .none => false
  | .reread _ r => !r
  | .ring _ late => !late
  | _ => true

/-- Whether a job tile has no ready context and no engine work on a tile: one whose instruction waits for another job tile is
not ready. -/
def State.noWork (s : State) (t : Tile) (slot jt : Nat) : Bool :=
  t.cores.all (fun k => (k.2.contextsOf slot jt).all (fun p => p.2.wait.idle || (s.slot slot).stillFolded p.2.waited)
      && k.2.copies.all (fun r => r.slot != slot))
    && t.units.all (fun u => u.2.queues.toList.all (fun q => q.all (fun r => r.slot != slot)))

/-- FOLD_SWITCH: the quantum of a running folded tile is over, or it has nothing to do (R361). -/
def execFoldSwitch (tile : Nat) (s : State) : Host.Outcome State Fault Refusal :=
  runEvent s (
    let t := s.tile tile
    let running : List (Nat × Nat × Nat) :=
      (match t.holder with
       | some h => [(h, t.jtile, t.since)]
       | none => []) ++ t.overlays.map (fun p => (p.1, p.2.1, p.2.2))
    (firstSome (fun (p : Nat × Nat × Nat) =>
      let (slot, jt, since) := p
      let j := s.slot slot
      let l := j.tilesAt tile
      let due := decide (since + 1600 * j.qnt ≤ s.wstime)
      if !j.folded || decide (l.length < 2) || (aget t.stopping slot).isSome || !(due || s.noWork t slot jt) then none
      else some (s.beginStop tile slot slot (nextInTurn l jt))) running).map Prod.snd)

/-! Bind records (R357, R358). -/

/-- Whether the fields of a bind record are in range (result code 0x01). -/
def bindLegal (j : Slot) : Bool :=
  let z (w : Fin 8) (lo n : Nat) : Bool := j.fld w lo n == 0
  j.bound && z 0 42 22 && j.weight != 0
    && z 1 13 3 && z 1 19 1 && z 1 23 1 && z 1 29 3 && z 1 45 3
    && decide (1 ≤ j.sx) && decide (j.sx ≤ 8) && decide (1 ≤ j.sy) && decide (j.sy ≤ 8) && decide (1 ≤ j.sz)
    && decide (j.sz ≤ 24)
    && decide (1 ≤ j.bx) && decide (j.bx ≤ 8) && decide (1 ≤ j.by_) && decide (j.by_ ≤ 8) && decide (1 ≤ j.bz)
    && decide (j.bz ≤ 24) && decide (j.fld 1 24 5 ≤ 23)
    && j.sx % j.bx == 0 && j.sy % j.by_ == 0 && j.sz % j.bz == 0 && (!j.folded || j.qnt != 0)
    && z 2 0 16 && z 2 40 8 && j.clen != 0 && j.code.toNat % 65536 == 0 && decide (j.root + 65536 ≤ devTop)

/-- Whether the request word of BIND is legal. -/
def bindWordLegal (w : Word) : Bool :=
  hf w 6 2 == 0 && hf w 9 55 == 0 && (hf w 8 1 == 0 || hf w 0 6 == 0)

/-- The slot that a BIND request means: the one it names when that is free, or the lowest free one. -/
def State.bindSlot (s : State) (w : Word) : Option Nat :=
  if hf w 8 1 = 1 then (List.range 64).find? (fun n => !(s.slot n).bound)
  else if (s.slot (hf w 0 6)).bound then none else some (hf w 0 6)

/-- The entry of a scope image: V and BMAP; none when its reserved bits are not zero (R206). -/
def scopeEntry (bs : List Byte) : Option (Bool × Nat) :=
  let v := leNat bs
  if bits v 1 63 = 0 then some (bits v 0 1 == 1, bits v 64 64) else none

/-- The cores that a bitmap holds, by job tile; none when it cannot be read or names a core outside the shape. -/
def State.scopeMap (s : State) (slot bmap : Nat) : Option (Assoc (BitVec 32)) :=
  let j := s.slot slot
  if bmap / 2 ^ 55 ≠ 0 ∨ 1 < regionOf bmap ∨ bmap % 1024 ≠ 0 then none
  else
    match s.readJob slot bmap 6144 with
    | none => none
    | some bs =>
      let words := (List.range 1536).map (fun t => (t, BitVec.ofNat 32 (leNat ((bs.drop (4 * t)).take 4))))
      if words.any (fun p => p.2 != 0 && !j.inShape p.1) then none else some (words.filter (fun p => p.2 != 0))

/-- The records of scope entries 4 to 31 that a bind loads, those that are zero left out (R206). -/
def State.scopeRecords (s : State) (slot : Nat) : Assoc (BitVec 128) :=
  let bs := (s.readJob slot ((s.slot slot).bind[5]).toNat 448).getD []
  ((List.range 28).map (fun n => (n + 4, BitVec.ofNat 128 (leNat ((bs.drop (16 * n)).take 16))))).filter (fun p => p.2 != 0)

/-- The scope table of a bind; none when R206 refuses it. -/
def State.scopeTable (s : State) (slot : Nat) : Option (Assoc (Assoc (BitVec 32))) :=
  let base := ((s.slot slot).bind[5]).toNat
  match s.readJob slot base 448 with
  | none => none
  | some bs =>
    (List.range 28).foldr (fun n acc =>
      match acc, scopeEntry ((bs.drop (16 * n)).take 16) with
      | some l, some (false, _) => some l
      | some l, some (true, bmap) => (s.scopeMap slot bmap).map (fun m => (n + 4, m) :: l)
      | _, _ => none) (some [])

/-- The tensor table of a bind; none when it cannot be read or a valid entry fails R177. -/
def State.tensorTable (s : State) (slot : Nat) : Option (Assoc Tensor) :=
  let j := s.slot slot
  match s.readJob slot (j.bind[4]).toNat 16384 with
  | none => none
  | some bs =>
    let l := (List.range 256).map (fun n => (n, tensorOf ((bs.drop (64 * n)).take 64)))
    let j1 := { j with tensors := l }
    if l.any (fun p => tf p.2 0 7 1 == 1 && !j1.accepts p.2) then none else some l

/-! Pinned code (R360). -/

/-- The headers of a job's code region in address order, each with its PIN bit, and the end of the module's code: what
follows the last block that is not all zeros, which could only be `nop`s, is no code (notes/assumptions/35.md). -/
def State.headers (s : State) (slot : Nat) : List (Nat × Bool) × Nat :=
  let j := s.slot slot
  let lo := j.code.toNat
  let pages := (List.range j.clen).filter (fun i => (s.execPage slot (BitVec.ofNat 64 (lo + 65536 * i))).isSome)
  let blocks := pages.flatMap (fun i => (List.range 2048).map (fun b => lo + 65536 * i + 32 * b))
  let heads := blocks.flatMap (fun b =>
    match s.codeBlock slot (BitVec.ofNat 64 b) with
    | none => []
    | some blk => (blockStarts (bytesOf 32 blk.toNat) 4 0).filterMap (fun o =>
        match instrAt blk (BitVec.ofNat 64 (b + o)) with
        | .ok (.nop _ (some h)) => some (b + o, h.getLsbD 5)
        | _ => none))
  let used := blocks.filter (fun b => match s.codeBlock slot (BitVec.ofNat 64 b) with
    | some blk => blk != 0
    | none => false)
  (heads, match used.getLast? with
    | some b => b + 32
    | none => lo)

/-- The blocks from each pinned header to the next header, or to the end. -/
def pinnedBlocks (stop : Nat) : List (Nat × Bool) → List Nat
  | [] => []
  | (a, pin) :: t =>
    let e := match t with
      | (b, _) :: _ => b
      | [] => stop
    (if pin then (List.range ((e + 31) / 32 - a / 32)).map (fun i => 32 * (a / 32 + i)) else []) ++ pinnedBlocks stop t

/-- The blocks that a bind of a slot pins. -/
def State.pins (s : State) (slot : Nat) : List Nat :=
  let p := s.headers slot
  (pinnedBlocks p.2 p.1).eraseDups

/-- Whether a tile may hold more pinned blocks: 1,024 in all, 4 ways of any set. -/
def Tile.pinRoom (t : Tile) (l : List Nat) : Bool :=
  let have_ := (t.icache.filter (fun b => b.pinned.isSome)).map (fun b => b.va.toNat)
  let all := have_ ++ l
  decide (all.length ≤ 1024) && all.all (fun a =>
    decide ((all.filter (fun b => iset (BitVec.ofNat 64 b) == iset (BitVec.ofNat 64 a))).length ≤ 4))

/-- Pins a block in a tile's instruction cache for a slot. -/
def State.pinBlock (s : State) (tile slot : Nat) (a : Nat) : State :=
  let t := s.tile tile
  let asid := (s.slot slot).asid
  let va := BitVec.ofNat 64 a
  let rest := t.icache.filter (fun b => !(b.asid.toNat == asid && b.va == va))
  ((s.setTile tile { t with icache := rest }).ifill tile slot asid va (some slot)).getD s

/-! The weight-store partition (R331). -/

/-- Whether units of the weight stores of a box are in no other job's partition. -/
def State.unitsFree (s : State) (box : List Nat) (base len : Nat) : Bool :=
  s.slots.all (fun p => !p.2.bound || p.2.wsLen == 0 || !overlap base len p.2.wsBase p.2.wsLen
    || box.all (fun d => !p.2.box.contains d))

/-- The partition that Tueno gives a job: how many units it wants is open, and it takes the lowest free run of them
(notes/assumptions/27.md). None when no run is free. -/
def State.partition (s : State) (box : List Nat) : Option (Nat × Nat) × State :=
  let (x, s1) := s.draw
  let len := x.toNat % 193
  (if len = 0 then some (0, 0)
   else ((List.range (193 - len)).find? (fun b => s.unitsFree box b len)).map (fun b => (b, len)), s1)

/-! BIND (R358). -/

/-- A slot with a bind record that is not in force yet, its mappings below its root, so that its images can be read. -/
def State.candidateBind (s : State) (n : Nat) (j : Slot) : State :=
  let s1 := { s with mem := memClear s.mem j.root 65536 }.setSlot n j
  let s2 := (s1.installAll j.asid j.root).getD s1
  let s3 := s2.touch n (pagesOf (j.bind[4]).toNat 16384 ++ pagesOf (j.bind[5]).toNat 448)
  match s3.readJob n (j.bind[5]).toNat 448 with
  | none => s3
  | some bs => s3.touch n ((List.range 28).flatMap (fun i =>
      match scopeEntry ((bs.drop (16 * i)).take 16) with
      | some (true, bmap) => pagesOf bmap 6144
      | _ => []))

/-- Whether the images that a bind reads wait: their blocks are in a swap or under test (R322, R386). -/
def State.bindBusy (s : State) (n : Nat) : Bool :=
  let j := s.slot n
  let maps := match s.readJob n (j.bind[5]).toNat 448 with
    | none => []
    | some bs => (List.range 28).filterMap (fun i => match scopeEntry ((bs.drop (16 * i)).take 16) with
        | some (true, bmap) => some (bmap, 6144)
        | _ => none)
  (((j.bind[4]).toNat, 16384) :: ((j.bind[5]).toNat, 448) :: maps).any (s.readBusy n)

/-- Bittern pages of a job: code and data (R296). -/
def bitternPages (j : Slot) : Nat × Nat :=
  (j.code.toNat + 65536 * j.clen, (j.code.toNat + 65536 * (j.clen + 1)) % 2 ^ 52 + 2 ^ 52)

/-- Whether a page of 64 KiB is mapped in an address space. -/
def State.mappedAt (s : State) (asid va : Nat) : Bool :=
  s.mg.maps.any (fun m => m.asid.toNat == asid && overlap va 65536 m.va.toNat m.size)

/-- Maps a page of 64 KiB in a frame that Tueno chooses. -/
def State.mapOwn (s : State) (asid va : Nat) (w x : Bool) : Option (Nat × State) :=
  match s.takeFrame (some (pageColour va)) 65536 with
  | none => none
  | some (f, s1) =>
    let m : Mapping := ⟨BitVec.ofNat 16 asid, BitVec.ofNat 64 va, false, f, true, w, x, none, []⟩
    ({ s1 with mem := memClear s1.mem f 65536 }.putMap m).map (fun u => (f, u))

/-- Maps the Bittern code and its data page for a slot; none where either page is mapped or cannot be (R296). -/
def State.mapBittern (s : State) (n : Nat) : Option State :=
  let j := s.slot n
  let (p, d) := bitternPages j
  if !inMemory p || s.mappedAt j.asid p || s.mappedAt j.asid d then none
  else
    match s.mapOwn j.asid p false true with
    | none => none
    | some (f, s1) =>
      let code := bitternBytes.zipIdx.foldl (fun (m : Memory) p => memSet m (f + p.2) p.1) s1.mem
      let entry : ExecPage := ⟨BitVec.ofNat 16 j.asid, BitVec.ofNat 64 p, 65536, false, 0⟩
      let s2 := { s1 with mem := code, mg := { s1.mg with pages := s1.mg.pages ++ [entry] } }
      (s2.mapOwn j.asid d true false).map Prod.snd

/-- What a core keeps for a job tile at bind (R237, R296). -/
def bindCore (weight bhofs : Nat) : JobCore :=
  { JobCore.reset with mxw := weight, mbbh := BitVec.ofNat 64 bhofs }

/-- Loads the cores of a job tile at bind. -/
def State.loadCores (s : State) (n jt bhofs : Nat) : State :=
  let j := s.slot n
  let d := j.devTile jt
  (List.range 32).foldl (fun (u : State) c =>
    u.setCore d c ((u.core d c).setJob (jobKey n jt) (bindCore j.weight bhofs))) s

/-- The job takes a tile of its box: at once when nothing holds it, else by pre-empting the holder (R359, R379). -/
def State.takeTile (s : State) (n order d : Nat) : State :=
  let j := s.slot n
  let jt := (j.tilesAt d).headD 0
  let t := s.tile d
  match j.ovl, t.holder with
  | false, some h =>
    let v := s.slot h
    (s.setSlot h { v with preempted := some (v.preempted.getD order) }).beginStop d h n jt
  | _, _ => s.loadTile d n jt

/-- The result codes of R358 that apply to a request, given the state with the candidate record in slot `n`. -/
def State.bindCodes (s u : State) (n : Nat) (j : Slot) (w : Word) : List Nat :=
  let box := j.box
  if !(bindLegal j && bindWordLegal w) then [1]
  else
    (if !j.ovl && box.any (fun d => match (s.tile d).holder with
        | some h => !(s.slot h).pre
        | none => false) then [2] else [])
      ++ (if (u.scopeTable n).isNone then [3] else [])
      ++ (if (u.tensorTable n).isNone then [4] else [])
      ++ (if (s.bindSlot w).isNone then [5] else [])
      ++ (if j.ovl && j.cls != 0 then [6] else [])
      ++ (if (s.partition box).1.isNone then [7] else [])
      ++ (if box.all (fun d => (s.tile d).pinRoom (u.pins n)) then [] else [8])

/-- The record keys of what a bind makes new: the root table, and the scratchpads of the slot's job tiles. -/
def bindKey (n : Nat) (j : Slot) (k : Nat) : Bool :=
  (decide (j.root ≤ k) && decide (k < j.root + 65536))
    || (decide (2 ^ 60 ≤ k) && decide (k < 2 ^ 62) && (k - 2 ^ 60) / 2 ^ 32 == n)

/-- A bind that every check accepts takes effect (R358). -/
def State.bindNow (s u : State) (n : Nat) (j : Slot) : State :=
  let (part, u1) := ({ u with pick := s.pick } : State).partition j.box
  let old := s.slot n
  let order := s.mg.order + 1
  let j1 := { j with
    tensors := (u.tensorTable n).getD []
    scopeRecs := u.scopeRecords n
    scopes := (u.scopeTable n).getD []
    wsBase := (part.getD (0, 0)).1
    wsLen := (part.getD (0, 0)).2
    discards := old.discards
    lost := old.lost }
  let pins := u.pins n
  let u2 := ({ (u1.setSlot n j1) with mg := { u1.mg with order := order } } : State).settleAt (bindKey n j)
  let (u3, bhofs) := match u2.mapBittern n with
    | some v => (v, 16384 * j.clen)
    | none => (u2.setSlot n { u2.slot n with noBittern := true }, 0)
  let u4 := j.jobTiles.foldl (fun (v : State) jt => v.loadCores n jt bhofs) u3
  let u5 := j.box.foldl (fun (v : State) d => v.takeTile n order d) u4
  j.box.foldl (fun (v : State) d => pins.foldl (fun (v : State) a => v.pinBlock d n a) v) u5

/-- BIND (R358). It waits while a pre-emption is in progress on a tile of the box; a box with a fenced tile is refused with
a code that the spec leaves open (R387). -/
def execBind (s : State) : Host.Outcome State Fault Refusal :=
  runEvent s (
    let rec_ : Vector Word 8 := Vector.ofFn (fun i : Fin 8 => s.bufWord (8 * i.val))
    let w := s.bufWord 64
    let j := { Slot.reset with bind := rec_ }
    let box := j.box
    if !s.commanded 1 || box.any (fun d => !(s.tile d).stopping.isEmpty) then none
    else
      let n := (s.bindSlot w).getD 64
      let u := if bindLegal j then s.candidateBind n j else s
      if bindLegal j && u.bindBusy n then none
      else
      match (s.bindCodes u n j w).min? with
      | some c => some ((s.putBuf 0 8 c).answerCmd c 8)
      | none =>
        if box.any (fun d => (s.tile d).fenced) then
          let (x, s1) := s.draw
          let c := 1 + x.toNat % 8
          some ((s1.putBuf 0 8 c).answerCmd c 8)
        else some (((s.bindNow u n j).putBuf 0 8 (n * 2 ^ 8)).answerCmd 0 8))

/-! UNBIND (R358). -/

/-- The levels of a job that is unbound in cancel mode: queued ones are refused with status 6, running ones cancelled (R358
steps 1 and 3). -/
def State.cutJob (s : State) (n : Nat) : State :=
  let j := s.slot n
  if !j.cuttable then s
  else
    ((s.setSlot n { j with cut := true }).dropQueued n 6 (fun _ _ => true) true).cancelRunning n (fun _ => true)
      (fun _ => true)

/-- UNBIND: queued work is refused in cancel mode and levels are cancelled; in drain mode Tueno waits (R358). -/
def execUnbind (s : State) : Host.Outcome State Fault Refusal :=
  runEvent s (
    if !s.commanded 2 then none
    else
      let w := s.bufWord 0
      let n := hf w 0 6
      let j := s.slot n
      if hf w 6 2 != 0 || hf w 9 55 != 0 || !j.bound || j.unbind != .none then some (s.answerCmd 1 0)
      else
        let s1 := { s with mg := { s.mg with wait := .unbind n, order := s.mg.order + 1 } }
        if hf w 8 1 = 0 then some (s1.setSlot n { j with unbind := .drain, cut := false })
        else if s.queueBusy n then none
        else
          some ((s1.setSlot n { j with unbind := .cancel, cut := false }).cutJob n))

/-- The image of a pre-empted job is discarded: its saved activations end as cancelled (R358, R382). -/
def State.discardImage (s : State) (slot : Nat) (p : Nat × Image) : State :=
  let s1 := p.2.ctxs.foldl (fun (u : State) k => k.2.foldl (fun (u : State) c => u.memberDown slot c.2.launch) u) s
  let s2 := p.2.delays.foldl (fun (u : State) k => k.2.foldl (fun (u : State) m => u.memberDown slot m.2.launch) u) s1
  let j := s2.slot slot
  s2.setSlot slot { j with images := aerase j.images p.1 }

/-- Whether an image holds anything that has still to end. -/
def Image.live (i : Image) : Bool :=
  i.ctxs.any (fun k => !k.2.isEmpty) || i.delays.any (fun k => !k.2.isEmpty)

/-- Whether a context of a job is active anywhere. -/
def State.jobActive (s : State) (slot : Nat) : Bool :=
  s.tiles.any (fun t => t.2.cores.any (fun k => k.2.ctxs.any (fun p => p.2.active && p.2.slot == slot)))

/-- Removes from a core what belongs to a job. -/
def Core.without (k : Core) (slot : Nat) : Core :=
  let keep (l : List Msg) : List Msg := l.filter (fun m => m.slot != slot)
  { k with
    inbox := keep k.inbox
    arrivals := k.arrivals.map (fun l => l.filter (fun a => a.msg.slot != slot))
    sendQ := keep k.sendQ
    delays := k.delays.filter (fun d => d.2.slot != slot)
    replies := k.replies.filter (fun r => r.slot != slot)
    notices := keep k.notices
    held := k.held.filter (fun h => h.msg.slot != slot)
    jobs := k.jobs.filter (fun p => p.1 % 64 != slot) }

/-- Removes from a tile what belongs to a job: it holds the tile no more, its blocks are unpinned. -/
def Tile.without (t : Tile) (slot : Nat) : Tile :=
  let held := t.holder == some slot
  { t with
    cores := t.cores.map (fun k => (k.1, k.2.without slot))
    holder := if held then none else t.holder
    units := if held then t.units.map (fun (u : Nat × MUnit) => (u.1, u.2.bare)) else t.units
    spad := if held then [] else t.spad
    granules := if held then [] else t.granules
    gov := if held then Governor.reset else t.gov
    wssl := if held then Vector.replicate 4 0 else t.wssl
    overlays := aerase t.overlays slot
    govs := aerase t.govs slot
    wssls := aerase t.wssls slot
    stopping := (aerase t.stopping slot).filter (fun p => p.2.1 != slot)
    sideLog := t.sideLog.filter (fun p => p.slot != slot)
    posted := t.posted.filter (fun p => p.slot != slot)
    watches := t.watches.filter (fun w => w.slot != slot)
    fills := t.fills.filter (fun p => !fillOf slot p)
    slice := t.slice.filter (fun f => match f.replica with
      | some r => r.slot != slot
      | none => true)
    icache := t.icache.map (fun b => if b.pinned = some slot then { b with pinned := none } else b) }

/-- Unmaps a page of 64 KiB of an address space (R318). -/
def State.unmapOwn (s : State) (asid va : Nat) : State :=
  (s.mg.maps.filter (fun m => m.isPage asid va)).foldl (fun (u : State) m => u.unmapPage m) s

/-- Frees a slot with everything that its job holds (R358 step 4). -/
def State.releaseSlot (s : State) (slot : Nat) : State :=
  let j := s.slot slot
  let (p, d) := bitternPages j
  let s1 := if j.noBittern then s else (s.unmapOwn j.asid p).unmapOwn j.asid d
  let freed := { Slot.reset with discards := j.discards, lost := (s1.slot slot).lost, traps := j.traps }
  let s2 := { s1 with
    tiles := s1.tiles.map (fun (t : Nat × Tile) => (t.1, t.2.without slot))
    sluice := { s1.sluice with waiting := s1.sluice.waiting.filter (fun p => p.2.slot != slot) }
    ports := s1.ports.map (fun (q : Nat × Port) => (q.1, match q.2.egress with
      | some (n, _) => if n = slot then { q.2 with egress := none } else q.2
      | none => q.2))
    mg := { s1.mg with faults := s1.mg.faults.filter (fun f => f.slot != slot) } }
  s2.setSlot slot freed

/-- Whether no other holder remains on a tile of a box, nor comes in. -/
def State.clearFor (s : State) (slot d : Nat) : Bool :=
  let t := s.tile d
  (t.holder.isNone || t.holder == some slot) && t.stopping.all (fun p => p.2.1 == slot)

/-- Pre-empted jobs whose box has no other holder, the one pre-empted last first (R382). -/
def State.restorable (s : State) : Option Nat :=
  ((s.slots.filter (fun p => p.2.bound && p.2.preempted.isSome && p.2.box.all (s.clearFor p.1))).foldl
    (fun (best : Option (Nat × Nat)) p =>
      let n := p.2.preempted.getD 0
      match best with
      | none => some (p.1, n)
      | some b => if b.2 < n then some (p.1, n) else best) none).map Prod.fst

/-- Restores a pre-empted job on every tile of its box that it does not hold (R381, R382). -/
def State.restoreJob (s : State) (slot : Nat) : Option State :=
  let j := s.slot slot
  let tiles := j.box.filter (fun d => (s.tile d).holder != some slot)
  let jt (d : Nat) : Nat := (aget j.turn d).getD ((j.tilesAt d).headD 0)
  if tiles.all (fun d => s.mayLoad d slot (jt d)) then
    let s1 := tiles.foldl (fun (u : State) d => u.loadTile d slot (jt d)) s
    some (s1.setSlot slot { s1.slot slot with preempted := none, turn := [] })
  else none

/-- Restores jobs one at a time as long as one can be. -/
def State.restoreAll (s : State) : Nat → Option State
  | 0 => some s
  | n + 1 =>
    match s.restorable with
    | none => some s
    | some k =>
      match s.restoreJob k with
      | none => none
      | some u => u.restoreAll n

/-- UNBIND_RELEASE: when everything has ended, the job counter receives its arrival, the slot and its resources are freed,
and waiting jobs are restored; before that, a drain that was turned into a cancel cancels its levels, and the image of a
pre-empted job that is cancelled is discarded (R358, R382). -/
def execUnbindRelease (slot : Nat) (s : State) : Host.Outcome State Fault Refusal :=
  runEvent s (
    let j := s.slot slot
    if !j.bound || j.unbind == .none || s.mg.switching.isSome then none
    else if j.unbind == .cancel && j.cuttable then if s.queueBusy slot then none else some (s.cutJob slot)
    else
      match j.unbind, j.preempted, j.images.find? (fun p => p.2.live) with
      | .cancel, some _, some p => some (s.discardImage slot p)
      | _, _, some _ => none
      | _, _, none =>
        if !j.idle || !j.queue.isEmpty || j.phase.isSome || s.jobActive slot
            || s.tiles.any (fun t => t.2.stopping.any (fun p => p.1 == slot)) || s.ctrBusy slot (j.lvlc + 16) then none
        else
          let s1 := (s.levelArrive slot (j.lvlc + 16) (b2n j.cut)).releaseSlot slot
          (s1.restoreAll 64).map (fun u =>
            if u.mg.wait == .unbind slot then u.answerCmd 0 0 else u))

end Sys2Proof.Machine
end

