-- ==== Sys2Proof/Machine/Manage.lean ====
section
/-! DEFINITION. The management mailbox: MAP, UNMAP, HALT, logs, monitors, attestation, update, switch, EGRESS and the BAR0
registers (spec/02 R45, R46; spec/13 R316, R318; spec/17 R389, R398, R400, R401, R419). -/

namespace Sys2Proof.Machine

/-- A refusal whose result code the spec leaves open. -/
def State.openRefusal (s : State) (len : Nat) : State :=
  let (x, s1) := s.draw
  s1.answerCmd (1 + x.toNat % 255) len

/-! MAP (R419). -/

/-- A MAP request: its first word and VA. -/
structure MapReq where
  word : Word
  va : Nat
  deriving DecidableEq, Repr

/-- ASID. -/
def MapReq.asid (q : MapReq) : Nat := hf q.word 0 16
/-- PICK. -/
def MapReq.pick (q : MapReq) : Bool := hf q.word 16 1 == 1
/-- LARGE. -/
def MapReq.large (q : MapReq) : Bool := hf q.word 17 1 == 1
/-- R. -/
def MapReq.r (q : MapReq) : Bool := hf q.word 18 1 == 1
/-- W. -/
def MapReq.w (q : MapReq) : Bool := hf q.word 19 1 == 1
/-- X. -/
def MapReq.x (q : MapReq) : Bool := hf q.word 20 1 == 1
/-- KIND. -/
def MapReq.kind (q : MapReq) : Nat := hf q.word 21 1
/-- VAL. -/
def MapReq.val (q : MapReq) : Nat := hf q.word 22 2
/-- Number of pages. -/
def MapReq.count (q : MapReq) : Nat := hf q.word 32 8 + 1
/-- Bytes of one page. -/
def MapReq.size (q : MapReq) : Nat := if q.large then 2 ^ 29 else 65536
/-- VA of page `k`. -/
def MapReq.pageVa (q : MapReq) (k : Nat) : Nat := q.va + k * q.size
/-- Whether the pages lie in host memory. -/
def MapReq.host (q : MapReq) : Bool := regionOf q.va == 5
/-- The page kind and allotment of an executable page (R40). -/
def MapReq.pageKind (q : MapReq) : PageKind := ⟨q.kind == 1, valAllot q.val⟩

/-- Code 0x01: a malformed request, as page `k` with frame `f` shows it. -/
def MapReq.malformed (q : MapReq) (k f : Nat) : Bool :=
  hf q.word 24 8 != 0 || hf q.word 40 24 != 0 || (!q.x && (q.kind != 0 || q.val != 0)) || q.va % q.size != 0
    || (q.pick && q.host) || (q.va + (k + 1) * q.size - 1) / 2 ^ 52 != q.va / 2 ^ 52
    || (!q.pick && (f % q.size != 0 || (q.host && decide (2 ^ 52 ≤ f))))

/-- Code 0x02: an address that is never translated. -/
def MapReq.untranslated (q : MapReq) (k : Nat) : Bool :=
  let a := q.pageVa k
  a / 2 ^ 55 != 0 || regionOf a == 4 || regionOf a == 6 || regionOf a == 7

/-- The mapping that page `k` becomes with frame `f`. -/
def MapReq.mapping (q : MapReq) (k f : Nat) : Mapping :=
  ⟨BitVec.ofNat 16 q.asid, BitVec.ofNat 64 (q.pageVa k), q.large, f, q.r, q.w, q.x, none, []⟩

/-- Whether a mapping is in host memory. -/
def Mapping.onHost (m : Mapping) : Bool := regionOf m.va.toNat == 5

/-- Whether a mapping keeps another out of its frame: an executable one and a writable one, be it at the page itself (R46),
or a writable frame at two (ASID, VA[51:16]) pairs (R316). -/
def Mapping.conflicts (m n : Mapping) : Bool :=
  m.onHost == n.onHost && n.evicted.isNone && overlap m.frame m.size n.frame n.size
    && ((m.x && n.w) || (m.w && n.x)
      || (!n.isPage m.asid.toNat m.va.toNat && (m.w || n.w)
        && (m.asid != n.asid || m.va.toNat % 2 ^ 52 + n.frame != n.va.toNat % 2 ^ 52 + m.frame)))

/-- Code 0x04. -/
def State.mapConflict (s : State) (m : Mapping) : Bool := (m.x && m.w) || s.mg.maps.any m.conflicts

/-- Code 0x07: whether a range of an address space meets a Bittern page of a bound job (R296). -/
def State.bitternAt (s : State) (asid va n : Nat) : Bool :=
  s.slots.any (fun p => p.2.bound && p.2.asid == asid && !p.2.noBittern &&
    (overlap va n (bitternPages p.2).1 65536 || overlap va n (bitternPages p.2).2 65536))

/-- A range that may be evicted for an address space, with its job. -/
def State.evictFor (s : State) (asid : Nat) : Option (Nat × Range) :=
  (firstSome (fun (p : Nat × Slot) =>
    if p.2.bound && p.2.asid == asid then (s.evictChoice p.1 (fun _ => false)).map (fun r => (p.1, r)) else none)
    s.slots).map Prod.snd

/-- A free frame for a page, after evictions as long as R330 allows them. -/
def State.pickFrame (s : State) (asid va n : Nat) : Nat → Option Nat × State
  | 0 => (none, s)
  | k + 1 =>
    match s.takeFrame (some (pageColour va)) n with
    | some (f, u) => (some f, u)
    | none =>
      match s.evictFor asid with
      | none => (none, s)
      | some (slot, r) => (s.evictRange slot r).pickFrame asid va n k

/-- How many evictions an address space can see. -/
def State.rangeCount (s : State) : Nat := (s.slots.map (fun p => p.2.ranges.length)).sum

/-- The mappings of an address space that meet a range. -/
def State.mapsIn (s : State) (asid va n : Nat) : List Mapping :=
  s.mg.maps.filter (fun m => m.asid.toNat == asid && overlap va n m.va.toNat m.size)

/-- The scan of an executable page (R42, R45). -/
def State.scanPage (s : State) (q : MapReq) (f : Nat) : Word :=
  scanStatus q.pageKind ((List.range q.size).map (fun i =>
    if q.host then Config.hostCode (f + i) else memGet s.mem (f + i))) (q.size / 32)

/-- The page takes effect, in place of what was mapped there; none when no frame is left for a page table. -/
def State.installPage (s : State) (q : MapReq) (k f : Nat) : Option State :=
  let s1 := (s.mapsIn q.asid (q.pageVa k) q.size).foldl (fun (u : State) m => u.unmapPage m) s
  (s1.putMap (q.mapping k f)).map (fun u =>
    if q.x then
      let page : ExecPage := ⟨BitVec.ofNat 16 q.asid, BitVec.ofNat 64 (q.pageVa k), q.size, q.kind == 1, valAllot q.val⟩
      { u with mg := { u.mg with pages := u.mg.pages ++ [page] } }
    else u)

/-- What became of one page: mapped to a frame, or a result code with the scan status. -/
inductive Mapped where
  | ok (frame : Nat)
  | failed (code : Nat) (status : Word)
  /-- No frame for a page table: the code is open. -/
  | noTable
  deriving DecidableEq, Repr

/-- Maps page `k` of a request; the lowest code that applies is given (R419). -/
def State.mapPage (s : State) (q : MapReq) (k named : Nat) : Mapped × State :=
  let asid := q.asid
  let va := q.pageVa k
  if q.malformed k named then (.failed 1 0, s)
  else if q.untranslated k then (.failed 2 0, s)
  else if !q.pick && !q.host && frameColour named != pageColour va then (.failed 3 0, s)
  else if (if q.pick then q.x && q.w else s.mapConflict (q.mapping k named)) then (.failed 4 0, s)
  else if !q.pick && !q.host && !s.frameUsable named q.size then (.failed 5 0, s)
  else
    match (if q.pick then s.pickFrame asid va q.size (s.rangeCount + 1) else (some named, s)) with
    | (none, s1) => (.failed 6 0, s1)
    | (some f, s1) =>
      if s1.bitternAt asid va q.size then (.failed 7 0, s1)
      else
        let st := if q.x then s1.scanPage q f else 0
        let s2 := if q.x then { s1 with mg := { s1.mg with
          scanned := s1.mg.scanned + 1
          scanRefused := s1.mg.scanRefused + (if st = 0 then 0 else 1) } } else s1
        if st != 0 then (.failed 8 st, s2)
        else
          match s2.installPage q k f with
          | none => (.noTable, s2)
          | some s3 => (.ok f, s3)

/-- The outcome of a request: result code, index of the page that failed, its scan status, the frames; none for the code
where it is open. -/
structure MapResult where
  code : Option Nat
  index : Nat
  status : Word
  frames : List Nat
  deriving DecidableEq, Repr

/-- Maps the pages of a request in order, as far as none fails. -/
def State.mapPages (s : State) (q : MapReq) : List (Nat × Nat) → List Nat → MapResult × State
  | [], done => (⟨some 0, 0, 0, done⟩, s)
  | (k, f) :: rest, done =>
    match s.mapPage q k f with
    | (.ok g, u) => u.mapPages q rest (done ++ [g])
    | (.failed c st, u) => (⟨some c, k, st, done⟩, u)
    | (.noTable, u) => (⟨none, k, 0, done⟩, u)

/-- Writes words into MGBUF from an offset. -/
def State.putWords (s : State) (ofs : Nat) : List Nat → State
  | [] => s
  | w :: t => (s.putBuf ofs 8 w).putWords (ofs + 8) t

/-- MAP (R419). -/
def execMap (s : State) : Host.Outcome State Fault Refusal :=
  runEvent s (
    if !s.commanded 3 then none
    else
      let q : MapReq := ⟨s.bufWord 0, s.bufNat 8 8⟩
      let named (k : Nat) : Nat := if q.pick then 0 else s.bufNat (16 + 8 * k) 8
      let (r, s1) := s.mapPages q ((List.range q.count).map (fun k => (k, named k))) []
      let (code, s2) := match r.code with
        | some c => (c, s1)
        | none => (1 + s1.draw.1.toNat % 255, s1.draw.2)
      let words := (code + 256 * r.index) :: r.status.toNat :: (r.frames ++ List.replicate (q.count - r.frames.length) 0)
      some ((s2.putWords 0 words).answerCmd code (16 + 8 * q.count)))

/-! UNMAP (R318, R336). -/

/-- Whether a page holds bytes of a spill heap of a bound job, which Tueno keeps mapped (R296). -/
def State.heapPage (s : State) (m : Mapping) : Bool :=
  s.slots.any (fun p => p.2.bound && p.2.asid == m.asid.toNat && s.heapMeets p.1 m.va.toNat m.size)

/-- UNMAP of `n` pages of 64 KiB from an address: every mapping that meets them goes. A Bittern page or a spill heap of a
bound job stays mapped (R296): the command is refused, with a code that the spec leaves open. -/
def execUnmap (asid : BitVec 16) (va : BitVec 64) (n : Nat) (s : State) : Host.Outcome State Fault Refusal :=
  runEvent s (
    if !s.commanded 4 then none
    else if s.bitternAt asid.toNat va.toNat (65536 * n) || (s.mapsIn asid.toNat va.toNat (65536 * n)).any s.heapPage then
      some (s.openRefusal 0)
    else some (((s.mapsIn asid.toNat va.toNat (65536 * n)).foldl (fun (u : State) m => u.unmapPage m)
      s).answerCmd 0 0))

/-! HALT (R370, R373, R389). -/

/-- The active contexts of a job on the tiles of its box. -/
def State.contextsIn (s : State) (slot : Nat) : List CtxId :=
  (s.slot slot).box.flatMap fun d => (s.tile d).cores.flatMap fun k => k.2.ctxs.filterMap fun p =>
    if p.2.active && p.2.slot == slot then some ⟨d, k.1, p.1⟩ else none

/-- HALT_REQ in every active context of a job. -/
def State.haltJob (s : State) (slot : Nat) : State :=
  (s.contextsIn slot).foldl (fun (u : State) i => u.postTrap i ⟨TrapCode.haltReq.num, 4, 0⟩) s

/-- HALT; a slot with no bound job is refused, with a code that the spec leaves open. -/
def execHalt (slot : Nat) (s : State) : Host.Outcome State Fault Refusal :=
  runEvent s (
    if !s.commanded 5 then none
    else if !(s.slot slot).bound then some (s.openRefusal 0)
    else some ((s.haltJob slot).answerCmd 0 0))

/-! Reports: the spec gives their content and no layout, so how the content becomes bytes is free
(notes/assumptions/28.md). -/

/-- The response that reports a content, at most the 4,096 bytes that MGBUF holds. -/
def State.answerReport (s : State) (code : Nat) (content : List Nat) : State :=
  let bs := (Config.reportLayout code content).take 4096
  (s.putBuf 0 bs.length (leNat bs)).answerCmd 0 bs.length

/-- A list as part of a content: its length, then its items. -/
def counted (l : List Nat) : List Nat := l.length :: l

/-- Whether the reservation of c7 is in force on a tile: it is reserved, and no activation of another class still runs in it
(R76). -/
def State.c7InForce (s : State) (tile : Nat) : Bool :=
  s.c7Reserved tile && (List.range 32).all (fun k =>
    let c := (s.core tile k).ctx 7
    !c.active || c.cls == 0)

/-- Whether the reservation of pool blocks is in force on a tile: every core withholds two, or c7 holds them (R88). -/
def State.poolInForce (s : State) (tile : Nat) : Bool :=
  s.c7Reserved tile && (List.range 32).all (fun k =>
    s.withheld tile k + (((s.core tile k).ctxs.map (fun p => if p.2.active then p.2.reserved else 0)).sum) == 2)

/-- What STATUS reports (R19, R76, R88, R296, R389, R401, R402): the core clock, the thermal and voltage flags, the running
image, the update state, the jobs that run without Bittern code, and for each tile whether the reservations of R76 and R88 are
in force. -/
def State.statusContent (s : State) : List Nat :=
  [s.mg.clock, b2n (decide (s.mg.clock < 1600)), b2n s.mg.tripLog, b2n s.mg.runB, b2n s.mg.switching.isSome,
   s.mg.imageA.toNat, s.mg.versionA, b2n s.mg.okA, s.mg.imageB.toNat, s.mg.versionB, b2n s.mg.okB]
    ++ counted s.mg.voltFlags
    ++ counted ((s.slots.filter (fun p => p.2.bound && p.2.noBittern)).map Prod.fst)
    ++ (List.range 1536).map (fun n => b2n (s.c7InForce n) + 2 * b2n (s.poolInForce n))

/-- A log as LOGREAD reports it (R385). -/
def ErrLog.content (l : ErrLog) : List Nat := counted (l.entries.map BitVec.toNat) ++ [l.lost]

/-- An entry of a trap log as LOGREAD reports it (R372). -/
def TrapEntry.content (e : TrapEntry) : List Nat :=
  [e.logCore, e.ctx, e.gen.toNat, e.tcause.toNat, e.tepc.toNat, e.tval.toNat]

/-- Counts by number as LOGREAD reports them. -/
def countsContent (l : Assoc Nat) : List Nat := counted (l.flatMap (fun p => [p.1, p.2]))

/-- What LOGREAD reports (R335, R336, R385, R389): the error logs with their overflow counts, the retirements and the blocks
lost to them, the trap logs, the counts of the Sluice, of the ports and of BAR0, the scan counts and the watch counts. -/
def State.logContent (s : State) : List Nat :=
  ((List.range 1536).flatMap (fun n =>
      (s.tile n).sram.content ++ (s.tile n).link.content ++ [(s.tile n).rereads, (s.tile n).sliceRereads]))
    ++ ((List.range 64).flatMap (fun n =>
      let h := s.home n
      h.ecc.content ++ h.bus.content ++ [h.discarded] ++ counted (h.retired.flatMap (fun p => [p.1, p.2]))))
    ++ counted s.mg.removed ++ counted s.mg.lost
    ++ ((List.range 64).flatMap (fun n =>
      let j := s.slot n
      counted (j.traps.flatMap TrapEntry.content) ++ [j.discards, j.lost]))
    ++ countsContent s.sluice.matched ++ countsContent s.sluice.dropped
    ++ ((List.range 4).flatMap (fun n =>
      let p := (aget s.ports n).getD Port.reset
      [p.dropped, p.unmatched, p.badLength]))
    ++ [s.mg.badAccess, s.mg.busyWrites, s.mg.scanned, s.mg.scanRefused]

/-- What MONREAD reports: the readings of the 1,536 temperature and voltage sensors and of the 29 process monitors
(R402). -/
def State.monContent (s : State) : List Nat :=
  ((List.range 1536).flatMap (fun n => [(s.tile n).temp, (s.tile n).volt]))
    ++ (List.range 29).map (fun n => (aget s.mg.procs n).getD 0)

/-- STATUS (R389). -/
def execStatus (s : State) : Host.Outcome State Fault Refusal :=
  runEvent s (if s.commanded 6 then some (s.answerReport 6 s.statusContent) else none)

/-- LOGREAD (R389). -/
def execLogread (s : State) : Host.Outcome State Fault Refusal :=
  runEvent s (if s.commanded 7 then some (s.answerReport 7 s.logContent) else none)

/-- MONREAD (R402). -/
def execMonread (s : State) : Host.Outcome State Fault Refusal :=
  runEvent s (if s.commanded 9 then some (s.answerReport 9 s.monContent) else none)

/-- LOGCLR: error logs, overflow counts, trap logs, Sluice and port counts, scan and watch counts (R385, R389). -/
def State.clearLogs (s : State) : State :=
  { s with
    tiles := s.tiles.map (fun (t : Nat × Tile) => (t.1, { t.2 with
      sram := ErrLog.empty, link := ErrLog.empty, rereads := 0, sliceRereads := 0 }))
    homes := s.homes.map (fun (h : Nat × Home) => (h.1, { h.2 with ecc := ErrLog.empty, bus := ErrLog.empty, discarded := 0 }))
    slots := s.slots.map (fun (j : Nat × Slot) => (j.1, { j.2 with traps := [], discards := 0, lost := 0 }))
    ports := s.ports.map (fun (q : Nat × Port) => (q.1, { q.2 with dropped := 0, unmatched := 0, badLength := 0 }))
    sluice := { s.sluice with dropped := [] }
    mg := { s.mg with badAccess := 0, busyWrites := 0, scanned := 0, scanRefused := 0 } }

/-- LOGCLR. -/
def execLogclr (s : State) : Host.Outcome State Fault Refusal :=
  runEvent s (if s.commanded 8 then some (s.clearLogs.answerCmd 0 0) else none)

/-! ATTEST, UPDATE, SWITCH (R400, R401). -/

/-- The 4,096 bytes of the slot table (R357). -/
def State.slotBytes (s : State) : List Byte :=
  (List.range 64).flatMap (fun n => (s.slot n).bind.toList.flatMap (fun w => bytesOf 8 w.toNat))

/-- What ATTEST signs (R400): the leaf index, the SHA-256 of the running image and of the slot table, and the nonce. -/
def State.attested (s : State) (nonce : BitVec 256) : List Nat :=
  [s.mg.leaf, (if s.mg.runB then s.mg.imageB else s.mg.imageA).toNat, beNat (sha256 s.slotBytes), nonce.toNat]

/-- The answer of ATTEST: what is signed, and the LMS signature over it with the next leaf (R400). -/
def State.attestContent (s : State) (nonce : BitVec 256) : List Nat :=
  let m := (s.attested nonce).flatMap (beBytes 32)
  s.attested nonce ++ counted ((identitySign s.mg.leaf m).map BitVec.toNat)

/-- ATTEST: the leaf is committed before the answer, which is signed with it (R400). -/
def execAttest (nonce : BitVec 256) (s : State) : Host.Outcome State Fault Refusal :=
  runEvent s (
    if !s.commanded 0xA then none
    else if 32768 ≤ s.mg.leaf then some (s.answerCmd 0xA1 0)
    else some (({ s with mg := { s.mg with leaf := s.mg.leaf + 1 } } : State).answerReport 0xA (s.attestContent nonce)))

/-- UPDATE: a new image in the inactive bank, verified (R399, R401); an image that fails is refused, with a code that the
spec leaves open. -/
def execUpdate (image : BitVec 256) (version : Nat) (s : State) : Host.Outcome State Fault Refusal :=
  runEvent s (
    if !s.commanded 0xB then none
    else
      let ok := s.mg.verifies image version
      let mg := if s.mg.runB then { s.mg with imageA := image, versionA := version, okA := ok }
        else { s.mg with imageB := image, versionB := version, okB := ok }
      let s1 := { s with mg := mg }
      if ok then some (s1.answerCmd 0 0) else some (s1.openRefusal 0))

/-- Whether the image of the inactive bank verifies (R399). -/
def Mgmt.otherOk (m : Mgmt) : Bool :=
  if m.runB then m.verifies m.imageA m.versionA else m.verifies m.imageB m.versionB

/-- SWITCH: the management core restarts; the command's answer is given at once, so that later commands can be queued
(R401). An image that does not verify is refused, with a code that the spec leaves open. -/
def execSwitch (s : State) : Host.Outcome State Fault Refusal :=
  runEvent s (
    if !s.commanded 0xC then none
    else if !s.mg.otherOk then some (s.openRefusal 0)
    else some (({ s with mg := { s.mg with switching := some s.wstime } } : State).answerCmd 0 0))

/-- SWITCH_READY: the new image reports within 5 ms (R401). -/
def execSwitchReady (s : State) : Host.Outcome State Fault Refusal :=
  runEvent s (
    match s.mg.switching with
    | none => none
    | some t =>
      if t + 8000000 ≤ s.wstime then none
      else some { s with mg := { s.mg with switching := none, runB := !s.mg.runB } })

/-- SWITCH_TIMEOUT: 5 ms have passed, and the old image resumes (R401). -/
def execSwitchTimeout (s : State) : Host.Outcome State Fault Refusal :=
  runEvent s (
    match s.mg.switching with
    | none => none
    | some t => if t + 8000000 ≤ s.wstime then some { s with mg := { s.mg with switching := none } } else none)

/-! EGRESS (R398). -/

/-- Whether a job's entry is a valid RING of HOME 0 or 1. -/
def Slot.ringAt (j : Slot) (rid : Nat) : Bool :=
  let t := j.tensor rid
  tValid t && tKind t == some .ring && decide (tHome t ≤ 1)

/-- A port. -/
def State.port (s : State) (n : Nat) : Port := (aget s.ports n).getD Port.reset

/-- The state with a port replaced. -/
def State.setPort (s : State) (n : Nat) (p : Port) : State := { s with ports := aset s.ports n p }

/-- EGRESS. A request with other bits set is refused with the same code. -/
def execEgress (s : State) : Host.Outcome State Fault Refusal :=
  runEvent s (
    if !s.commanded 0xD then none
    else
      let w := s.bufWord 0
      let n := hf w 0 6
      let p := hf w 8 2
      let rid := hf w 16 8
      let j := s.slot n
      let other := match (s.port p).egress with
        | some (m, _) => m != n
        | none => false
      let zero := hf w 6 2 == 0 && hf w 10 6 == 0 && hf w 24 8 == 0 && hf w 33 31 == 0 && s.bufWord 8 == 0
      if !zero || !j.bound || !j.ringAt rid || other then some (s.answerCmd 1 0)
      else
        some ((s.setPort p { s.port p with egress := if hf w 32 1 = 1 then some (n, rid) else none }).answerCmd 0 0))

/-! The protocol of the mailbox (R389). -/

/-- UNKNOWN_COMMAND: state 3. -/
def execUnknownCommand (s : State) : Host.Outcome State Fault Refusal :=
  runEvent s (
    match s.mg.running with
    | none => none
    | some c =>
      if s.commanded c.code && (c.code == 0 || decide (0xD < c.code)) then
        some { s with mg := { s.mg with wait := .response 3 0 0 } }
      else none)

/-- MGSTS as a state, tag, result code and response length give it. -/
def mgsts (state : Nat) (tag : BitVec 16) (code len : Nat) : Word :=
  BitVec.ofNat 64 (state * 2 ^ 56 + tag.toNat * 2 ^ 40 + code * 2 ^ 32 + len)

/-- MAILBOX_RESPONSE: the state says done, unknown command or refused, and the next command may come. -/
def execMailboxResponse (s : State) : Host.Outcome State Fault Refusal :=
  runEvent s (
    match s.up, s.mg.running, s.mg.wait with
    | true, some c, .response st code len =>
      some { s with mg := { s.mg with running := none, wait := .none, status := mgsts st c.tag code len } }
    | _, _, _ => none)

/-- A write of MGCMD while no command runs. A word with other bits set or a length above 4,096 is refused, with a code that
the spec leaves open. -/
def State.beginCommand (s : State) (w : Word) : State :=
  let c : MgCmd := ⟨hf w 56 8, BitVec.ofNat 16 (hf w 40 16), hf w 0 32⟩
  let s1 := { s with mg := { s.mg with running := some c, status := mgsts 1 c.tag 0 0 } }
  if hf w 32 8 != 0 || decide (4096 < c.len) then s1.openRefusal 0 else s1

/-- BAR0_WRITE: MGBUF, MGCMD, or an access that is discarded and counted; a write of the launch port is LAUNCH_PORT_LAUNCH
or LAUNCH_PORT_CANCEL, and one of MGSTS changes nothing. -/
def execBar0Write (ofs size : Nat) (val : BitVec 64) (s : State) : Host.Outcome State Fault Refusal :=
  runEvent s (
    if !s.up || (ofs == 0 && size == 8) then none
    else if ofs == 0x1008 && size == 8 then some s
    else if ofs = 0x1000 ∧ size = 8 then
      if s.mg.running.isSome then some { s with mg := { s.mg with busyWrites := s.mg.busyWrites + 1 } }
      else some (s.beginCommand val)
    else if 0x2000 ≤ ofs ∧ ofs + size ≤ 0x3000 ∧ (size = 1 ∨ size = 2 ∨ size = 4 ∨ size = 8) then
      some (s.putBuf (ofs - 0x2000) size (val.toNat % 2 ^ (8 * size)))
    else some { s with mg := { s.mg with badAccess := s.mg.badAccess + 1 } })

end Sys2Proof.Machine
end

