-- ==== Sys2Proof/Machine/Outside.lean ====
section
/-! DEFINITION. Accesses from outside and Ethernet: host memory access, fabric peers, the Sluice and egress (spec/17 R390,
R392, R395 to R398). -/

namespace Sys2Proof.Machine

/-! Device memory by DPA (R390, R392). -/

/-- Whether a frame of a slice holds home bytes of a range of device memory, by some mapping of the page. -/
def State.frameMeets (s : State) (dpa n : Nat) (f : SecFrame) : Bool :=
  let va := 1024 * f.sec
  f.replica.isNone && s.mg.maps.any (fun m => m.asid.toNat == f.asid && m.inDevice
    && overlap va 1 (m.va.toNat % 2 ^ 52) m.size && overlap (m.frame + (va - m.va.toNat % 2 ^ 52)) 1024 dpa n)

/-- Writes back and drops the sectors that hold a range of device memory from their home slices, for every mapping of the
frame (R390). -/
def State.dropSectors (s : State) (dpa n : Nat) : State :=
  { s with tiles := s.tiles.map (fun (t : Nat × Tile) =>
      (t.1, { t.2 with slice := t.2.slice.filter (fun f => !s.frameMeets dpa n f) })) }

/-- Whether a byte of device memory lies in a frame mapped executable (R46). -/
def State.execFrame (s : State) (a : Nat) : Bool :=
  s.mg.maps.any (fun m => m.x && m.inDevice && overlap a 1 m.frame m.size)

/-- Whether a byte of device memory has storage of its own: neither the retirement reserve nor a lost block (R390). -/
def State.outsideHeld (s : State) (a : Nat) : Bool :=
  !overlap a 1 0xFC0000000 0x40000000 && !s.mg.lost.contains (blockNum a)

/-- Whether a byte of device memory can be written from outside: no reserve, no lost block, no executable frame (R46,
R390). -/
def State.outsideWritable (s : State) (a : Nat) : Bool := s.outsideHeld a && !s.execFrame a

/-- A byte as it reads from outside: the reserve and lost blocks read as zero (R390). -/
def State.outsideByte (s : State) (a : Nat) : Byte := if s.outsideHeld a then memGet s.mem a else 0

/-- The agent of an access from outside the part: the host, or a fabric peer. -/
def outsideAgent (peer : Bool) : Agent := ⟨outside, 0, if peer then 1537 else 1536, 0, []⟩

/-- The events that an agent outside the part has made: its later accesses come after them (R195). -/
def State.outsideSeen (s : State) (ag : Agent) : Seen :=
  (s.record.log.filter (fun e => e.attr.ag == ag)).flatMap (fun e => e.cells.map (fun c => (e.num, c.1)))

/-- Whether an access by DPA can perform now: it lies in device memory and waits for no swap or test. -/
def State.outsideReady (s : State) (dpa n : Nat) : Bool :=
  s.up && decide (0 < n) && decide (dpa + n ≤ devTop)
    && (List.range n).all (fun i => !s.blockBusy (blockNum (dpa + i)))

/-- The home of a block counts a discarded write (R46, R390). -/
def State.countDiscard (s : State) (dpa : Nat) : State :=
  let h := blockHome (blockNum dpa)
  s.setHome h { s.home h with discarded := (s.home h).discarded + 1 }

/-- Bytes by DPA in their aligned 8-byte units, each of which performs whole (R217). -/
def outsideUnits {α : Type} (l : List (Nat × α)) : List (List (Nat × α)) :=
  ((l.map (fun c => c.1 / 8)).eraseDups).map (fun b => l.filter (fun c => c.1 / 8 == b))

/-- Writes bytes by DPA; those that may not be written are discarded, and the home counts the access. -/
def State.outsideWrite (s : State) (ag : Agent) (dpa : Nat) (bs : List Byte) : State :=
  let cells := ((List.range bs.length).map (fun i => dpa + i)).zip bs
  let units := outsideUnits (cells.filter (fun c => s.outsideWritable c.1))
  let s1 := (s.writeAs (plainAttr ag) .write (s.outsideSeen ag) ⟨[], []⟩ s.record.choices
    (units.map (fun u => [u.map (fun c => (Loc.raw c.1, c.2))]))).2
  if cells.all (fun c => s.outsideWritable c.1) then s1 else s1.countDiscard dpa

/-- Reads bytes by DPA: those that have no storage of their own read as zero. -/
def State.outsideRead (s : State) (ag : Agent) (dpa n : Nat) : State :=
  let at_ := (List.range n).map (fun i => dpa + i)
  let units := (outsideUnits ((at_.filter s.outsideHeld).map (fun a => (a, ())))).map (fun u => u.map (fun c => Loc.raw c.1))
  let (bs, _, s1) := s.readAs (plainAttr ag) (s.outsideSeen ag) units
  { s1 with outsideGot := weave (at_.map (fun a => if s.outsideHeld a then none else some 0)) bs }

/-- A read or write by DPA at HOME, a set of byte events (R217): the value of a read goes outside. What an agent outside has
read says nothing of what its next read returns (notes/assumptions/37.md). -/
def State.outsideAccess (s : State) (ag : Agent) (dpa n : Nat) (write : Option (List Byte)) : Option State :=
  if !s.outsideReady dpa n then none
  else
    let s1 := s.dropSectors dpa n
    match write with
    | none => some (s1.outsideRead ag dpa n)
    | some bs => if bs.length = n then some (s1.outsideWrite ag dpa bs) else none

/-- HOST_MEM_ACCESS (R390). -/
def execHostMemAccess (dpa len : Nat) (write : Option (List (BitVec 8))) (s : State) : Host.Outcome State Fault Refusal :=
  runEvent s (s.outsideAccess (outsideAgent false) dpa len write)

/-- PEER_ACCESS performs as a host access does (R392). -/
def execPeerAccess (dpa len : Nat) (write : Option (List (BitVec 8))) (s : State) : Host.Outcome State Fault Refusal :=
  runEvent s (s.outsideAccess (outsideAgent true) dpa len write)

/-- What an `amo` or `cas` of `n` bytes from outside writes over a value: x is the operand or the expected value, y the
value that a `cas` writes; a `cas` that fails writes nothing (R224, R225). -/
def peerNew (op : Option AmoOp) (n : Nat) (x y : BitVec 128) (old : Nat) : Option (List Byte) :=
  match op with
  | some o => some (bytesOf n (amoNew o (8 * n) old (x.toNat % 2 ^ (8 * n))))
  | none => if old = x.toNat % 2 ^ (8 * n) then some (bytesOf n y.toNat) else none

/-- PEER_ATOMIC: an `amo` or `cas` at the port of the home, whose old value goes outside (R224, R225, R392). Where the bytes
cannot be written the write is discarded and counted (R390). -/
def execPeerAtomic (dpa : Nat) (sz : Size) (op : Option AmoOp) (x y : BitVec 128) (s : State) :
    Host.Outcome State Fault Refusal :=
  runEvent s (
    let n := sz.bytes
    let legal := decide (4 ≤ n) && (n != 16 || op.isNone) && dpa % n == 0 && op != some .fadd
    let at_ := (List.range n).map (fun i => dpa + i)
    if !legal || !s.outsideReady dpa n then none
    else if at_.all s.outsideWritable then
      let r := (s.dropSectors dpa n).rmwAs true (plainAttr (outsideAgent true)) (s.outsideSeen (outsideAgent true))
        ⟨[], []⟩ (at_.map Loc.raw) (peerNew op n x y)
      some { r.after with outsideGot := bytesOf n r.old }
    else
      let old := leNat (at_.map s.outsideByte)
      let s1 := s.dropSectors dpa n
      some { (if (peerNew op n x y old).isSome then s1.countDiscard dpa else s1) with outsideGot := bytesOf n old })

/-! The Sluice (R395, R396). -/

/-- A big-endian field of a frame; bytes past its end are those of a free word. -/
def frameBe (bs : List Byte) (ofs : Nat) : Nat → Nat
  | 0 => 0
  | n + 1 => frameBe bs ofs n * 256 + (bs.getD (ofs + n) 0).toNat

/-- Where the EtherType lies: an 802.1Q tag is skipped. -/
def etherAt (bs : List Byte) : Nat := if frameBe bs 12 2 = 0x8100 then 16 else 12

/-- IP version of a frame: 4, 6 or 0. -/
def ipVersion (bs : List Byte) : Nat :=
  let e := etherAt bs
  let v := (bs.getD (e + 2) 0).toNat / 16
  if frameBe bs e 2 = 0x0800 ∧ v = 4 ∧ e + 22 ≤ bs.length then 4
  else if frameBe bs e 2 = 0x86DD ∧ v = 6 ∧ e + 42 ≤ bs.length then 6
  else 0

/-- The IP protocol of a frame. -/
def ipProto (bs : List Byte) : Option Nat :=
  let l3 := etherAt bs + 2
  match ipVersion bs with
  | 4 => some (frameBe bs (l3 + 9) 1)
  | 6 => some (frameBe bs (l3 + 6) 1)
  | _ => none

/-- The IP destination of a frame: all 32 bits, or the low 64. -/
def ipDest (bs : List Byte) : Option Nat :=
  let l3 := etherAt bs + 2
  match ipVersion bs with
  | 4 => some (frameBe bs (l3 + 16) 4)
  | 6 => some (frameBe bs (l3 + 32) 8)
  | _ => none

/-- The UDP destination port of a frame. -/
def udpDest (bs : List Byte) : Option Nat :=
  let l3 := etherAt bs + 2
  let l4 := l3 + (if ipVersion bs = 4 then 4 * ((bs.getD l3 0).toNat % 16) else 40)
  if ipProto bs = some 17 ∧ l4 + 4 ≤ bs.length then some (frameBe bs (l4 + 2) 2) else none

/-- FIELD: the 8 bytes at FOFS, byte FOFS lowest; bytes past the end of the frame are those of a free word. -/
def frameField (bs : List Byte) (free : Word) (fofs : Nat) : Nat :=
  leNat ((List.range 8).map (fun i => (bs[fofs + i]?).getD (BitVec.ofNat 8 (bits free.toNat (8 * i) 8))))

/-- A field of a rule. -/
def ruleF (w : Vector Word 8) (i : Fin 8) (lo n : Nat) : Nat := bits (w[i]).toNat lo n

/-- A number of a frame that a rule wants to be a value. -/
def agreesOn (want : Bool) (x : Option Nat) (v : Nat) : Bool := !want || x == some v

/-- Whether a frame matches a rule (R396). -/
def ruleMatches (w : Vector Word 8) (port : Nat) (bs : List Byte) (free : Word) : Bool :=
  let dst := (ipDest bs).getD 0
  let mask := (w[4]).toNat
  ruleF w 0 0 1 == 1 && ruleF w 0 1 4 / 2 ^ port % 2 == 1
    && frameBe bs (etherAt bs) 2 &&& ruleF w 1 48 16 == ruleF w 1 32 16
    && (ruleF w 2 9 2 == 0 || (ruleF w 2 9 2 == 1 && ipVersion bs == 4) || (ruleF w 2 9 2 == 2 && ipVersion bs == 6))
    && agreesOn (ruleF w 2 8 1 == 1) (ipProto bs) (ruleF w 2 0 8)
    && agreesOn (ruleF w 2 32 1 == 1) (udpDest bs) (ruleF w 2 16 16)
    && (mask == 0 || (ipDest bs).isSome) && dst &&& mask == (w[3]).toNat
    && frameField bs free (ruleF w 2 33 10) &&& (w[6]).toNat == (w[5]).toNat

/-- The lowest-numbered matching rule. -/
def Sluice.ruleFor (x : Sluice) (port : Nat) (bs : List Byte) (free : Word) : Option Nat :=
  ((x.rules.filter (fun p => ruleMatches p.2 port bs free)).map Prod.fst).min?

/-- Bytes held in the frame buffer, with each frame's FCS. -/
def Sluice.held (x : Sluice) : Nat := (x.frames.map (fun f => f.bytes.length + 4)).sum

/-- A port that has dropped a frame. -/
def State.portDrop (s : State) (n : Nat) : State :=
  s.setPort n { s.port n with dropped := (s.port n).dropped + 1 }

/-- A stamp of a port's PTP clock now: 48 bits of seconds, 32 of nanoseconds, 16 of a fraction of one (R395). -/
def State.stampOf (s : State) (n : Nat) : BitVec 96 :=
  let p := (s.port n).ptp
  let t := p.base + p.rate * (s.wstime - p.since)
  BitVec.ofNat 96 (t / 65536 / 1000000000 % 2 ^ 48 + t / 65536 % 1000000000 * 2 ^ 48 + t % 65536 * 2 ^ 80)

/-- FRAME_INGRESS: a frame without its FCS, with the stamp that the port's clock shows; with another the event cannot be
(R395, R396). -/
def execFrameIngress (port : Nat) (fcsOk : Bool) (stamp : BitVec 96) (frame : List (BitVec 8)) (s : State) :
    Host.Outcome State Fault Refusal :=
  runEvent s (
    let n := frame.length + 4
    let x := s.sluice
    if !s.up || decide (4 ≤ port) || stamp != s.stampOf port then none
    else if !fcsOk || decide (n < 64) || decide (9216 < n) || decide (8388608 < x.held + n) then some (s.portDrop port)
    else
      let (free, s1) := s.draw
      match x.ruleFor port frame free with
      | none => some (s1.setPort port { s1.port port with unmatched := (s1.port port).unmatched + 1 })
      | some r =>
        let seq := (aget x.matched r).getD 0
        let f : Frame := ⟨port, stamp, r, seq, frame⟩
        some { s1 with sluice := { x with matched := aset x.matched r (seq + 1), frames := x.frames ++ [f] } })

/-! Rings served by the part (R278, R279, R281, R396, R398). -/

/-- The locations of bytes that the part reads or writes for a job. -/
def State.partLocs (s : State) (ag : Agent) (write : Bool) (ea : Word) (n : Nat) : Except Stop (List Loc) :=
  s.access ag write false 1 (span ea n) (span ea n) (.ok ())

/-- HEAD, TAIL and the tag of a slot. -/
def State.ringValue (s : State) (ag : Agent) (ea : Word) : Except Stop (Nat × List Loc) := do
  let l ← s.partLocs ag true ea 8
  .ok (s.loadNat l, l)

/-- The pages of a ring of device memory. -/
def ringPages (t : Tensor) : List Nat :=
  if tHome t = 1 then
    pagesOf (t[1]).toNat (ringN t * ringLen t) ++ [(t[3]).toNat, (t[4]).toNat, (t[5]).toNat]
  else []

/-- The message of a frame in a slot of a ring, with the events that come before its activation (R396). -/
def frameMsg (w : Vector Word 8) (f : Frame) (slot ringSlot : Nat) (seen : Seen) : Msg where
  slot := slot
  h0 := BitVec.ofNat 64 (ruleF w 1 0 32 + ruleF w 0 14 11 * 2 ^ 32 + ruleF w 0 25 5 * 2 ^ 43 + ruleF w 0 7 1 * 2 ^ 49
    + ruleF w 0 5 2 * 2 ^ 50 + 4 * 2 ^ 56)
  h1 := BitVec.ofNat 64 (srcFields 14 31 2047)
  pay := [BitVec.ofNat 64 (f.rule + f.port * 2 ^ 12 + f.bytes.length * 2 ^ 16 + ringSlot * 2 ^ 32),
    (f.stamp.extractLsb' 0 48).setWidth 64, (f.stamp.extractLsb' 48 48).setWidth 64, BitVec.ofNat 64 f.seq, 0, 0]
  launch := none
  sluice := true
  dispatch := false
  waiter := none
  notice := false
  num := 0
  seen := seen
  behind := none
  nest := none

/-- A tag and the ticket that goes with it change for the part: it has seen everything, and the tag's change is a release at
scope 2 of that (R281, R396, R398). -/
def State.passSlot (s : State) (ag : Agent) (tag : List Loc) (tb : List Byte) (ticket : List Loc) (n : Nat) : State :=
  let v := s.allSeen
  let s1 := (s.changeRing (ringAttr ag true true 2) v ⟨[], v⟩ tag tb).after
  (s1.changeRing (ringAttr ag true false 2) s1.allSeen ⟨[], []⟩ ticket (bytesOf 8 n)).after

/-- The claim of a slot for a frame, the frame written and the tag FULL: the slot and the state, or none when the claim
fails. -/
def State.produceFrame (s : State) (ag : Agent) (t : Tensor) (bs : List Byte) : Except Stop (Option (Nat × State)) := do
  let (head, _) ← s.ringValue ag (t[4])
  let (tail, tl) ← s.ringValue ag (t[5])
  let slot := tail % ringN t
  let locs ← s.tagLoc ag t slot
  if s.readTag locs slot = .empty ∧ (tail : Int) - head < ringN t then do
    let dst ← s.partLocs ag true (ringDst t slot 0) bs.length
    let s1 := s.storeTop ag (chunks 8 (dst.zip bs))
    .ok (some (slot, s1.passSlot ag locs (s1.tagByte locs slot .full) tl ((tail + 1) % 2 ^ 64)))
  else .ok none

/-- A message of the Sluice enters the inbox of its core, or of the first core of its stage whose inbox admits it, the
pointer moving past that core (R298, R302); none while it has to wait in the Sluice. -/
def State.letSluiceIn (s : State) (m : Msg) : Option State :=
  let jt := hTile m.h0
  let tile := (s.slot m.slot).devTile jt
  let v := s.govOf tile m.slot jt
  let n := hStageNum m.h0
  let m1 := { m with h0 := putBits m.h0 0 32 (govHofs (v.stage n)) }
  if s.wayBusy m then none
  else if !hStage m.h0 then
    if s.letsIn tile (hCore m.h0) m then some (s.letIn tile (hCore m.h0) m) else none
  else if !govV (v.stage n) || (v.candidates n).isEmpty then some (s.refuse tile (hCore m.h0) m 4)
  else
    ((v.candidates n).find? (fun c => s.letsIn tile c m1)).map (fun c =>
      (s.letIn tile c m1).setGov tile m.slot jt { v with ptr := if h : n < 4 then v.ptr.set n ((c + 1) % 32) h else v.ptr })

/-- The messages that wait in the Sluice, the first of each rule, with their positions. -/
def Sluice.firstWaiting (x : Sluice) : List ((Nat × Msg) × Nat) :=
  x.waiting.zipIdx.filter (fun p => (x.waiting.take p.2).all (fun q => q.1 != p.1.1))

/-- The first waiting message of a list that an inbox admits goes there (R298). -/
def State.serveMessage (s : State) (l : List ((Nat × Msg) × Nat)) : Option State :=
  (firstSome (fun (p : (Nat × Msg) × Nat) =>
    ({ s with sluice := { s.sluice with waiting := s.sluice.waiting.eraseIdx p.2 } } : State).letSluiceIn p.1.2) l).map Prod.snd

/-- The message of a frame that lies in its ring: it goes to its inbox at once, or waits in the Sluice behind those of its
rule (R298, R396). -/
def State.sluiceSends (s : State) (rule : Nat) (m : Msg) : State :=
  let u : State := { s with sluice := { s.sluice with waiting := s.sluice.waiting ++ [(rule, m)] } }
  (u.serveMessage (u.sluice.firstWaiting.filter (fun p => p.1.1 == rule && p.2 + 1 == u.sluice.waiting.length))).getD u

/-- What the Sluice does with a frame: the state after, when it need not wait (R396). The Sluice stands on no tile, so that
a ring of a tile that does not run its job waits (R361, R379); a page that is away waits for the end of a SWITCH (R401). -/
def State.deliverFrame (s : State) (f : Frame) (i : Nat) : Option State :=
  let x := s.sluice
  let w := (aget x.rules f.rule).getD (Vector.replicate 8 0)
  let gone : State := { s with sluice := { x with frames := x.frames.eraseIdx i } }
  let dropped : State := { s with sluice := { x with
    frames := x.frames.eraseIdx i
    dropped := aset x.dropped f.rule ((aget x.dropped f.rule).getD 0 + 1) } }
  let slot := ruleF w 0 8 6
  let rid := ruleF w 0 30 8
  let jt := ruleF w 0 14 11
  let j := s.slot slot
  let t := j.tensor rid
  let ag : Agent := ⟨slot, jt, 1536, ruleF w 0 25 5, []⟩
  let away := tHome t == 0 && (regionOf (t[3]).toNat != 7 || ag.target (t[3]).toNat != jt)
  if !j.bound || !j.ringAt rid || !j.inShape jt || decide (ringLen t < f.bytes.length) || away || !ringTogether ag t then
    some dropped
  else
    s.unlessAway (match (gone.touch slot (ringPages t)).produceFrame ag t f.bytes with
      | .ok (some (k, u)) => some (u.sluiceSends f.rule (frameMsg w f slot k u.allSeen))
      | .error .stall => none
      | .error (.fold _) => none
      | .error (.wait _) => none
      | _ => some dropped)

/-- The class of a frame's rule. -/
def Sluice.cls (x : Sluice) (f : Frame) : Nat := ruleF ((aget x.rules f.rule).getD (Vector.replicate 8 0)) 0 5 2

/-- The frames that the Sluice may serve, of each rule the first, with their positions. -/
def Sluice.firstFrames (x : Sluice) : List (Frame × Nat) :=
  x.frames.zipIdx.filter (fun p => (x.frames.take p.2).all (fun q => q.rule != p.1.rule))

/-- One stage of the Sluice for rules of class 0, or for the others: a waiting message goes in, or a frame into its ring. -/
def State.serveClass (s : State) (zero : Bool) : Option State :=
  let x := s.sluice
  match s.serveMessage (x.firstWaiting.filter (fun p => (hCls p.1.2.h0 == 0) == zero)) with
  | some u => some u
  | none =>
    (firstSome (fun (p : Frame × Nat) => s.deliverFrame p.1 p.2)
      (x.firstFrames.filter (fun p => (x.cls p.1 == 0) == zero))).map Prod.snd

/-- SLUICE_DELIVERY (R396): class-0 rules first. -/
def execSluiceDelivery (s : State) : Host.Outcome State Fault Refusal :=
  runEvent s (
    if !s.up then none
    else
      match s.serveClass true with
      | some u => some u
      | none => s.serveClass false)

/-- The slot at the HEAD of an egress ring emptied, as a release at scope 2 (R281, R398). -/
def State.emptySlot (s : State) (ag : Agent) (t : Tensor) (locs hl : List Loc) (slot head : Nat) : State :=
  (s.passSlot ag locs (s.tagByte locs slot .empty) hl ((head + 1) % 2 ^ 64)).clearFill (s.claimTile ag t) ag t slot

/-- One FULL slot of a port's ring: the frame goes out with its stamp written, or is counted for its length (R398). -/
def State.transmit (s : State) (port : Nat) (stamp : BitVec 96) (ag : Agent) (t : Tensor) : Except Stop (Option State) := do
  let (head, hl) ← s.ringValue ag (t[4])
  let slot := head % ringN t
  let locs ← s.tagLoc ag t slot
  if s.readTag locs slot ≠ .full then .ok none
  else do
    let wl ← s.partLocs ag false (ringDst t slot 0) 8
    let w : Word := BitVec.ofNat 64 (s.loadNat wl)
    let n := hf w 0 14
    if n < 60 ∨ 9212 < n then
      let s1 := s.setPort port { s.port port with badLength := (s.port port).badLength + 1 }
      .ok (some (s1.emptySlot ag t locs hl slot head))
    else do
      let fl ← s.partLocs ag false (ringDst t slot 32) n
      let frame := fl.map s.readLoc
      let s1 := s.setPort port { s.port port with sent := (s.port port).sent ++ [frame] }
      if hf w 63 1 = 1 then do
        let sl ← s.partLocs ag true (ringDst t slot 8) 16
          let v := (stamp.extractLsb' 0 48).toNat + (stamp.extractLsb' 48 48).toNat * 2 ^ 64
        let s2 := s1.storeTop ag (chunks 8 (sl.zip (bytesOf 16 v)))
        .ok (some (s2.emptySlot ag t locs hl slot head))
      else .ok (some (s1.emptySlot ag t locs hl slot head))

/-- EGRESS_TRANSMIT, with the stamp that the port's clock shows (R395, R398). The port has no tile of its own: the job tile is the one that a ring of HOME 0 names in its TAGS
address, 2047 itself where that address says "own tile", and 0 for a ring of HOME 1, which names none
(notes/assumptions/38.md). -/
def execEgressTransmit (port : Nat) (stamp : BitVec 96) (s : State) : Host.Outcome State Fault Refusal :=
  runEvent s (
    match s.up, (s.port port).egress with
    | true, some (slot, rid) =>
      let j := s.slot slot
      let t := j.tensor rid
      let jt := if tHome t = 0 then bits (t[3]).toNat 21 11 else 0
      let ag : Agent := ⟨slot, jt, 1536, 0, []⟩
      if !j.bound || !j.ringAt rid || !ringTogether ag t || stamp != s.stampOf port then none
      else
        s.unlessAway (match (s.touch slot (ringPages t)).transmit port stamp ag t with
          | .ok r => r
          | .error _ => none)
    | _, _ => none)

end Sys2Proof.Machine
end

