-- ==== Sys2Proof/Machine/Health.lean ====
section
/-! DEFINITION. Thermal steps, resets, boot, monitors, error events, self-tests, fencing, retirement and swaps (spec/01 R19;
spec/13 R321, R322, R332 to R336; spec/16 R385 to R388; spec/17 R393, R394, R399, R402). -/

namespace Sys2Proof.Machine

/-! Logs (R385). -/

/-- A log entry: TIME, KIND, ACTION, RETRY, LOC. -/
def logEntry (time kind action retry loc : Nat) : BitVec 128 :=
  BitVec.ofNat 128 (time % 2 ^ 64 * 2 ^ 64 + kind * 2 ^ 56 + action * 2 ^ 48 + retry * 2 ^ 40 + loc % 2 ^ 40)

/-- Adds an entry to the log of a unit, which is a tile's or a home's. -/
def State.logUnit (s : State) (u : ErrUnit) (place : Nat) (e : BitVec 128) : State :=
  match u with
  | .plate | .array | .logic => s.setTile place { s.tile place with sram := (s.tile place).sram.push e }
  | .link => s.setTile place { s.tile place with link := (s.tile place).link.push e }
  | .dramRow => s.setHome place { s.home place with ecc := (s.home place).ecc.push e }
  | .bondGroup => s.setHome place { s.home place with bus := (s.home place).bus.push e }

/-- Adds blocks to those that are lost (R336). -/
def State.loseBlocks (s : State) (l : List Nat) : State :=
  { s with mg := { s.mg with lost := l.foldl (fun (x : List Nat) b => sinsert x b) s.mg.lost } }

/-! Error events and self-tests (R386, R388). -/

/-- The unit's test begins. -/
def State.beginTest (s : State) (u : ErrUnit) (place loc : Nat) (failed : Bool) : State :=
  { s with mg := { s.mg with selfTests := s.mg.selfTests ++ [(u, place, loc, failed)] } }

/-- The scratchpad granule of a plate row (R156, R385). -/
def plateGranule (loc : Nat) : Nat := (loc / 2 ^ 31 * 4096 + loc / 2 ^ 26 % 32 * 128) / 256

/-- What an uncorrectable word does at once (R386): a scratchpad granule is bad; the block in the stacked slot is lost. -/
def State.uncorrectable (s : State) (u : ErrUnit) (place loc : Nat) : State :=
  match u with
  | .plate => s.setTile place { s.tile place with bad := sinsert (s.tile place).bad (plateGranule loc) }
  | .dramRow =>
    let set := loc / 2 ^ 22
    let e := (s.home place).stacked set
    if e = 0 ∧ 258048 ≤ set then s else s.loseBlocks [blockOfMember place set e]
  | _ => s

/-- Whether a location of a unit exists; bits of LOC outside the fields of its log are zero (R385). -/
def unitExists (u : ErrUnit) (place loc : Nat) : Bool :=
  decide (loc < 2 ^ 40) &&
  (match u with
   | .dramRow => decide (place < 64) && bits loc 0 8 == 0 && bits loc 14 1 == 0
   | .bondGroup => false
   | .plate => decide (place < 1536) && decide (loc / 2 ^ 31 < 512) && bits loc 0 26 == 0
   | .link => decide (place < 1536) && decide (loc / 2 ^ 37 < 6) && bits loc 0 24 == 0
   | _ => decide (place < 1536) && bits loc 0 26 == 0)

/-- The retries that a link has made when it reports an event, from a free value: 3 at the limit, 1 to 3 before it (R385). -/
def linkRetries (fixable : Bool) (w : Word) : Nat := if fixable then 1 + w.toNat % 3 else 3

/-- ERROR_EVENT: a SECDED, CRC or array ECC event; parity of the vertical bus is BUS_PARITY_FAIL (R386, R388). -/
def execErrorEvent (unit : ErrUnit) (place loc : Nat) (fixable : Bool) (s : State) : Host.Outcome State Fault Refusal :=
  runEvent s (
    if !s.up || !unitExists unit place loc then none
    else
      let kind := match unit with
        | .link => if fixable then 3 else 4
        | _ => if fixable then 1 else 2
      let action := if unit = .dramRow ∧ !fixable then 5 else 0
      let (w, s0) := s.draw
      let retries := if unit = .link then linkRetries fixable w else 0
      let s1 := (if unit = .link then s0 else s).logUnit unit place (logEntry s.wstime kind action retries loc)
      some ((if fixable then s1 else s1.uncorrectable unit place loc).beginTest unit place loc false))

/-- BUS_PARITY_FAIL: a transfer whose retry succeeds, or whose third retry fails (R388). -/
def execBusParityFail (home seg beat lane retries : Nat) (failed : Bool) (s : State) : Host.Outcome State Fault Refusal :=
  runEvent s (
    if !s.up || decide (64 ≤ home) || decide (28 ≤ seg) || decide (8 ≤ beat) || decide (4098 ≤ lane) || retries == 0
        || decide (3 < retries) || (failed && retries != 3) then none
    else
      let loc := seg * 2 ^ 35 + beat * 2 ^ 32 + lane * 2 ^ 19
      let s1 := s.logUnit .bondGroup home (logEntry s.wstime (if failed then 4 else 3) 0 retries loc)
      some (s1.beginTest .bondGroup home loc failed))

/-! Fencing (R387) and dead links (R394). -/

/-- The blocks whose dirty bytes a tile's slice holds (R328). -/
def State.dirtyBlocks (s : State) (tile : Nat) : List Nat :=
  ((s.tile tile).slice.filter (fun f => f.dirty != 0)).filterMap s.frameBlock

/-- A job of a fenced tile: HALT_REQ, every level cancelled, unbound (R387); the job's counter shows a level that was
cancelled, now or before (R358). -/
def State.endJob (s : State) (slot : Nat) : State :=
  let s1 := (s.haltJob slot).cancelLevels slot 3 0
  s1.setSlot slot { s1.slot slot with unbind := .cancel, cut := (s.slot slot).cut || (s.slot slot).cuttable }

/-- Fences a tile (R387). -/
def State.fence (s : State) (tile : Nat) : State :=
  if (s.tile tile).fenced then s
  else
    let gone := s.dirtyBlocks tile
    let s2 := (s.setTile tile { s.tile tile with fenced := true, slice := [] }).loseBlocks gone
    ((s2.slots.filter (fun p => p.2.bound && p.2.box.contains tile)).map Prod.fst).foldl
      (fun (u : State) k => u.endJob k) s2


/-- Marks a link dead in the routers at both its ends; the tiles of a ring with two dead links are fenced (R394). Ports are
+x, −x, +y, −y, +z, −z. -/
def State.markDead (s : State) (tile port : Nat) : State :=
  let axis := port / 2
  let low := if port % 2 = 0 then tile else ringTile tile axis ((axisOf axis).2 - 1)
  let high := ringTile low axis 1
  let set (u : State) (t p : Nat) : State := u.setTile t { u.tile t with dead := (u.tile t).dead ||| BitVec.ofNat 6 (2 ^ p) }
  let s1 := set (set s low (2 * axis)) high (2 * axis + 1)
  let ring := ringOf tile axis
  if 2 ≤ (ring.filter (fun t => (s1.tile t).dead.getLsbD (2 * axis))).length then
    ring.foldl (fun (u : State) t => u.fence t) s1
  else s1

/-! Retiring stacked capacity (R335). -/

/-- Whether a block is allocated: a mapping, a page table or the root of a bound job holds it. -/
def State.allocated (s : State) (b : Nat) : Bool := !s.frameFree (4096 * b) 4096

/-- The HBM slot, 0 to 7, of a member of a set; none for the one in the stacked slot (R321). -/
def Home.hbmSlot (x : Home) (set m : Nat) : Option Nat :=
  if m = x.stacked set then none else if m = 0 then some (x.stacked set - 1) else some (m - 1)

/-- The members of a set that hold data: the reserve sets have no member 0 (R312, R321). -/
def setMembers (set : Nat) : List Nat := (List.range 9).filter (fun m => m != 0 || decide (set < 258048))

/-- Pushing or loss for one set (R335). Which free member loses its HBM slot is open, unless the stacked one is free. The
stacked member is pushed out wherever another is free, also where no allocated member lies in HBM, of which the rule says
nothing (notes/assumptions/39.md). -/
def State.retireSet (s : State) (home set : Nat) : State :=
  let x := s.home home
  let e := x.stacked set
  let free := (setMembers set).filter (fun m => (m == e || (x.hbmSlot set m).isSome)
    && !s.allocated (blockOfMember home set m) && !s.mg.removed.contains (blockOfMember home set m))
  let drop (u : State) (f : Nat) : State :=
    let v := { u with mg := { u.mg with removed := sinsert u.mg.removed (blockOfMember home set f) } }
    v.setHome home { x with remap := if f = 0 then aerase x.remap set else aset x.remap set f }
  if free.contains e then drop s e
  else
    match free with
    | [] => s.loseBlocks [blockOfMember home set e]
    | f :: _ => drop s.draw.2 (free.getD (s.draw.1.toNat % free.length) f)

/-- Retires the bond group of a bank group of a layer (R335). -/
def State.retire (s : State) (home layer group : Nat) : State :=
  let x := s.home home
  let x1 := { x with retired := x.retired ++ [(layer, group)] }
  let sets (l g : Nat) : List Nat := (List.range 4096).map (fun i => (l * 16 + g) * 4096 + i)
  if layer = 3 ∧ group = 15 then
    let s1 := s.setHome home { x1 with reserveUsed := some (3, 15) }
    match x.reserveUsed with
    | some (l, g) => (sets l g).foldl (fun (u : State) i => u.retireSet home i) s1
    | none => s1
  else if x.reserveUsed.isNone then s.setHome home { x1 with reserveUsed := some (layer, group) }
  else (sets layer group).foldl (fun (u : State) i => u.retireSet home i) (s.setHome home x1)

/-! The end of a self-test (R386). -/


/-- The granule of a bad word reads as zero from now on (R386). -/
def State.replaceBad (s : State) (u : ErrUnit) (place loc : Nat) : State :=
  let g := plateGranule loc
  let t := s.tile place
  if u = .plate ∧ t.bad.contains g then
    s.setTile place { t with bad := t.bad.filter (fun x => x != g), spad := memClear t.spad (256 * g) 256
                             granules := sinsert t.granules g }
  else s

/-- Takes one of `n` spares that a table counts by key; none when they are used up. -/
def takeSpare (l : Assoc Nat) (key n : Nat) : Option (Assoc Nat) :=
  if (aget l key).getD 0 < n then some (aset l key ((aget l key).getD 0 + 1)) else none

/-- Takes a spare lane for a link: a lateral link's own, or one of the two that its column's bus has at a die boundary which
the link crosses; which boundary holds the faulty lane is a free value (R6, R386). -/
def State.takeLane (s : State) (tile port : Nat) (w : Word) : Option State :=
  let t := s.tile tile
  if port < 4 then (takeSpare t.lanesUsed port Config.lateralSpares).map (fun l => s.setTile tile { t with lanesUsed := l })
  else
    let bs := boundariesOf tile port
    let h := s.home (tile % 64)
    (takeSpare h.lanesUsed (bs.getD (w.toNat % bs.length) 5) 2).map (fun l => s.setHome (tile % 64) { h with lanesUsed := l })

/-- A lasting fault of a link: a lane is swapped; with no spare left, or when the swap fails, which a free value decides, the
link is dead (R386, R394). -/
def State.linkFault (s : State) (tile port : Nat) : Nat × State :=
  let (w, s1) := s.draw
  match s1.takeLane tile port w with
  | some u => if w.getLsbD 63 then (0, u.markDead tile port) else (2, u)
  | none => (0, s1.markDead tile port)

/-- What a lasting fault leads to: the action that is logged, and the state (R386). -/
def State.lasting (s : State) (u : ErrUnit) (place loc : Nat) : Nat × State :=
  let t := s.tile place
  let x := s.home place
  match u with
  | .plate =>
    match takeSpare t.rowsUsed (loc / 2 ^ 31) 2 with
    | some l => (1, s.setTile place { t with rowsUsed := l })
    | none => (4, s.fence place)
  | .array =>
    match takeSpare t.rowsUsed (512 + bits loc 26 4) 2 with
    | some l => (1, s.setTile place { t with rowsUsed := l })
    | none => (4, s.fence place)
  | .logic => (4, s.fence place)
  | .link => s.linkFault place (loc / 2 ^ 37)
  | .dramRow =>
    let key := loc / 2 ^ 22 / 4096
    match takeSpare x.rowsUsed key 16 with
    | some l => (1, s.setHome place { x with rowsUsed := l })
    | none => (3, s.retire place (key / 16) (key % 16))
  | .bondGroup =>
    let seg := loc / 2 ^ 35
    match takeSpare x.lanesUsed seg 2 with
    | some l => (2, s.setHome place { x with lanesUsed := l })
    | none =>
      if seg < 4 then
        let (w, s1) := s.draw
        (3, s1.retire place (seg + w.toNat % (4 - seg)) (w.toNat / 4 % 16))
      else (3, s)

/-- SELF_TEST_DONE (R386). The test after a third failed retry of the bus always fails: it names the lane (R388). -/
def execSelfTestDone (k : Nat) (passed : Bool) (s : State) : Host.Outcome State Fault Refusal :=
  runEvent s (
    match s.mg.selfTests[k]? with
    | none => none
    | some (u, place, loc, failed) =>
      let ok := passed && !failed
      let s1 := { s with mg := { s.mg with selfTests := s.mg.selfTests.eraseIdx k } }
      let (action, s2) := if ok then (0, s1) else s1.lasting u place loc
      some ((s2.replaceBad u place loc).logUnit u place (logEntry s.wstime (if ok then 5 else 6) action 0 loc)))

/-! Swaps (R321, R322). -/

/-- SWAP_START: which member has missed often enough is a matter of timing (notes/assumptions/4.md). -/
def execSwapStart (home set member : Nat) (s : State) : Host.Outcome State Fault Refusal :=
  runEvent s (
    let x := s.home home
    let g := (set / 4096 / 16, set / 4096 % 16)
    if !s.up || decide (64 ≤ home) || decide (258048 ≤ set) || decide (8 < member) || member == x.stacked set
        || x.swap.isSome || x.noSwap || (x.retired.contains g && x.reserveUsed != some g) then none
    else some (s.setHome home { x with swap := some (set, member) }))

/-- SWAP_COMPLETE: the remap entry is written; no value changes. -/
def execSwapComplete (home set : Nat) (s : State) : Host.Outcome State Fault Refusal :=
  runEvent s (
    let x := s.home home
    match x.swap with
    | some (n, m) =>
      if n = set then
        some (s.setHome home { x with swap := none, remap := if m = 0 then aerase x.remap set else aset x.remap set m })
      else none
    | none => none)

/-! The weight store's clock (R332, R333): whether a bank refreshes, and whether a unit has expired, is read from WSTIME at
each access, so the passing of the time changes nothing else. -/

/-- WS_REFRESH: timing only (R332). -/
def execWsRefresh (_tile _bank : Nat) (s : State) : Host.Outcome State Fault Refusal := .next s

/-- WS_DEADLINE: reads compare WSTIME with the deadline (R334). -/
def execWsDeadline (_tile _unit : Nat) (s : State) : Host.Outcome State Fault Refusal := .next s

/-! Thermal steps and resets (R19). Temperatures are in quarters of a degree. -/

/-- Whether some sensor reads `n` degrees or more. -/
def State.someAt (s : State) (n : Nat) : Bool := s.tiles.any (fun t => decide (4 * n ≤ t.2.temp))

/-- Whether every sensor reads `n` degrees or less. -/
def State.allAt (s : State) (n : Nat) : Bool := s.tiles.all (fun t => decide (t.2.temp ≤ 4 * n))

/-- THERMAL_THROTTLE. -/
def execThermalThrottle (s : State) : Host.Outcome State Fault Refusal :=
  runEvent s (
    let due := match s.mg.hotSince with
      | none => true
      | some t => decide (t + 1600000 ≤ s.wstime)
    if !s.up || s.mg.switching.isSome || !s.someAt 95 || !due then none
    else some { s with mg := { s.mg with clock := Nat.max 800 (s.mg.clock - 100), hotSince := some s.wstime } })

/-- THERMAL_RAISE. -/
def execThermalRaise (s : State) : Host.Outcome State Fault Refusal :=
  runEvent s (
    match s.mg.coolSince with
    | none => none
    | some t =>
      if !s.up || s.mg.switching.isSome || !s.allAt 90 || decide (1600 ≤ s.mg.clock) || decide (s.wstime < t + 16000000)
      then none
      else some { s with mg := { s.mg with clock := Nat.min 1600 (s.mg.clock + 100), coolSince := some s.wstime } })

/-- The part in reset: nothing is kept but what the flash, the fuses and the sensors hold. -/
def State.held (s : State) : State :=
  { State.reset with
    turns := s.turns
    focus := s.focus
    pick := s.pick
    tiles := s.tiles.map (fun (t : Nat × Tile) => (t.1, { Tile.reset with temp := t.2.temp, volt := t.2.volt }))
    mg := { Mgmt.reset with
      imageA := s.mg.imageA
      imageB := s.mg.imageB
      versionA := s.mg.versionA
      versionB := s.mg.versionB
      okA := s.mg.okA
      okB := s.mg.okB
      fuseVersion := s.mg.fuseVersion
      keyDigest := s.mg.keyDigest
      leaf := s.mg.leaf
      tripLog := s.mg.tripLog
      inReset := true } }

/-- THERMAL_TRIP. -/
def execThermalTrip (s : State) : Host.Outcome State Fault Refusal :=
  runEvent s (
    if !s.mg.powered || s.mg.tripped || !s.someAt 105 then none
    else
      let u := s.held
      some { u with mg := { u.mg with tripped := true, tripLog := true } })

/-- COLD_RESET: during a trip it is held until every sensor reads 70 degrees or less; BOOT follows. -/
def execColdReset (s : State) : Host.Outcome State Fault Refusal :=
  runEvent s (
    if !s.mg.powered then none
    else if s.mg.tripped && !s.allAt 70 then some { s with mg := { s.mg with coldWanted := true } }
    else some s.held)

/-- POWER_LOSS: fuses and flash keep what they hold (R400). Power that comes back starts the part anew: a power loss during a
thermal trip ends the trip, and BOOT needs no cold reset of the host's, at any temperature (notes/assumptions/42.md). -/
def execPowerLoss (s : State) : Host.Outcome State Fault Refusal :=
  runEvent s (
    let u := s.held
    some { u with mg := { u.mg with powered := false } })

/-- RTORD as it is stored: an order code of 6 or 7 stores 0 (R393). -/
def rtordOf (w : Word) : Word :=
  BitVec.ofNat 64 (((List.range 5).map (fun i => (if hf w (3 * i) 3 < 6 then hf w (3 * i) 3 else 0) * 2 ^ (3 * i))).sum)

/-- BOOT: image A, else image B, else the part stays in reset with result code 0xB0 (R399). Tueno writes RTORD, with orders
that the spec leaves open (R393). -/
def execBoot (s : State) : Host.Outcome State Fault Refusal :=
  runEvent s (
    let m := s.mg
    if !m.inReset || m.tripped then none
    else
      let a := m.verifies m.imageA m.versionA
      let b := m.verifies m.imageB m.versionB
      let (w, s1) := s.draw
      if a || b then
        some { s1 with mg := { m with powered := true, inReset := false, okA := a, okB := b, runB := !a, status := 0
                                      rtord := rtordOf w } }
      else some { s with mg := { m with powered := true, okA := a, okB := b, status := mgsts 4 0 0xB0 0 } })

/-! Monitors (R402). -/

/-- Whether a voltage is more than 5 % off. -/
def voltOff (v : Nat) : Bool :=
  decide (Config.nominalMv < 20 * (Nat.max v Config.nominalMv - Nat.min v Config.nominalMv))

/-- The readings of a sample. -/
def State.sampled (s : State) (temps volts procs : List (Nat × Nat)) : State :=
  let s1 := (temps.filter (fun p => decide (p.1 < 1536))).foldl (fun (u : State) p =>
    u.setTile p.1 { u.tile p.1 with temp := p.2 }) s
  let s2 := (volts.filter (fun p => decide (p.1 < 1536))).foldl (fun (u : State) p =>
    let t := u.tile p.1
    u.setTile p.1 { t with volt := p.2, voltSince := if voltOff p.2 then some (t.voltSince.getD s.wstime) else none }) s1
  { s2 with mg := { s2.mg with
    procs := (procs.filter (fun p => decide (p.1 < 29))).foldl (fun (l : Assoc Nat) p => aset l p.1 p.2) s2.mg.procs
    hotSince := if s2.someAt 95 then s2.mg.hotSince else none
    coolSince := if s2.allAt 90 then some (s2.mg.coolSince.getD s.wstime) else none } }

/-- MONITOR_SAMPLE; a cold reset that a trip has held goes through once every sensor reads 70 degrees or less (R19). -/
def execMonitorSample (temps : List (Nat × Nat)) (volts : List (Nat × Nat)) (procs : List (Nat × Nat)) (s : State) :
    Host.Outcome State Fault Refusal :=
  runEvent s (
    if !s.mg.powered then none
    else
      let u := s.sampled temps volts procs
      if u.mg.tripped && u.mg.coldWanted && u.allAt 70 then some u.held else some u)

/-- VOLTAGE_EXCURSION: 1 ms off; logged, in the tile's SRAM log with an entry that the spec does not give, and flagged
(R402; notes/assumptions/41.md). -/
def execVoltageExcursion (tile : Nat) (s : State) : Host.Outcome State Fault Refusal :=
  runEvent s (
    let t := s.tile tile
    match t.voltSince with
    | none => none
    | some c =>
      if !s.up || decide (s.wstime < c + 1600000) then none
      else
        let s1 := (s.setTile tile { t with voltSince := none }).logAt (.tile tile)
        some { s1 with mg := { s1.mg with voltFlags := s1.mg.voltFlags ++ [tile] } })

end Sys2Proof.Machine
end

