-- ==== Sys2Proof/Machine/Near.lean ====
section
/-! DEFINITION. Near-memory operations (spec/13 R323 to R326). -/

namespace Sys2Proof.Machine

/-- Bytes of source for one line (R325). -/
def nearSrc (kind : NmKind) : Nat := if kind = .cx then 64 else 32

/-- Whether an address lies in the issuing tile's own scratchpad (R324). -/
def ownSpad (jt : Nat) (ea : Word) : Bool :=
  let a := ea.toNat
  step1 a && regionOf a == 7 && bits a 32 20 == 0 && (bits a 21 11 == 2047 || bits a 21 11 == jt)

/-- The address of line `i` of a run of lines of `n` bytes. -/
def lineAddr (ea : Word) (n i : Nat) : Word := ea + BitVec.ofNat 64 (n * i)

/-- `nmop` (R323, R324). -/
def execNmop (g : Guard) (kind : NmKind) (nm1 : BitVec 12) (scope : BitVec 5) (aval : BitVec 32) (d : SDst)
    (a b c : SSrc) (s : State) : Host.Outcome State Fault Refusal :=
  runInstr g 16 s (fun s => do
    s.dstReady d
    let (y, s1) ← s.readS a
    let (x, s2) ← s1.readS b
    let (k, s3) ← s2.counterOf c
    s3.redScope scope false k
    let n := nm1.toNat + 1
    let lines := (List.range n).map (fun i => (lineAddr y 32 i).toNat)
    checkAll lines (fun v => regionOf v != 6) .wsWrite
    checkAll lines (fun v => step1 v && decide (regionOf v < 4)) .addr
    aligned y 32
    aligned x 32
    need (ownSpad s3.me.jtile x) .addr x
    let src := rangeUnits x (nearSrc kind * n)
    checkAll src (fun v => ownSpad s3.me.jtile (BitVec.ofNat 64 v)) .addr
    checkAll src (step5 s3.mySlot) .perm
    s3.counterOk k
    s3.issueCopy d (.near y x (k.getD 0) k.isSome kind n aval scope.toNat))

/-- FP32, as the near-memory units compute. -/
def nearFmt : Fmt := fmtOf .f32

/-- The FP32 sum x * y + z with one rounding to nearest even (R325, R226). -/
def nearFma (x y z : Nat) : Nat := (fmaVal nearFmt .rne 0 (nearFmt.val x) (nearFmt.val y) (nearFmt.val z)).1

/-- Bytes of the words of a line that are read-modify-write events of their own (R326). -/
def nearUnit : NmKind → Nat
  | .add32 | .addf | .axpy => 4
  | .cx => 8
  | .addx => 16

/-- Word `j` of a line after an update: its old value `y`, and the source of the line as a number (R325). -/
def nearWord (kind : NmKind) (aval : BitVec 32) (x j y : Nat) : Nat :=
  match kind with
  | .add32 => (y + bits x (32 * j) 32) % 2 ^ 32
  | .addf => amoNew .fadd 32 y (bits x (32 * j) 32)
  | .addx => (intVal true 96 ((bits y 0 96 + bits x (128 * j) 96) % 2 ^ 96) % (2 ^ 128 : Nat)).toNat
  | .cx => if y = bits x (64 * j) 64 then bits x (256 + 64 * j) 64 else y
  | .axpy => nearFma aval.toNat (bits x (32 * j) 32) y

/-- The words of a line from `j` on are updated one after the other at the line's unit (R326): the old words, the events met
and made, and the state. -/
def State.nearWords (s : State) (a : Attr) (v : Seen) (kind : NmKind) (aval : BitVec 32) (x : Nat) :
    Nat → List (List Loc) → List Nat × Seen × State
  | _, [] => ([], [], s)
  | j, u :: t =>
    let r := s.rmwAs false a v ⟨[], v⟩ u (fun y => some (bytesOf (nearUnit kind) (nearWord kind aval x j y)))
    let (olds, seen, s1) := r.after.nearWords a v kind aval x (j + 1) t
    (r.old :: olds, Seen.join (Seen.join r.got r.made) seen, s1)

/-- One line of a near-memory command: its sector leaves the home slice, and `cx` writes what it found back to its source
(R325, R326). -/
def State.nearUpdate (s : State) (ag : Agent) (run : CopyRun) (y x : Word) (kind : NmKind) (aval : BitVec 32) :
    Except Stop (Seen × State) := do
  let ya := lineAddr y 32 run.next
  let sa := span (lineAddr x (nearSrc kind) run.next) (nearSrc kind)
  let sl ← (if kind = .cx then s.locateRmw ag sa else s.locate ag false false 1 sa)
  let yl ← s.locateRmw ag (span ya 32)
  let (bs, met, s1) := s.readAs (plainAttr ag) run.seen (sl.map (fun l => [l]))
  let (olds, seen, s2) := s1.nearWords (plainAttr ag) run.seen kind aval (leNat bs) 0 (chunks (nearUnit kind) yl)
  let s3 := s2.cleanSector true (s.slot ag.slot).asid ya.toNat
  if kind = .cx then
    let (made, s4) := s3.engineStore ag run.seen (sa.zip (olds.flatMap (bytesOf 8))) (sl.take 32)
    .ok (Seen.join (Seen.join met seen) made, s4)
  else .ok (Seen.join met seen, s3)

/-- The near-memory commands of a core that may update a line: the first of each context, in whose order its commands reach
a line (R326). -/
def nearFirsts (l : List CopyRun) : List Nat :=
  (l.zipIdx.filter (fun p => p.1.cmd.isNear
    && !(l.take p.2).any (fun x => x.cmd.isNear && x.slot == p.1.slot && x.ctx == p.1.ctx))).map Prod.snd

/-- Which of them the next line update serves: the schedule's first choice, or the oldest. -/
def State.nearIndex (s : State) (l : List CopyRun) : Option Nat :=
  let f := nearFirsts l
  (f[(s.record.choices.headD (0, 0)).1]?).orElse (fun _ => f.head?)

/-- Posts the arrival of a command for its issuer (R227, R325). -/
def State.postArrival (s : State) (tile : Nat) (p : Posted) : State :=
  let t := s.tile tile
  s.setTile tile { t with posted := t.posted ++ [p] }

/-- The next line of a near-memory command of a core. -/
def State.nearStep (s : State) (tile core : Nat) : Option State :=
  let t := s.tile tile
  match s.nearIndex (t.core core).copies with
  | none => none
  | some k =>
    match (t.core core).copies[k]? with
    | none => none
    | some r =>
      match r.cmd with
      | .near y x ctr arr kind n aval scope =>
        if !(t.works r.slot || (r.next % 32 != 0 && t.runs r.slot (t.jtileOf r.slot))) || r.held.isSome
            || !canRun (t.core core).copies k then none
        else
          let ag : Agent := ⟨r.slot, t.jtileOf r.slot, tile, core, r.waited⟩
          match s.nearUpdate ag r y x kind aval with
          | .ok (seen, u) =>
            let r1 := { r with started := true, next := r.next + 1, waited := [], made := Seen.join r.made seen }
            if r.next + 1 < n then some (u.setRun tile core k r1)
            else
              let v := u.copyDone tile core r1
              let id : CtxId := ⟨tile, core, r.ctx⟩
              let (grp, w) := v.freshGroup
              some (if arr then w.postArrival tile 
                { owner := id, gen := (w.ctx id).gen, slot := r.slot, jtile := ag.jt, ord := .plain, scope, group := grp
                  seen := Seen.join r1.seen r1.made, fences := [], pub := [], waited := [], upd := .arrive ctr } else v)
          | .error e => s.copyStopped tile core k r e
      | _ => none

/-- NMOP_LINE_UPDATE (R325, R326). -/
def execNmopLineUpdate (tile core : Nat) (s : State) : Host.Outcome State Fault Refusal :=
  runEvent s (s.nearStep tile core)

end Sys2Proof.Machine
end

