-- ==== Sys2Proof/Machine/VectorFp.lean ====
section
/-! DEFINITION. The vector floating-point and conversion instructions of group 0x100 (spec/06 R142 to R146). -/

namespace Sys2Proof.Machine

/-- The masked result of an operation with flags, and the flags of the active elements ORed (R133). -/
def fmasked (w : Nat) (m : BitVec 32) (zm : Bool) (old : VWord) (f : Nat → Nat × Flags) : VWord × Flags :=
  let l := (List.range (1024 / w)).map fun j =>
    if activeElem m w j then f j else (if zm then 0 else elem old w j, 0)
  (vecOf w (l.map Prod.fst), (l.map Prod.snd).foldl (· ||| ·) 0)

/-- Completes a vector instruction with flags (R66). -/
def State.vfDone (s : State) (d : VDst) (r : VWord × Flags) : Except Stop State :=
  s.fpDone r.2 (fun t => .ok (t.writeV d r.1))

/-- A masked floating-point operation on one source; element `j` has the SRD coordinate (0, j) (R143). -/
def State.vfop1 (s : State) (w : Nat) (c : VCtl) (d : VDst) (a : VSrc) (f : Nat → Nat → Nat × Flags) :
    Except Stop State :=
  let x := s.readV a
  s.vfDone d (fmasked w (s.readM c.mask) c.zm (s.readVD d) (fun j => f (dither 0 j) (elem x w j)))

/-- A masked floating-point operation on two sources. -/
def State.vfop2 (s : State) (w : Nat) (c : VCtl) (d : VDst) (a b : VSrc) (f : Nat → Nat → Nat → Nat × Flags) :
    Except Stop State :=
  let x := s.readV a
  let y := s.readV b
  s.vfDone d (fmasked w (s.readM c.mask) c.zm (s.readVD d) (fun j => f (dither 0 j) (elem x w j) (elem y w j)))

/-- Width of an arithmetic type. -/
def ftyWidth (t : FTy) : Nat := (ftyFp t).width

/-- `vfadd` (R143). -/
def execVfadd (g : Guard) (ty : FTy) (rm : RMode) (c : VCtl) (d : VDst) (a b : VSrc) (s : State) :
    Host.Outcome State Fault Refusal :=
  runInstr g 8 s (fun s => let f := fmtTy ty
    s.vfop2 (ftyWidth ty) c d a b (fun t x y => addVal f (s.rmOf rm) t (f.val x) (f.val y)))
/-- `vfsub` (R143). -/
def execVfsub (g : Guard) (ty : FTy) (rm : RMode) (c : VCtl) (d : VDst) (a b : VSrc) (s : State) :
    Host.Outcome State Fault Refusal :=
  runInstr g 8 s (fun s => let f := fmtTy ty
    s.vfop2 (ftyWidth ty) c d a b (fun t x y => addVal f (s.rmOf rm) t (f.val x) (f.val y).opp))
/-- `vfmul` (R143). -/
def execVfmul (g : Guard) (ty : FTy) (rm : RMode) (c : VCtl) (d : VDst) (a b : VSrc) (s : State) :
    Host.Outcome State Fault Refusal :=
  runInstr g 8 s (fun s => let f := fmtTy ty
    s.vfop2 (ftyWidth ty) c d a b (fun t x y => mulVal f (s.rmOf rm) t (f.val x) (f.val y)))
/-- `vfma` (R143). -/
def execVfma (g : Guard) (ty : FTy) (rm : RMode) (c : VCtl) (d : VDst) (a b x : VSrc) (s : State) :
    Host.Outcome State Fault Refusal :=
  runInstr g 8 s (fun s =>
    let f := fmtTy ty
    let w := ftyWidth ty
    let u := s.readV a
    let v := s.readV b
    let z := s.readV x
    s.vfDone d (fmasked w (s.readM c.mask) c.zm (s.readVD d) (fun j =>
      fmaVal f (s.rmOf rm) (dither 0 j) (f.val (elem u w j)) (f.val (elem v w j)) (f.val (elem z w j)))))
/-- `vfmin` (R144). -/
def execVfmin (g : Guard) (ty : FTy) (c : VCtl) (d : VDst) (a b : VSrc) (s : State) : Host.Outcome State Fault Refusal :=
  runInstr g 8 s (fun s => s.vfop2 (ftyWidth ty) c d a b (fun _ x y => minMaxVal (fmtTy ty) false x y))
/-- `vfmax` (R144). -/
def execVfmax (g : Guard) (ty : FTy) (c : VCtl) (d : VDst) (a b : VSrc) (s : State) : Host.Outcome State Fault Refusal :=
  runInstr g 8 s (fun s => s.vfop2 (ftyWidth ty) c d a b (fun _ x y => minMaxVal (fmtTy ty) true x y))
/-- `vfabs` clears or inverts the sign bits (R144). -/
def execVfabs (g : Guard) (ty : FpTy) (inv : Bool) (c : VCtl) (d : VDst) (a : VSrc) (s : State) :
    Host.Outcome State Fault Refusal :=
  runInstr g 8 s (fun s =>
    .ok (s.vop1 ty.width c d a (fun x => if inv then flipSign ty.width x else x % 2 ^ (ty.width - 1))))
/-- `vfcmp`: both bits of a 64-bit element take its result (R144). -/
def execVfcmp (g : Guard) (ty : FTy) (c : VCtl) (cc : FCond) (md : BitVec 3) (a b : VSrc) (s : State) :
    Host.Outcome State Fault Refusal :=
  runInstr g 8 s (fun s =>
    let f := fmtTy ty
    let w := ftyWidth ty
    let k := w / 32
    let x := s.readV a
    let y := s.readV b
    let m := s.readM c.mask
    let r (j : Nat) := fcmpVal cc (f.val (elem x w j)) (f.val (elem y w j))
    let fl := ((List.range (1024 / w)).map (fun j => if activeElem m w j then (r j).2 else 0)).foldl (· ||| ·) 0
    let v := cmpMask m (s.readM md) c.zm (fun l => l / k * k) (fun l => (r (l / k)).1)
    s.fpDone fl (fun t => .ok (t.writeM md v)))

/-- The converted vector of `vfcvt` and its flags (R145). -/
def vfcvtVal (ty dty : ElemTy) (part : Nat) (rm : RMode) (fz8 : Bool) (row : Nat) (m : BitVec 32) (zm : Bool)
    (old x : VWord) : VWord × Flags :=
  let ws := ty.width
  let wd := dty.width
  let ns := 1024 / ws
  let nd := 1024 / wd
  let conv (k src : Nat) := convert ty dty rm (dither row k) fz8 (elem x ws src)
  let dead (k : Nat) : Nat × Flags := (if zm then 0 else elem old wd k, 0)
  let l := (List.range nd).map fun k =>
    if wd ≤ ws then
      if part * ns ≤ k ∧ k < part * ns + ns then
        (if activeElem m ws (k - part * ns) then conv k (k - part * ns) else dead k)
      else (elem old wd k, 0)
    else if activeElem m wd k then conv k (part * nd + k)
    else dead k
  (vecOf wd (l.map Prod.fst), (l.map Prod.snd).foldl (· ||| ·) 0)

/-- `vfcvt` (R145). -/
def execVfcvt (g : Guard) (ty dty : ElemTy) (part : BitVec 3) (rm : RMode) (c : VCtl) (d : VDst) (a : VSrc) (row : SSrc)
    (s : State) : Host.Outcome State Fault Refusal :=
  runInstr g 8 s (fun s => do
    let (r, s1) ← s.readS row
    s1.vfDone d (vfcvtVal ty dty part.toNat (s.rmOf rm) (fpcsFz8 s.me.csr.fpcs) (bits r.toNat 0 5) (s.readM c.mask) c.zm
      (s.readVD d) (s.readV a)))

/-- `vexp2` (R143). -/
def execVexp2 (g : Guard) (rm : RMode) (c : VCtl) (d : VDst) (a : VSrc) (s : State) : Host.Outcome State Fault Refusal :=
  runInstr g 8 s (fun s => let f := fmtOf .f32
    s.vfop1 32 c d a (fun t x => exp2Val f (s.rmOf rm) t (f.val x)))
/-- `vlog2` (R143). -/
def execVlog2 (g : Guard) (rm : RMode) (c : VCtl) (d : VDst) (a : VSrc) (s : State) : Host.Outcome State Fault Refusal :=
  runInstr g 8 s (fun s => let f := fmtOf .f32
    s.vfop1 32 c d a (fun t x => log2Val f (s.rmOf rm) t (f.val x)))
/-- `vrcp` (R143). -/
def execVrcp (g : Guard) (rm : RMode) (c : VCtl) (d : VDst) (a : VSrc) (s : State) : Host.Outcome State Fault Refusal :=
  runInstr g 8 s (fun s => let f := fmtOf .f32
    s.vfop1 32 c d a (fun t x => rcpVal f (s.rmOf rm) t (f.val x)))
/-- `vrsq` (R143). -/
def execVrsq (g : Guard) (rm : RMode) (c : VCtl) (d : VDst) (a : VSrc) (s : State) : Host.Outcome State Fault Refusal :=
  runInstr g 8 s (fun s => let f := fmtOf .f32
    s.vfop1 32 c d a (fun t x => rsqVal f (s.rmOf rm) t (f.val x)))

/-! Reductions (R146). -/

/-- One node of the tree: two operands under an operation at a coordinate. -/
def fredNode (f : Fmt) (op : FRedOp) (rm : RMode) (t : Nat) (x y : Nat) : Nat × Flags :=
  match op with
  | .add => addVal f rm t (f.val x) (f.val y)
  | .min => minMaxVal f false x y
  | .max => minMaxVal f true x y

/-- One level of the tree from pair `i` on. -/
def fredLevel (f : Fmt) (op : FRedOp) (rm : RMode) (k : Nat) : Nat → List (Option Nat) → List (Option Nat) × Flags
  | i, x :: y :: t =>
    let r := fredLevel f op rm k (i + 1) t
    match x, y with
    | some a, some b =>
      let n := fredNode f op rm (dither k i) a b
      (some n.1 :: r.1, n.2 ||| r.2)
    | some a, none => (some a :: r.1, r.2)
    | none, b => (b :: r.1, r.2)
  | _, l => (l, 0)

/-- The levels of the tree from level `k` on. -/
def fredTree (f : Fmt) (op : FRedOp) (rm : RMode) : Nat → Nat → List (Option Nat) → Option Nat × Flags
  | 0, _, l => (l.headD none, 0)
  | n + 1, k, l =>
    let r := fredLevel f op rm k 0 l
    let q := fredTree f op rm n (k + 1) r.1
    (q.1, r.2 ||| q.2)

/-- The value of `vfred` and its flags (R146). -/
def vfredVal (ty : FTy) (op : FRedOp) (rm : RMode) (m : BitVec 32) (v : VWord) : Nat × Flags :=
  let f := fmtTy ty
  let w := ftyWidth ty
  let l := (List.range (1024 / w)).map fun j => if activeElem m w j then some (elem v w j) else none
  let r := fredTree f op rm (Nat.log2 (1024 / w)) 0 l
  (r.1.getD (if op = .add then 0 else f.nan), r.2)

/-- `vfred` (R146). -/
def execVfred (g : Guard) (ty : FTy) (op : FRedOp) (rm : RMode) (c : VCtl) (d : SDst) (a : VSrc) (s : State) :
    Host.Outcome State Fault Refusal :=
  runInstr g 8 s (fun s => do
    s.dstReady d
    let r := vfredVal ty op (s.rmOf rm) (s.readM c.mask) (s.readV a)
    s.fpDone r.2 (fun t => t.writeS d (BitVec.ofNat 64 r.1)))

end Sys2Proof.Machine
end

