-- ==== Sys2Proof/Machine/Wide.lean ====
section
/-! DEFINITION. The wide accumulator: `wclr`, `wadd`, `wrd` and the tile atomic unit (spec/06 R148 to R153). -/

namespace Sys2Proof.Machine

/-- The checks of R148, and of R164 and R386 for the object's 80 bytes: the object's offset in the tile's scratchpad. -/
def State.wideObject (s : State) (ea : Word) : Except Stop Nat := do
  let a := ea.toNat
  need (step1 a && regionOf a == 7 && bits a 32 20 == 0 && (bits a 21 11 == 2047 || bits a 21 11 == s.me.jtile))
    .addr ea
  aligned ea 128
  let _ ← s.locate s.agent true false 1 (span ea 80)
  .ok (bits a 0 21)

/-- Whether an earlier posted update of the context touches the object: its own accesses keep their order (R152). -/
def State.widePending (s : State) (ea : Word) : Bool :=
  s.ownPosted.any (fun p => p.keys.any (fun k => ((span ea 80).map (byteKey s.agent false 1)).contains k))

/-- Sends an event to the tile atomic unit (R150, R151). -/
def State.sendWide (s : State) (ea : Word) (ofs : Nat) (add : Option Int) : Except Stop State := do
  ready (!s.widePending ea)
  let t := s.myTile
  .ok { (s.setTile s.cur.tile { t with wide := t.wide ++ [⟨s.cur, s.nextId, ofs, add⟩] }) with nextId := s.nextId + 1 }

/-- `wclr` (R148, R150). -/
def execWclr (g : Guard) (a : SSrc) (s : State) : Host.Outcome State Fault Refusal :=
  runInstr g 8 s (fun s => do
    let (ea, s1) ← s.readS a
    let ofs ← s1.wideObject ea
    s1.sendWide ea ofs none)

/-- The addend of `wadd` in units of 2^-320, none when nothing is sent, and the flags raised (R151). -/
def wideAddend : FVal → Option Int × Flags
  | .nan _ | .inf _ => (none, fNV)
  | .fin n m e =>
    let r := roundToInt .rne 0 n m (e + 320)
    let nx := if r.2 then fNX else 0
    if r.1 < -(2 ^ 639 : Nat) ∨ (2 ^ 639 : Nat) - 1 < r.1 then (none, nx ||| fOF) else (some r.1, nx)

/-- `wadd` (R148, R149, R151). -/
def execWadd (g : Guard) (ty : FTy) (m : MemOp) (c : SSrc) (s : State) : Host.Outcome State Fault Refusal :=
  runInstr g 12 s (fun s => do
    let (ea, s1) ← s.memEa m
    let (x, s2) ← s1.readS c
    let ofs ← s2.wideObject ea
    let r := wideAddend (fpVal ty x)
    s2.fpDone r.2 (fun t =>
      match r.1 with
      | none => .ok t
      | some v => t.sendWide ea ofs (some v)))

/-- The value that `wrd` delivers (R153). -/
def wideValue (ty : FTy) (rm : RMode) (w : Nat) : Nat × Flags :=
  let v := intVal true 640 w
  (fmtTy ty).round rm (dither 0 0) false (decide (v < 0)) v.natAbs (-320) false

/-- The locations of an object's bytes. -/
def wideLocs (tile ofs : Nat) : List Loc := (List.range 80).map (fun i => .spad tile (ofs + i))

/-- `wrd` is one atomic read at scope 1, after every earlier event of its own context on the object (R152, R153). -/
def execWrd (g : Guard) (ty : FTy) (rm : RMode) (d : SDst) (a : SSrc) (s : State) : Host.Outcome State Fault Refusal :=
  runInstr g 8 s (fun s => do
    s.dstReady d
    let (ea, s1) ← s.readS a
    let ofs ← s1.wideObject ea
    ready (!s1.widePending ea && !(s1.ownWide ofs || s1.ownWide (ofs + 79)))
    let a := s1.attr .plain 1
    let q := s1.rmwAs false a s1.me.view.own s1.passing (wideLocs s1.cur.tile ofs) (fun _ => none)
    let s2 := q.after.learnRead a [wideLocs s1.cur.tile ofs] q.got
    let r := fpWord (wideValue ty (s2.rmOf rm) q.old)
    s2.fpDone r.2 (fun t => t.writeS d r.1))

/-- The object's number after an event, as a 640-bit pattern (R150, R151). -/
def wideAfter (w : Nat) : Option Int → Nat
  | none => 0
  | some t => (((w : Int) + t) % (2 ^ 640 : Nat)).toNat

/-- The bytes of the words that an event writes: all for a clear, only changed ones for an addition (R150, R151). -/
def wideCells (tile ofs old new : Nat) (all : Bool) : List (Loc × Byte) :=
  (List.range 80).filterMap (fun i =>
    if all || bits old (i / 8 * 64) 64 != bits new (i / 8 * 64) 64 then
      some (.spad tile (ofs + i), BitVec.ofNat 8 (bits new (8 * i) 8))
    else none)

/-- The tile atomic unit performs an event whole: one atomic write at scope 1 (R152). -/
def State.wideEvent (s : State) (tile : Nat) (u : WideUpd) : State :=
  let old := memNat (s.tile tile).spad u.ofs 80
  let cells := wideCells tile u.ofs old (wideAfter old u.add) u.add.isNone
  let v := (s.ctx u.owner).view
  let (made, s1) := s.writeAs (attrOf (s.agentOf u.owner) .plain 1) .wide v.own ⟨v.fences, v.pub⟩ [] [[cells]]
  if !s.record.keep then s1
  else
    let c := s1.ctx u.owner
    (s1.setCtx u.owner { c with view := c.view.meet made }).tellPosted u.owner c.gen c.slot u.num made

/-- WIDE_UPDATE: the oldest event at a tile's atomic unit performs (R152), once its plate is not under test; one that finds an
uncorrectable word does nothing, and its context takes MEM_LOST (R386). -/
def execWideUpdate (tile : Nat) (s : State) : Host.Outcome State Fault Refusal :=
  runEvent s (
    let t := s.tile tile
    match t.wide with
    | [] => none
    | u :: rest =>
      let s1 := s.setTile tile { t with wide := rest }
      if s.plateBusy tile u.ofs then none
      else if t.bad.contains (u.ofs / 256) then
        some (s1.postTrap u.owner ⟨TrapCode.memLost.num, 3, BitVec.ofNat 64 (7 * 2 ^ 52 + 2047 * 2 ^ 21 + u.ofs)⟩)
      else some (s1.wideEvent tile u))

end Sys2Proof.Machine
end

