-- ==== Sys2Proof/Machine/Dispatch.lean ====
section
/-! DEFINITION. The dispatch: one arm per instruction. -/

namespace Sys2Proof.Machine

/-- The meaning of an instruction or event. -/
def exec (i : Instr) (s : State) : Host.Outcome State Fault Refusal :=
  match i with
  | .nop g hdr => Sys2Proof.Machine.execNop g hdr s
  | .brk g code => Sys2Proof.Machine.execBrk g code s
  | .br g neg p ofs => Sys2Proof.Machine.execBr g neg p ofs s
  | .jmp g ofs => Sys2Proof.Machine.execJmp g ofs s
  | .call g link ofs => Sys2Proof.Machine.execCall g link ofs s
  | .jr g a => Sys2Proof.Machine.execJr g a s
  | .callr g link a => Sys2Proof.Machine.execCallr g link a s
  | .ret g a => Sys2Proof.Machine.execRet g a s
  | .plog g pd pa pb tt => Sys2Proof.Machine.execPlog g pd pa pb tt s
  | .pmov g n f => Sys2Proof.Machine.execPmov g n f s
  | .nest g ps a b c stp => Sys2Proof.Machine.execNest g ps a b c stp s
  | .iter g ofs => Sys2Proof.Machine.execIter g ofs s
  | .align g k => Sys2Proof.Machine.execAlign g k s
  | .alignTimeout tile core ctx => Sys2Proof.Machine.execAlignTimeout tile core ctx s
  | .done g => Sys2Proof.Machine.execDone g s
  | .doneComplete tile core ctx => Sys2Proof.Machine.execDoneComplete tile core ctx s
  | .who g d sel => Sys2Proof.Machine.execWho g d sel s
  | .li g d imm => Sys2Proof.Machine.execLi g d imm s
  | .mov g d a => Sys2Proof.Machine.execMov g d a s
  | .add g ty d a b => Sys2Proof.Machine.execAdd g ty d a b s
  | .addi g d a imm => Sys2Proof.Machine.execAddi g d a imm s
  | .sub g ty d a b => Sys2Proof.Machine.execSub g ty d a b s
  | .mul g ty d a b => Sys2Proof.Machine.execMul g ty d a b s
  | .muli g d a imm => Sys2Proof.Machine.execMuli g d a imm s
  | .mulh g ty d a b => Sys2Proof.Machine.execMulh g ty d a b s
  | .div g ty d a b => Sys2Proof.Machine.execDiv g ty d a b s
  | .rem g ty d a b => Sys2Proof.Machine.execRem g ty d a b s
  | .and g ty d a b => Sys2Proof.Machine.execAnd g ty d a b s
  | .andi g d a imm => Sys2Proof.Machine.execAndi g d a imm s
  | .or g ty d a b => Sys2Proof.Machine.execOr g ty d a b s
  | .ori g d a imm => Sys2Proof.Machine.execOri g d a imm s
  | .xor g ty d a b => Sys2Proof.Machine.execXor g ty d a b s
  | .xori g d a imm => Sys2Proof.Machine.execXori g d a imm s
  | .andn g ty d a b => Sys2Proof.Machine.execAndn g ty d a b s
  | .shl g ty d a b => Sys2Proof.Machine.execShl g ty d a b s
  | .shli g d a imm => Sys2Proof.Machine.execShli g d a imm s
  | .shr g ty d a b => Sys2Proof.Machine.execShr g ty d a b s
  | .shri g d a imm => Sys2Proof.Machine.execShri g d a imm s
  | .sar g ty d a b => Sys2Proof.Machine.execSar g ty d a b s
  | .sari g d a imm => Sys2Proof.Machine.execSari g d a imm s
  | .rol g ty d a b => Sys2Proof.Machine.execRol g ty d a b s
  | .roli g d a imm => Sys2Proof.Machine.execRoli g d a imm s
  | .min g ty d a b => Sys2Proof.Machine.execMin g ty d a b s
  | .max g ty d a b => Sys2Proof.Machine.execMax g ty d a b s
  | .abs g ty d a => Sys2Proof.Machine.execAbs g ty d a s
  | .neg g ty d a => Sys2Proof.Machine.execNeg g ty d a s
  | .sel g n d a b => Sys2Proof.Machine.execSel g n d a b s
  | .cmp g ty cc pd a b => Sys2Proof.Machine.execCmp g ty cc pd a b s
  | .cmpi g cc pd a imm => Sys2Proof.Machine.execCmpi g cc pd a imm s
  | .clz g ty d a => Sys2Proof.Machine.execClz g ty d a s
  | .ctz g ty d a => Sys2Proof.Machine.execCtz g ty d a s
  | .popc g ty d a => Sys2Proof.Machine.execPopc g ty d a s
  | .brev g ty d a => Sys2Proof.Machine.execBrev g ty d a s
  | .bfx g signed d a pos lm1 => Sys2Proof.Machine.execBfx g signed d a pos lm1 s
  | .bfi g d a b pos lm1 => Sys2Proof.Machine.execBfi g d a b pos lm1 s
  | .ext g ty d a => Sys2Proof.Machine.execExt g ty d a s
  | .lea g d a b scl disp => Sys2Proof.Machine.execLea g d a b scl disp s
  | .fadd g ty rm d a b => Sys2Proof.Machine.execFadd g ty rm d a b s
  | .fsub g ty rm d a b => Sys2Proof.Machine.execFsub g ty rm d a b s
  | .fmul g ty rm d a b => Sys2Proof.Machine.execFmul g ty rm d a b s
  | .fma g ty rm d a b c => Sys2Proof.Machine.execFma g ty rm d a b c s
  | .fdiv g ty rm d a b => Sys2Proof.Machine.execFdiv g ty rm d a b s
  | .fsqrt g ty rm d a => Sys2Proof.Machine.execFsqrt g ty rm d a s
  | .frcp g ty rm d a => Sys2Proof.Machine.execFrcp g ty rm d a s
  | .frsq g ty rm d a => Sys2Proof.Machine.execFrsq g ty rm d a s
  | .fmin g ty d a b => Sys2Proof.Machine.execFmin g ty d a b s
  | .fmax g ty d a b => Sys2Proof.Machine.execFmax g ty d a b s
  | .fabs g ty d a => Sys2Proof.Machine.execFabs g ty d a s
  | .fneg g ty d a => Sys2Proof.Machine.execFneg g ty d a s
  | .fcmp g ty cc pd a b => Sys2Proof.Machine.execFcmp g ty cc pd a b s
  | .fclass g ty d a => Sys2Proof.Machine.execFclass g ty d a s
  | .fcvt g ty dty rm d a => Sys2Proof.Machine.execFcvt g ty dty rm d a s
  | .faddi g d a imm => Sys2Proof.Machine.execFaddi g d a imm s
  | .fmuli g d a imm => Sys2Proof.Machine.execFmuli g d a imm s
  | .vadd g ty c d a b => Sys2Proof.Machine.execVadd g ty c d a b s
  | .vsub g ty c d a b => Sys2Proof.Machine.execVsub g ty c d a b s
  | .vmul g ty c d a b => Sys2Proof.Machine.execVmul g ty c d a b s
  | .vmad g ty c d a b x => Sys2Proof.Machine.execVmad g ty c d a b x s
  | .vmin g ty c d a b => Sys2Proof.Machine.execVmin g ty c d a b s
  | .vmax g ty c d a b => Sys2Proof.Machine.execVmax g ty c d a b s
  | .vabs g ty c d a => Sys2Proof.Machine.execVabs g ty c d a s
  | .vneg g ty c d a => Sys2Proof.Machine.execVneg g ty c d a s
  | .vand g ty c d a b => Sys2Proof.Machine.execVand g ty c d a b s
  | .vor g ty c d a b => Sys2Proof.Machine.execVor g ty c d a b s
  | .vxor g ty c d a b => Sys2Proof.Machine.execVxor g ty c d a b s
  | .vshl g ty c d a b => Sys2Proof.Machine.execVshl g ty c d a b s
  | .vshr g ty c d a b => Sys2Proof.Machine.execVshr g ty c d a b s
  | .vsar g ty c d a b => Sys2Proof.Machine.execVsar g ty c d a b s
  | .vcmp g signed c cc md a b => Sys2Proof.Machine.execVcmp g signed c cc md a b s
  | .vsel g mk d a b => Sys2Proof.Machine.execVsel g mk d a b s
  | .vaddi g d a imm => Sys2Proof.Machine.execVaddi g d a imm s
  | .vred g ty op c d a => Sys2Proof.Machine.execVred g ty op c d a s
  | .vscan g ty op c d a => Sys2Proof.Machine.execVscan g ty op c d a s
  | .vperm g ty c d a b x => Sys2Proof.Machine.execVperm g ty c d a b x s
  | .vbcast g ty c d a => Sys2Proof.Machine.execVbcast g ty c d a s
  | .vextr g ty d a b => Sys2Proof.Machine.execVextr g ty d a b s
  | .vins g ty d a b => Sys2Proof.Machine.execVins g ty d a b s
  | .vmov g c d a => Sys2Proof.Machine.execVmov g c d a s
  | .vmovFromIndex g d b => Sys2Proof.Machine.execVmovFromIndex g d b s
  | .vmovToIndex g a b => Sys2Proof.Machine.execVmovToIndex g a b s
  | .vmpop g d n first => Sys2Proof.Machine.execVmpop g d n first s
  | .vmlog g md ma mb tt => Sys2Proof.Machine.execVmlog g md ma mb tt s
  | .vfadd g ty rm c d a b => Sys2Proof.Machine.execVfadd g ty rm c d a b s
  | .vfsub g ty rm c d a b => Sys2Proof.Machine.execVfsub g ty rm c d a b s
  | .vfmul g ty rm c d a b => Sys2Proof.Machine.execVfmul g ty rm c d a b s
  | .vfma g ty rm c d a b x => Sys2Proof.Machine.execVfma g ty rm c d a b x s
  | .vfmin g ty c d a b => Sys2Proof.Machine.execVfmin g ty c d a b s
  | .vfmax g ty c d a b => Sys2Proof.Machine.execVfmax g ty c d a b s
  | .vfabs g ty inv c d a => Sys2Proof.Machine.execVfabs g ty inv c d a s
  | .vfcmp g ty c cc md a b => Sys2Proof.Machine.execVfcmp g ty c cc md a b s
  | .vfcvt g ty dty part rm c d a row => Sys2Proof.Machine.execVfcvt g ty dty part rm c d a row s
  | .vexp2 g rm c d a => Sys2Proof.Machine.execVexp2 g rm c d a s
  | .vlog2 g rm c d a => Sys2Proof.Machine.execVlog2 g rm c d a s
  | .vrcp g rm c d a => Sys2Proof.Machine.execVrcp g rm c d a s
  | .vrsq g rm c d a => Sys2Proof.Machine.execVrsq g rm c d a s
  | .vfred g ty op rm c d a => Sys2Proof.Machine.execVfred g ty op rm c d a s
  | .wclr g a => Sys2Proof.Machine.execWclr g a s
  | .wadd g ty m c => Sys2Proof.Machine.execWadd g ty m c s
  | .wrd g ty rm d a => Sys2Proof.Machine.execWrd g ty rm d a s
  | .wideUpdate tile => Sys2Proof.Machine.execWideUpdate tile s
  | .rng g c d => Sys2Proof.Machine.execRng g c d s
  | .ld g sz o ord rep scope sx d m => Sys2Proof.Machine.execLd g sz o ord rep scope sx d m s
  | .st g sz o ord scope m c => Sys2Proof.Machine.execSt g sz o ord scope m c s
  | .vld g sz o acq rep scope c d m => Sys2Proof.Machine.execVld g sz o acq rep scope c d m s
  | .vst g sz o rel scope mk m c => Sys2Proof.Machine.execVst g sz o rel scope mk m c s
  | .vldx g sz o acq rep scope sx c d base idx scl disp => Sys2Proof.Machine.execVldx g sz o acq rep scope sx c d base idx scl disp s
  | .vstx g sz o rel scope mk base idx scl disp c => Sys2Proof.Machine.execVstx g sz o rel scope mk base idx scl disp c s
  | .tld g o acq rep id scope c d a b => Sys2Proof.Machine.execTld g o acq rep id scope c d a b s
  | .tst g o rel id scope mk a b c => Sys2Proof.Machine.execTst g o rel id scope mk a b c s
  | .pf g rep sector m => Sys2Proof.Machine.execPf g rep sector m s
  | .tdef g a b => Sys2Proof.Machine.execTdef g a b s
  | .tdefBroadcast slot => Sys2Proof.Machine.execTdefBroadcast slot s
  | .tget g w d a => Sys2Proof.Machine.execTget g w d a s
  | .taddr g o id d a b => Sys2Proof.Machine.execTaddr g o id d a b s
  | .hgl g acq rep id scope c d a b => Sys2Proof.Machine.execHgl g acq rep id scope c d a b s
  | .hgs g id scope mk ctr a b c => Sys2Proof.Machine.execHgs g id scope mk ctr a b c s
  | .hgw g id c d a b corner => Sys2Proof.Machine.execHgw g id c d a b corner s
  | .nmop g kind nm1 scope aval d a b c => Sys2Proof.Machine.execNmop g kind nm1 scope aval d a b c s
  | .nmopLineUpdate tile core => Sys2Proof.Machine.execNmopLineUpdate tile core s
  | .cinv g all m => Sys2Proof.Machine.execCinv g all m s
  | .cwb g drop m => Sys2Proof.Machine.execCwb g drop m s
  | .mwl g slot o af8 id d a b => Sys2Proof.Machine.execMwl g slot o af8 id d a b s
  | .mma g acc slot o id d a b => Sys2Proof.Machine.execMma g acc slot o id d a b s
  | .mst g acc o clr fz8 rm id d a b c => Sys2Proof.Machine.execMst g acc o clr fz8 rm id d a b c s
  | .mclr g acc d => Sys2Proof.Machine.execMclr g acc d s
  | .mclrLoad g acc o id d a b => Sys2Proof.Machine.execMclrLoad g acc o id d a b s
  | .mfac g acc lu ptrap status num a c => Sys2Proof.Machine.execMfac g acc lu ptrap status num a c s
  | .mtrs g acc kind id status num a b => Sys2Proof.Machine.execMtrs g acc kind id status num a b s
  | .matrixTileStep tile unit path => Sys2Proof.Machine.execMatrixTileStep tile unit path s
  | .cpy g tr o d4 sid did mcax mcmap d a b c => Sys2Proof.Machine.execCpy g tr o d4 sid did mcax mcmap d a b c s
  | .cpyk g d a b c => Sys2Proof.Machine.execCpyk g d a b c s
  | .cfill g d a b c => Sys2Proof.Machine.execCfill g d a b c s
  | .cring g id d a b c => Sys2Proof.Machine.execCring g id d a b c s
  | .copyGranule tile core k => Sys2Proof.Machine.execCopyGranule tile core k s
  | .fillCountUpdate tile core => Sys2Proof.Machine.execFillCountUpdate tile core s
  | .rclaim g cons id scope d => Sys2Proof.Machine.execRclaim g cons id scope d s
  | .rclaimNb g ps cons id scope d => Sys2Proof.Machine.execRclaimNb g ps cons id scope d s
  | .rclaimTimeout tile core ctx => Sys2Proof.Machine.execRclaimTimeout tile core ctx s
  | .rfree g id scope a => Sys2Proof.Machine.execRfree g id scope a s
  | .fork g a ofs => Sys2Proof.Machine.execFork g a ofs s
  | .rdv g d => Sys2Proof.Machine.execRdv g d s
  | .programEnd tile core ctx => Sys2Proof.Machine.execProgramEnd tile core ctx s
  | .qpush g qn a => Sys2Proof.Machine.execQpush g qn a s
  | .qpushNb g ps qn a => Sys2Proof.Machine.execQpushNb g ps qn a s
  | .qpop g qn d => Sys2Proof.Machine.execQpop g qn d s
  | .qpopNb g ps qn d => Sys2Proof.Machine.execQpopNb g ps qn d s
  | .amo g op dbl ord scope d m c => Sys2Proof.Machine.execAmo g op dbl ord scope d m c s
  | .cas g sz ord scope ps d m c => Sys2Proof.Machine.execCas g sz ord scope ps d m c s
  | .red g op dbl rel scope ctr m c => Sys2Proof.Machine.execRed g op dbl rel scope ctr m c s
  | .redVector g op rel scope ctr m c => Sys2Proof.Machine.execRedVector g op rel scope ctr m c s
  | .fenceAcq g scope => Sys2Proof.Machine.execFenceAcq g scope s
  | .fenceRel g scope => Sys2Proof.Machine.execFenceRel g scope s
  | .fenceSc g scope => Sys2Proof.Machine.execFenceSc g scope s
  | .cadd g ord scope m c => Sys2Proof.Machine.execCadd g ord scope m c s
  | .cwait g src d c => Sys2Proof.Machine.execCwait g src d c s
  | .cwaitNb g ps src d c => Sys2Proof.Machine.execCwaitNb g ps src d c s
  | .cwaitReread tile core ctx => Sys2Proof.Machine.execCwaitReread tile core ctx s
  | .cread g acq src d => Sys2Proof.Machine.execCread g acq src d s
  | .claim g ord scope d m c => Sys2Proof.Machine.execClaim g ord scope d m c s
  | .send g delay a b c => Sys2Proof.Machine.execSend g delay a b c s
  | .sendNb g ps delay a b c => Sys2Proof.Machine.execSendNb g ps delay a b c s
  | .sendTrapping g delay a b c => Sys2Proof.Machine.execSendTrapping g delay a b c s
  | .sendOutcome tile core ctx => Sys2Proof.Machine.execSendOutcome tile core ctx s
  | .reply g a b c => Sys2Proof.Machine.execReply g a b c s
  | .spawn g det a b c => Sys2Proof.Machine.execSpawn g det a b c s
  | .spawnNb g ps det a b c => Sys2Proof.Machine.execSpawnNb g ps det a b c s
  | .mspill g d a => Sys2Proof.Machine.execMspill g d a s
  | .mreplay g d a => Sys2Proof.Machine.execMreplay g d a s
  | .mstat g sel d => Sys2Proof.Machine.execMstat g sel d s
  | .launch g d a => Sys2Proof.Machine.execLaunch g d a s
  | .cancel g sel => Sys2Proof.Machine.execCancel g sel s
  | .trap g code => Sys2Proof.Machine.execTrap g code s
  | .eret g => Sys2Proof.Machine.execEret g s
  | .csrr g d num => Sys2Proof.Machine.execCsrr g d num s
  | .csrw g num a => Sys2Proof.Machine.execCsrw g num a s
  | .asyncTrap tile core ctx => Sys2Proof.Machine.execAsyncTrap tile core ctx s
  | .fetchDelivery tile => Sys2Proof.Machine.execFetchDelivery tile s
  | .icacheFill tile asid block => Sys2Proof.Machine.execIcacheFill tile asid block s
  | .accessPerform tile k => Sys2Proof.Machine.execAccessPerform tile k s
  | .faultResolution k resolved => Sys2Proof.Machine.execFaultResolution k resolved s
  | .sideLogReplay tile k => Sys2Proof.Machine.execSideLogReplay tile k s
  | .arrival tile k => Sys2Proof.Machine.execArrival tile k s
  | .messageInjection tile core out => Sys2Proof.Machine.execMessageInjection tile core out s
  | .delayExpiry tile core => Sys2Proof.Machine.execDelayExpiry tile core s
  | .messageArrival tile core net => Sys2Proof.Machine.execMessageArrival tile core net s
  | .deferredAdmission tile core net => Sys2Proof.Machine.execDeferredAdmission tile core net s
  | .creditedAdmission tile core => Sys2Proof.Machine.execCreditedAdmission tile core s
  | .activationStart tile core => Sys2Proof.Machine.execActivationStart tile core s
  | .bitternStart tile core => Sys2Proof.Machine.execBitternStart tile core s
  | .governorCheck tile => Sys2Proof.Machine.execGovernorCheck tile s
  | .governorMove tile => Sys2Proof.Machine.execGovernorMove tile s
  | .launchPortLaunch w => Sys2Proof.Machine.execLaunchPortLaunch w s
  | .launchPortCancel w => Sys2Proof.Machine.execLaunchPortCancel w s
  | .dispatchLaunch slot => Sys2Proof.Machine.execDispatchLaunch slot s
  | .graphNodeFire slot serial => Sys2Proof.Machine.execGraphNodeFire slot serial s
  | .graphComplete slot serial => Sys2Proof.Machine.execGraphComplete slot serial s
  | .launchComplete slot serial => Sys2Proof.Machine.execLaunchComplete slot serial s
  | .phaseEnd slot => Sys2Proof.Machine.execPhaseEnd slot s
  | .bind => Sys2Proof.Machine.execBind s
  | .preemptionComplete tile => Sys2Proof.Machine.execPreemptionComplete tile s
  | .unbind => Sys2Proof.Machine.execUnbind s
  | .unbindRelease slot => Sys2Proof.Machine.execUnbindRelease slot s
  | .foldSwitch tile => Sys2Proof.Machine.execFoldSwitch tile s
  | .map => Sys2Proof.Machine.execMap s
  | .unmap asid va n => Sys2Proof.Machine.execUnmap asid va n s
  | .halt slot => Sys2Proof.Machine.execHalt slot s
  | .status => Sys2Proof.Machine.execStatus s
  | .logread => Sys2Proof.Machine.execLogread s
  | .logclr => Sys2Proof.Machine.execLogclr s
  | .monread => Sys2Proof.Machine.execMonread s
  | .attest nonce => Sys2Proof.Machine.execAttest nonce s
  | .update image version => Sys2Proof.Machine.execUpdate image version s
  | .switch => Sys2Proof.Machine.execSwitch s
  | .switchReady => Sys2Proof.Machine.execSwitchReady s
  | .switchTimeout => Sys2Proof.Machine.execSwitchTimeout s
  | .egress => Sys2Proof.Machine.execEgress s
  | .unknownCommand => Sys2Proof.Machine.execUnknownCommand s
  | .mailboxResponse => Sys2Proof.Machine.execMailboxResponse s
  | .bar0Write ofs size val => Sys2Proof.Machine.execBar0Write ofs size val s
  | .hostMemAccess dpa len write => Sys2Proof.Machine.execHostMemAccess dpa len write s
  | .hostCompletion k st data => Sys2Proof.Machine.execHostCompletion k st data s
  | .hostRequestTimeout k => Sys2Proof.Machine.execHostRequestTimeout k s
  | .peerAccess dpa len write => Sys2Proof.Machine.execPeerAccess dpa len write s
  | .peerAtomic dpa sz op x y => Sys2Proof.Machine.execPeerAtomic dpa sz op x y s
  | .frameIngress port fcsOk stamp frame => Sys2Proof.Machine.execFrameIngress port fcsOk stamp frame s
  | .sluiceDelivery => Sys2Proof.Machine.execSluiceDelivery s
  | .egressTransmit port stamp => Sys2Proof.Machine.execEgressTransmit port stamp s
  | .thermalThrottle => Sys2Proof.Machine.execThermalThrottle s
  | .thermalRaise => Sys2Proof.Machine.execThermalRaise s
  | .thermalTrip => Sys2Proof.Machine.execThermalTrip s
  | .coldReset => Sys2Proof.Machine.execColdReset s
  | .boot => Sys2Proof.Machine.execBoot s
  | .monitorSample temps volts procs => Sys2Proof.Machine.execMonitorSample temps volts procs s
  | .voltageExcursion tile => Sys2Proof.Machine.execVoltageExcursion tile s
  | .errorEvent unit place loc fixable => Sys2Proof.Machine.execErrorEvent unit place loc fixable s
  | .busParityFail home seg beat lane retries failed => Sys2Proof.Machine.execBusParityFail home seg beat lane retries failed s
  | .selfTestDone k passed => Sys2Proof.Machine.execSelfTestDone k passed s
  | .swapStart home set member => Sys2Proof.Machine.execSwapStart home set member s
  | .swapComplete home set => Sys2Proof.Machine.execSwapComplete home set s
  | .wsRefresh tile bank => Sys2Proof.Machine.execWsRefresh tile bank s
  | .wsDeadline tile unit => Sys2Proof.Machine.execWsDeadline tile unit s
  | .powerLoss => Sys2Proof.Machine.execPowerLoss s

end Sys2Proof.Machine
end

