-- ==== Sys2Proof/Machine/Step.lean ====
section
/-! DEFINITION. One step of the part, and how a test places an instruction. -/

namespace Sys2Proof.Machine

/-- One step: the next turn of the schedule that the state holds (notes/assumptions/2.md). -/
def step (s : State) : Host.Outcome State Fault Refusal := scheduled exec s

/-- The state with an instruction of the given bits where the next step fetches it (notes/assumptions/11.md). -/
def State.withFetchWord (s : State) (nbits w : Nat) : State := placeWord s (w % 2 ^ nbits)

end Sys2Proof.Machine
end

