-- ==== Sys2Proof/Safety.lean ====
section
/-! DEFINITION. The terms in which claims are made: an instruction that is over, what it delivers, and the canonical form
of device memory. -/

namespace Sys2Proof.Machine

/-- An instruction of `len` bytes is over: its context waits for nothing and control flows on past it (R21, R22). -/
def State.flow (t : State) (len : Nat) : State := (t.setMe { t.me with wait := .none, kept := none, waited := [] }).advance len

/-- The instruction completes by writing `v` to `d` in `u`, whenever that destination takes a value. -/
def Delivers (i : Instr) (s u : State) (d : SDst) (v : Word) (len : Nat) : Prop :=
  ∀ t, u.writeS d v = .ok t → exec i s = .next (t.flow len)

/-- The instruction completes in the state `u`, control flowing on. -/
def Completes (i : Instr) (s u : State) (len : Nat) : Prop := exec i s = .next (u.flow len)

/-- Put of R110: a pattern of the type's width, extended to 64 bits by the type. -/
def putBv (ty : IntTy) (v : BitVec ty.width) : Word := if ty.signed then v.signExtend 64 else v.setWidth 64

/-- The immediate of an arithmetic form under a type (R70, R111). -/
def immBv (ty : IntTy) (imm : BitVec 28) : BitVec ty.width :=
  (if ty.signed then imm.signExtend 64 else imm.setWidth 64 : Word).setWidth ty.width

/-- The conditions of R118 on two patterns. -/
def condBv (ty : IntTy) (c : ICond) (x y : BitVec ty.width) : Bool :=
  match c with
  | .eq => x == y
  | .ne => x != y
  | .lt => if ty.signed then x.slt y else x.ult y
  | .le => if ty.signed then x.sle y else x.ule y
  | .gt => if ty.signed then y.slt x else y.ult x
  | .ge => if ty.signed then y.sle x else y.ule x
  | .tst => x &&& y != 0
  | .ntst => x &&& y == 0

/-- Element `j` of width `w` of a vector (R128). -/
def vecElem (v : VWord) (w j : Nat) : BitVec w := v.extractLsb' (w * j) w

/-- A vector whose active elements are those of `f` and whose other elements are the old ones, or zero (R129). -/
def MaskedVec (w : Nat) (m : BitVec 32) (zm : Bool) (old v : VWord) (f : Nat → BitVec w) : Prop :=
  ∀ j : Nat, w * j < 1024 →
    vecElem v w j = if m.getLsbD (w * j / 32) then f j else if zm then 0 else vecElem old w j

/-- The instruction of `len` bytes completes by writing to `d` in `u` a vector masked so. -/
def DeliversVecL (i : Instr) (s u : State) (c : VCtl) (d : VDst) (w : Nat) (f : Nat → BitVec w) (len : Nat) : Prop :=
  ∃ v : VWord, MaskedVec w (s.readM c.mask) c.zm (s.readVD d) v f ∧ Completes i s (u.writeV d v) len

/-- The same for an instruction of 8 bytes. -/
def DeliversVec (i : Instr) (s u : State) (c : VCtl) (d : VDst) (w : Nat) (f : Nat → BitVec w) : Prop :=
  DeliversVecL i s u c d w f 8

/-- The number that a sign, a magnitude and a power of two stand for (R57). -/
def realOf (neg : Bool) (m : Nat) (e : Int) : Rat := (if neg then -1 else 1) * (m : Rat) * (2 : Rat) ^ e

/-- A floating-point result with its flags is delivered when no raised flag is enabled to trap (R66). -/
def DeliversFp (i : Instr) (s u : State) (d : SDst) (r : Nat × Flags) (len : Nat) : Prop :=
  u.fpTraps r.2 = false → Delivers i s (u.orFlags r.2) d (BitVec.ofNat 64 r.1) len

/-- The flags of the active elements of a vector operation together (R133). -/
def activeFlags (w : Nat) (m : BitVec 32) (f : Nat → Nat × Flags) : Flags :=
  ((List.range (1024 / w)).filter (fun j => m.getLsbD (w * j / 32))).foldl (fun z j => z ||| (f j).2) 0

/-- A masked floating-point vector is delivered, with its flags, when none raised is enabled to trap (R133, R66). -/
def DeliversVecFp (i : Instr) (s : State) (c : VCtl) (d : VDst) (w : Nat) (f : Nat → Nat × Flags) : Prop :=
  let fl := activeFlags w (s.readM c.mask) f
  s.fpTraps fl = false → DeliversVec i s (s.orFlags fl) c d w (fun j => BitVec.ofNat w (f j).1)

/-- The pairwise tree of R146: entry `i` of level `k`; absent entries leave the present one unchanged. -/
def treeLevel {α : Type} (node : Nat → Nat → α → α → α) (t0 : Nat → Option α) : Nat → Nat → Option α
  | 0, i => t0 i
  | k + 1, i =>
    match treeLevel node t0 k (2 * i), treeLevel node t0 k (2 * i + 1) with
    | some x, some y => some (node k i x y)
    | some x, none => some x
    | none, y => y

/-! Accesses. -/

/-- No write events are recorded, so that a read returns what lies there and a write stands on top, and no instruction is on
trial. What else R191 to R211 allow is stated apart, of the record. -/
def State.InOrder (s : State) : Prop := s.record.keep = false ∧ s.record.trace = none

/-- The bytes `l` pass the checks of R180 for a read, and none waits for an earlier update of the context: their locations. -/
def State.Reaches (s : State) (o : Bool) (e : Nat) (pre l : List Nat) (al : Except Stop Unit) (locs : List Loc) : Prop :=
  s.access s.agent false o e pre l al = .ok locs ∧ s.blocked o e l = false ∧ s.strongPending = false

/-- The same, and the host has answered for each byte that lies in its memory (R391). -/
def State.ReadsAt (s : State) (o : Bool) (e : Nat) (pre l : List Nat) (al : Except Stop Unit) (locs : List Loc) : Prop :=
  s.Reaches o e pre l al locs ∧ hostNeed s.answers (l.zip locs) = none

/-- No replica that the read of the bytes `l` places waits for the write-back of the frame whose place it takes (R320, R322). -/
def State.replicaRoom (s : State) (rep plain : Bool) (l : List Nat) : Prop :=
  ∀ a ∈ l, s.usesReplica rep plain a = true → s.roomBusy s.cur.tile s.mySlot.asid (sectorOf a) = false

/-- No earlier pending update of the context touches a byte of an update, or lies in region 0; none of the two writes host
memory (R195, R198, R214, R391). -/
def State.Unclashed (s : State) (u : Update) : Prop :=
  let p := s.postOf .plain 0 s.nextId u
  (∀ q ∈ s.myTile.sideLog ++ s.myTile.posted, q.owner = s.cur → (∀ k ∈ q.keys, k ∉ p.keys) ∧ q.upd.toHost = false)
    ∧ s.onOwnWide p = false ∧ s.strongPending = false ∧ s.onLate p.keys = false

/-- The bytes `l` pass the checks of R180 for a store: their locations. -/
def State.WritesAt (s : State) (o : Bool) (e : Nat) (pre l : List Nat) (al : Except Stop Unit) (locs : List Loc) : Prop :=
  preCheck o pre al = .ok () ∧ checkAll l (stepW true) .wsWrite = .ok () ∧ s.locate s.agent true o e l = .ok locs

/-- The bytes are written where they lie, and those of host memory are sent there as posted writes (R391), while no record is
kept. -/
def State.stored (s : State) (l : List Nat) (locs : List Loc) (bytes : List Byte) : State :=
  (s.store (locs.zip bytes)).hostStores (some (plainAttr s.agent, s.passing)) ((l.zip locs).zip bytes)

/-- What the bytes `l` of a load read as, in their order, and the state after: each byte of a `.rep` read of a launch in
regions 1 to 3 from a replica, filled where there is none (R215); a byte of host memory as the host answered; any other where
it lies, through its home slice. -/
def State.seen (s : State) (rep plain o : Bool) (e : Nat) (l : List Nat) (locs : List Loc) : State × List Byte :=
  let use (a : Nat) : Bool := s.usesReplica rep plain a
  let direct := ((l.zip locs).filter (fun p => !use p.1)).map Prod.snd
  let (rs, u) := (s.touchReads direct).replicaBytes use (l.map (physVa o e))
  (u, (rs.zip (l.zip locs)).map (fun p =>
    if p.2.2.atHost then (answerByte s.answers p.2.1).getD 0 else p.1.getD (s.readLoc p.2.2)))

/-- The number in the `n` bytes from byte `k` on, of bytes listed by their numbers. -/
def bytesFrom (ks : List Nat) (bs : List Byte) (k n : Nat) : Nat :=
  leNat ((List.range n).map (fun i => (aget (ks.zip bs) (k + i)).getD 0))

/-- Two locations name one byte. -/
def Loc.same : Loc → Loc → Bool
  | .dev p _ _, .dev q _ _ | .dev p _ _, .raw q | .raw p, .dev q _ _ => p == q
  | a, b => a == b

/-! Commands. -/

/-- The state in which a copy command has joined its core's queue under the next number of its job's copy timeline (R212,
R260). -/
def State.withCopy (s : State) (cmd : CopyCmd) : State :=
  let v := s.issues.2
  let j := v.myJob
  let n := j.copyIssued + 1
  let u := v.setMyJob { j with copyIssued := n }
  let r : CopyRun :=
    { num := n, slot := s.me.slot, ctx := s.cur.ctx, byProg := s.inProg, launch := s.me.launch, started := false, next := 0
      held := none, waited := [], moved := false, cut := false, got := [], seen := s.issues.1, made := []
      after := if s.inProg then (s.me.prog.map (fun p => p.after)).getD 0 else 0, cmd := cmd }
  u.setCore s.cur.tile s.cur.core { u.myCore with copies := u.myCore.copies ++ [r] }

/-- The state in which a matrix command has joined its core's queue under the next number of its job's matrix timeline; an
entry of the status queue that it names is held (R212, R237, R239). -/
def State.withMatrix (s : State) (status : Option (BitVec 2)) (cmd : MatCmd) : State :=
  let n := s.myJob.matIssued + 1
  let g := s.cur.core / 8
  let k := s.cur.core % 8
  let r : MatRun :=
    { num := n, slot := s.me.slot, ctx := s.cur.ctx, launch := s.me.launch, status := status.map (fun st => st.toNat)
      next := 0, low := 0, begun := false, cut := false, held := none, waited := [], got := [], seen := s.issues.2.matrixPast s.issues.1, made := []
      cmd := cmd }
  let u := s.issues.2.setMyJob { s.issues.2.myJob with matIssued := n }
  let m := u.myTile.unit g
  let v := u.setUnit s.cur.tile g (m.setQueue k (m.queue k ++ [r]))
  match status with
  | none => v
  | some st =>
    let q := v.me.queue (BitVec.ofNat 3 (4 + st.toNat))
    v.setMe (v.me.setQueue (BitVec.ofNat 3 (4 + st.toNat)) { q with held := q.held + 1 })

/-- A matrix command may be accepted: the job is no overlay, a context that names a status queue is no handler, the context's
earlier updates have performed, and the core's queue and the named status queue have a free entry (R239, R265). -/
def State.matrixRoom (s : State) (status : Option (BitVec 2)) : Prop :=
  s.mySlot.ovl = false ∧ (status.isSome = true → s.me.handler = false) ∧ s.drained = true
    ∧ ((s.myTile.unit (s.cur.core / 8)).queue (s.cur.core % 8)).length < 16
    ∧ ∀ st, status = some st → (s.me.queue (BitVec.ofNat 3 (4 + st.toNat))).hasRoom = true

/-- Every byte passes steps 1, 4 and 5 of R180, which a command checks at issue (R252, R273). -/
def State.inReach (s : State) (l : List Nat) : Prop :=
  ∀ a ∈ l, step1 a = true ∧ step4 s.mySlot a = true ∧ step5 s.mySlot a = true

/-- A step that goes on: neither a fault nor a refusal. -/
def goesOn (o : Host.Outcome State Fault Refusal) : Bool :=
  match o with
  | .next _ => true
  | _ => false

/-- Device memory is in its canonical form. -/
def State.memCanonical (s : State) : Prop := Memory.wf s.mem = true

/-! Frames. -/

/-- The destination of an instruction that writes one scalar register and reads registers only. -/
def scalarDst : Instr → Option SDst
  | .li _ d _ | .mov _ d _ | .add _ _ d _ _ | .addi _ d _ _ | .sub _ _ d _ _ | .mul _ _ d _ _ | .muli _ d _ _
  | .mulh _ _ d _ _ | .div _ _ d _ _ | .rem _ _ d _ _ | .and _ _ d _ _ | .andi _ d _ _ | .or _ _ d _ _ | .ori _ d _ _
  | .xor _ _ d _ _ | .xori _ d _ _ | .andn _ _ d _ _ | .shl _ _ d _ _ | .shli _ d _ _ | .shr _ _ d _ _ | .shri _ d _ _
  | .sar _ _ d _ _ | .sari _ d _ _ | .rol _ _ d _ _ | .roli _ d _ _ | .min _ _ d _ _ | .max _ _ d _ _ | .abs _ _ d _
  | .neg _ _ d _ | .sel _ _ d _ _ | .clz _ _ d _ | .ctz _ _ d _ | .popc _ _ d _ | .brev _ _ d _ | .bfx _ _ d _ _ _
  | .bfi _ d _ _ _ _ | .ext _ _ d _ | .lea _ d _ _ _ _ => some d
  | .fadd _ _ _ d _ _ | .fsub _ _ _ d _ _ | .fmul _ _ _ d _ _ | .fma _ _ _ d _ _ _ | .fdiv _ _ _ d _ _ | .fsqrt _ _ _ d _
  | .frcp _ _ _ d _ | .frsq _ _ _ d _ | .fmin _ _ d _ _ | .fmax _ _ d _ _ | .fabs _ _ d _ | .fneg _ _ d _ | .fclass _ _ d _
  | .fcvt _ _ _ _ d _ | .faddi _ d _ _ | .fmuli _ d _ _ => some d
  | .vred _ _ _ _ d _ | .vextr _ _ d _ _ | .vmpop _ d _ _ | .vfred _ _ _ _ _ d _ => some d
  | .pmov _ _ (.fromPred d) | .pmov _ _ (.fromMask d) => some d
  | _ => none

/-- The destination of an instruction that writes one vector register and reads registers only. -/
def vectorDst : Instr → Option VDst
  | .vadd _ _ _ d _ _ | .vsub _ _ _ d _ _ | .vmul _ _ _ d _ _ | .vmad _ _ _ d _ _ _ | .vmin _ _ _ d _ _ | .vmax _ _ _ d _ _
  | .vabs _ _ _ d _ | .vneg _ _ _ d _ | .vand _ _ _ d _ _ | .vor _ _ _ d _ _ | .vxor _ _ _ d _ _ | .vshl _ _ _ d _ _
  | .vshr _ _ _ d _ _ | .vsar _ _ _ d _ _ | .vsel _ _ d _ _ | .vaddi _ d _ _ | .vscan _ _ _ _ d _ | .vperm _ _ _ d _ _ _
  | .vbcast _ _ _ d _ | .vins _ _ d _ _ | .vmov _ _ d _ | .vmovFromIndex _ d _ => some d
  | .vfadd _ _ _ _ d _ _ | .vfsub _ _ _ _ d _ _ | .vfmul _ _ _ _ d _ _ | .vfma _ _ _ _ d _ _ _ | .vfmin _ _ _ d _ _
  | .vfmax _ _ _ d _ _ | .vfabs _ _ _ _ d _ | .vfcvt _ _ _ _ _ _ d _ _ | .vexp2 _ _ _ d _ | .vlog2 _ _ _ d _
  | .vrcp _ _ _ d _ | .vrsq _ _ _ d _ => some d
  | _ => none

/-- The predicate that an instruction writes which reads registers only. -/
def predDst : Instr → Option (BitVec 3)
  | .cmp _ _ _ d _ _ | .cmpi _ _ d _ _ | .fcmp _ _ _ d _ _ | .plog _ d _ _ _ | .pmov _ d (.toPred _) => some d
  | _ => none

/-- The mask that an instruction writes which reads registers only. -/
def maskDst : Instr → Option (BitVec 3)
  | .vcmp _ _ _ _ d _ _ | .vfcmp _ _ _ _ d _ _ | .vmlog _ d _ _ _ | .pmov _ d (.toMask _) => some d
  | _ => none

/-- Two states hold the same memory, the same pending work of every engine, and the same of every context but the one that
executes. -/
def State.sameBut (s t : State) : Prop :=
  t.mem = s.mem ∧ t.record = s.record ∧ t.late = s.late ∧ t.hostReqs = s.hostReqs ∧ t.homes = s.homes
    ∧ (∀ d, (t.tile d).spad = (s.tile d).spad ∧ (t.tile d).ws = (s.tile d).ws ∧ (t.tile d).slice = (s.tile d).slice
      ∧ (t.tile d).posted = (s.tile d).posted ∧ (t.tile d).sideLog = (s.tile d).sideLog ∧ (t.tile d).wide = (s.tile d).wide
      ∧ (t.tile d).watches = (s.tile d).watches ∧ (t.tile d).fills = (s.tile d).fills ∧ (t.tile d).units = (s.tile d).units
      ∧ ∀ c, (t.core d c).copies = (s.core d c).copies)
    ∧ ∀ id : CtxId, id ≠ s.cur → t.ctx id = s.ctx id

end Sys2Proof.Machine
end

