-- ==== Sys2Proof/Certificates/Slice0/Obligations.lean ====
section
/-! DEFINITION. The statements for the provers. -/

section Slice0Obligations

open Sys2Proof Sys2Proof.Machine

/-! Scalar integer instructions (spec/05). -/

/-- R115, R110, R111, R70: the typed arithmetic forms and their immediate forms write Put of the exact result modulo 2^w.
R116: the quotient rounds toward zero; a divisor of zero gives the all-ones pattern and the dividend as remainder.
R70, R111, R117: shifts by a 64-bit natural count, or by the immediate zero-extended (R117) and truncated to the operation's
width (R70), which of the two holds being a reading (notes/assumptions/48.md); a count of w or more.
R119: counting and reversing bits of the w-bit pattern. -/
def Obligations.IntegerFormsActOnTheirPattern : Prop :=
  (∀ (g : Guard) (ty : IntTy) (d : SDst) (a b : SSrc) (imm : BitVec 28) (s s1 s2 : State) (x y : Word),
      s.guard g = true → s.readS a = .ok (x, s1) → s1.readS b = .ok (y, s2) →
      let w := ty.width
      let X : BitVec w := x.setWidth w
      let Y : BitVec w := y.setWidth w
      let it := s.immTy
      let V : BitVec it.width := x.setWidth it.width
      let K : BitVec it.width := immBv it imm
      let N : BitVec it.width := (imm.setWidth 64 : Word).setWidth it.width
      Delivers (.add g ty d a b) s s2 d (putBv ty (X + Y)) 8
      ∧ Delivers (.sub g ty d a b) s s2 d (putBv ty (X - Y)) 8
      ∧ Delivers (.mul g ty d a b) s s2 d (putBv ty (X * Y)) 8
      ∧ Delivers (.mulh g ty d a b) s s2 d (putBv ty (
          if ty.signed then ((X.signExtend (2 * w)) * (Y.signExtend (2 * w))).extractLsb' w w
          else ((X.setWidth (2 * w)) * (Y.setWidth (2 * w))).extractLsb' w w)) 8
      ∧ Delivers (.and g ty d a b) s s2 d (putBv ty (X &&& Y)) 8
      ∧ Delivers (.or g ty d a b) s s2 d (putBv ty (X ||| Y)) 8
      ∧ Delivers (.xor g ty d a b) s s2 d (putBv ty (X ^^^ Y)) 8
      ∧ Delivers (.andn g ty d a b) s s2 d (putBv ty (X &&& ~~~Y)) 8
      ∧ Delivers (.min g ty d a b) s s2 d (putBv ty (if (if ty.signed then X.sle Y else X.ule Y) then X else Y)) 8
      ∧ Delivers (.max g ty d a b) s s2 d (putBv ty (if (if ty.signed then X.sle Y else X.ule Y) then Y else X)) 8
      ∧ (ty.signed = true → Delivers (.abs g ty d a) s s1 d (putBv ty X.abs) 8)
      ∧ Delivers (.neg g ty d a) s s1 d (putBv ty (-X)) 8
      ∧ Delivers (.ext g ty d a) s s1 d (putBv ty X) 8
      ∧ Delivers (.addi g d a imm) s s1 d (putBv it (V + K)) 8
      ∧ Delivers (.muli g d a imm) s s1 d (putBv it (V * K)) 8
      ∧ Delivers (.andi g d a imm) s s1 d (putBv it (V &&& N)) 8
      ∧ Delivers (.ori g d a imm) s s1 d (putBv it (V ||| N)) 8
      ∧ Delivers (.xori g d a imm) s s1 d (putBv it (V ^^^ N)) 8)
  ∧ (∀ (g : Guard) (ty : IntTy) (d : SDst) (a b : SSrc) (s s1 s2 : State) (x y : Word),
      s.guard g = true → s.readS a = .ok (x, s1) → s1.readS b = .ok (y, s2) →
      let w := ty.width
      let X : BitVec w := x.setWidth w
      let Y : BitVec w := y.setWidth w
      Delivers (.div g ty d a b) s s2 d (putBv ty (
        if Y = 0 then BitVec.allOnes w else if ty.signed then X.sdiv Y else X / Y)) 8
      ∧ Delivers (.rem g ty d a b) s s2 d (putBv ty (
        if Y = 0 then X else if ty.signed then X.srem Y else X % Y)) 8)
  ∧ (∀ (g : Guard) (ty : IntTy) (d : SDst) (a b : SSrc) (imm : BitVec 28) (s s1 s2 : State) (x y : Word),
      s.guard g = true → s.readS a = .ok (x, s1) → s1.readS b = .ok (y, s2) →
      let w := ty.width
      let X : BitVec w := x.setWidth w
      let it := s.immTy
      let V : BitVec it.width := x.setWidth it.width
      let k := imm.toNat % 2 ^ it.width
      Delivers (.shl g ty d a b) s s2 d (putBv ty (X <<< y.toNat)) 8
      ∧ Delivers (.shr g ty d a b) s s2 d (putBv ty (X >>> y.toNat)) 8
      ∧ Delivers (.sar g ty d a b) s s2 d (putBv ty (X.sshiftRight y.toNat)) 8
      ∧ Delivers (.rol g ty d a b) s s2 d (putBv ty (X.rotateLeft y.toNat)) 8
      ∧ Delivers (.shli g d a imm) s s1 d (putBv it (V <<< k)) 8
      ∧ Delivers (.shri g d a imm) s s1 d (putBv it (V >>> k)) 8
      ∧ Delivers (.sari g d a imm) s s1 d (putBv it (V.sshiftRight k)) 8
      ∧ Delivers (.roli g d a imm) s s1 d (putBv it (V.rotateLeft k)) 8)
  ∧ (∀ (g : Guard) (ty : IntTy) (d : SDst) (a : SSrc) (s s1 : State) (x : Word),
      s.guard g = true → s.readS a = .ok (x, s1) →
      let X : BitVec ty.width := x.setWidth ty.width
      Delivers (.clz g ty d a) s s1 d (putBv ty X.clz) 8
      ∧ Delivers (.ctz g ty d a) s s1 d (putBv ty X.ctz) 8
      ∧ Delivers (.popc g ty d a) s s1 d (putBv ty X.cpop) 8
      ∧ Delivers (.brev g ty d a) s s1 d (putBv ty X.reverse) 8)

/-- R118: a comparison writes one predicate and no latch; a write to p0 is discarded.
R120: the untyped moves on whole 64-bit values. -/
def Obligations.ComparisonsAndMoves : Prop :=
  (∀ (g : Guard) (ty : IntTy) (cc : ICond) (pd : BitVec 3) (a b : SSrc) (imm : BitVec 28) (s s1 s2 : State) (x y : Word),
      s.guard g = true → s.readS a = .ok (x, s1) → s1.readS b = .ok (y, s2) →
      let r := condBv ty cc (x.setWidth ty.width) (y.setWidth ty.width)
      let ri := condBv s.immTy cc (x.setWidth s.immTy.width) (immBv s.immTy imm)
      Completes (.cmp g ty cc pd a b) s (s2.writeP pd r) 8
      ∧ Completes (.cmpi g cc pd a imm) s (s1.writeP pd ri) 8
      ∧ (pd ≠ 0 → ∀ u : State, (u.writeP pd r).readP pd = r)
      ∧ (∀ u : State, u.writeP 0 r = u ∧ u.readP 0 = true)
      ∧ (∀ u : State, (u.writeP pd r).me.r.lat = u.me.r.lat ∧ (u.writeP pd r).me.r.vlat = u.me.r.vlat))
  ∧ (∀ (g : Guard) (n : BitVec 3) (sg : Bool) (d : SDst) (a b : SSrc) (pos lm1 : BitVec 6) (scl : BitVec 2)
      (disp : BitVec 15) (imm : BitVec 64) (s s1 s2 : State) (x y : Word),
      s.guard g = true → s.readS a = .ok (x, s1) → s1.readS b = .ok (y, s2) → pos.toNat + lm1.toNat ≤ 63 →
      let f : BitVec (lm1.toNat + 1) := x.extractLsb' pos.toNat (lm1.toNat + 1)
      let m : Word := (((1 : Word) <<< (lm1.toNat + 1)) - 1) <<< pos.toNat
      Delivers (.li g d imm) s s d imm 16
      ∧ Delivers (.mov g d a) s s1 d x 8
      ∧ Delivers (.sel g n d a b) s s2 d (if s.readP n then x else y) 8
      ∧ Delivers (.bfx g sg d a pos lm1) s s1 d (if sg then f.signExtend 64 else f.setWidth 64) 8
      ∧ Delivers (.bfi g d a b pos lm1) s s2 d ((x &&& ~~~m) ||| ((y <<< pos.toNat) &&& m)) 8
      ∧ Delivers (.lea g d a b scl disp) s s2 d (x + (y <<< scl.toNat) + disp.signExtend 64) 8)

/-! Scalar floating-point instructions (spec/05). -/

/-- R122, R126, R127, R112: one rounding of the exact result under the mode in force, the flags ORed into FPCS, zeros
above the format.
R63, R122: of finite operands, a sum, a product and a fused sum is the rounding of the exact number, a quotient and a root
the rounding of its digits with a sticky bit for the rest; a sum of exactly zero takes the sign that R63 gives it.
R58, R66: a NaN operand of an arithmetic form gives the canonical NaN of the format, whatever the operands are, and a
signalling one raises NV. -/
def Obligations.FpArithmeticRoundsOnceAndNanIsCanonical : Prop :=
  (∀ (g : Guard) (ty : FTy) (ety dty : FpTy) (rm : RMode) (d : SDst) (a b c : SSrc) (imm : BitVec 16)
      (s s1 s2 s3 : State) (x y z : Word),
      s.guard g = true → s.readS a = .ok (x, s1) → s1.readS b = .ok (y, s2) → s2.readS c = .ok (z, s3) →
      let f := fmtTy ty
      let m := s.rmOf rm
      let X := f.val x.toNat
      let Y := f.val y.toNat
      let Z := f.val z.toNat
      let fi := fmtTy s.immFTy
      let mi := fpcsRm s.me.csr.fpcs
      DeliversFp (.fadd g ty rm d a b) s s2 d (addVal f m 0 X Y) 8
      ∧ DeliversFp (.fsub g ty rm d a b) s s2 d (addVal f m 0 X Y.opp) 8
      ∧ DeliversFp (.fmul g ty rm d a b) s s2 d (mulVal f m 0 X Y) 8
      ∧ DeliversFp (.fma g ty rm d a b c) s s3 d (fmaVal f m 0 X Y Z) 8
      ∧ DeliversFp (.fdiv g ty rm d a b) s s2 d (divVal f m 0 X Y) 8
      ∧ DeliversFp (.fsqrt g ty rm d a) s s1 d (sqrtVal f m 0 X) 8
      ∧ DeliversFp (.frcp g ty rm d a) s s1 d (divVal f m 0 (.fin false 1 0) X) 8
      ∧ DeliversFp (.frsq g ty rm d a) s s1 d (rsqVal f m 0 X) 8
      ∧ DeliversFp (.faddi g d a imm) s s1 d (addVal fi mi 0 (fi.val x.toNat) (immVal imm)) 8
      ∧ DeliversFp (.fmuli g d a imm) s s1 d (mulVal fi mi 0 (fi.val x.toNat) (immVal imm)) 8
      ∧ (ety ≠ dty → DeliversFp (.fcvt g (.fp ety) (.fp dty) rm d a) s s1 d
          ((fmtOf dty).deliver m 0 (s.me.csr.fpcs.getLsbD 16) ((fmtOf ety).val x.toNat)) 8)
      ∧ DeliversFp (.fcvt g (.fp ety) (.fp ety) rm d a) s s1 d (match (fmtOf ety).val x.toNat with
          | .nan sig => ((fmtOf ety).nan, if sig then fNV else 0)
          | _ => (x.toNat % 2 ^ ety.width, 0)) 8)
  ∧ (∀ (ty : FTy) (m : RMode) (t : Nat) (n1 n2 n3 : Bool) (k1 k2 k3 : Nat) (e1 e2 e3 : Int),
      let f := fmtTy ty
      let X : FVal := .fin n1 k1 e1
      let Y : FVal := .fin n2 k2 e2
      let Z : FVal := .fin n3 k3 e3
      let x := realOf n1 k1 e1
      let y := realOf n2 k2 e2
      let z := realOf n3 k3 e3
      let ofSum (q : Rat) (zero : Bool) (r : Nat × Flags) : Prop :=
        (q ≠ 0 → ∃ (k : Nat) (e : Int), realOf (decide (q < 0)) k e = q ∧ r = f.round m t false (decide (q < 0)) k e false)
        ∧ (q = 0 → r = (f.signed zero 0, 0))
      let floor (under : Rat → Bool) (k : Nat) (e : Int) : Prop :=
        under (realOf false k e) = true ∧ under (realOf false (k + 1) e) = false ∧ 2 ^ (f.mb + 2) ≤ k
      ofSum (x + y) (if n1 = n2 ∧ k1 = 0 ∧ k2 = 0 then n1 else m == .rdn) (addVal f m t X Y)
      ∧ (∃ (k : Nat) (e : Int), realOf (n1 != n2) k e = x * y ∧ mulVal f m t X Y = f.round m t false (n1 != n2) k e false)
      ∧ ofSum (x * y + z) (if (n1 != n2) = n3 ∧ k1 * k2 = 0 ∧ k3 = 0 then n3 else m == .rdn) (fmaVal f m t X Y Z)
      ∧ (k1 ≠ 0 → k2 ≠ 0 → ∃ (k : Nat) (e : Int), floor (fun r => decide (r ≤ |x / y|)) k e
          ∧ divVal f m t X Y = f.round m t false (n1 != n2) k e (decide (realOf false k e ≠ |x / y|)))
      ∧ (k1 ≠ 0 → n1 = false → ∃ (k : Nat) (e : Int), floor (fun r => decide (r * r ≤ x)) k e
          ∧ sqrtVal f m t X = f.round m t false false k e (decide (realOf false k e * realOf false k e ≠ x)))
      ∧ (k1 ≠ 0 → n1 = false → ∃ (k : Nat) (e : Int), floor (fun r => decide (r * r * x ≤ 1)) k e
          ∧ rsqVal f m t X = f.round m t false false k e (decide (realOf false k e * realOf false k e * x ≠ 1))))
  ∧ (∀ (ty : FTy) (m : RMode) (t : Nat) (x y z : FVal),
      let f := fmtTy ty
      let can : Nat := match ty with
        | .f32 => 0x7FC00000
        | .f64 => 0x7FF8000000000000
      let nv1 : Flags := if x.isSig then fNV else 0
      let nv2 : Flags := if x.isSig || y.isSig then fNV else 0
      (x.isNan = true ∨ y.isNan = true → addVal f m t x y = (can, nv2) ∧ mulVal f m t x y = (can, nv2)
        ∧ divVal f m t x y = (can, nv2) ∧ (fmaVal f m t x y z).1 = can)
      ∧ (z.isNan = true → (fmaVal f m t x y z).1 = can)
      ∧ (x.isNan = true → sqrtVal f m t x = (can, nv1) ∧ rsqVal f m t x = (can, nv1)))

/-- R126, R69, R110, R60: conversions to and from the integer types and the weight integers; an integer result fills the
destination by its type. -/
def Obligations.FpIntegerConversionsSaturate : Prop :=
  ∀ (g : Guard) (fty : FpTy) (it jt : ElemTy) (rm : RMode) (d : SDst) (a : SSrc) (s s1 : State) (x : Word),
    s.guard g = true → s.readS a = .ok (x, s1) → it.isInt = true → jt.isInt = true →
    let m := s.rmOf rm
    let signed (t : ElemTy) : Bool := match t with
      | .int u => u.signed
      | _ => true
    let put (t : ElemTy) (v : Int) : Nat :=
      let p : BitVec t.width := BitVec.ofInt t.width v
      (if signed t then p.signExtend 64 else p.setWidth 64 : Word).toNat
    let lo : Int := if signed it then -(2 ^ (it.width - 1) : Nat) else 0
    let hi : Int := if signed it then (2 ^ (it.width - 1) : Nat) - 1 else (2 ^ it.width : Nat) - 1
    let p : BitVec it.width := x.setWidth it.width
    let v : Int := if signed it then p.toInt else (p.toNat : Int)
    DeliversFp (.fcvt g (.fp fty) it rm d a) s s1 d (
      match (fmtOf fty).val x.toNat with
      | .nan _ => (0, fNV)
      | .inf n => (put it (if n then lo else hi), fNV)
      | .fin n k e =>
        let r := roundToInt m 0 n k e
        if r.1 < lo then (put it lo, fNV) else if hi < r.1 then (put it hi, fNV)
        else (put it r.1, if r.2 then fNX else 0)) 8
    ∧ DeliversFp (.fcvt g it jt rm d a) s s1 d (put jt v, 0) 8
    ∧ DeliversFp (.fcvt g it (.fp fty) rm d a) s s1 d
        ((fmtOf fty).round m 0 (s.me.csr.fpcs.getLsbD 16) (decide (v < 0)) v.natAbs 0 false) 8

/-- R123: the four cases of `fmin` and `fmax`; a returned number is copied bit for bit.
R124: a comparison's predicate and its NV, by condition; no latch is written and p0 discards the write.
R125, R58: `fabs` and `fneg` change the sign bit of the type's width alone, `fclass` sets exactly one of ten bits,
chosen by the sign, exponent and fraction fields; none raises a flag. -/
def Obligations.FpSelectionsComparisonsAndSigns : Prop :=
  (∀ (g : Guard) (ty : FTy) (d : SDst) (a b : SSrc) (s s1 s2 : State) (x y : Word),
      s.guard g = true → s.readS a = .ok (x, s1) → s1.readS b = .ok (y, s2) →
      let f := fmtTy ty
      let w := (ftyFp ty).width
      let X := f.val x.toNat
      let Y := f.val y.toNat
      let px := x.toNat % 2 ^ w
      let py := y.toNat % 2 ^ w
      let fl : Flags := if X.isSig || Y.isSig then fNV else 0
      let below := X.lt Y || (!Y.lt X && X.neg && !Y.neg)
      let pick (small : Bool) : Nat :=
        if X.isNan && Y.isNan then f.nan else if X.isNan then py else if Y.isNan then px
        else if below = small then px else py
      DeliversFp (.fmin g ty d a b) s s2 d (pick true, fl) 8 ∧ DeliversFp (.fmax g ty d a b) s s2 d (pick false, fl) 8)
  ∧ (∀ (g : Guard) (ty : FTy) (cc : FCond) (pd : BitVec 3) (a b : SSrc) (s s1 s2 : State) (x y : Word),
      s.guard g = true → s.readS a = .ok (x, s1) → s1.readS b = .ok (y, s2) →
      let X := (fmtTy ty).val x.toNat
      let Y := (fmtTy ty).val y.toNat
      let un := X.isNan || Y.isNan
      let same := !X.lt Y && !Y.lt X
      let r : Bool := match cc with
        | .eq => !un && same
        | .ne => un || !same
        | .lt => !un && X.lt Y
        | .le => !un && (X.lt Y || same)
        | .gt => !un && Y.lt X
        | .ge => !un && (Y.lt X || same)
        | .uno => un
        | .ord => !un
      let nv : Bool := match cc with
        | .lt | .le | .gt | .ge => un
        | _ => X.isSig || Y.isSig
      let fl : Flags := if nv then fNV else 0
      (s2.fpTraps fl = false → Completes (.fcmp g ty cc pd a b) s ((s2.orFlags fl).writeP pd r) 8)
      ∧ ∀ u : State, u.writeP 0 r = u ∧ (u.writeP pd r).me.r.lat = u.me.r.lat
          ∧ (u.writeP pd r).me.r.vlat = u.me.r.vlat)
  ∧ (∀ (g : Guard) (ty : FpTy) (d : SDst) (a : SSrc) (s s1 : State) (x : Word),
      s.guard g = true → s.readS a = .ok (x, s1) →
      let f := fmtOf ty
      let w := ty.width
      let X : BitVec w := x.setWidth w
      let sign := X.getLsbD (w - 1)
      let frac := X.toNat % 2 ^ f.mb
      let ex := X.toNat / 2 ^ f.mb % 2 ^ f.eb
      let top := ex = 2 ^ f.eb - 1
      let cls : Nat :=
        if ty = .e4m3 ∧ top ∧ frac = 2 ^ f.mb - 1 then 9
        else if ty ≠ .e4m3 ∧ top ∧ frac ≠ 0 then (if frac < 2 ^ (f.mb - 1) then 8 else 9)
        else if ty ≠ .e4m3 ∧ top then (if sign then 0 else 7)
        else if ex = 0 ∧ frac = 0 then (if sign then 3 else 4)
        else if ex = 0 then (if sign then 2 else 5)
        else if sign then 1 else 6
      Delivers (.fabs g ty d a) s s1 d ((X &&& ~~~(1#w <<< (w - 1))).setWidth 64) 8
      ∧ Delivers (.fneg g ty d a) s s1 d ((X ^^^ (1#w <<< (w - 1))).setWidth 64) 8
      ∧ Delivers (.fclass g ty d a) s s1 d (1#64 <<< cls) 8)

/-- R63: short of overflow, the delivered encoding is the neighbour that the mode asks for among all values of the format,
and NX says whether it differs from the exact value. -/
def Obligations.RoundingPicksTheNeighbourOfItsMode : Prop :=
  ∀ (ty : FpTy) (m : RMode) (n : Bool) (k : Nat) (e : Int),
    let f := fmtOf ty
    let r := f.round m 0 false n k e false
    let x := realOf n k e
    r.2 &&& fOF = 0 →
    ∃ (n1 : Bool) (k1 : Nat) (e1 : Int), f.val r.1 = .fin n1 k1 e1
      ∧ (let v := realOf n1 k1 e1
        (r.2.getLsbD 0 = true ↔ v ≠ x)
        ∧ ∀ (y : Nat) (n2 : Bool) (k2 : Nat) (e2 : Int), f.val y = .fin n2 k2 e2 →
          let w := realOf n2 k2 e2
          (m = .rtz → |v| ≤ |x| ∧ (|w| ≤ |x| → |w| ≤ |v|))
          ∧ (m = .rup → x ≤ v ∧ (x ≤ w → v ≤ w))
          ∧ (m = .rdn → v ≤ x ∧ (w ≤ x → w ≤ v))
          ∧ (m = .rne → |v - x| ≤ |w - x| ∧ (w ≠ v → |v - x| = |w - x| → r.1 % 2 = 0)))

/-- R66, R133, R143 to R146, R370: where a flag that a floating-point form raises is enabled to trap, the flags are ORed into
FPCS, FP is trapped with them in TVAL, no destination is written, and popped entries stay popped. -/
def Obligations.EnabledFlagsTrapBeforeTheDestination : Prop :=
  ∀ (g : Guard) (ty : FTy) (ety dty : ElemTy) (cc : FCond) (rop : FRedOp) (pd md part : BitVec 3) (rm : RMode) (d : SDst)
    (a b c : SSrc) (imm : BitVec 16) (vc : VCtl) (vd : VDst) (va vb ve : VSrc) (s s1 s2 s3 : State) (x y z : Word),
    s.guard g = true → s.readS a = .ok (x, s1) → s1.readS b = .ok (y, s2) → s2.readS c = .ok (z, s3) →
    s.dstReady d = .ok () → s.wideBusy = false → s.inProg = false →
    let traps (i : Instr) (u : State) (fl : Flags) : Prop := u.fpTraps fl = true →
      exec i s = .next ((u.orFlags fl).takeTrap .fp 0 s.me.r.pc (fl.setWidth 64))
    let f := fmtTy ty
    let h := fmtOf .f32
    let m := s.rmOf rm
    let X := f.val x.toNat
    let Y := f.val y.toNat
    let Z := f.val z.toNat
    let fi := fmtTy s.immFTy
    let mi := fpcsRm s.me.csr.fpcs
    let w := (ftyFp ty).width
    let mk := s.readM vc.mask
    let P (q : VSrc) (j : Nat) : Nat := (vecElem (s.readV q) w j).toNat
    let V (q : VSrc) (j : Nat) : FVal := f.val (P q j)
    let S (j : Nat) : FVal := h.val (vecElem (s.readV va) 32 j).toNat
    let t := dither 0
    let vtraps (i : Instr) (w : Nat) (r : Nat → Nat × Flags) : Prop := traps i s (activeFlags w mk r)
    traps (.fadd g ty rm d a b) s2 (addVal f m 0 X Y).2
    ∧ traps (.fsub g ty rm d a b) s2 (addVal f m 0 X Y.opp).2
    ∧ traps (.fmul g ty rm d a b) s2 (mulVal f m 0 X Y).2
    ∧ traps (.fma g ty rm d a b c) s3 (fmaVal f m 0 X Y Z).2
    ∧ traps (.fdiv g ty rm d a b) s2 (divVal f m 0 X Y).2
    ∧ traps (.fsqrt g ty rm d a) s1 (sqrtVal f m 0 X).2
    ∧ traps (.frcp g ty rm d a) s1 (divVal f m 0 (.fin false 1 0) X).2
    ∧ traps (.frsq g ty rm d a) s1 (rsqVal f m 0 X).2
    ∧ traps (.fmin g ty d a b) s2 (minMaxVal f false x.toNat y.toNat).2
    ∧ traps (.fmax g ty d a b) s2 (minMaxVal f true x.toNat y.toNat).2
    ∧ traps (.fcmp g ty cc pd a b) s2 (fcmpVal cc X Y).2
    ∧ traps (.fcvt g ety dty rm d a) s1 (convert ety dty m 0 (s.me.csr.fpcs.getLsbD 16) x.toNat).2
    ∧ traps (.faddi g d a imm) s1 (addVal fi mi 0 (fi.val x.toNat) (immVal imm)).2
    ∧ traps (.fmuli g d a imm) s1 (mulVal fi mi 0 (fi.val x.toNat) (immVal imm)).2
    ∧ vtraps (.vfadd g ty rm vc vd va vb) w (fun j => addVal f m (t j) (V va j) (V vb j))
    ∧ vtraps (.vfsub g ty rm vc vd va vb) w (fun j => addVal f m (t j) (V va j) (V vb j).opp)
    ∧ vtraps (.vfmul g ty rm vc vd va vb) w (fun j => mulVal f m (t j) (V va j) (V vb j))
    ∧ vtraps (.vfma g ty rm vc vd va vb ve) w (fun j => fmaVal f m (t j) (V va j) (V vb j) (V ve j))
    ∧ vtraps (.vfmin g ty vc vd va vb) w (fun j => minMaxVal f false (P va j) (P vb j))
    ∧ vtraps (.vfmax g ty vc vd va vb) w (fun j => minMaxVal f true (P va j) (P vb j))
    ∧ vtraps (.vfcmp g ty vc cc md va vb) w (fun j => (0, (fcmpVal cc (V va j) (V vb j)).2))
    ∧ vtraps (.vexp2 g rm vc vd va) 32 (fun j => exp2Val h m (t j) (S j))
    ∧ vtraps (.vlog2 g rm vc vd va) 32 (fun j => log2Val h m (t j) (S j))
    ∧ vtraps (.vrcp g rm vc vd va) 32 (fun j => divVal h m (t j) (.fin false 1 0) (S j))
    ∧ vtraps (.vrsq g rm vc vd va) 32 (fun j => rsqVal h m (t j) (S j))
    ∧ traps (.vfcvt g ety dty part rm vc vd va a) s1 (vfcvtVal ety dty part.toNat m (s.me.csr.fpcs.getLsbD 16)
        (x.toNat % 32) mk vc.zm (s.readVD vd) (s.readV va)).2
    ∧ traps (.vfred g ty rop rm vc d va) s (vfredVal ty rop m mk (s.readV va)).2
    ∧ ∀ (u : State) (fl : Flags), (u.orFlags fl).me.csr.fpcs = u.me.csr.fpcs ||| fl.setWidth 64

/-! Vector lanes (spec/06). -/

/-- R133, R135, R129: every active element is the operation on the elements' patterns modulo 2^w; the others merge or read
zero; `vaddi` acts on every element under IMMC.
R138, R139: permutes, broadcasts, single elements and moves; an indexed move beyond the allotment traps VALLOT. -/
def Obligations.VectorIntegersPermutesAndMoves : Prop :=
  (∀ (g : Guard) (ty : IntTy) (c : VCtl) (d : VDst) (a b e : VSrc) (imm : BitVec 28) (s : State),
      s.guard g = true →
      let w := ty.width
      let X : Nat → BitVec w := vecElem (s.readV a) w
      let Y : Nat → BitVec w := vecElem (s.readV b) w
      let Z : Nat → BitVec w := vecElem (s.readV e) w
      let le (x y : BitVec w) : Bool := if ty.signed then x.sle y else x.ule y
      let it : IntTy := match s.immTy with
        | .s64 => .s32
        | .n64 => .n32
        | t => t
      DeliversVec (.vadd g ty c d a b) s s c d w (fun j => X j + Y j)
      ∧ DeliversVec (.vsub g ty c d a b) s s c d w (fun j => X j - Y j)
      ∧ DeliversVec (.vmul g ty c d a b) s s c d w (fun j => X j * Y j)
      ∧ DeliversVec (.vmad g ty c d a b e) s s c d w (fun j => X j * Y j + Z j)
      ∧ DeliversVec (.vmin g ty c d a b) s s c d w (fun j => if le (X j) (Y j) then X j else Y j)
      ∧ DeliversVec (.vmax g ty c d a b) s s c d w (fun j => if le (X j) (Y j) then Y j else X j)
      ∧ (ty.signed = true → DeliversVec (.vabs g ty c d a) s s c d w (fun j => (X j).abs))
      ∧ DeliversVec (.vneg g ty c d a) s s c d w (fun j => -(X j))
      ∧ DeliversVec (.vand g ty c d a b) s s c d w (fun j => X j &&& Y j)
      ∧ DeliversVec (.vor g ty c d a b) s s c d w (fun j => X j ||| Y j)
      ∧ DeliversVec (.vxor g ty c d a b) s s c d w (fun j => X j ^^^ Y j)
      ∧ DeliversVec (.vshl g ty c d a b) s s c d w (fun j => X j <<< (Y j).toNat)
      ∧ DeliversVec (.vshr g ty c d a b) s s c d w (fun j => X j >>> (Y j).toNat)
      ∧ DeliversVec (.vsar g ty c d a b) s s c d w (fun j => (X j).sshiftRight (Y j).toNat)
      ∧ ∃ v : VWord, (∀ j, it.width * j < 1024 → vecElem v it.width j = vecElem (s.readV a) it.width j + immBv it imm)
          ∧ Completes (.vaddi g d a imm) s (s.writeV d v) 8)
  ∧ (∀ (g : Guard) (ty : IntTy) (c : VCtl) (d : VDst) (e : SDst) (a b f : VSrc) (p q : SSrc) (s s1 s2 : State)
      (x i : Word),
      s.guard g = true → s.readS p = .ok (x, s1) → s1.readS q = .ok (i, s2) →
      let w := ty.width
      let n := 1024 / w
      let V (r : VSrc) : Nat → BitVec w := vecElem (s.readV r) w
      DeliversVec (.vperm g ty c d a b f) s s c d w
        (fun j => let k := (V b j).toNat % (2 * n); if k < n then V a k else V f (k - n))
      ∧ DeliversVec (.vbcast g ty c d p) s s1 c d w (fun _ => x.setWidth w)
      ∧ Delivers (.vextr g ty e a p) s s1 e (putBv ty (V a (x.toNat % n))) 8
      ∧ (∃ v : VWord, Completes (.vins g ty d p q) s (s2.writeV d v) 8
          ∧ ∀ j < n, vecElem v w j = if j = i.toNat % n then x.setWidth w else vecElem (s.readVD d) w j)
      ∧ DeliversVec (.vmov g c d a) s s c d 32 (vecElem (s.readV a) 32)
      ∧ (x.toNat < s.me.allot → x.toNat < 32 →
          Completes (.vmovFromIndex g d p) s (s1.writeV d (s.readV (.v (x.setWidth 5)))) 8
          ∧ Completes (.vmovToIndex g a p) s (s1.writeV (.v (x.setWidth 5)) (s.readV a)) 8)
      ∧ (s.me.allot ≤ x.toNat → s.wideBusy = false →
          exec (.vmovFromIndex g d p) s = .next (s1.raise .vallot s.me.r.pc x)
          ∧ exec (.vmovToIndex g a p) s = .next (s1.raise .vallot s.me.r.pc x)))

/-- R136, R140, R141: what the mask instructions write; `vsel` acts on all lanes and `vcmp` writes no latch.
R137: reductions and scans take the active elements in increasing order; the sum of a reduction is exact modulo
2^64, whatever its grouping. -/
def Obligations.MasksAndReductionsTakeTheActiveElements : Prop :=
  (∀ (g : Guard) (sg : Bool) (c : VCtl) (cc : ICond) (md mk ma mb : BitVec 3) (tt : BitVec 4) (d : VDst) (e : SDst)
      (a b : VSrc) (s : State),
      s.guard g = true →
      let ty : IntTy := if sg then .s32 else .n32
      let x (l : Nat) : BitVec ty.width := vecElem (s.readV a) ty.width l
      let y (l : Nat) : BitVec ty.width := vecElem (s.readV b) ty.width l
      (∃ m : BitVec 32, Completes (.vcmp g sg c cc md a b) s (s.writeM md m) 8
        ∧ ∀ l < 32, m.getLsbD l = if (s.readM c.mask).getLsbD l then condBv ty cc (x l) (y l)
            else if c.zm then false else (s.readM md).getLsbD l)
      ∧ (∃ v : VWord, Completes (.vsel g mk d a b) s (s.writeV d v) 8
        ∧ ∀ l < 32, vecElem v 32 l = vecElem (if (s.readM mk).getLsbD l then s.readV a else s.readV b) 32 l)
      ∧ (∃ m : BitVec 32, Completes (.vmlog g md ma mb tt) s (s.writeM md m) 8
        ∧ ∀ l < 32, m.getLsbD l = tt.getLsbD (2 * ((s.readM ma).getLsbD l).toNat + ((s.readM mb).getLsbD l).toNat))
      ∧ Delivers (.vmpop g e mk false) s s e ((s.readM mk).cpop.setWidth 64) 8
      ∧ Delivers (.vmpop g e mk true) s s e ((s.readM mk).ctz.setWidth 64) 8
      ∧ ∀ m : BitVec 32, (s.writeM md m).me.r.vlat = s.me.r.vlat ∧ (s.writeM md m).me.r.lat = s.me.r.lat)
  ∧ (∀ (g : Guard) (ty : IntTy) (c : VCtl) (d : SDst) (e : VDst) (a : VSrc) (s : State),
      s.guard g = true →
      let w := ty.width
      let on (j : Nat) : Bool := (s.readM c.mask).getLsbD (w * j / 32)
      let X : Nat → BitVec w := vecElem (s.readV a) w
      let js := (List.range (1024 / w)).filter on
      let le (x y : BitVec w) : Bool := if ty.signed then x.sle y else x.ule y
      let small (x y : BitVec w) : BitVec w := if le x y then x else y
      let big (x y : BitVec w) : BitVec w := if le x y then y else x
      let hi : BitVec w := if ty.signed then BitVec.intMax w else BitVec.allOnes w
      let lo : BitVec w := if ty.signed then BitVec.intMin w else 0
      let run (f : BitVec w → BitVec w → BitVec w) (z : BitVec w) (k : Nat) : BitVec w :=
        ((js.filter (fun j => decide (j ≤ k))).map X).foldl f z
      Delivers (.vred g ty .add c d a) s s d ((js.map (fun j => putBv ty (X j))).foldl (· + ·) 0) 8
      ∧ Delivers (.vred g ty .min c d a) s s d (putBv ty ((js.map X).foldl small hi)) 8
      ∧ Delivers (.vred g ty .max c d a) s s d (putBv ty ((js.map X).foldl big lo)) 8
      ∧ Delivers (.vred g ty .and c d a) s s d (putBv ty ((js.map X).foldl (· &&& ·) (BitVec.allOnes w))) 8
      ∧ Delivers (.vred g ty .or c d a) s s d (putBv ty ((js.map X).foldl (· ||| ·) 0)) 8
      ∧ Delivers (.vred g ty .xor c d a) s s d (putBv ty ((js.map X).foldl (· ^^^ ·) 0)) 8
      ∧ DeliversVec (.vscan g ty .add c e a) s s c e w (run (· + ·) 0)
      ∧ DeliversVec (.vscan g ty .min c e a) s s c e w (run small hi)
      ∧ DeliversVec (.vscan g ty .max c e a) s s c e w (run big lo))

/-- R147, R73: a draw steps RNGC once and writes each active lane with the four rounds over its own key; with the count
at its end it traps RNG_WRAP before any effect. -/
def Obligations.DrawsAreKeyedByLaneStreamAndCore : Prop :=
  ∀ (g : Guard) (c : VCtl) (d : VDst) (s : State), s.guard g = true →
    let m := s.me
    let key (l : Nat) : Word := s.mySlot.seed ^^^ BitVec.ofNat 64 l
      ^^^ ((m.csr.rngs &&& 0xFFFF) <<< 5) ^^^ (BitVec.ofNat 64 (32 * m.jtile + s.cur.core) <<< 21)
    let round (p : Word × Word) : Word × Word :=
      let x := p.1 + p.2
      ((x ^^^ (x >>> 31)) * 0xA3C59AC2F1E87D35, p.2.rotateLeft 19 ^^^ 0x5B2E71C40D96A38F)
    let out (l : Nat) : Word := (round (round (round (round (m.csr.rngc ^^^ (key l).rotateLeft 23, key l))))).1
    let u := s.setMe { m with csr := { m.csr with rngc := m.csr.rngc + 1 } }
    (m.csr.rngc ≠ BitVec.allOnes 64 → DeliversVec (.rng g c d) s u c d 32 (fun l => (out l).extractLsb' 32 32))
    ∧ (m.csr.rngc = BitVec.allOnes 64 → s.wideBusy = false →
        exec (.rng g c d) s = .next (s.raise .rngWrap m.r.pc 0))

/-- R143, R133, R144: vector floating point is the scalar operation on each active element, element j rounding by dither at
coordinate (0, j), where no flag raised is enabled to trap (EnabledFlagsTrapBeforeTheDestination has the others). That the
digits which `exp2Val` and `log2Val` keep give the correct rounding is a reading of R143 (notes/assumptions/7.md).
R144, R145, R136: sign forms, comparisons into a mask, and the part-by-part conversion. -/
def Obligations.VectorFpActsElementByElement : Prop :=
  (∀ (g : Guard) (ty : FTy) (rm : RMode) (c : VCtl) (d : VDst) (a b e : VSrc) (s : State), s.guard g = true →
      let w := (ftyFp ty).width
      let f := fmtTy ty
      let h := fmtOf .f32
      let m := s.rmOf rm
      let P (q : VSrc) (j : Nat) : Nat := (vecElem (s.readV q) w j).toNat
      let X (j : Nat) : FVal := f.val (P a j)
      let Y (j : Nat) : FVal := f.val (P b j)
      let Z (j : Nat) : FVal := f.val (P e j)
      let S (j : Nat) : FVal := h.val (vecElem (s.readV a) 32 j).toNat
      let t := dither 0
      DeliversVecFp (.vfadd g ty rm c d a b) s c d w (fun j => addVal f m (t j) (X j) (Y j))
      ∧ DeliversVecFp (.vfsub g ty rm c d a b) s c d w (fun j => addVal f m (t j) (X j) (Y j).opp)
      ∧ DeliversVecFp (.vfmul g ty rm c d a b) s c d w (fun j => mulVal f m (t j) (X j) (Y j))
      ∧ DeliversVecFp (.vfma g ty rm c d a b e) s c d w (fun j => fmaVal f m (t j) (X j) (Y j) (Z j))
      ∧ DeliversVecFp (.vfmin g ty c d a b) s c d w (fun j => minMaxVal f false (P a j) (P b j))
      ∧ DeliversVecFp (.vfmax g ty c d a b) s c d w (fun j => minMaxVal f true (P a j) (P b j))
      ∧ DeliversVecFp (.vexp2 g rm c d a) s c d 32 (fun j => exp2Val h m (t j) (S j))
      ∧ DeliversVecFp (.vlog2 g rm c d a) s c d 32 (fun j => log2Val h m (t j) (S j))
      ∧ DeliversVecFp (.vrcp g rm c d a) s c d 32 (fun j => divVal h m (t j) (.fin false 1 0) (S j))
      ∧ DeliversVecFp (.vrsq g rm c d a) s c d 32 (fun j => rsqVal h m (t j) (S j)))
  ∧ (∀ (g : Guard) (ety : FpTy) (ty : FTy) (sty dty : ElemTy) (rm : RMode) (c : VCtl) (cc : FCond) (md : BitVec 3)
      (part : BitVec 3) (d : VDst) (a b : VSrc) (q : SSrc) (s s1 : State) (row : Word),
      s.guard g = true → s.readS q = .ok (row, s1) →
      let mk := s.readM c.mask
      let sign : BitVec ety.width := 1#ety.width <<< (ety.width - 1)
      let f := fmtTy ty
      let w := (ftyFp ty).width
      let k := w / 32
      let r (j : Nat) := fcmpVal cc (f.val (vecElem (s.readV a) w j).toNat) (f.val (vecElem (s.readV b) w j).toNat)
      let fl := activeFlags w mk (fun j => (0, (r j).2))
      let ws := sty.width
      let wd := dty.width
      let ns := 1024 / ws
      let nd := 1024 / wd
      let src (j : Nat) : Nat := if wd ≤ ws then j - part.toNat * ns else part.toNat * nd + j
      let on (j : Nat) : Bool := if wd ≤ ws then mk.getLsbD (ws * src j / 32) else mk.getLsbD (wd * j / 32)
      let inPart (j : Nat) : Bool := decide (ws < wd) || (decide (part.toNat * ns ≤ j) && decide (j < part.toNat * ns + ns))
      let conv (j : Nat) : Nat × Flags := convert sty dty (s.rmOf rm) (dither (row.toNat % 32) j) (s.me.csr.fpcs.getLsbD 16)
        (vecElem (s.readV a) ws (src j)).toNat
      let cf : Flags := ((List.range nd).filter (fun j => inPart j && on j)).foldl (fun z j => z ||| (conv j).2) 0
      DeliversVec (.vfabs g ety false c d a) s s c d ety.width (fun j => vecElem (s.readV a) ety.width j &&& ~~~sign)
      ∧ DeliversVec (.vfabs g ety true c d a) s s c d ety.width (fun j => vecElem (s.readV a) ety.width j ^^^ sign)
      ∧ (s.fpTraps fl = false → ∃ m : BitVec 32, Completes (.vfcmp g ty c cc md a b) s ((s.orFlags fl).writeM md m) 8
          ∧ ∀ l < 32, m.getLsbD l = if mk.getLsbD (l / k * k) then (r (l / k)).1
              else if c.zm then false else (s.readM md).getLsbD l)
      ∧ (s1.fpTraps cf = false → ∃ v : VWord,
          Completes (.vfcvt g sty dty part rm c d a q) s ((s1.orFlags cf).writeV d v) 8
          ∧ ∀ j < nd, vecElem v wd j = if inPart j && on j then BitVec.ofNat wd (conv j).1
              else if inPart j && c.zm then 0 else vecElem (s.readVD d) wd j))

/-- R146: `vfred` reduces its active elements in the fixed pairwise tree, the node (k, i) rounding at that coordinate; no
active element gives +0, or the canonical NaN for `min` and `max`. -/
def Obligations.VectorFpReductionIsAFixedTree : Prop :=
  ∀ (g : Guard) (ty : FTy) (op : FRedOp) (rm : RMode) (c : VCtl) (d : SDst) (a : VSrc) (s : State),
    s.guard g = true →
    let f := fmtTy ty
    let w := (ftyFp ty).width
    let node (k i : Nat) (x y : Nat × Flags) : Nat × Flags :=
      let r := match op with
        | .add => addVal f (s.rmOf rm) (dither k i) (f.val x.1) (f.val y.1)
        | .min => minMaxVal f false x.1 y.1
        | .max => minMaxVal f true x.1 y.1
      (r.1, r.2 ||| x.2 ||| y.2)
    let t0 (j : Nat) : Option (Nat × Flags) :=
      if j < 1024 / w ∧ (s.readM c.mask).getLsbD (w * j / 32) = true then some ((vecElem (s.readV a) w j).toNat, 0)
      else none
    let levels := if ty = .f32 then 5 else 4
    DeliversFp (.vfred g ty op rm c d a) s s d
      ((treeLevel node t0 levels 0).getD (if op = .add then 0 else f.nan, 0)) 8

/-! The wide accumulator (spec/06). -/

/-- R148, R150, R151, R153: on an object of its own tile, `wclr` and `wadd` send one event to the tile atomic unit and
`wrd` delivers its number rounded once. They wait for a plate under test, and trap MEM_LOST on a lost granule (R386), with
the checks of other accesses.
R150, R151, R152: WIDE_UPDATE performs the oldest event whole: a clear leaves zero, an addition the sum modulo 2^640;
one that finds a lost granule does nothing, and its context is to take MEM_LOST (R386); and additions in any order leave the
same object. -/
def Obligations.WideObjectsTakeTheirUpdatesInAnyOrder : Prop :=
  (∀ (g : Guard) (ty : FTy) (rm : RMode) (p q : SSrc) (m : MemOp) (d : SDst) (s s1 u1 u2 : State) (ea x : Word) (locs : List Loc),
      s.guard g = true → s.InOrder → s.readS p = .ok (ea, s1) → s.memEa m = .ok (ea, u1) → u1.readS q = .ok (x, u2) →
      ea.toNat / 2 ^ 32 = 7 * 2 ^ 20 → ea.toNat % 128 = 0 →
      ea.toNat / 2 ^ 21 % 2 ^ 11 = 2047 ∨ ea.toNat / 2 ^ 21 % 2 ^ 11 = s.me.jtile →
      s1.locate s1.agent true false 1 (span ea 80) = .ok locs → u2.locate u2.agent true false 1 (span ea 80) = .ok locs →
      s1.widePending ea = false → u2.widePending ea = false →
      let ofs := ea.toNat % 2 ^ 21
      let sent (u : State) (t : Option Int) : State :=
        { (u.setTile u.cur.tile { u.myTile with wide := u.myTile.wide ++ [⟨u.cur, u.nextId, ofs, t⟩] }) with
          nextId := u.nextId + 1 }
      let r := wideAddend ((fmtTy ty).val x.toNat)
      Completes (.wclr g p) s (sent s1 none) 8
      ∧ (u2.fpTraps r.2 = false → Completes (.wadd g ty m q) s
          (match r.1 with
           | none => u2.orFlags r.2
           | some v => sent (u2.orFlags r.2) (some v)) 12)
      ∧ (s1.myTile.wide.any (fun w => w.owner == s.cur && decide (w.ofs < ofs + 80) && decide (ofs < w.ofs + 80)) = false →
          let v := (BitVec.ofNat 640 (memNat s1.myTile.spad ofs 80)).toInt
          DeliversFp (.wrd g ty rm d p) s s1 d
            ((fmtTy ty).round (s.rmOf rm) 0 false (decide (v < 0)) v.natAbs (-320) false) 8))
  ∧ ((∀ (n : Nat) (s : State) (u : WideUpd) (rest : List WideUpd), (s.tile n).wide = u :: rest → s.plateBusy n u.ofs = false →
      let old := memNat (s.tile n).spad u.ofs 80
      ((s.tile n).bad.contains (u.ofs / 256) = true → ∃ t : State, exec (.wideUpdate n) s = .next t ∧ (t.tile n).wide = rest
        ∧ (t.tile n).spad = (s.tile n).spad ∧ ∃ p : Pending, (t.ctx u.owner).pend = (s.ctx u.owner).pend ++ [p]
          ∧ p.code = TrapCode.memLost.num ∧ p.val = BitVec.ofNat 64 (7 * 2 ^ 52 + 2047 * 2 ^ 21 + u.ofs))
      ∧ (s.InOrder → (s.tile n).bad.contains (u.ofs / 256) = false → ∃ t : State, exec (.wideUpdate n) s = .next t
        ∧ (t.tile n).wide = rest
        ∧ BitVec.ofNat 640 (memNat (t.tile n).spad u.ofs 80)
            = (match u.add with
               | none => 0
               | some v => BitVec.ofNat 640 old + BitVec.ofInt 640 v)
        ∧ (∀ i, i < u.ofs ∨ u.ofs + 80 ≤ i → memGet (t.tile n).spad i = memGet (s.tile n).spad i)))
    ∧ (∀ (w : Nat) (l1 l2 : List Int), l1.Perm l2 →
        l1.foldl (fun x v => wideAfter x (some v)) w = l2.foldl (fun x v => wideAfter x (some v)) w))

/-! Control (spec/04) and traps (spec/16). -/

/-- R24: an instruction whose guard is false only moves past its own bytes; every instruction that a word encodes has a
guard, and so only the events have none. -/
def Obligations.AFalseGuardOnlyMovesOn : Prop :=
  (∀ (i : Instr) (g : Guard) (e : Enc) (s : State), i.guard? = some g → i.enc = some e → s.guard g = false →
    exec i s = .next (s.advance (lenBytes e.fmt.len)))
  ∧ ∀ i : Instr, i.guard?.isSome = i.enc.isSome ∧ i.isEvent = i.enc.isNone

/-- R99, R103, R104, R105, R109: the control instructions that only write registers.
R107, R108, R80: `align` counts once and completes at once outside a launch, or when the other contexts of its launch on
the tile have counted as often; after 256 core clocks ALIGN_TIMEOUT completes it; `done` stops the context, and
DONE_COMPLETE frees it when its engines, updates, program and host requests are done. -/
def Obligations.ControlInstructionsAlignAndDone : Prop :=
  (∀ (g : Guard) (hdr : Option (BitVec 6)) (pd pa pb ps n : BitVec 3) (tt : BitVec 4) (d : SDst) (a b c : SSrc)
      (stp : BitVec 32) (s s1 s2 s3 : State) (x y z : Word),
      s.guard g = true → s.readS a = .ok (x, s1) → s1.readS b = .ok (y, s2) → s2.readS c = .ok (z, s3) →
      let m := s.me
      let xyz (t : Nat) : Word := BitVec.ofNat 64 (t % 8 + t / 8 % 8 * 2 ^ 8 + t / 64 * 2 ^ 16)
      let ext (k : Nat) : Nat := x.toNat / 2 ^ (16 * k) % 2 ^ 16
      let stop := Nat.min z.toNat (ext 0 * ext 1 * ext 2 * ext 3)
      let ok := decide (y.toNat < stop)
      Completes (.nop g hdr) s s 8
      ∧ Completes (.plog g pd pa pb tt) s (s.writeP pd (tt.getLsbD (2 * (s.readP pa).toNat + (s.readP pb).toNat))) 8
      ∧ Completes (.pmov g n (.toPred a)) s (s1.writeP n (decide (x ≠ 0))) 8
      ∧ Delivers (.pmov g n (.fromPred d)) s s d (if s.readP n then 1 else 0) 8
      ∧ Completes (.pmov g n (.toMask a)) s (s1.writeM n (x.setWidth 32)) 8
      ∧ Delivers (.pmov g n (.fromMask d)) s s d ((s.readM n).setWidth 64) 8
      ∧ Delivers (.who g d 0) s s d (xyz m.jtile + BitVec.ofNat 64 (s.cur.core * 2 ^ 24 + s.cur.ctx * 2 ^ 32 + m.gen.toNat * 2 ^ 48)) 8
      ∧ Delivers (.who g d 1) s s d (BitVec.ofNat 64 (32 * m.jtile + s.cur.core + m.jtile * 2 ^ 32)) 8
      ∧ Delivers (.who g d 3) s s d (xyz s.cur.tile + BitVec.ofNat 64 (s.cur.core * 2 ^ 24)) 8
      ∧ (∃ v : Word, Delivers (.who g d 2) s s d v 8)
      ∧ ∃ f : Nest, Completes (.nest g ps a b c stp) s ((s3.setMe { s3.me with nest := f }).writeP ps ok) 16
          ∧ f.ext = x ∧ f.stop = BitVec.ofNat 64 stop ∧ f.step = stp ∧ f.active = ok
          ∧ (ok = true → f.next = BitVec.ofNat 64 (y.toNat + stp.toNat) ∧ f.i[0] = BitVec.ofNat 64 (y.toNat % ext 0)
              ∧ f.i[1] = BitVec.ofNat 64 (y.toNat / ext 0 % ext 1)
              ∧ f.i[2] = BitVec.ofNat 64 (y.toNat / (ext 0 * ext 1) % ext 2)
              ∧ f.i[3] = BitVec.ofNat 64 (y.toNat / (ext 0 * ext 1 * ext 2))))
  ∧ (∀ (g : Guard) (k : BitVec 4) (s : State), s.guard g = true →
      let m := s.me
      let n := m.alignCount k + 1
      let counted := s.setMe { m with aligns := m.aligns.set k.toNat n k.isLt }
      let met := s.myTile.cores.all (fun p => p.2.ctxs.all (fun q =>
        (p.1 == s.cur.core && q.1 == s.cur.ctx) || !q.2.active || q.2.slot != m.slot || q.2.launch != m.launch
          || decide (n ≤ q.2.alignCount k)))
      (m.wait = .none → m.launch = none → Completes (.align g k) s counted 8)
      ∧ (m.wait = .none → met = true → Completes (.align g k) s counted 8)
      ∧ (∀ j n' since, m.wait = .align j n' since → m.active = true → since + 256 ≤ s.time → s.inProg = false →
          exec (.alignTimeout s.cur.tile s.cur.core s.cur.ctx) s = .next ((s.setMe { m with wait := .none }).advance 8))
      ∧ exec (.done g) s = .next (s.setMe { m with wait := .ending false })
      ∧ (∀ b, m.wait = .ending b → m.active = true → s.inProg = false → s.myTile.runs m.slot m.jtile = true →
          s.engineBusy = false → s.programBusy = false → s.drained = true → m.hostWrote = false → s.hostPending = false →
          ∃ t : State, exec (.doneComplete s.cur.tile s.cur.core s.cur.ctx) s = .next t
            ∧ (t.ctx s.cur).active = false ∧ (t.ctx s.cur).gen = m.gen ∧ (t.ctx s.cur).r = m.r
            ∧ (t.ctx s.cur).q = Vector.replicate 8 ⟨[], 0, []⟩)
      ∧ (∀ b, m.wait = .ending b → m.active = true → s.inProg = false → s.myTile.runs m.slot m.jtile = true →
          s.engineBusy = false → s.programBusy = false → s.drained = true → m.hostWrote = true → s.asking = false →
          exec (.doneComplete s.cur.tile s.cur.core s.cur.ctx) s = .next (s.hostRequest 0 0 .flush false)))

/-- R22, R41, R101, R102, R106: where each transfer goes; a legal target only moves the pc and restarts the fetch; a page that
no code is mapped at, a place that is no instruction start, and a page of greater allotment trap PERM, ADDR and VALLOT after
the transfer, with the target as the return address. -/
def Obligations.TransfersGoToTheirTargets : Prop :=
  ∀ (g : Guard) (neg : Bool) (p : BitVec 3) (ofs : BitVec 34) (link : BitVec 6) (a : SSrc) (s s1 : State) (t : Word),
    s.guard g = true → s.readS a = .ok (t, s1) →
    let pc := s.me.r.pc
    let rel : Word := pc + (ofs.signExtend 64 <<< 2)
    let linked (u : State) : State := u.setMe ((u.me.putG link (pc + 8)).setLat (pc + 8))
    let f := s.me.nest
    let n := f.next.toNat
    let e (k : Nat) : Nat := f.ext.toNat / 2 ^ (16 * k) % 2 ^ 16
    let i : Vector Word 4 := #v[BitVec.ofNat 64 (n % e 0), BitVec.ofNat 64 (n / e 0 % e 1),
      BitVec.ofNat 64 (n / (e 0 * e 1) % e 2), BitVec.ofNat 64 (n / (e 0 * e 1 * e 2))]
    exec (.br g neg p ofs) s = .next (if s.readP p != neg then s.transferTo rel else s.advance 8)
    ∧ exec (.jmp g ofs) s = .next (s.transferTo rel)
    ∧ exec (.call g link ofs) s = .next ((linked s).transferTo rel)
    ∧ (t.toNat % 4 = 0 → exec (.jr g a) s = .next (s1.transferTo t) ∧ exec (.ret g a) s = .next (s1.transferTo t)
        ∧ exec (.callr g link a) s = .next ((linked s1).transferTo t))
    ∧ (t.toNat % 4 ≠ 0 → s.wideBusy = false → exec (.jr g a) s = .next (s.raise .align pc t)
        ∧ exec (.ret g a) s = .next (s.raise .align pc t) ∧ exec (.callr g link a) s = .next (s.raise .align pc t))
    ∧ (f.active = true → n < f.stop.toNat → exec (.iter g ofs) s = .next
        ((s.setMe { s.me with nest := { f with i := i, next := BitVec.ofNat 64 (n + f.step.toNat) } }).transferTo rel))
    ∧ ((f.active = true → f.stop.toNat ≤ n) → exec (.iter g ofs) s = .next
        ((s.setMe { s.me with nest := { f with active := false } }).advance 8))
    ∧ (∀ u : State, u.targetBad u.me.slot u.me.allot u.inProg t = none → u.transferTo t = u.setMe { u.me with
        r := { u.me.r with pc := t }, fetched := [], wanted := [(t &&& ~~~31, u.time), ((t &&& ~~~31) + 32, u.time)] })
    ∧ (∀ u : State, u.inProg = false → u.wideBusy = false → u.execPage u.me.slot t = none →
        u.transferTo t = (u.setMe { u.me with r := { u.me.r with pc := t } }).raise .perm t t)
    ∧ (∀ (u : State) (page : ExecPage) (blk : BitVec 256), u.inProg = false → u.wideBusy = false →
        u.execPage u.me.slot t = some page → u.codeBlock u.me.slot t = some blk →
        (isStart blk t = false → u.transferTo t = (u.setMe { u.me with r := { u.me.r with pc := t } }).raise .addr t t)
        ∧ (isStart blk t = true → u.me.allot < page.allot →
            u.transferTo t = (u.setMe { u.me with r := { u.me.r with pc := t } }).raise .vallot t page.va))

/-- R370, R372: taking a trap saves the return address, the code with its source and the value, sets INTRAP, and goes to
the handler, changing nothing else of the context; INTRAP set, OFS zero, HALT_REQ, the Bittern context or an illegal
handler end the activation instead, with one entry in the job's trap log.
R100, R375, R370: `brk` and `trap` take BRK and SYSCALL with their code as TVAL and resume after themselves; `eret`
clears INTRAP and goes back to TEPC, then traps ALIGN at itself where TEPC is misaligned (R22), ends the activation after
CANCEL, and is a PERM trap where no trap is taken. That the address after the instruction passes over a tail word (R21) is a
reading (notes/assumptions/29.md). -/
def Obligations.TrapsSaveAndReturn : Prop :=
  (∀ (s : State) (code : TrapCode) (src : Nat) (resume val : Word),
      let m := s.me
      let ofs := m.csr.tvec.toNat % 2 ^ 32
      let h := s.mySlot.code + BitVec.ofNat 64 (4 * ofs)
      let legal := (s.targetBad m.slot m.allot false h).isNone
      let ends := code = .haltReq ∨ ofs = 0 ∨ m.inTrap = true ∨ s.cur.ctx = 8 ∨ legal = false
      (¬ ends → s.takeTrap code src resume val = s.setMe { m with
          r := { m.r with pc := h }
          csr := { m.csr with tcause := BitVec.ofNat 64 (src * 2 ^ 20 + 2 ^ 16 + code.num), tepc := resume, tval := val }
          wait := .none, kept := none, waited := [], fetched := [], wanted := [(h &&& ~~~31, s.time), ((h &&& ~~~31) + 32, s.time)] })
      ∧ (ends → let t := s.takeTrap code src resume val
          t.me = { m with wait := .ending true, pend := [] }
          ∧ ∃ e : TrapEntry, (t.slot m.slot).traps = (s.slot m.slot).traps ++ [e]
            ∧ e.logCore = 32 * m.jtile + s.cur.core ∧ e.ctx = s.cur.ctx ∧ e.gen = m.gen ∧ e.tepc = resume ∧ e.tval = val))
  ∧ (∀ (g : Guard) (code : BitVec 16) (s : State), s.guard g = true → s.inProg = false →
      let m := s.me
      let pc := m.r.pc
      let after := if (pc + 8).toNat % 32 = 28 then pc + 12 else pc + 8
      (s.wideBusy = false →
        exec (.brk g code) s = .next (s.takeTrap .brk 0 after (code.setWidth 64))
        ∧ exec (.trap g code) s = .next (s.takeTrap .syscall 0 after (code.setWidth 64))
        ∧ (m.csr.tcause.getLsbD 16 = false → exec (.eret g) s = .next (s.takeTrap .perm 0 pc 0)))
      ∧ (m.csr.tcause.getLsbD 16 = true → m.csr.tcause.toNat % 256 ≠ 0x0E → m.csr.tepc.toNat % 4 ≠ 0 →
          s.wideBusy = false → exec (.eret g) s = .next
          ((s.setMe { m with csr := { m.csr with tcause := m.csr.tcause &&& ~~~0x10000 } }).takeTrap .align 0 pc m.csr.tepc))
      ∧ (m.csr.tcause.getLsbD 16 = true → m.csr.tcause.toNat % 256 ≠ 0x0E → m.csr.tepc.toNat % 4 = 0 →
          exec (.eret g) s = .next
          ((s.setMe { m with csr := { m.csr with tcause := m.csr.tcause &&& ~~~0x10000 } }).transferTo m.csr.tepc))
      ∧ (m.csr.tcause.getLsbD 16 = true → m.csr.tcause.toNat % 256 = 0x0E →
          exec (.eret g) s = .next (s.setMe { m with wait := .ending false })))

/-- R376, R377, R371, R65, R72, R111, R237, R275, R296, R282, R333: `csrr` delivers a register's value, `csrw` stores what the
register's map says, and a read-only register keeps its value. That WSSL keeps any LEN as written is a reading
(notes/assumptions/35.md). -/
def Obligations.SystemRegistersFollowTheirMaps : Prop :=
  ∀ (g : Guard) (num : BitVec 12) (d : SDst) (a : SSrc) (s s1 : State) (x : Word),
    s.guard g = true → s.readS a = .ok (x, s1) →
    let n := num.toNat
    let c := s.me.csr
    let f (lo k : Nat) : Nat := x.toNat / 2 ^ lo % 2 ^ k
    let back (i : Nat) : Word := (s1.writeCsr i x).readCsr i
    Delivers (.csrr g d num) s s d (s.readCsr n) 8
    ∧ Completes (.csrw g num a) s (s1.writeCsr n x) 8
    ∧ [0x000, 0x001, 0x002, 0x003, 0x010, 0x011, 0x012, 0x013, 0x017].map s.readCsr
        = [c.tvec, c.tcause, c.tepc, c.tval, c.fpcs, c.rngc, c.rngs, c.immc, c.rake]
    ∧ [0x014, 0x016, 0x018, 0x019, 0x01A, 0x01B].map s.readCsr
        = [s.myJob.mxstat, s.myJob.cpstat, s.myJob.mbcfg, s.myJob.mbspb, s.myJob.mbrh, s.myJob.mbbh]
    ∧ s.readCsr 0x037 = BitVec.ofNat 64 (s.ticks / 720720)
    ∧ (∀ i ∈ [0x001, 0x003, 0x014, 0x016, 0x01B, 0x036, 0x037], s1.writeCsr i x = s1)
    ∧ (∀ i < 16, s1.writeCsr (0x020 + i) x = s1)
    ∧ [0x000, 0x002, 0x011, 0x012, 0x01A].map back = [x &&& 0xFFFFFFFF, x, x, x &&& 0xFFFF, x &&& 0xFFFFFFFF]
    ∧ back 0x010 = (if 4 < f 13 3 then x &&& 0x11F1F else x &&& 0x1FF1F)
    ∧ back 0x013 = BitVec.ofNat 64 ((if f 4 4 = 9 then 0x90 else 0x80) + (if f 0 4 < 8 then f 0 4 else 3))
    ∧ back 0x015 = BitVec.ofNat 64 (if f 0 4 = 0 then 1 else f 0 4)
    ∧ back 0x017 = x &&& 0xF7FF
    ∧ back 0x018 = BitVec.ofNat 64 (f 24 16 * 2 ^ 24 + (if f 16 5 = 0 then 1 else Nat.min (f 16 5) 16) * 2 ^ 16
        + (if 2 ≤ f 8 5 ∧ f 8 5 ≤ 16 then f 8 5 else 16) * 2 ^ 8)
    ∧ back 0x019 = x &&& 0xFFFFFFFFFFFFFFC0
    ∧ back 0x034 = BitVec.ofNat 64 (f 5 1 * 32 + (if 4 ≤ f 0 5 ∧ f 0 5 ≤ 20 then f 0 5 else 20))
    ∧ (∀ i < 4, back (0x030 + i) &&& 0x8000FF00FFFFFFFF = x &&& 0x8000FF00FFFFFFFF
        ∧ (back (0x038 + i)).toNat / 2 ^ 40 = f 63 1 * 2 ^ 23 + f 40 16)

/-! Loads and stores (spec/07, spec/08). -/

/-- R181, R180, R157, R391: `ld` delivers the bytes where they lie, least significant first, extended as asked; a pair goes to
two registers; for bytes of host memory it asks the host, block by block of 128 bytes, and waits for the answers.
R182, R183, R180, R129, R391: vector loads bring in the bytes of active elements alone, from consecutive addresses or from one
address a lane; the others merge or read zero. -/
def Obligations.LoadsDeliverTheirBytes : Prop :=
  (∀ (g : Guard) (sz : Size) (o rep sx : Bool) (ord : MemOrd) (scope : BitVec 5) (d : SDst) (r : BitVec 6) (m : MemOp)
      (s s1 : State) (ea : Word) (locs : List Loc),
      s.guard g = true → s.InOrder → s.memEa m = .ok (ea, s1) →
      let n := sz.bytes
      let e := Nat.min 4 n
      let l := (List.range n).map (fun i => (ea + BitVec.ofNat 64 i).toNat)
      let sync := decide (ord ≠ .plain)
      s1.scopeCheck sync scope.toNat (atHost ea) = .ok () →
      s1.Reaches o e l l (if sync then aligned ea n else .ok ()) locs → s1.replicaRoom rep (!sync) l →
      s1.order (decide (ord = .sc)) scope ea = .ok () →
      (∀ va h k, hostNeed s1.answers (l.zip locs) = some (va, h, k) → s1.asking = false → s.dstReady d = .ok () →
        exec (.ld g sz o ord rep scope sx d m) s
          = .next ((s.hostRequest va h (.read k) false).setMe { s.me with wait := .host s.answers }))
      ∧ (hostNeed s1.answers (l.zip locs) = none →
      let u := (s1.seen rep (!sync) o e l locs).1
      let v := leNat (s1.seen rep (!sync) o e l locs).2
      (sz ≠ .q → Delivers (.ld g sz o ord rep scope sx d m) s u d
        (if sx then (BitVec.ofNat (8 * n) v).signExtend 64 else BitVec.ofNat 64 v) 12)
      ∧ (sz = .q → let lo : Word := BitVec.ofNat 64 v
          Completes (.ld g sz o ord rep scope sx (.g r) m) s
            (u.setMe (((u.me.putG (r + 1) (BitVec.ofNat 64 (v / 2 ^ 64))).putG r lo).setLat lo)) 12)))
  ∧ (∀ (g : Guard) (sz : Size) (o acq rep sx : Bool) (scope : BitVec 5) (c : VCtl) (d : VDst) (m : MemOp) (p : SSrc)
      (idx : VSrc) (scl : BitVec 2) (disp : BitVec 32) (s s1 t1 : State) (ea b : Word) (locs locx : List Loc),
      s.guard g = true → s.InOrder → s.memEa m = .ok (ea, s1) → s.readS p = .ok (b, t1) → sz ≠ .q →
      let n := sz.bytes
      let w := 8 * n
      let e := Nat.min 4 n
      let mk := s.readM c.mask
      let ts := (List.range 128).filter (fun t => mk.getLsbD (w * (8 * t / w) / 32))
      let l := ts.map (fun t => (ea + BitVec.ofNat 64 t).toNat)
      let lane (j : Nat) : Word := b + ((vecElem (s.readV idx) 32 j).signExtend 64) <<< scl.toNat + disp.signExtend 64
      let lanes := (List.range 32).filter (fun j => mk.getLsbD j)
      let lx := lanes.flatMap (fun j => (List.range n).map (fun i => (lane j + BitVec.ofNat 64 i).toNat))
      let kx := lanes.flatMap (fun j => (List.range n).map (fun i => n * j + i))
      (s1.scopeCheck acq scope.toNat (atHost ea) = .ok () → s1.order false scope ea = .ok () →
        s1.Reaches o e (ea.toNat :: l) l (aligned ea 128) locs → s1.replicaRoom rep (!acq) l →
        (∀ va h k, hostNeed s1.answers (l.zip locs) = some (va, h, k) → s1.asking = false →
          exec (.vld g sz o acq rep scope c d m) s
            = .next ((s.hostRequest va h (.read k) false).setMe { s.me with wait := .host s.answers }))
        ∧ (hostNeed s1.answers (l.zip locs) = none →
          let u := s1.seen rep (!acq) o e l locs
          DeliversVecL (.vld g sz o acq rep scope c d m) s u.1 c d w
            (fun j => BitVec.ofNat w (bytesFrom ts u.2 (n * j) n)) 12))
      ∧ (n ≤ 4 → t1.scopeCheck acq scope.toNat (lanes.any (fun j => atHost (lane j))) = .ok () →
        (∀ j ∈ lanes, regionOf (lane j).toNat ≠ 0) → (∀ j ∈ lanes, (lane j).toNat % n = 0) →
        t1.ReadsAt o n lx lx (.ok ()) locx → t1.replicaRoom rep (!acq) lx →
        let u := t1.seen rep (!acq) o n lx locx
        DeliversVecL (.vldx g sz o acq rep scope sx c d p idx scl disp) s u.1 c d 32
          (fun j => let v := bytesFrom kx u.2 (n * j) n
            if sx then (BitVec.ofNat w v).signExtend 32 else BitVec.ofNat 32 v) 12))

/-- R181, R180, R391: `st` writes the bytes of its operand at the bytes it names, and no others; bytes of host memory are sent
to the host as a posted write.
R182, R183, R180, R391: vector stores write the bytes of active elements alone, those of host memory as posted writes; a
`vst` without an active lane does as a fence of its kind, in region 0 as a full one (notes/assumptions/16.md). -/
def Obligations.StoresWriteTheirBytes : Prop :=
  (∀ (g : Guard) (sz : Size) (o : Bool) (ord : MemOrd) (scope : BitVec 5) (m : MemOp) (c : SSrc) (s s1 s2 : State)
      (ea x : Word) (locs : List Loc),
      s.guard g = true → s.InOrder → s.memEa m = .ok (ea, s1) → s1.readS c = .ok (x, s2) →
      let n := sz.bytes
      let l := (List.range n).map (fun i => (ea + BitVec.ofNat 64 i).toNat)
      let sync := decide (ord ≠ .plain)
      let bytes := bytesOf n (x.toNat + 2 ^ 64 * (s1.readHigh c).toNat)
      s2.scopeCheck sync scope.toNat (atHost ea) = .ok () →
      s2.WritesAt o (Nat.min 4 n) l l (if sync then aligned ea n else .ok ()) locs →
      s2.order (decide (ord = .rel ∨ ord = .sc)) scope ea = .ok () →
      s2.Unclashed (.store o (Nat.min 4 n) (if ea.toNat % n ≠ 0 then 1 else if o then Nat.min 4 n else n) n (l.zip bytes)) →
      let t := s2.stored l locs bytes
      Completes (.st g sz o ord scope m c) s t 12
      ∧ (∀ k, (∀ q ∈ locs, q.same k = false) → t.readLoc k = s2.readLoc k)
      ∧ t.me.r = s2.me.r
      ∧ ((∀ q ∈ locs, q.atHost = false) → t = s2.store (locs.zip bytes))
      ∧ (∀ hs : List Nat, locs = hs.map Loc.host → ea.toNat % n = 0 →
          t.hostReqs = s2.hostReqs ++ [s2.requestOf ea.toNat (hs.headD 0) (.write (hs.zip bytes)) true] ∧ t.me.hostWrote = true))
  ∧ (∀ (g : Guard) (sz : Size) (o rel : Bool) (scope : BitVec 5) (mk : BitVec 3) (m : MemOp) (p : SSrc) (idx c : VSrc)
      (scl : BitVec 2) (disp : BitVec 32) (s s1 t1 : State) (ea b : Word) (locs locx : List Loc),
      s.guard g = true → s.InOrder → s.memEa m = .ok (ea, s1) → s.readS p = .ok (b, t1) → sz ≠ .q →
      let n := sz.bytes
      let w := 8 * n
      let e := Nat.min 4 n
      let k := s.readM mk
      let ts := (List.range 128).filter (fun t => k.getLsbD (w * (8 * t / w) / 32))
      let l := ts.map (fun t => (ea + BitVec.ofNat 64 t).toNat)
      let bytes := ts.map (vecElem (s.readV c) 8)
      let lane (j : Nat) : Word := b + ((vecElem (s.readV idx) 32 j).signExtend 64) <<< scl.toNat + disp.signExtend 64
      let lanes := (List.range 32).filter (fun j => k.getLsbD j)
      let lx := lanes.flatMap (fun j => (List.range n).map (fun i => (lane j + BitVec.ofNat 64 i).toNat))
      let bx := lanes.flatMap (fun j => bytesOf n (vecElem (s.readV c) 32 j).toNat)
      (s1.scopeCheck rel scope.toNat (atHost ea) = .ok () → s1.order rel scope ea = .ok () →
        s1.WritesAt o e (ea.toNat :: l) l (aligned ea 128) locs →
        s1.Unclashed (.store o e (if o then e else 4) 128 (l.zip bytes)) →
        let t := s1.stored l locs bytes
        Completes (.vst g sz o rel scope mk m c) s
          (if ts ≠ [] then t else if regionOf ea.toNat = 0 then t.fenceFull scope.toNat
            else if rel then t.fenceReleases scope.toNat else t) 12)
      ∧ (n ≤ 4 → t1.scopeCheck rel scope.toNat (lanes.any (fun j => atHost (lane j))) = .ok () →
        (∀ j ∈ lanes, regionOf (lane j).toNat ≠ 0) → (∀ j ∈ lanes, (lane j).toNat % n = 0) →
        (rel = true → t1.release scope.toNat ((lanes.map lane).headD (BitVec.allOnes 64)) = .ok ()) →
        t1.WritesAt o n lx lx (.ok ()) locx → t1.Unclashed (.store o n n n (lx.zip bx)) →
        Completes (.vstx g sz o rel scope mk p idx scl disp c) s (t1.stored lx locx bx) 12))

/-- A read after a write to the same byte gives the value written, every other byte keeps its value, and every context keeps
all but its wait, which ends only where it had a watch.
R192, R195, R196, R211: whatever older values the schedule lets a read return, it returns on each byte an event that is no older
than one that its reader has seen, and with no choice the newest; a write stands above every event of its bytes that its
writer has seen. That with no choice a read returns the newest event is the model's choice (notes/assumptions/3.md).
R195, R201, R205: a read stays known to its context; an access of it that acquires and meets releases of cores which its
scope entry holds, and whose entries hold its own, knows from then on every event that they pass on. -/
def Obligations.StoresReadBackAndTouchNothingElse : Prop :=
  (∀ (s : State) (cells : List (Loc × Byte)) (k : Loc) (b : Byte),
      ((∀ p ∈ cells, p.1.same k = false) → (s.store cells).readLoc k = s.readLoc k)
      ∧ ((∀ h, k ≠ .host h) → (s.store (cells ++ [(k, b)])).readLoc k = b)
      ∧ (∀ i : CtxId, ∃ w : Wait, (s.store cells).ctx i = { s.ctx i with wait := w })
      ∧ (∀ i : CtxId, (∀ p ∈ s.tiles, ∀ w ∈ p.2.watches, w.owner ≠ i) → (s.store cells).ctx i = s.ctx i)
      ∧ (s.store cells).mg = s.mg ∧ (s.store cells).homes = s.homes ∧ (s.store cells).hostReqs = s.hostReqs)
  ∧ ((∀ (r : Record) (v : Seen) (may : WriteEvent → Bool) (c : Nat × Nat) (u : List Host.Cell) (i j : Nat) (x : Host.Cell)
      (b : Byte) (o : Option Nat) (e : WriteEvent),
      u[i]? = some x → (r.readUnit v may c u)[i]? = some (b, o) → r.log[j]? = some e → e.hits [x.1] = true →
      ((e.num, x.1) ∈ v ∨ c = (0, 0)) → ∃ j' e', j' ≤ j ∧ r.log[j']? = some e' ∧ e'.hits [x.1] = true
        ∧ o = some e'.num ∧ b = (aget e'.cells x.1).getD x.2)
    ∧ (∀ (s : State) (a : Attr) (kind : EventKind) (v : Seen) (pass : Passing) (whole choice : Nat)
        (unit : List (Loc × Byte)) (e : WriteEvent) (k : Nat), let t := (s.emit a kind v pass whole choice unit).2
      let newer (n : Nat) : Nat := (t.record.log.findIdx? (fun f => f.num == n && f.hits [k])).getD t.record.log.length
      (∀ f ∈ s.record.log, f.num ≠ s.nextId) → e ∈ s.record.log → e.hits [k] = true → k ∈ unit.map (fun p => s.keyOf p.1) →
      (e.num, k) ∈ v → newer s.nextId < newer e.num))
  ∧ (∀ (s : State) (a : Attr) (accs : List (List Loc)) (got : Seen), s.record.keep = true →
      let t := s.learnRead a accs got
      (∀ q ∈ s.me.view.own, q ∈ t.me.view.own) ∧ (∀ q ∈ got, q ∈ t.me.view.own)
      ∧ (∀ acc ∈ accs, let keys := (acc.filter (fun l => (a.at [l]).acq)).map s.keyOf
          keys ≠ [] → ∀ r ∈ s.record.met keys (got.filter (fun p => keys.contains p.2)), s.covers a.ag a.scope r.ag = true → s.covers r.ag r.scope a.ag = true →
          ∀ q ∈ r.seen, q ∈ t.me.view.own)
      ∧ (∀ x y : Agent, x.slot < 64 → x.slot = y.slot →
          (s.covers x 0 y = true ↔ x.jt = y.jt ∧ x.core = y.core) ∧ (s.covers x 1 y = true ↔ x.jt = y.jt)
          ∧ s.covers x 2 y = true ∧ s.covers x 3 y = true)
      ∧ (∀ x y : Agent, x.slot < 64 → y.slot < 64 → x.slot ≠ y.slot → ∀ n < 32, s.covers x n y = false))

/-- R180, R311, R193: an address of region 4 or above bit 55 traps ADDR, a misaligned ordered access or a misaligned `vld` or
`vst` ALIGN, and a store to the weight store WS_WRITE, each before any effect and in this order, with the address as TVAL.
That ALIGN comes before WS_WRITE is a reading (notes/assumptions/16.md). -/
def Obligations.AccessChecksTrapInOrder : Prop :=
  ∀ (g : Guard) (sz : Size) (ord : MemOrd) (rep sx : Bool) (scope : BitVec 5) (d : SDst) (m : MemOp) (c : SSrc)
    (mk : VCtl) (o acq : Bool) (vm : BitVec 3) (vd : VDst) (va : VSrc) (s s1 s2 : State) (ea x : Word),
    s.guard g = true → s.memEa m = .ok (ea, s1) → s1.readS c = .ok (x, s2) → s.wideBusy = false → s.inProg = false →
    s1.scopeHas s1.agent scope.toNat = true → s.dstReady d = .ok () →
    let n := sz.bytes
    let pc := s.me.r.pc
    let bad := ea.toNat / 2 ^ 55 ≠ 0 ∨ regionOf ea.toNat = 4
    let fine := ∀ i < n, (ea + BitVec.ofNat 64 i).toNat / 2 ^ 55 = 0 ∧ regionOf (ea + BitVec.ofNat 64 i).toNat ≠ 4
    let sync := decide (ord ≠ .plain)
    (sync = true → regionOf ea.toNat = 5 → scope = 3) →
    (bad → exec (.ld g sz false ord rep scope sx d m) s = .next (s.takeTrap .addr 0 pc ea)
      ∧ exec (.st g sz false ord scope m c) s = .next (s.takeTrap .addr 0 pc ea)
      ∧ exec (.vld g sz false false rep scope mk vd m) s = .next (s.takeTrap .addr 0 pc ea))
    ∧ (fine → sync = true → ea.toNat % n ≠ 0 →
      exec (.ld g sz false ord rep scope sx d m) s = .next (s.takeTrap .align 0 pc ea)
      ∧ exec (.st g sz false ord scope m c) s = .next (s.takeTrap .align 0 pc ea))
    ∧ (fine → (sync = true → ea.toNat % n = 0) → regionOf ea.toNat = 6 →
      exec (.st g sz false ord scope m c) s = .next (s.takeTrap .wsWrite 0 pc ea))
    ∧ ((∀ i < 128, let a := (ea + BitVec.ofNat 64 i).toNat
          a / 2 ^ 55 = 0 ∧ regionOf a ≠ 4 ∧ (o = true → regionOf a ≠ 5 ∧ regionOf a ≠ 6)) →
      (acq = true → regionOf ea.toNat = 5 → scope = 3) → ea.toNat % 128 ≠ 0 →
      exec (.vld g sz o acq rep scope mk vd m) s = .next (s.takeTrap .align 0 pc ea)
      ∧ exec (.vst g sz o acq scope vm m va) s = .next (s.takeTrap .align 0 pc ea))

/-- R156, R166: the column view and the sector view are permutations of the bytes of a plate and of a sector. -/
def Obligations.ColumnViewsArePermutations : Prop :=
  ∀ e ∈ [1, 2, 4],
    (∀ a < 4096, colPlate a e < 4096) ∧ (∀ a < 4096, ∀ b < 4096, colPlate a e = colPlate b e → a = b)
    ∧ (∀ a < 1024, colSector a e < 1024) ∧ (∀ a < 1024, ∀ b < 1024, colSector a e = colSector b e → a = b)
    ∧ (∀ r c : Nat, r < 32 → c < 128 / e → ∀ k < e, colPlate (32 * e * c + e * r + k) e = 128 * r + e * c + k)

/-- R204, R207, R228: a fence whose entry holds its core completes once what it waits for has performed, and changes nothing but
what its context knows: an acquire fence learns what the releases carry that earlier reads met, a release fence passes every
earlier access on with the writes that follow, a full one does both; it traps SCOPE where the entry does not hold the core.
R185, R327, R328: a prefetch and the cache instructions change no byte that a load sees; a prefetch brings its block or
sector into the home slice; `cinv` drops the job's replicas of
the sector, on its own tile or on its box, and `cwb` leaves the sector clean. -/
def Obligations.FencesAndCacheInstructionsChangeNoByte : Prop :=
  (∀ (g : Guard) (scope : BitVec 5) (s : State), s.guard g = true →
      let has := s.scopeHas s.agent scope.toNat
      let pc := s.me.r.pc
      let v := s.me.view
      let met := s.heard s.agent scope.toNat (s.record.met (v.reads.map Prod.snd).eraseDups v.reads)
      let done := (∀ p ∈ s.myTile.posted ++ s.myTile.sideLog, p.owner ≠ s.cur) ∧ s.hostRmwsDone = true
      let left := (∀ w ∈ s.myTile.wide, w.owner ≠ s.cur) ∧ (scope = 3 → s.me.hostWrote = false)
        ∧ ∀ x ∈ s.late, x.owner ≠ s.cur
      (has = true → done → ∃ w : View, Completes (.fenceAcq g scope) s (s.setMe { s.me with view := w }) 8
          ∧ (∀ r ∈ met, ∀ x ∈ r.seen, x ∈ w.own ∧ x ∈ w.pub) ∧ ∀ x ∈ v.own, x ∈ w.own)
      ∧ (has = true → done → left → ∃ w : View, Completes (.fenceRel g scope) s (s.setMe { s.me with view := w }) 8
          ∧ w.own = v.own ∧ ∃ r : Release, w.fences = v.fences ++ [r] ∧ r.ag = s.agent ∧ r.scope = scope.toNat
          ∧ ∀ x ∈ v.own, x ∈ r.seen)
      ∧ (has = true → done → left → ∃ (w : View) (fs : List Release),
          Completes (.fenceSc g scope) s { (s.setMe { s.me with view := w }) with
            record := { s.record with fences := s.record.fences ++ fs } } 8
          ∧ (∀ r ∈ met, ∀ x ∈ r.seen, x ∈ w.own) ∧ (∀ x ∈ v.own, ∃ r ∈ w.fences, x ∈ r.seen))
      ∧ (has = false → s.wideBusy = false → s.inProg = false →
          let t := s.takeTrap .scope 0 pc (scope.setWidth 64)
          exec (.fenceAcq g scope) s = .next t ∧ exec (.fenceRel g scope) s = .next t ∧ exec (.fenceSc g scope) s = .next t))
  ∧ (∀ (g : Guard) (rep sector all drop : Bool) (m : MemOp) (s s1 : State) (ea : Word),
      s.guard g = true → s.memEa m = .ok (ea, s1) →
      let sec := ea.toNat % 2 ^ 52 / 1024
      let tiles := if all then s1.mySlot.box else [s1.cur.tile]
      let d := s1.sliceOf s1.mySlot.asid ea.toNat
      (∃ u : State, Completes (.pf g rep sector m) s u 12 ∧ (∀ k, u.readLoc k = s1.readLoc k) ∧ u.me = s1.me
        ∧ (s1.prefetches ea = true → rep = false → ∃ f ∈ (u.tile d).slice, f.holds s1.mySlot.asid sec = true
          ∧ ∀ i < 1024, sector = true ∨ i / 128 = ea.toNat % 1024 / 128 → f.valid.getLsbD i = true))
      ∧ (ea.toNat / 2 ^ 55 = 0 → regionOf ea.toNat < 4 →
        (∃ u : State, Completes (.cinv g all m) s u 12 ∧ (∀ k, u.readLoc k = s1.readLoc k) ∧ u.me = s1.me
          ∧ ∀ t ∈ tiles, ∀ f ∈ (u.tile t).slice, ∀ r, f.replica = some r → ¬ (r.slot = s1.me.slot ∧ f.sec = sec))
        ∧ (s1.cleanBusy s1.mySlot.asid ea.toNat = false → ∃ u : State, Completes (.cwb g drop m) s u 12 ∧ (∀ k, u.readLoc k = s1.readLoc k) ∧ u.me = s1.me
          ∧ ∀ f ∈ (u.tile d).slice, f.holds s1.mySlot.asid sec = true → drop = false ∧ f.dirty = 0))
      ∧ (ea.toNat / 2 ^ 55 = 0 → 4 < regionOf ea.toNat →
        Completes (.cinv g all m) s s1 12 ∧ Completes (.cwb g drop m) s s1 12))

/-! Tensors (spec/07). -/

/-- R184, R172, R190, R129: through a linear PLAIN entry of whole bytes, `tld` brings in and `tst` writes the elements that are
active and within the extents; active elements past an extent read zero and are not written.
R170 to R176: where the element at four coordinates lies: its address, its first bit there, and its bytes; of UNFOLD, where
its source element lies, or nowhere in the padding.
R184, R60, R129, R190: through an entry of any kind that the instruction takes, by rows or by columns, `tld` brings in the
elements that are active and within the extents, with +0 for the others and for padding, and `tst` writes them; into words of
packed elements it writes its elements, and zeros into pad bits and into slots past the run, and keeps the rest.
R187, R188, R189, R190, R169: `tget` reads a word of an entry, valid or not; `taddr` gives the address of an element of
a linear PLAIN entry or of a RING, and traps TENSOR outside the extents; an identifier above 255 traps TENSOR. -/
def Obligations.TensorAccessesUseTheirEntries : Prop :=
  (∀ (g : Guard) (acq rep : Bool) (id : BitVec 8) (scope : BitVec 5) (c : VCtl) (d : VDst) (v : VSrc) (a b : SSrc)
      (s s1 s2 : State) (x y : Word) (locs : List Loc),
      s.guard g = true → s.InOrder → s.readS a = .ok (x, s1) → s1.readS b = .ok (y, s2) →
      let t := s2.mySlot.tensor id.toNat
      tValid t = true → tKind t = some .plain → isPacked (tTy t) = false → tLayout t = 0 →
      let w := (tTy t).width
      let n := w / 8
      let c0 := x.toNat % 2 ^ 32
      let c1 := x.toNat / 2 ^ 32
      let c2 := y.toNat % 2 ^ 32
      let c3 := y.toNat / 2 ^ 32
      let inside (j : Nat) : Bool := decide (c0 + j < plainExt t 0) && decide (c1 < plainExt t 1)
        && decide (c2 < plainExt t 2) && decide (c3 < plainExt t 3)
      let on (j : Nat) : Bool := (s.readM c.mask).getLsbD (w * j / 32)
      let addr (j : Nat) : Word := t[1] + BitVec.ofNat 64 (c0 + j) * BitVec.ofNat 64 n + BitVec.ofNat 64 c1 * t[4]
        + BitVec.ofNat 64 c2 * t[5] + BitVec.ofNat 64 c3 * t[6]
      let js := (List.range (1024 / w)).filter (fun j => on j && inside j)
      let l := js.flatMap (fun j => (List.range n).map (fun i => (addr j + BitVec.ofNat 64 i).toNat))
      let bytes := js.flatMap (fun j => bytesOf n (vecElem (s.readV v) w j).toNat)
      s2.scopeCheck acq scope.toNat (js.any (fun j => atHost (addr j))) = .ok () →
      (∀ j ∈ js, regionOf (addr j).toNat ≠ 0 ∧ (addr j).toNat % n = 0) →
      (js.map addr).Nodup →
      s.me.kept = none →
      (s2.ReadsAt false 1 l l (.ok ()) locs → s2.replicaRoom rep (!acq) l →
        let u := s2.seen rep (!acq) false 1 l locs
        let byte (a : Word) : Byte := (aget (l.zip u.2) a.toNat).getD 0
        DeliversVecL (.tld g false acq rep id scope c d a b) s u.1 c d w (fun j => if inside j then
          BitVec.ofNat w (leNat ((List.range n).map (fun i => byte (addr j + BitVec.ofNat 64 i)))) else 0) 16)
      ∧ (s2.WritesAt false 1 l l (.ok ()) locs →
        (acq = true → s2.release scope.toNat (BitVec.ofNat 64 (2 ^ 52)) = .ok ()) →
        let unit := if js.isEmpty then 1 else n
        s2.Unclashed (.store false 1 unit unit (l.zip bytes)) →
        Completes (.tst g false acq id scope c.mask a b v) s (s2.stored l locs bytes) 16))
  ∧ (∀ (t src : Tensor) (jt c0 c1 c2 c3 : Nat),
      let ty := tTy t
      let w := ty.width
      let per := match ty with
        | .q3 => 10
        | _ => 8
      let base := (t[1]).toNat
      let rest := c2 * (t[5]).toNat + c3 * (t[6]).toNat
      let bc := c0 * (w / 8)
      let f (i lo n : Nat) : Nat := (t[i]?.getD 0).toNat / 2 ^ lo % 2 ^ n
      let at_ := placeOf t src jt [c0, c1, c2, c3]
      let E (i : Nat) := plainExt src i
      let oh := (E 2 + 2 * f 2 48 8 - f 2 32 8 * (f 2 0 8 - 1) - 1) / f 2 16 8 + 1
      let ow := (E 1 + 2 * f 2 56 8 - f 2 40 8 * (f 2 8 8 - 1) - 1) / f 2 24 8 + 1
      let ih : Int := (c1 / ow % oh * f 2 16 8 + c0 / (E 0 * f 2 8 8) * f 2 32 8 : Nat) - (f 2 48 8 : Int)
      let iw : Int := (c1 % ow * f 2 24 8 + c0 / E 0 % f 2 8 8 * f 2 40 8 : Nat) - (f 2 56 8 : Int)
      (tKind t = some .plain → isPacked ty = false → tLayout t = 0 →
        at_ = some ⟨(base + bc + c1 * (t[4]).toNat + rest) % 2 ^ 64, 0, w / 8⟩)
      ∧ (tKind t = some .plain → isPacked ty = false → tLayout t = 1 →
        at_ = some ⟨(base + c1 / 32 * (t[4]).toNat + bc / 32 * 1024 + 32 * (c1 % 32) + bc % 32 + rest) % 2 ^ 64, 0, w / 8⟩)
      ∧ (tKind t = some .plain → isPacked ty = true →
        at_ = some ⟨(base + c1 * (t[4]).toNat + rest + 4 * (c0 / per)) % 2 ^ 64, w * (c0 % per), 4⟩)
      ∧ (tKind t = some .ring → at_ = some ⟨(base + c1 * f 2 32 32 + c0) % 2 ^ 64, 0, 1⟩)
      ∧ (tKind t = some .weights →
        let ofs := f 1 0 24 + c1 * f 3 0 32 + (if isPacked ty then 4 * (c0 / per) else bc)
        ofs < 2 ^ 24 → at_ = some ⟨6 * 2 ^ 52 + jt * 2 ^ 24 + ofs, if isPacked ty then w * (c0 % per) else 0,
          if isPacked ty then 4 else w / 8⟩)
      ∧ (tKind t = some .unfold → tKind src = some .plain → 0 < f 2 0 8 → 0 < f 2 8 8 → 0 < f 2 16 8 → 0 < f 2 24 8 →
        f 2 32 8 * (f 2 0 8 - 1) + 1 ≤ E 2 + 2 * f 2 48 8 → f 2 40 8 * (f 2 8 8 - 1) + 1 ≤ E 1 + 2 * f 2 56 8 →
        at_ = if 0 ≤ ih ∧ ih < E 2 ∧ 0 ≤ iw ∧ iw < E 1 then
            placeOf src src jt [c0 % E 0, iw.toNat, ih.toNat, c1 / (ow * oh)]
          else none))
  ∧ (∀ (g : Guard) (o acq rep : Bool) (id : BitVec 8) (scope : BitVec 5) (c : VCtl) (d : VDst) (v : VSrc) (a b : SSrc)
      (s s1 s2 : State) (x y : Word) (t src : Tensor) (locs : List Loc),
      s.guard g = true → s.InOrder → s.me.kept = none → s.readS a = .ok (x, s1) → s1.readS b = .ok (y, s2) →
      let ty := tTy t
      let w := ty.width
      let packed := isPacked ty
      let per := match ty with
        | .q3 => 10
        | _ => 8
      let c0 := x.toNat % 2 ^ 32
      let c1 := x.toNat / 2 ^ 32
      let cs (j : Nat) : List Nat := (if o then [c0 + j / 32, c1 + j % 32] else [c0 + j, c1])
        ++ [y.toNat % 2 ^ 32, y.toNat / 2 ^ 32]
      let first (j : Nat) : Nat := if ty = .q3 then 32 * (j / 10) + 3 * (j % 10) else w * j
      let slots := if ty = .q3 then 320 else 1024 / w
      let on (j : Nat) : Bool := (s.readM c.mask).getLsbD (first j / 32)
      let place (j : Nat) : Option Place := if tInside t src (cs j) then placeOf t src s2.me.jtile (cs j) else none
      let moved := (List.range slots).filterMap (fun j => if on j then (place j).map (fun p => (j, p)) else none)
      let bytesAt (p : Place) : List Nat := (List.range p.n).map (fun i => (BitVec.ofNat 64 p.addr + BitVec.ofNat 64 i).toNat)
      let value (j : Nat) : BitVec w := (s.readV v).extractLsb' (first j) w
      let sync := s2.order (acq || moved.any (fun m => regionOf m.2.addr == 0)) scope (BitVec.ofNat 64 (2 ^ 52))
      (o = true → packed = false ∧ w ≤ 32) → (packed = true → c0 % per = 0) →
      (acq = true → ∀ m ∈ moved, m.2.addr % m.2.n = 0) →
      s2.scopeCheck acq scope.toNat (moved.any (fun m => regionOf m.2.addr == 5)) = .ok () →
      (s2.entry id.toNat (fun k => k == .plain || (k == .unfold && !o) || k == .ring || k == .weights) = .ok (t, src) →
        let l := (moved.map (fun m => (m.2.addr, m.2.n))).eraseDups.flatMap (fun q => bytesAt ⟨q.1, 0, q.2⟩)
        s2.ReadsAt false 1 l l (.ok ()) locs → s2.replicaRoom rep (!acq) l →
        s2.order (moved.any (fun m => regionOf m.2.addr == 0)) scope (BitVec.ofNat 64 (2 ^ 52)) = .ok () →
        preCheck o l (.ok ()) = .ok () →
        let u := s2.seen rep (!acq) false 1 l locs
        let byte (n : Nat) : Byte := (aget (l.zip u.2) n).getD 0
        ∃ r : VWord, Completes (.tld g o acq rep id scope c d a b) s (u.1.writeV d r) 16
          ∧ (∀ j < slots, on j = true → r.extractLsb' (first j) w = match place j with
              | some p => BitVec.ofNat w (leNat ((bytesAt p).map byte) / 2 ^ p.bit)
              | none => 0)
          ∧ (∀ k < 1024, (s.readM c.mask).getLsbD (if w = 64 then k / 64 * 2 else k / 32) = false →
              r.getLsbD k = (!c.zm && (s.readVD d).getLsbD k))
          ∧ (ty = .q3 → ∀ l < 32, (s.readM c.mask).getLsbD l = true →
              r.getLsbD (32 * l + 30) = false ∧ r.getLsbD (32 * l + 31) = false))
      ∧ (s2.entry id.toNat (fun k => k == .plain || k == .ring) = .ok (t, src) → packed = false → sync = .ok () →
        let l := moved.flatMap (fun m => bytesAt m.2)
        let bytes := moved.flatMap (fun m => bytesOf m.2.n (value m.1).toNat)
        let unit := if moved.isEmpty then 1 else w / 8
        s2.WritesAt false 1 l l (.ok ()) locs → preCheck o l (.ok ()) = .ok () →
        s2.Unclashed (.store false 1 unit unit (l.zip bytes)) →
        Completes (.tst g o acq id scope c.mask a b v) s (s2.stored l locs bytes) 16)
      ∧ (s2.entry id.toNat (fun k => k == .plain || k == .ring) = .ok (t, src) → packed = true → sync = .ok () →
        let words := (moved.map (fun m => m.2.addr)).eraseDups
        let l := words.flatMap (fun n => bytesAt ⟨n, 0, 4⟩)
        s2.WritesAt false 1 l l (.ok ()) locs → (∀ n ∈ words, regionOf n ≠ 5) →
        s2.Unclashed (.packed (words.map (fun n => (n, 0, 0)))) →
        ∃ bytes : List Byte, bytes.length = l.length
          ∧ Completes (.tst g o acq id scope c.mask a b v) s (s2.stored l locs bytes) 16
          ∧ ∀ (i n : Nat), words[i]? = some n → ∀ k < 32,
            (leNat ((bytes.drop (4 * i)).take 4)).testBit k =
              match moved.find? (fun m => m.2.addr == n && decide (m.2.bit ≤ k) && decide (k < m.2.bit + w)) with
              | some m => (value m.1).getLsbD (k - m.2.bit)
              | none => match moved.find? (fun m => m.2.addr == n) with
                | some m => decide (k / w < per) && decide ((c0 + m.1) / per * per + k / w < plainExt t 0)
                    && (s2.loadNat ((locs.drop (4 * i)).take 4)).testBit k
                | none => false))
  ∧ (∀ (g : Guard) (wd : BitVec 3) (id : BitVec 8) (d : SDst) (a b : SSrc) (s s1 s2 : State) (x y : Word),
      s.guard g = true → s.readS a = .ok (x, s1) → s1.readS b = .ok (y, s2) →
      let t := s2.mySlot.tensor id.toNat
      let pc := s.me.r.pc
      let c0 := x.toNat % 2 ^ 32
      let c1 := x.toNat / 2 ^ 32
      let c2 := y.toNat % 2 ^ 32
      let c3 := y.toNat / 2 ^ 32
      (x.toNat < 256 → Delivers (.tget g wd d a) s s1 d ((s1.mySlot.tensor x.toNat)[wd.toNat]'(wd.isLt)) 8)
      ∧ (256 ≤ x.toNat → s.wideBusy = false → s.inProg = false →
          exec (.tget g wd d a) s = .next (s.takeTrap .tensor 0 pc x))
      ∧ (tValid t = true → tKind t = some .plain → isPacked (tTy t) = false → tLayout t = 0 →
          let inside := c0 < plainExt t 0 ∧ c1 < plainExt t 1 ∧ c2 < plainExt t 2 ∧ c3 < plainExt t 3
          (inside → Delivers (.taddr g false id d a b) s s2 d (t[1] + BitVec.ofNat 64 c0 * BitVec.ofNat 64 ((tTy t).width / 8)
            + BitVec.ofNat 64 c1 * t[4] + BitVec.ofNat 64 c2 * t[5] + BitVec.ofNat 64 c3 * t[6]) 16)
          ∧ (¬ inside → s.wideBusy = false → s.inProg = false →
            exec (.taddr g false id d a b) s = .next (s.takeTrap .tensor 0 pc (id.setWidth 64))))
      ∧ (tValid t = true → tKind t = some .ring → c0 < tf t 2 32 32 → c1 < tf t 2 0 32 → c2 = 0 → c3 = 0 →
          Delivers (.taddr g false id d a b) s s2 d
            (t[1] + BitVec.ofNat 64 c1 * BitVec.ofNat 64 (tf t 2 32 32) + BitVec.ofNat 64 c0) 16)
      ∧ (tValid t = false → s.wideBusy = false → s.inProg = false →
          exec (.taddr g false id d a b) s = .next (s.takeTrap .tensor 0 pc (id.setWidth 64))))

/-- R186: `tdef` reads 64 bytes, and its context waits until TDEF_BROADCAST has put the entry into the job's table, oldest
first; then the context goes on. -/
def Obligations.TensorDefinitionsReachTheTable : Prop :=
  (∀ (g : Guard) (a b : SSrc) (s s1 s2 : State) (ea id : Word) (locs : List Loc),
    s.guard g = true → s.InOrder → s.readS a = .ok (ea, s1) → s1.readS b = .ok (id, s2) → id.toNat < 256 →
    s.me.wait ≠ .tdef →
    let l := (List.range 64).map (fun i => (ea + BitVec.ofNat 64 i).toNat)
    s2.ReadsAt false 1 l l (aligned ea 64) locs → s2.order false 2 ea = .ok () →
    let bytes := (s2.seen false true false 1 l locs).2
    let t : Tensor := Vector.ofFn (fun k : Fin 8 => BitVec.ofNat 64 (leNat ((bytes.drop (8 * k.val)).take 8)))
    let j := s2.mySlot
    j.accepts t = true →
    let u := (s2.seen false true false 1 l locs).1.setSlot s2.me.slot { j with tdefs := j.tdefs ++ [(s2.cur, id.toNat, t)] }
    exec (.tdef g a b) s = .next (u.setMe { u.me with wait := .tdef }))
  ∧ (∀ (n : Nat) (s : State) (who : CtxId) (id : Nat) (t : Tensor) (rest : List (CtxId × Nat × Tensor)),
    (s.slot n).tdefs = (who, id, t) :: rest →
    let u := { (s.setSlot n { s.slot n with tensors := aset (s.slot n).tensors id t, tdefs := rest }) with
      cur := who, inProg := false }
    ((s.ctx who).wait = .tdef → exec (.tdefBroadcast n) s = .next (u.flow 16))
    ∧ (∀ k, (u.slot n).tensor k = if k = id then t else (s.slot n).tensor k))

/-! Atomics, reductions, fences and counters (spec/09). -/

/-- R221, R224, R225: an atomic reads its bytes, applies its operation to their pattern, writes the result and delivers the old
value, as one event; `cas` writes only where the old value is the expected one, and its predicate says so.
R226, R227: a reduction, one word or 32 lanes, is posted to its tile with the arrival at its counter, if it names one, and its
context goes on at once; no memory changes yet.
R208, R209, R233: a read-modify-write whose bytes no read-modify-write of another execution point has written reads their
newest values and no older ones, so that those of one point are serial. -/
def Obligations.AtomicsAndReductionsUpdateTheirBytes : Prop :=
  (∀ (g : Guard) (op : AmoOp) (dbl : Bool) (sz : Size) (ord : MemOrd) (scope : BitVec 5) (ps : BitVec 3) (d : SDst)
      (r : BitVec 6) (m : MemOp) (c : SSrc) (s s1 s2 : State) (ea y : Word) (locs : List Loc),
      s.guard g = true → s.InOrder → s.memEa m = .ok (ea, s1) → s1.readS c = .ok (y, s2) →
      s2.scopeCheck true scope.toNat (atHost ea) = .ok () →
      s2.order (decide (ord = .rel ∨ ord = .sc)) scope ea = .ok () → (∀ h, Loc.host h ∉ locs) →
      let old := leNat (locs.map s2.readLoc)
      (let n := if dbl then 8 else 4
       let w := 8 * n
       let X : BitVec w := BitVec.ofNat w old
       let Y : BitVec w := y.setWidth w
       let f := fmtOf (if dbl then .f64 else .f32)
       let new : BitVec w := match op with
         | .add => X + Y
         | .smin => if X.sle Y then X else Y
         | .smax => if X.sle Y then Y else X
         | .nmin => if X.ule Y then X else Y
         | .nmax => if X.ule Y then Y else X
         | .and => X &&& Y
         | .or => X ||| Y
         | .xor => X ^^^ Y
         | .swap => Y
         | .fadd => BitVec.ofNat w (addVal f .rne 0 (f.val old) (f.val Y.toNat)).1
       s2.rmwChecks (span ea n) (aligned ea n) (amoHost op) false = .ok () → s2.rmwLocs scope.toNat ea n = .ok locs →
       Delivers (.amo g op dbl ord scope d m c) s (s2.store (locs.zip (bytesOf n new.toNat))) d (BitVec.ofNat 64 old) 12)
      ∧ (let n := sz.bytes
         let e := (s2.me.r.getG r).toNat + 2 ^ 64 * (s.me.r.getG (r + 1)).toNat
         let v := y.toNat + 2 ^ 64 * (s.readHigh c).toNat
         let hit := decide (old = e % 2 ^ (8 * n))
         let u := if hit then s2.store (locs.zip (bytesOf n v)) else s2.touchReads locs
         let lo : Word := BitVec.ofNat 64 old
         let w := if sz = .q then u.me.putG (r + 1) (BitVec.ofNat 64 (old / 2 ^ 64)) else u.me
         s2.rmwChecks (span ea n) (aligned ea n) true false = .ok () → s2.rmwLocs scope.toNat ea n = .ok locs →
         Completes (.cas g sz ord scope ps (.g r) m c) s ((u.setMe ((w.putG r lo).setLat lo)).writeP ps hit) 12))
  ∧ (∀ (g : Guard) (op : AmoOp) (dbl rel : Bool) (scope : BitVec 5) (m : MemOp) (c : SSrc) (v : VSrc) (k : SSrc)
      (s s1 s2 s3 v1 : State) (ea y ctr : Word),
      s.guard g = true → s.InOrder → s.memEa m = .ok (ea, s1) → s1.readS c = .ok (y, s2) → s2.readS k = .ok (ctr, s3) →
      k ≠ .zr →
      s1.readS k = .ok (ctr, v1) →
      let n := if dbl then 8 else 4
      let post (u : State) (us : List Update) : State :=
        let p (x : Update) : Posted :=
          { owner := u.cur, gen := u.me.gen, slot := u.me.slot, jtile := u.me.jtile, ord := if rel then .rel else .plain
            scope := scope.toNat, group := u.nextId, seen := [], fences := [], pub := [], waited := []
            upd := x }
        let u1 := { u with nextId := u.nextId + 1 }
        u1.setTile u1.cur.tile { u1.myTile with posted := u1.myTile.posted ++ us.map p }
      let ok (u : State) (n : Nat) (host : Bool) : Prop :=
        u.rmwChecks (span ea n) (aligned ea n) host false = .ok () ∧ u.issueLocate (span ea n) = .ok ()
          ∧ u.flushFor rel scope ea = .ok ()
      let one : Update := .rmw op n ea (BitVec.ofNat 64 (y.toNat % 2 ^ (8 * n)))
      let lanes : List Update := (List.range 32).map (fun i =>
        .rmw op 4 (ea + BitVec.ofNat 64 (4 * i)) ((vecElem (s.readV v) 32 i).setWidth 64))
      s.scopeHas s.agent scope.toNat = true → (regionOf ea.toNat = 5 → scope = 3) → (regionOf ctr.toNat = 5 → scope = 3) →
      (ok s2 n (op == .add) → Completes (.red g op dbl rel scope .zr m c) s (post s2 [one]) 12)
      ∧ (ok s3 n (op == .add) → s3.counterOk (some ctr) = .ok () →
          Completes (.red g op dbl rel scope k m c) s (post s3 [one, .arrive ctr]) 12)
      ∧ (ok s1 128 false →
          Completes (.redVector g op rel scope .zr m v) s (post s1 lanes) 12)
      ∧ (ok v1 128 false → v1.counterOk (some ctr) = .ok () →
          Completes (.redVector g op rel scope k m v) s (post v1 (lanes ++ [.arrive ctr])) 12))
  ∧ (∀ (s : State) (atomic : Bool) (a : Attr) (v : Seen) (pass : Passing) (l : Loc) (locs : List Loc)
      (f : Nat → Option (List Byte)), s.record.keep = true →
      let keys := (l :: locs).map s.keyOf
      (∀ e ∈ s.record.log, e.hits keys = true → e.kind = .rmw → e.point = s.pointOf atomic a.scope l) →
      let newest (q : Loc) : Byte := match s.record.log.find? (fun e => e.hits [s.keyOf q]) with
        | some e => (aget e.cells (s.keyOf q)).getD (s.readLoc q)
        | none => (aget s.record.base (s.keyOf q)).getD (s.readLoc q)
      (s.rmwAs atomic a v pass (l :: locs) f).old = leNat ((l :: locs).map newest))

/-- R218, R229: `cadd` adds to VALUE alone; a sum past 2^64 - 1 traps COUNTER_OVF with the counter unchanged and resumes after
the instruction, and a negative addend traps COUNTER_NEG. That the trap passes over a tail word and that an entry which the
instruction popped stays popped are readings (notes/assumptions/29.md, notes/assumptions/8.md).
R230, R231, R219, R220: `cread` delivers VALUE or a timeline; `cwait` does so once it has reached its operand, and else
leaves a watch, whose answer it delivers, or re-reads 128 core clocks later where no watch is free; `cwait.nb` tests once. -/
def Obligations.CountersAddAndAnswerTheirWaits : Prop :=
  (∀ (g : Guard) (ord : MemOrd) (scope : BitVec 5) (m : MemOp) (c : SSrc) (s s1 s2 : State) (ea a : Word)
      (locs : List Loc),
      s.guard g = true → s.InOrder → s.memEa m = .ok (ea, s1) → s1.readS c = .ok (a, s2) →
      s2.scopeCheck true scope.toNat (atHost ea) = .ok () → s2.counterChecks ea = .ok () →
      let v := leNat (locs.map s2.readLoc)
      let pc := s.me.r.pc
      let after := if (pc + 12).toNat % 32 = 28 then pc + 16 else pc + 12
      (a.toNat < 2 ^ 63 → s2.order (decide (ord = .rel ∨ ord = .sc)) scope ea = .ok () → s2.rmwLocs scope.toNat ea 8 = .ok locs →
        (v + a.toNat < 2 ^ 64 → Completes (.cadd g ord scope m c) s (s2.store (locs.zip (bytesOf 8 (v + a.toNat)))) 12)
        ∧ (2 ^ 64 ≤ v + a.toNat → s.wideBusy = false → s.inProg = false →
            exec (.cadd g ord scope m c) s = .next ((s2.touchReads locs).takeTrap .counterOvf 0 after ea)))
      ∧ (2 ^ 63 ≤ a.toNat → s.wideBusy = false → s.inProg = false →
          exec (.cadd g ord scope m c) s = .next (s.takeTrap .counterNeg 0 pc ea)))
  ∧ (∀ (g : Guard) (acq : Bool) (ps : BitVec 3) (src : CtrSrc) (d : SDst) (c : SSrc) (s s1 s2 s3 s4 s5 : State)
      (v n a a1 n1 x : Word),
      s.guard g = true → s.InOrder → s.cwaitOperands src c = .ok (a, n, s1) →
      s.readSource true (fun v => decide (n.toNat ≤ v.toNat)) src a = .ok (v, s2) →
      s2.cwaitOperands src c = .ok (a1, n1, s3) →
      s.sourceEa src = .ok (a, s4) → s4.readSource acq (fun _ => true) src a = .ok (x, s5) →
      let free := (s.me.handler = false ∨ s.inProg = true) ∧ s.me.wait ≠ .watch
      let fresh := ∀ v got, s.me.wait ≠ .answered v got
      Delivers (.cread g acq src d) s s5 d x 12
      ∧ (n.toNat ≤ v.toNat → free → fresh → Delivers (.cwait g src d c) s s3 d v 12)
      ∧ (∀ got, s.me.wait = .answered x got → free → Delivers (.cwait g src d c) s s1 d x 12)
      ∧ (v.toNat < n.toNat → free → fresh → s.dstReady d = .ok () → ∀ m sc, src = .mem m sc → ∃ t : State,
          exec (.cwait g src d c) s = .next t ∧ t = s2.beginWatch a n
          ∧ (s2.freeWatch (s2.watchPoint a) = true → t.me.wait = .watch ∨ ∃ w got, t.me.wait = .answered w got)
          ∧ (s2.freeWatch (s2.watchPoint a) = false → t.me.wait = .reread s.time false))
      ∧ (n.toNat ≤ v.toNat → ∀ t, s3.writeS d v = .ok t → Completes (.cwaitNb g ps src d c) s (t.writeP ps true) 12)
      ∧ (v.toNat < n.toNat → s.dstReady d = .ok () → Completes (.cwaitNb g ps src d c) s (s2.writeP ps false) 12)
      ∧ (∀ f, s.readSource acq f .copyTl a = .ok (BitVec.ofNat 64 s.myJob.copyTl, s))
      ∧ (∀ f, s.readSource acq f .matTl a = .ok (BitVec.ofNat 64 s.myJob.matTl, s))
      ∧ (∀ since, s.me.wait = .reread since false → since + 128 ≤ s.time →
          exec (.cwaitReread s.cur.tile s.cur.core s.cur.ctx) s = .next (s.setMe { s.me with wait := .reread since true })))

/-- R232: `claim` takes the next chunk of a counter's range: the old VALUE and the new one go to two registers, the chunk is
never empty while iterations are left, is the larger of the least chunk and the remaining iterations over twice the
participants rounded up, never passes the end, and VALUE becomes its end. -/
def Obligations.ClaimsTakeConsecutiveChunks : Prop :=
  (∀ (g : Guard) (ord : MemOrd) (scope : BitVec 5) (d : BitVec 6) (m : MemOp) (c : SSrc) (s s1 s2 : State)
      (ea x : Word) (locs : List Loc),
    s.guard g = true → s.InOrder → s.memEa m = .ok (ea, s1) → s1.readS c = .ok (x, s2) →
    s2.scopeCheck true scope.toNat (atHost ea) = .ok () → s2.counterChecks ea = .ok () →
    s2.order (decide (ord = .rel ∨ ord = .sc)) scope ea = .ok () → s2.rmwLocs scope.toNat ea 16 = .ok locs →
    let v := leNat (locs.map s2.readLoc)
    let lo := v % 2 ^ 64
    let hi := claimEnd lo (v / 2 ^ 64) (Nat.max 1 (x.toNat % 2 ^ 32)) (Nat.max 1 (x.toNat / 2 ^ 32))
    let u := if lo = hi then s2.touchReads locs else s2.store ((locs.take 8).zip (bytesOf 8 hi))
    Completes (.claim g ord scope d m c) s (u.setMe
      (((u.me.putG (d + 1) (BitVec.ofNat 64 hi)).putG d (BitVec.ofNat 64 lo)).setLat (BitVec.ofNat 64 lo))) 12)
  ∧ (∀ c n p minc : Nat, 1 ≤ p → 1 ≤ minc →
    c ≤ claimEnd c n p minc ∧ (c < n → c < claimEnd c n p minc ∧ claimEnd c n p minc ≤ n)
    ∧ (c < n → claimEnd c n p minc < n → minc ≤ claimEnd c n p minc - c ∧ n - c ≤ 2 * p * (claimEnd c n p minc - c))
    ∧ (n ≤ c → claimEnd c n p minc = c)
    ∧ (c < n → ∃ k : Nat, claimEnd c n p minc = Nat.min n (c + Nat.max minc k)
        ∧ n - c ≤ 2 * p * k ∧ 2 * p * k < n - c + 2 * p))

/-! Hashed grids (spec/14) and near-memory operations (spec/13). -/

/-- R343, R346, R339, R347: `hgl` blends the corners of each active lane's cell in corner order, one rounding to nearest a corner,
and `hgw` gives one corner's index and weight; other lanes merge or read zero, and no other vector register changes.
R340, R337: every corner index lies below its table's size, and on a dense level distinct corners have distinct indices. -/
def Obligations.GridReadsBlendTheCornersOfTheirTable : Prop :=
  (∀ (g : Guard) (acq rep : Bool) (id : BitVec 8) (scope : BitVec 5) (c : VCtl) (d a : BitVec 5) (b q : SSrc)
      (s s1 s2 s3 : State) (x y : Word) (t : Tensor) (l : Level) (below : Nat) (lanes : List Nat) (locs : List Loc),
      s.guard g = true → s.InOrder → s.readS b = .ok (x, s1) → s1.readS q = .ok (y, s2) →
      s2.gridEntry id = .ok t → s2.gridLevel id t x = .ok ((l, below), s3) →
      s3.gridLanes t (s.readM c.mask) a none = .ok lanes → s2.runOk a (gridD t) = .ok () →
      let corners (n : Nat) : List (Nat × FVal) := gridCorners t l ((List.range (gridD t)).map (fun i =>
        (vecElem (s.readV (.v (BitVec.ofNat 5 (a.toNat + i)))) 32 n).toNat))
      let n := 2 * gridF t
      let addr (k : Nat × FVal) : Word := t[1] + BitVec.ofNat 64 (n * below + n * k.1)
      let bytes := lanes.flatMap (fun v => (corners v).flatMap (fun k =>
        (List.range n).map (fun i => (addr k + BitVec.ofNat 64 i).toNat)))
      let runs (i : Instr) (u0 : State) (k : Nat) (f : Nat → Nat → Nat) : Prop :=
        ∃ u : State, Completes i s u 16
          ∧ (∀ j < k, ∀ v < 32, vecElem (u.me.r.getV (BitVec.ofNat 5 (d.toNat + j))) 32 v =
              if (s.readM c.mask).getLsbD v then BitVec.ofNat 32 (f j v)
              else if c.zm then 0 else vecElem (u0.me.r.getV (BitVec.ofNat 5 (d.toNat + j))) 32 v)
          ∧ (∀ r : BitVec 5, (r.toNat < d.toNat ∨ d.toNat + k ≤ r.toNat) → u.me.r.getV r = u0.me.r.getV r)
          ∧ u.me.r.g = u0.me.r.g ∧ u.mem = u0.mem
      (q = .zr → s2.scopeCheck acq scope.toNat false = .ok () → s2.runOk d (gridF t) = .ok () →
        (∀ r ∈ bytes, regionOf r ≠ 6) → s3.ReadsAt false 1 bytes bytes (.ok ()) locs →
        s3.replicaRoom rep (!acq) bytes → s3.order false scope t[1] = .ok () →
        let u := s3.seen rep (!acq) false 1 bytes locs
        let byte (v k i : Nat) : Byte := u.2.getD ((lanes.idxOf v * 2 ^ gridD t + k) * n + i) 0
        runs (.hgl g acq rep id scope c d a b) u.1 (gridF t) (fun j v =>
          (corners v).zipIdx.foldl (fun z k => (fmaVal (fmtOf .f32) .rne 0
            ((fmtOf .bf16).val (leNat [byte v k.2 (2 * j), byte v k.2 (2 * j + 1)])) k.1.2 ((fmtOf .f32).val z)).1) 0))
      ∧ (s2.runOk d 2 = .ok () → y.toNat < 2 ^ gridD t → runs (.hgw g id c d a b q) s3 2 (fun j v =>
          let k := (corners v).getD y.toNat (0, .fin false 0 0)
          if j = 0 then k.1 else pat32 k.2)))
  ∧ (∀ (e d : Nat) (k : List Nat), levelOk e = true → 1 ≤ d → k.length = d → (∀ x ∈ k, x ≤ (levelOf e).n) →
      cornerIndex (levelOf e) d k < 2 ^ (levelOf e).t
      ∧ ((levelOf e).dense d = true → ∀ m : List Nat, m.length = d → (∀ x ∈ m, x ≤ (levelOf e).n) →
          cornerIndex (levelOf e) d k = cornerIndex (levelOf e) d m → k = m))

/-- R344, R345, R61: `hgs` posts one addition for each corner and feature whose term is not zero, with its arrival where it names
a counter, and writes no register; sums of terms do not depend on their order. -/
def Obligations.GridWritesPostTermsThatSumInAnyOrder : Prop :=
  (∀ (g : Guard) (id : BitVec 8) (scope : BitVec 5) (mk : BitVec 3) (k : SSrc) (a c : BitVec 5) (b : SSrc)
      (s s1 s2 s3 : State) (x : Word) (ctr : Option Word) (t : Tensor) (l : Level) (below : Nat) (lanes : List Nat),
    s.guard g = true → s.readS b = .ok (x, s1) → s1.counterOf k = .ok (ctr, s2) →
    s1.scopeHas s1.agent scope.toNat = true → (∀ w, ctr = some w → regionOf w.toNat = 5 → scope = 3) →
    s2.gridEntry id = .ok t → s2.runOk a (gridD t) = .ok () → s2.runOk c (gridF t) = .ok () →
    s2.gridLevel id t x = .ok ((l, below), s3) → s3.gridLanes t (s.readM mk) a (some c) = .ok lanes →
    let reg (r : BitVec 5) (i v : Nat) : Nat := (vecElem (s.readV (.v (BitVec.ofNat 5 (r.toNat + i)))) 32 v).toNat
    let corners (v : Nat) : List (Nat × FVal) := gridCorners t l ((List.range (gridD t)).map (fun i => reg a i v))
    let f := gridF t
    let base := (t[3]).toNat + 16 * f * below
    let slots := lanes.flatMap (fun v => (corners v).flatMap (fun q => span (BitVec.ofNat 64 (base + 16 * f * q.1)) (16 * f)))
    s3.rmwChecks slots (.ok ()) false true = .ok () → s3.issueLocate slots = .ok () → s3.counterOk ctr = .ok () →
    let term (v i : Nat) (q : Nat × FVal) : BitVec 96 := BitVec.ofNat 96
      (fixFromFP32 (mulVal (fmtOf .f32) .rne 0 ((fmtOf .f32).val (reg c i v)) q.2).1 (gridS t)).1
    let us := lanes.flatMap (fun v => (corners v).flatMap (fun q => (List.range f).filterMap (fun i =>
      if term v i q = 0 then none
      else some (Update.grid (BitVec.ofNat 64 (base + 16 * f * q.1 + 16 * i)) (term v i q)))))
    Completes (.hgs g id scope mk k a b c) s (s3.post .plain scope us ctr) 16)
  ∧ (∀ (k : SSrc) (u : State), u.counterOf .zr = .ok (none, u)
      ∧ (k ≠ .zr → ∀ w v, u.readS k = .ok (w, v) → u.counterOf k = .ok (some w, v)))
  ∧ (∀ (old : Nat) (l1 l2 : List (BitVec 96)), l1.Perm l2 → l1.foldl gridAfter old = l2.foldl gridAfter old)

/-- R323, R324, R212: an accepted `nmop`, with a counter or without one, takes the next number of its job's copy timeline on the core and joins the engine's
queue; nothing else changes until its lines perform.
R325, R326: a line of a near-memory command applies its operation to eight words, two sums or four compares of Y and X, one
word after the other; `cx` writes back to its source what it found; the last line counts the command as performed and
sends its arrival, if it has one. -/
def Obligations.NearMemoryCommandsApplyTheirKind : Prop :=
  (∀ (g : Guard) (kind : NmKind) (nm1 : BitVec 12) (scope : BitVec 5) (aval : BitVec 32) (d : SDst) (a b c : SSrc)
      (s s1 s2 s3 : State) (y x : Word) (ctr : Option Word),
      s.guard g = true → s.readS a = .ok (y, s1) → s1.readS b = .ok (x, s2) → s2.counterOf c = .ok (ctr, s3) →
      s.scopeHas s.agent scope.toNat = true → (∀ w, ctr = some w → regionOf w.toNat = 5 → scope = 3) →
      let n := nm1.toNat + 1
      let len := (if kind = .cx then 64 else 32) * n
      y.toNat % 32 = 0 → x.toNat % 32 = 0 →
      (∀ i < n, let v := (y + BitVec.ofNat 64 (32 * i)).toNat; v / 2 ^ 55 = 0 ∧ regionOf v < 4) →
      (∀ i < len, ownSpad s.me.jtile (x + BitVec.ofNat 64 i) = true
        ∧ s.mySlot.allotted ((x + BitVec.ofNat 64 i).toNat % 2 ^ 16) = true) →
      s3.counterOk ctr = .ok () → s3.myCore.copyRoom = true → s3.drained = true →
      Delivers (.nmop g kind nm1 scope aval d a b c) s
        (s3.withCopy (.near y x (ctr.getD 0) ctr.isSome kind n aval scope.toNat)) d (BitVec.ofNat 64 (s.myJob.copyIssued + 1)) 16)
  ∧ ((∀ (aval : BitVec 32) (x j : Nat) (Y : BitVec 32) (Z : BitVec 128) (V : BitVec 64),
      let X : BitVec 256 := BitVec.ofNat 256 x
      let f := fmtOf .f32
      let w (n i : Nat) : BitVec n := X.extractLsb' (n * i) n
      let r (k : NmKind) (y : Nat) : Nat := nearWord k aval x j y
      (j < 8 → BitVec.ofNat 32 (r .add32 Y.toNat) = Y + w 32 j
        ∧ BitVec.ofNat 32 (r .addf Y.toNat) = BitVec.ofNat 32 (addVal f .rne 0 (f.val Y.toNat) (f.val (w 32 j).toNat)).1
        ∧ BitVec.ofNat 32 (r .axpy Y.toNat) =
            BitVec.ofNat 32 (fmaVal f .rne 0 (f.val aval.toNat) (f.val (w 32 j).toNat) (f.val Y.toNat)).1)
      ∧ (j < 2 → BitVec.ofNat 128 (r .addx Z.toNat) = (Z.setWidth 96 + (w 128 j).setWidth 96).signExtend 128)
      ∧ (j < 4 → BitVec.ofNat 64 (r .cx V.toNat) = if V = w 64 j then BitVec.ofNat 64 (x / 2 ^ (256 + 64 * j)) else V))
    ∧ (∀ (s : State) (ag : Agent) (run : CopyRun) (y x : Word) (aval : BitVec 32) (sl yl : List Loc), s.InOrder →
      s.locateRmw ag ((List.range 64).map (fun i => (x + BitVec.ofNat 64 (64 * run.next) + BitVec.ofNat 64 i).toNat)) = .ok sl →
      s.locateRmw ag ((List.range 32).map (fun i => (y + BitVec.ofNat 64 (32 * run.next) + BitVec.ofNat 64 i).toNat)) = .ok yl →
      (∀ l ∈ sl ++ yl, l.atHost = false) → (sl ++ yl).Pairwise (fun a b => a.same b = false) →
      let word (u : State) (l : List Loc) (j : Nat) : Nat := leNat (((l.drop (8 * j)).take 8).map u.readLoc)
      ∃ (m : Seen) (u : State), s.nearUpdate ag run y x .cx aval = .ok (m, u) ∧ ∀ j < 4,
        word u sl j = word s yl j
        ∧ word u yl j = nearWord .cx aval (leNat (sl.map s.readLoc)) j (word s yl j))
    ∧ (∀ (tile core k : Nat) (s u : State) (m : Seen) (r : CopyRun) (y x ctr : Word) (arr : Bool) (kind : NmKind)
        (n scope : Nat) (aval : BitVec 32),
      s.nearIndex (s.core tile core).copies = some k → (s.core tile core).copies[k]? = some r →
      r.cmd = .near y x ctr arr kind n aval scope → (s.tile tile).works r.slot = true → r.held = none →
      canRun (s.core tile core).copies k = true →
      s.nearUpdate ⟨r.slot, (s.tile tile).jtileOf r.slot, tile, core, r.waited⟩ r y x kind aval = .ok (m, u) →
      let r1 := { r with started := true, next := r.next + 1, waited := [], made := Seen.join r.made m }
      (r.next + 1 < n → exec (.nmopLineUpdate tile core) s = .next (u.setRun tile core k r1))
      ∧ (n ≤ r.next + 1 → arr = false → exec (.nmopLineUpdate tile core) s = .next (u.copyDone tile core r1))
      ∧ (n ≤ r.next + 1 → arr = true →
        let v := u.copyDone tile core r1
        let w := { v with nextId := v.nextId + 1 }
        let id : CtxId := ⟨tile, core, r.ctx⟩
        let p : Posted := { owner := id, gen := (w.ctx id).gen, slot := r.slot, jtile := (s.tile tile).jtileOf r.slot, ord := .plain
                            scope, group := v.nextId, seen := Seen.join r1.seen r1.made, fences := [], pub := [], waited := []
                            upd := .arrive ctr }
        exec (.nmopLineUpdate tile core) s
          = .next (w.setTile tile { w.tile tile with posted := (w.tile tile).posted ++ [p] }))))

/-! Matrix units (spec/10). -/

/-- R237, R239, R245, R252, R254 to R259: each matrix command whose checks hold takes the next number of its job's matrix
timeline, joins its core's queue and delivers that number; nothing else changes until its steps perform. That an `mma` checks
at its issue with the K of the last queued `mwl` of its slot is a reading (notes/assumptions/18.md). -/
def Obligations.MatrixCommandsJoinTheirQueue : Prop :=
  ∀ (g : Guard) (w o af8 clr fz8 lu ptrap : Bool) (rm : RMode) (kind : SolveKind) (id : BitVec 8)
    (status : Option (BitVec 2)) (d : SDst) (a b c : SSrc) (s s1 s2 s3 : State) (x y z : Word) (t src : Tensor),
    s.guard g = true → s.readS a = .ok (x, s1) → s1.readS b = .ok (y, s2) → s2.readS c = .ok (z, s3) → c ≠ .zr →
    let k := 2 * (s.cur.core % 8) + (if w then 1 else 0)
    let org := [x.toNat % 2 ^ 32, x.toNat / 2 ^ 32, y.toNat % 2 ^ 32, y.toNat / 2 ^ 32]
    let org2 := [x.toNat % 2 ^ 32, x.toNat / 2 ^ 32, 0, 0]
    let n : Word := BitVec.ofNat 64 (s.myJob.matIssued + 1)
    let jt := s.me.jtile
    let entry (u : State) (kinds : TKind → Bool) : Prop := u.entry id.toNat kinds = .ok (t, src)
    let plain (u : State) : Prop := entry u (fun k => k == .plain)
    let bytes (c : List Nat) (rows ks : Nat) : List Nat :=
      accessBytes (accessesOf ((⟨t, src, o, c⟩ : Operand).places jt rows ks))
    let fits (scaled : List ElemTy) : Prop := fmtOk t scaled = true ∧ kOk t src o org = true
    let accepted (i : Instr) (u : State) (st : Option (BitVec 2)) (cmd : MatCmd) (len : Nat) : Prop :=
      Delivers i s (u.withMatrix st cmd) d n len
    (s.matrixRoom none → entry s2 (fun k => k == .plain || k == .weights) → fits [.fp .e4m3, .q4, .q3] →
      s2.inReach (bytes org 32 (bigK af8 (tTy t))) →
      accepted (.mwl g w o af8 id d a b) s2 none (.load k o af8 id.toNat t org) 16)
    ∧ (s.matrixRoom none → entry s2 (fun k => k == .plain || k == .unfold) → fits [.fp .e4m3, .fp .e5m2] →
      (tKind t = some .unfold ∨ tHome t ≠ 2) →
      s2.inReach (bytes org 32 (if tTy t = .fp .bf16 then 32
        else (s.myTile.unit (s.cur.core / 8)).queuedK (s.cur.core % 8) k)) → ∀ acc : Bool,
      accepted (.mma g acc w o id d a b) s2 none
        (.mulAcc (2 * (s.cur.core % 8) + (if acc then 1 else 0)) k o id.toNat t src org) 16)
    ∧ (s.matrixRoom none → plain s3 → tHome t ≠ 2 → mstFmt t = true →
      z.toNat % 128 = 0 → s3.inReach (span z 128) → s3.inReach (bytes org 32 32) →
      (∀ v ∈ bytes org 32 32, regionOf v ≠ 6) →
      accepted (.mst g w o clr fz8 rm id d a b c) s3 none (.store k o clr fz8 rm id.toNat t org (some z)) 16)
    ∧ (s.matrixRoom none → plain s2 → tHome t ≠ 2 → mstFmt t = true → s2.inReach (bytes org 32 32) →
      (∀ v ∈ bytes org 32 32, regionOf v ≠ 6) →
      accepted (.mst g w o clr fz8 rm id d a b .zr) s2 none (.store k o clr fz8 rm id.toNat t org none) 16)
    ∧ (s.matrixRoom none → accepted (.mclr g w d) s none (.clear k) 8)
    ∧ (s.matrixRoom none → plain s2 → tTy t = .fp .f32 → tHome t ≠ 2 → s2.inReach (bytes org 32 32) →
      accepted (.mclrLoad g w o id d a b) s2 none (.loadAcc k o id.toNat t org) 8)
    ∧ (s.matrixRoom status → ∀ s4, s1.readS c = .ok (z, s4) →
      accepted (.mfac g w lu ptrap status d a c) s4 status
        (.factor k lu ptrap (x.toNat % 32 + 1) (z.setWidth 32)) 16)
    ∧ (s.matrixRoom status → plain s2 → tTy t = .fp .f32 → tHome t = 0 → tLayout t = 0 →
      (let l := accessBytes (accessesOf ((⟨t, t, false, org2⟩ : Operand).places jt (y.toNat % 32 + 1) 32))
       s2.inReach l ∧ ∀ v ∈ l, regionOf v ≠ 6) →
      accepted (.mtrs g w kind id status d a b) s2 status (.solve k kind id.toNat t org2 (y.toNat % 32 + 1)) 16)

/-- R241, R249, R250, R254 to R259: a tile step of the command that its path serves next, no step of that path being in
progress, has the command's effect on its accumulator, its slot or its bytes and on no other accumulator; an `mst` multiplies
column n by the n-th of its 32 scales, where it has any; after its last step its number counts as performed. -/
def Obligations.MatrixStepsComputeTheirCommands : Prop :=
  (∀ (s : State) (tile g n credit : Nat) (r : MatRun),
    let t0 := s.tile tile
    let u := t0.unit g
    let path := r.cmd.path
    let cand (k : Nat) : Option MatRun := u.candidate t0 tile (8 * g + k) k path
    let weight (k : Nat) : Nat := match cand k with
      | some q => ((t0.core (8 * g + k)).job (jobKey q.slot (t0.jtileOf q.slot))).mxw
      | none => 0
    s.InOrder → u.begunOn path = none → cand n = some r →
    MUnit.arbitrate u.ptr[(pathIndex path)] u.credit[(pathIndex path)] weight (fun k => (cand k).isSome) = some (n, credit) →
    let s1 := { (s.setUnit tile g { u with ptr := u.ptr.set (pathIndex path) n, credit := u.credit.set (pathIndex path) credit })
      with cur := ⟨tile, 8 * g + n, r.ctx⟩, inProg := false }
    let jt := t0.jtileOf r.slot
    let ag : Agent := ⟨r.slot, jt, tile, 8 * g + n, r.waited⟩
    let i : Instr := .matrixTileStep tile g path
    let f := fmtOf .f32
    let dv (x y : Nat) : Nat := (divVal f .rne 0 (f.val x) (f.val y)).1
    let fms (z x y : Nat) : Nat := (fmaVal f .rne 0 (f.val x).opp (f.val y) (f.val z)).1
    let ge (x y : Nat) : Bool := (fcmpVal .ge (f.val x) (f.val y)).1
    let steps (m : Nat → Nat → Nat → Nat) : Prop := ∃ t, exec i s = .next t
      ∧ (∀ b p q, p < 32 → q < 32 → ((t.tile tile).unit g).accAt b p q = m b p q)
      ∧ t.mem = s.mem ∧ (∀ k, (t.tile k).spad = (s.tile k).spad)
      ∧ (r.cmd.steps ≤ r.next + 1 →
          ((t.core tile (8 * g + n)).job (jobKey r.slot jt)).matTl
            = (((s.core tile (8 * g + n)).job (jobKey r.slot jt)).matPerformed r.num).matTl)
    let only (a : Nat) (m : Nat → Nat → Nat) : Prop := steps (fun b p q => if b = a then m p q else u.accAt b p q)
    (∀ a, r.cmd = .clear a → only a (fun _ _ => 0))
    ∧ (∀ a o id ent c got met v, r.cmd = .loadAcc a o id ent c →
        let x : Operand := ⟨ent, ent, o, c⟩
        s1.matrixRead ag r (accessBytes (accessesOf (x.places jt 32 32))) = .ok (got, met, v) →
        only a (fun p q => x.pattern jt got p q))
    ∧ (∀ a b o id ent src c got met v, r.cmd = .mulAcc a b o id ent src c →
        let x : Operand := ⟨ent, src, o, c⟩
        let bs := u.slot b
        ((tTy ent == .fp .bf16) != bs.af8) = true → s1.matrixRead ag r (x.bytes jt 32 bs.k) = .ok (got, met, v) →
        only a (fun p q => (List.range (bs.k / 32)).foldl (fun z blk => (addVal f .rne 0 (f.val z) (f.val
          (blockValue (x.exponent jt got p blk) (bs.exp blk q) ((List.range 32).map (fun k =>
            mulExact (elemVal (tTy ent) (x.pattern jt got p (32 * blk + k))) (elemVal bs.fmt (bs.at (32 * blk + k) q))))))).1)
          (u.accAt a p q)))
    ∧ (∀ b o af8 id ent c got met v, r.cmd = .load b o af8 id ent c →
        let x : Operand := ⟨ent, ent, o, c⟩
        let k := bigK af8 (tTy ent)
        s1.matrixRead ag r (x.bytes jt 32 k) = .ok (got, met, v) →
        ∃ t, exec i s = .next t ∧ let w := ((t.tile tile).unit g).slot b
          w.af8 = af8 ∧ w.fmt = tTy ent ∧ (∀ p q, p < k → q < 32 → w.at p q = x.pattern jt got q p)
          ∧ (∀ p q, p < k / 32 → q < 32 → w.exp p q = x.exponent jt got q p)
          ∧ ∀ a p q, p < 32 → q < 32 → ((t.tile tile).unit g).accAt a p q = u.accAt a p q)
    ∧ (∀ a o clr fz8 rm id ent c locs, r.cmd = .store a o clr fz8 rm id ent c none →
        let cells := mstCells jt ⟨ent, ent, o, c⟩ rm fz8 (u.accAt a) (fun _ => 0x3F800000)
        s1.locate ag true false 1 (cells.map Prod.fst) = .ok locs →
        ∃ t, exec i s = .next t ∧ (∀ l, t.readLoc l = (s1.engineStore ag r.all cells locs).2.readLoc l)
          ∧ ∀ b p q, p < 32 → q < 32 → ((t.tile tile).unit g).accAt b p q = if clr = true ∧ b = a then 0 else u.accAt b p q)
    ∧ (∀ a o clr fz8 rm id ent c ea got met v locs, r.cmd = .store a o clr fz8 rm id ent c (some ea) →
        s1.matrixRead ag r (span ea 128) = .ok (got, met, v) →
        let scale (q : Nat) : Nat := leNat ((span (ea + BitVec.ofNat 64 (4 * q)) 4).map (fun n => (aget got n).getD 0))
        let cells := mstCells jt ⟨ent, ent, o, c⟩ rm fz8 (u.accAt a) scale
        s1.locate ag true false 1 (cells.map Prod.fst) = .ok locs →
        ∃ t, exec i s = .next t ∧ (∀ l, t.readLoc l = (v.engineStore ag r.all cells locs).2.readLoc l)
          ∧ ∀ b p q, p < 32 → q < 32 → ((t.tile tile).unit g).accAt b p q = if clr = true ∧ b = a then 0 else u.accAt b p q)
    ∧ (∀ a lu pt dim tau, r.cmd = .factor a lu pt dim tau →
        let j := r.next
        let at' (p q : Nat) : Nat := u.accAt a p q
        let d0 := at' j j
        let mag (x : Nat) : Nat := if (f.val x).isNan then f.nan else x % 2 ^ 31
        let T := mag tau.toNat
        let low := (f.val d0).isNan = false ∧ ge (if lu then mag d0 else d0) T = false
        let d1 := if low then (if lu && !ge d0 0 then (if (f.val T).isNan then f.nan else (T + 2 ^ 31) % 2 ^ 32) else T) else d0
        let piv := if lu then d1 else (sqrtVal f .rne 0 (f.val d1)).1
        let col (p : Nat) : Nat := dv (at' p j) piv
        only a (fun p q =>
          if p = j ∧ q = j then piv
          else if q = j ∧ j < p ∧ p < dim then col p
          else if j < p ∧ p < dim ∧ j < q ∧ q < dim ∧ (lu = true ∨ q ≤ p) then
            fms (at' p q) (col p) (if lu then at' j q else col q)
          else at' p q))
    ∧ (∀ a kind id ent c dim got met v locs, r.cmd = .solve a kind id ent c dim →
        let x : Operand := ⟨ent, ent, false, c⟩
        let p := match kind with
          | .l | .l1 => r.next
          | .lt | .u => dim - 1 - r.next
        let cf (k : Nat) : Nat := match kind with
          | .lt => u.accAt a k p
          | _ => u.accAt a p k
        let ks := match kind with
          | .l | .l1 => List.range p
          | .lt | .u => (List.range dim).filter (fun k => decide (p < k))
        let rows := (p :: ks).flatMap (fun k => (List.range 32).filterMap (fun q => x.place jt k q))
        s1.matrixRead ag r (accessBytes (accessesOf rows)) = .ok (got, met, v) →
        let val (q : Nat) : Nat :=
          let z := ks.foldl (fun v k => fms v (cf k) (x.pattern jt got k q)) (x.pattern jt got p q)
          if kind = .l1 then z else dv z (u.accAt a p p)
        let cells := (List.range 32).flatMap (fun q => match x.place jt p q with
          | none => []
          | some pl => (span (BitVec.ofNat 64 pl.addr) 4).zip (bytesOf 4 (val q)))
        s1.locate ag true false 1 (cells.map Prod.fst) = .ok locs →
        ∃ t, exec i s = .next t ∧ (∀ l, t.readLoc l = (v.engineStore ag r.all cells locs).2.readLoc l)
          ∧ ∀ b p q, p < 32 → q < 32 → ((t.tile tile).unit g).accAt b p q = u.accAt b p q))
  ∧ (∀ l1 l2 : List (Option FVal), l1.Perm l2 → blockSum l1 = blockSum l2)
  ∧ (∀ (ptr credit : Nat) (w : Nat → Nat) (ok : Nat → Bool), ptr < 8 →
    (ok ptr = true → credit < w ptr → MUnit.arbitrate ptr credit w ok = some (ptr, credit + 1))
    ∧ (ok ptr = false ∨ w ptr ≤ credit → ∀ d, 1 ≤ d → d ≤ 8 → ok ((ptr + d) % 8) = true →
        (∀ e, 1 ≤ e → e < d → ok ((ptr + e) % 8) = false) →
        MUnit.arbitrate ptr credit w ok = some ((ptr + d) % 8, 1)))

/-! The copy engine, rings, queue registers and programs (spec/11). -/

/-- R212, R260, R273 to R278: each copy command whose checks hold takes the next number of its job's copy timeline on the
core, joins the engine's queue and delivers that number; no byte moves yet.
R261, R273, R275, R277, R278, R280: a granule of a running command moves its 1,024 bytes from the source to the
destinations that the command gives them, and the last one counts the command as performed; a `cring` first adds its length
to its slot's fill count, which turns the slot FULL at the slot's length. That its number performs only after that update is
a reading (notes/assumptions/18.md). -/
def Obligations.CopyCommandsQueueAndMoveTheirBytes : Prop :=
  (∀ (g : Guard) (tr o d4 : Bool) (sid did id : BitVec 8) (mcax : BitVec 2) (mcmap : BitVec 24) (d : SDst) (a b c : SSrc)
      (s s1 s2 s3 : State) (x y z : Word) (sv dv t : Tensor),
      s.guard g = true → s.InOrder → s.readS a = .ok (x, s1) → s1.readS b = .ok (y, s2) → s2.readS c = .ok (z, s3) →
      s3.myCore.copyRoom = true → (s.inProg = true ∨ s3.drained = true) →
      let accepted (i : Instr) (cmd : CopyCmd) : Prop :=
        Delivers i s (s3.withCopy cmd) d (BitVec.ofNat 64 (s.myJob.copyIssued + 1)) 16
      let w16 (v : Word) (i : Nat) : Nat := v.toNat / 2 ^ (16 * i) % 2 ^ 16
      let four (v : Word) : List Nat := [w16 v 0, w16 v 1, w16 v 2, w16 v 3]
      let org (v : Word) : List Nat := if d4 then four v else [v.toNat % 2 ^ 32, v.toNat / 2 ^ 32, 0, 0]
      let n := if d4 then four z else [w16 z 0, w16 z 1, 1, 1]
      (s3.cpyEntries tr o d4 sid did (org x) (org y) n z = .ok (sv, dv) → (mcax ≠ 0 → tHome dv = 0) →
        (tHome dv = 2 → s3.inBoundary = true) →
        (∀ p < 24, mcmap.getLsbD p = true →
          p < (if mcax = 1 then s3.mySlot.sx else if mcax = 2 then s3.mySlot.sy else s3.mySlot.sz)) →
        (let ms := (List.range (boxCount n)).map (boxMove s.me.jtile tr o sv dv (org x) (org y) n mcax.toNat mcmap)
         let dl := placeBytes (ms.flatMap (fun m => m.dsts))
         s3.inReach (placeBytes (ms.filterMap (fun m => m.src))) ∧ s3.inReach dl
          ∧ (tHome dv ≠ 2 → ∀ v ∈ dl, regionOf v ≠ 6)) →
        accepted (.cpy g tr o d4 sid did mcax mcmap d a b c) (.box tr o sv dv did.toNat (org x) (org y) n mcax.toNat mcmap))
      ∧ (let rk := s.me.csr.rake
         rakeOk rk y z = true → regionOf x.toNat < 4 → x.toNat / 2 ^ 55 = 0 → regionOf z.toNat = 7 → z.toNat / 2 ^ 55 = 0 →
         s3.inReach (span x y.toNat) → s3.inReach ((List.range y.toNat).map (rakeByte z rk)) →
         accepted (.cpyk g d a b c) (.rake x z y rk))
      ∧ (y.toNat ≤ 2 ^ 32 → s3.inReach (span x y.toNat) → (∀ v ∈ span x y.toNat, regionOf v ≠ 6) →
         accepted (.cfill g d a b c) (.fill x y z))
      ∧ (s3.ringEntry id = .ok t → y.toNat < tf t 2 0 32 →
         let len := z.toNat % 2 ^ 32
         let ofs := z.toNat / 2 ^ 32
         let dl := span (t[1] + BitVec.ofNat 64 (y.toNat * tf t 2 32 32 + ofs)) len
         len ≠ 0 → ofs + len ≤ tf t 2 32 32 → s3.inReach (span x len) → s3.inReach dl → (∀ v ∈ dl, regionOf v ≠ 6) →
         accepted (.cring g id d a b c) (.ring x y (BitVec.ofNat 64 ofs) (BitVec.ofNat 64 len) id.toNat t)))
  ∧ ((∀ (s v : State) (tile core k : Nat) (r : CopyRun) (sl dl : List Loc) (bs : List Byte) (met : Seen),
      let e := s.core tile core
      let jt := (s.tile tile).jtileOf r.slot
      let ag : Agent := ⟨r.slot, jt, tile, core, r.waited⟩
      s.InOrder → e.copies[k]? = some r → (s.tile tile).works r.slot = true → r.held = none → r.moved = false →
      r.cut = false → r.cmd.isNear = false → canRun e.copies k = true → r.next < r.cmd.granules →
      s.programWaits tile core jt r = false →
      let s1 := { s with cur := ⟨tile, core, r.ctx⟩, inProg := false }
      let key := jobKey r.slot jt
      let rest := e.copies.filter (fun q => !(q.slot == r.slot && q.num == r.num))
      let is (n : Nat) : List Nat := (List.range (Nat.min 1024 (n - 1024 * r.next))).map (fun i => 1024 * r.next + i)
      let moves (srcs dsts : List Nat) (cells : List Host.Cell) : Prop :=
        s1.locate ag false false 1 srcs = .ok sl → s1.locate ag true false 1 dsts = .ok dl →
        s1.engineRead ag r.got r.seen (srcs.zip sl) = .ok (bs, met, v) →
        ∃ (t : State) (made : Seen), exec (.copyGranule tile core k) s = .next t
          ∧ (∀ l, t.readLoc l = (v.engineStore ag r.seen cells dl).2.readLoc l)
          ∧ (∀ l, (∀ q ∈ dl, q.same l = false) → t.readLoc l = s.readLoc l)
          ∧ (r.next + 1 < r.cmd.granules →
              (t.core tile core).copies
                = e.copies.set k { r with started := true, next := r.next + 1, waited := [], got := [], made })
          ∧ (r.cmd.granules ≤ r.next + 1 → r.cmd.isRing = true →
              (t.core tile core).copies
                = e.copies.set k { r with started := true, next := r.next + 1, waited := [], got := [], made, moved := true })
          ∧ (r.cmd.granules ≤ r.next + 1 → r.cmd.isRing = false →
              (t.core tile core).copies = rest ∧ (t.core tile core).job key = (e.job key).copyPerformed r.num)
      (∀ ea len pat, r.cmd = .fill ea len pat →
        let l := (is len.toNat).map (fun i => (ea + BitVec.ofNat 64 i).toNat)
        moves [] l (l.map (fun a => (a, BitVec.ofNat 8 (pat.toNat / 2 ^ (8 * (a % 8)))))))
      ∧ (∀ src dst len rk, r.cmd = .rake src dst len rk →
        let b := 2 ^ rakeLb rk
        let put (j : Nat) : Nat := dst.toNat / 2 ^ 21 * 2 ^ 21
          + (dst.toNat / 2 ^ 16 % 32 + j / b % rakeN rk * rakeS rk) * 2 ^ 16 + dst.toNat % 2 ^ 16 + j / b / rakeN rk * b + j % b
        moves ((is len.toNat).map (fun i => src.toNat + i)) ((is len.toNat).map put) (((is len.toNat).map put).zip bs))
      ∧ (∀ src slot ofs len id t, r.cmd = .ring src slot ofs len id t →
        let l := (is len.toNat).map (fun i =>
          (t[1] + BitVec.ofNat 64 (slot.toNat * tf t 2 32 32 + (ofs.toNat + i))).toNat)
        moves ((is len.toNat).map (fun i => (src + BitVec.ofNat 64 i).toNat)) l (l.zip bs))
      ∧ (∀ tr o sv dv id so dd n mc m, r.cmd = .box tr o sv dv id so dd n mc m → isPacked (tTy sv) = false →
        let w := (tTy sv).width / 8
        let per := 1024 / w
        let ms := (List.range (Nat.min per (boxCount n - per * r.next))).flatMap (fun i =>
          let mv := boxMove jt tr o sv dv so dd n mc m (per * r.next + i)
          (List.range w).map (fun j => (⟨mv.src.map (fun p => (p.addr + j) % 2 ^ 64), 0,
            mv.dsts.map (fun p => (p.addr + j) % 2 ^ 64)⟩ : ByteMove)))
        moves (ms.filterMap (fun m => m.src)) (ms.flatMap (fun m => m.dsts)) (moveValues ms bs)))
    ∧ (∀ (s : State) (tile core k : Nat) (r : CopyRun) (src slot ofs len : Word) (id : Nat) (t : Tensor) (tl : List Loc),
      let e := s.core tile core
      let ag : Agent := ⟨r.slot, (s.tile tile).jtileOf r.slot, tile, core, r.waited⟩
      s.InOrder → (∀ j < k, s.fillUpdateOf tile core j = none) → e.copies[k]? = some r → (s.tile tile).works r.slot = true →
      r.moved = true → r.held = none → r.cmd = .ring src slot ofs len id t → s.tagLoc ag t slot.toNat = .ok tl →
      (∀ h, Loc.host h ∉ tl) →
      let p := s.claimTile ag t
      let f := (s.tile p).fills
      let key := fillKey ag t slot.toNat
      let n := (((aget f key).or ((s.slot r.slot).savedFill key)).getD (0, [])).1 + len.toNat
      let ends (u : State) : Prop := exec (.fillCountUpdate tile core) s = .next (u.copyDone tile core r)
      (s.readTag tl slot.toNat = .filling → tf t 2 32 32 ≤ n → ∃ u : State, ends u
        ∧ u.readTag tl slot.toNat = .full ∧ (∀ l, (∀ q ∈ tl, q.same l = false) → u.readLoc l = s.readLoc l)
        ∧ (u.tile p).fills = aerase f key)
      ∧ (s.readTag tl slot.toNat = .filling → n < tf t 2 32 32 → (aget f key).isSome ∨ fillRoom f key = true →
        ∃ m : Seen, ends ((s.setFills p (aset f key (n, m))).dropSaved r.slot key))
      ∧ (s.readTag tl slot.toNat ≠ .filling →
        ∃ u : State, ends u ∧ u.mem = s.mem ∧ (u.tile p).fills = aerase f key)))

/-- R278, R279, R281: a producer's claim of an EMPTY slot makes it FILLING and advances TAIL, a consumer's of a FULL one makes it
DRAINING and advances HEAD; a blocking claim that fails waits, for at most 65,536 core clocks, after which it delivers all ones,
and `rclaim.nb` clears its predicate (R32); `rfree` makes a held slot EMPTY and drops its fill count. That `rclaim.nb` fails
too where it would wait for earlier accesses, and that the timeout delivers without a further try, are readings
(notes/assumptions/20.md).
R32, R79, R265, R271, R272, R370: a push appends to the queue of its direction and a pop takes the oldest entry; the `.nb`
forms, which a handler context may run too, say in their predicate whether they did; a blocking form traps QUEUE there, and a
queue of the other direction traps QUEUE anywhere; a closing program that would wait ends. That the handler's trap comes
before the one for the direction is a reading (notes/assumptions/20.md). -/
def Obligations.RingsAndQueuesKeepTheirOrder : Prop :=
  (∀ (g : Guard) (ps : BitVec 3) (id : BitVec 8) (scope : BitVec 5) (d : SDst) (a : SSrc) (s s1 : State) (x : Word)
      (t : Tensor) (hl tl locs fl : List Loc) (cons : Bool),
      s.guard g = true → s.InOrder → s.scopeHas s.agent scope.toNat = true → s.ringEntry id = .ok t →
      s.rmwLocs 0 (t[4]) 8 = .ok hl → s.rmwLocs 0 (t[5]) 8 = .ok tl →
      let head := s.loadNat hl
      let tail := s.loadNat tl
      let n := tf t 2 0 32
      let slot := (if cons then head else tail) % n
      s.tagLoc s.agent t slot = .ok locs → s.dstReady d = .ok () →
      let tag := s.readTag locs slot
      let can := if cons then tag = .full else tag = .empty ∧ (tail : Int) - head < n
      let free := s.blocked false 1 [(tagAddr t slot).toNat] = false ∧ s.strongPending = false
      let ticket := if cons then hl else tl
      let u := s.takeSlot cons scope.toNat locs ticket (s.tagByte locs slot (if cons then .draining else .filling))
        (((if cons then head else tail) + 1) % 2 ^ 64)
      let apart (l : List Loc) : Prop := (∀ h, Loc.host h ∉ l) ∧ l.Pairwise (fun x y => x.same y = false)
      (free → (s.me.wait = .none ∨ ∃ since, s.me.wait = .ring since false) → can →
        Delivers (.rclaim g cons id scope d) s u d (BitVec.ofNat 64 slot) 16)
      ∧ (apart (locs ++ ticket) → u.readTag locs slot = (if cons then .draining else .filling)
        ∧ u.loadNat ticket = ((if cons then head else tail) + 1) % 2 ^ 64
        ∧ ∀ l, (∀ q ∈ locs ++ ticket, q.same l = false) → u.readLoc l = s.readLoc l)
      ∧ (free → s.me.wait = .none → ¬ can →
        exec (.rclaim g cons id scope d) s = .next (s.setMe { s.me with wait := .ring s.time false }))
      ∧ (∀ since, s.me.wait = .ring since true → Delivers (.rclaim g cons id scope d) s s d (BitVec.allOnes 64) 16)
      ∧ (∀ since, s.me.wait = .ring since false → since + 65536 ≤ s.time →
        exec (.rclaimTimeout s.cur.tile s.cur.core s.cur.ctx) s = .next (s.setMe { s.me with wait := .ring since true }))
      ∧ (free → can → ∀ v, u.writeS d (BitVec.ofNat 64 slot) = .ok v →
        Completes (.rclaimNb g ps cons id scope d) s (v.writeP ps true) 16)
      ∧ (¬ can ∨ ¬ free → Completes (.rclaimNb g ps cons id scope d) s (s.writeP ps false) 16)
      ∧ (s.readS a = .ok (x, s1) → x.toNat < n → s1.ringEntry id = .ok t →
        s1.release scope.toNat (tagAddr t x.toNat) = .ok () → s1.tagLoc s1.agent t x.toNat = .ok fl →
        let q := s1.claimTile s1.agent t
        (s1.readTag fl x.toNat = .draining ∨ s1.readTag fl x.toNat = .filling → (∀ h, Loc.host h ∉ fl) →
          ∃ v : State, Completes (.rfree g id scope a) s v 16 ∧ v.readTag fl x.toNat = .empty
            ∧ (∀ l, (∀ q ∈ fl, q.same l = false) → v.readLoc l = s1.readLoc l)
            ∧ aget (v.tile q).fills (fillKey s1.agent t x.toNat) = none)
        ∧ (s1.readTag fl x.toNat = .empty ∨ s1.readTag fl x.toNat = .full → s.wideBusy = false → s.inProg = false →
          exec (.rfree g id scope a) s = .next (s.takeTrap .tensor 0 s.me.r.pc (id.setWidth 64))))
      ∧ (∀ (b : Byte) (i j : Nat) (q : RTag), i < 4 → j < 4 → tagIn (tagPut b i q) j = if i = j then q else tagIn b j))
  ∧ (∀ (g : Guard) (ps qn : BitVec 3) (a : SSrc) (d : SDst) (s s1 : State) (v x : Word) (rest : List Word),
      s.guard g = true → s.readS a = .ok (v, s1) →
      let blocking := s.inProg = true ∨ s.me.handler = false
      let mayPush := if s.inProg then qn = 2 ∨ qn = 3 else qn.toNat < 2
      let mayPop := if s.inProg then qn.toNat < 2 else 2 ≤ qn.toNat
      let q := s1.me.queue qn
      let pushed := s1.pushItem qn v
      let room := q.items.length + q.held < 8
      let full := ¬ (s.me.queue qn).items.length + (s.me.queue qn).held < 8
      let popped := s.popItem qn rest
      let queueTrap (i : Instr) (tval : Word) : Prop := exec i s = .next (s.takeTrap .queue 0 s.me.r.pc tval)
      (mayPush → room →
        (blocking → Completes (.qpush g qn a) s pushed 8) ∧ Completes (.qpushNb g ps qn a) s (pushed.writeP ps true) 8)
      ∧ (mayPush → full → Completes (.qpushNb g ps qn a) s (s.writeP ps false) 8)
      ∧ (mayPop → (s.me.queue qn).items = x :: rest →
        (blocking → Delivers (.qpop g qn d) s popped d x 8)
        ∧ ∀ t, popped.writeS d x = .ok t → Completes (.qpopNb g ps qn d) s (t.writeP ps true) 8)
      ∧ (mayPop → s.dstReady d = .ok () → (s.me.queue qn).items = [] →
        Completes (.qpopNb g ps qn d) s (s.writeP ps false) 8)
      ∧ (∀ p, s.inProg = true → mayPop → s.dstReady d = .ok () → (s.me.queue qn).items = [] → s.me.prog = some p →
        p.closing = true →
        Completes (.qpop g qn d) s (s.setMe { s.me with prog := some { p with ended := some s.me.r.g[0] } }) 8)
      ∧ (s.inProg = false → s.wideBusy = false →
        (¬ mayPush → (s.me.handler = false → queueTrap (.qpush g qn a) (qn.setWidth 64))
          ∧ queueTrap (.qpushNb g ps qn a) (qn.setWidth 64))
        ∧ (¬ mayPop → (s.me.handler = false → queueTrap (.qpop g qn d) (qn.setWidth 64))
          ∧ queueTrap (.qpopNb g ps qn d) (qn.setWidth 64))
        ∧ (s.me.handler = true → queueTrap (.qpush g qn a) 0 ∧ queueTrap (.qpop g qn d) 0))
      ∧ (∀ n, (pushed.me.queue n).items = if n = qn then q.items ++ [v] else (s1.me.queue n).items)
      ∧ (∀ n, (popped.me.queue n).items = if n = qn then rest else (s.me.queue n).items))

/-- R266, R268, R270, R271: `fork` starts a program at its target with its argument in the program's g0; `rdv` in the program
ends it, in its context joins it and delivers what it left, or 0 with no program; PROGRAM_END follows its last command. -/
def Obligations.ProgramsForkAndJoin : Prop :=
  ∀ (g : Guard) (a : SSrc) (ofs : BitVec 34) (d : SDst) (s s1 : State) (x : Word), s.guard g = true → s.InOrder →
    s.readS a = .ok (x, s1) →
    let pc := s.me.r.pc + (ofs.signExtend 64 <<< 2)
    (s.me.prog = none → s.targetBad s.me.slot s.me.allot true pc = none → s.drained = true → ∃ p : Prog,
      Completes (.fork g a ofs) s (s1.setMe { s1.me with prog := some p }) 8
      ∧ p.pc = pc ∧ p.g[0] = x ∧ (∀ i : Fin 8, i ≠ 0 → p.g[i] = 0) ∧ p.ended = none ∧ p.closing = false ∧ p.finished = false)
    ∧ (s.me.prog = none → s.inProg = false → Delivers (.rdv g d) s s d 0 8)
    ∧ (∀ p v, s.me.prog = some p → s.inProg = false → p.finished = true → p.ended = some v →
      Delivers (.rdv g d) s (s.setMe { s.me with prog := none, view := s.me.view.meet p.done }) d v 8)
    ∧ (∀ p, s.me.prog = some p → s.inProg = false → s.dstReady d = .ok () → p.finished = false → p.closing = false →
      exec (.rdv g d) s = .next (s.setMe { s.me with prog := some { p with closing := true } }))
    ∧ (∀ p, s.me.prog = some p → s.inProg = true → s.dstReady d = .ok () →
      Completes (.rdv g d) s (s.setMe { s.me with prog := some { p with ended := some s.me.r.g[0] } }) 8)
    ∧ (∀ p v, s.me.prog = some p → p.ended = some v → p.finished = false →
      (∀ r ∈ s.myCore.copies, r.byProg = true → r.slot = s.me.slot → r.ctx ≠ s.cur.ctx) → ∃ t,
      exec (.programEnd s.cur.tile s.cur.core s.cur.ctx) s = .next t
      ∧ (t.ctx s.cur).prog = some { p with finished := true }
      ∧ (t.ctx s.cur).queue 0 = ⟨[], 0, []⟩ ∧ (t.ctx s.cur).queue 1 = ⟨[], 0, []⟩
      ∧ (∀ n : BitVec 3, 2 ≤ n.toNat → (t.ctx s.cur).queue n = s.me.queue n) ∧ (t.ctx s.cur).r = s.me.r)

/-! Messages and activations (spec/12, spec/04). -/

/-- R288, R290, R291, R287, R286: `send` builds one request from its header sources and payload registers, with the source and
the destination tile filled in, and enqueues it where a place is free; `send.nb` says in its predicate whether it did; the
trapping form waits for the outcome, traps SQ_FULL without a place, and after a refusal takes REFUSED. The 14 places of
classes 1 to 3, and a message that its context's earlier updates hold back, are readings (notes/assumptions/32.md).
R293, R294: `reply` puts one reply to the sender of the activation's start message into its reply slot; `spawn` addresses a
task to the core that its path's hash, or the address in its first payload word, names; both take the checks of `send`
(notes/assumptions/32.md). -/
def Obligations.SendsRepliesAndSpawnsEnqueueOneRequest : Prop :=
  (∀ (g : Guard) (ps : BitVec 3) (delay : BitVec 20) (a c : SSrc) (b : Option (BitVec 6)) (s s1 s2 : State) (h0 h1 : Word),
      s.guard g = true → s.InOrder → s.readS a = .ok (h0, s1) → s1.readS c = .ok (h1, s2) →
      let len := h0.toNat / 2 ^ 56 % 8
      let cls := h0.toNat / 2 ^ 50 % 4
      let stage := h0.getLsbD 49
      let dt := if h0.toNat / 2 ^ 32 % 2 ^ 11 = 2047 then s.me.jtile else h0.toNat / 2 ^ 32 % 2 ^ 11
      h0.toNat / 2 ^ 59 = 0 → h0.toNat / 2 ^ 54 % 4 = 0 → len ≠ 7 → (∀ r, b = some r → r.toNat + len ≤ 64) →
      s.mySlot.cls ≤ cls → (stage = true → h0.toNat / 2 ^ 45 % 8 = 0) → s.mySlot.inShape dt = true →
      (delay ≠ 0 → stage = false ∧ dt = s.me.jtile ∧ h0.toNat / 2 ^ 43 % 32 = s.cur.core) →
      let m : Msg :=
        { slot := s.me.slot
          h0 := (h0 &&& ~~~0x001107FF00000000) ||| BitVec.ofNat 64 (dt * 2 ^ 32)
          h1 := (h1 &&& ~~~0xFFFFF) ||| BitVec.ofNat 64 (s.cur.ctx * 2 ^ 16 + s.cur.core * 2 ^ 11 + s.me.jtile)
          pay := (List.range 6).map (fun i => match b with
            | none => 0
            | some r => if i < len then s2.me.r.getG (r + BitVec.ofNat 6 i) else 0)
          launch := s.me.launch, sluice := false, dispatch := false, waiter := none, notice := false, num := s2.nextId
          seen := [], behind := if s2.drained then none else some (s.cur, s.me.gen, s2.nextId), nest := none }
      let k := s2.myCore
      let room := if delay ≠ 0 then k.delays.length < 8
        else k.sendQ.length < 16 ∧ (cls = 0 ∨ s.c7Reserved s.cur.tile = false
          ∨ (k.sendQ.filter (fun q => hCls q.h0 != 0)).length < 14)
      let queued (m : Msg) : State :=
        (({ s2 with nextId := s2.nextId + 1 } : State).setCore s.cur.tile s.cur.core
          (if delay ≠ 0 then { k with delays := k.delays ++ [(s.time + delay.toNat, m)] }
           else { k with sendQ := k.sendQ ++ [m] })).memberUp s.me.slot s.me.launch
      s.cur.core < 32 → s.cur.ctx < 9 → s.me.jtile < 1536 →
      (room → s.me.handler = false → Completes (.send g delay a b c) s (queued m) 16)
      ∧ (room → Completes (.sendNb g ps delay a b c) s ((queued m).writeP ps true) 16)
      ∧ (¬ room → Completes (.sendNb g ps delay a b c) s (s.writeP ps false) 16)
      ∧ (room → s.me.handler = false → s.inProg = false → s.me.wait = .none →
        let u := queued { m with waiter := some s.cur }
        exec (.sendTrapping g delay a b c) s = .next (u.setMe { u.me with wait := .outcome m.h0 none }))
      ∧ (¬ room → s.me.handler = false → s.inProg = false → s.wideBusy = false → s.me.wait = .none →
        exec (.sendTrapping g delay a b c) s = .next (s.takeTrap .sqFull 0 s.me.r.pc 0))
      ∧ (∀ h r, s.me.active = true → s.me.wait = .outcome h (some r) → s.inProg = false →
        exec (.sendOutcome s.cur.tile s.cur.core s.cur.ctx) s = .next ((s.setMe { s.me with
          wait := .none, pend := if r then s.me.pend ++ [⟨0x0C, 0, h⟩] else s.me.pend }).advance 16)))
  ∧ (∀ (g : Guard) (ps : BitVec 3) (a c : SSrc) (b : Option (BitVec 6)) (s s1 s2 : State) (h0 h1 : Word),
      s.guard g = true → s.InOrder → s.readS a = .ok (h0, s1) → s1.readS c = .ok (h1, s2) →
      let len := h0.toNat / 2 ^ 56 % 8
      let cls := h0.toNat / 2 ^ 50 % 4
      let job := s2.mySlot
      h0.toNat / 2 ^ 59 = 0 → h0.toNat / 2 ^ 54 % 4 = 0 → len ≠ 7 → (∀ r, b = some r → r.toNat + len ≤ 64) →
      job.cls ≤ cls → h0.getLsbD 49 = false →
      s.cur.core < 32 → s.cur.ctx < 9 → s.me.jtile < 1536 →
      let s3 : State := { s2 with nextId := s2.nextId + 1 }
      let pay : List Word := (List.range 6).map (fun i => match b with
        | none => 0
        | some r => if i < len then s2.me.r.getG (r + BitVec.ofNat 6 i) else 0)
      let src : Word := BitVec.ofNat 64 (s.cur.ctx * 2 ^ 16 + s.cur.core * 2 ^ 11 + s.me.jtile)
      let msg (bits : Word) (tile core : Nat) (h : Word) : Msg :=
        { slot := s.me.slot
          h0 := (h0 &&& ~~~0x0011FFFF00000000) ||| bits ||| BitVec.ofNat 64 (core * 2 ^ 43 + tile * 2 ^ 32)
          h1 := (h &&& ~~~0xFFFFF) ||| src
          pay := pay, launch := s.me.launch, sluice := false, dispatch := false, waiter := none, notice := false
          num := s2.nextId, seen := [], behind := if s2.drained then none else some (s.cur, s.me.gen, s2.nextId)
          nest := none }
      let put (u : State) (f : Core → Core) : State :=
        (u.setCore s.cur.tile s.cur.core (f (u.core s.cur.tile s.cur.core))).memberUp s.me.slot s.me.launch
      let dst := s2.me.src.toNat
      (s2.me.ownsReply = true → s2.me.replied = false →
        let m := msg 0x0010000000000000 (dst % 2 ^ 11) (dst / 2 ^ 11 % 32) h1
        let fill (r : ReplySlot) : ReplySlot :=
          if r.slot = s.me.slot ∧ r.jtile = s.me.jtile ∧ r.ctx = s.cur.ctx ∧ r.gen = s.me.gen then { r with msg := some m } else r
        Completes (.reply g a b c) s
          (put (s3.setMe { s3.me with replied := true }) (fun k => { k with replies := k.replies.map fill })) 16)
      ∧ (s2.me.ownsReply = false ∨ s2.me.replied = true → s.inProg = false → s.wideBusy = false →
        exec (.reply g a b c) s = .next (s.takeTrap .msg 0 s.me.r.pc h0))
      ∧ (let room := s2.myCore.sendQ.length < 16 ∧ (cls = 0 ∨ s.c7Reserved s.cur.tile = false
            ∨ (s2.myCore.sendQ.filter (fun q => hCls q.h0 != 0)).length < 14)
         let n := 32 * job.sx * job.sy * job.sz
         let tileOf (k : Nat) : Nat :=
           k / 32 % job.sx + 8 * (k / 32 / job.sx % job.sy) + 64 * (k / 32 / (job.sx * job.sy))
         let sent (m : Msg) : State := put s3 (fun k => { k with sendQ := k.sendQ ++ [m] })
         let spawns (det : Bool) (m : Msg) : Prop :=
           (room → Completes (.spawn g det a b c) s (sent m) 16 ∧ Completes (.spawnNb g ps det a b c) s ((sent m).writeP ps true) 16)
           ∧ (¬ room → Completes (.spawnNb g ps det a b c) s (s.writeP ps false) 16)
         (0 < n → job.sx ≤ 8 → job.sy ≤ 8 → job.sz ≤ 24 →
           let x := (h1 ^^^ (h1 >>> 31)) * 0xA3C59AC2F1E87D35
           let k := (x ^^^ (x >>> 29)).toNat % n
           spawns true (msg 0 (tileOf k) (k % 32) (h1 <<< 36)))
         ∧ (let va := (pay.headD 0).toNat
            0 < n → job.sx ≤ 8 → job.sy ≤ 8 → job.sz ≤ 24 → len ≠ 0 → h1.toNat / 2 ^ 20 % 2 ^ 16 = 0 → va / 2 ^ 55 = 0 →
            (va / 2 ^ 52 % 8 < 4 → let k := va / 2 ^ 10 % 2 ^ 45 % n
              spawns false (msg 0x0001000000000000 (tileOf k) (k % 32) h1))
            ∧ (let t := if va / 2 ^ 21 % 2 ^ 11 = 2047 then s.me.jtile else va / 2 ^ 21 % 2 ^ 11
               va / 2 ^ 52 % 8 = 7 → job.inShape t = true →
               spawns false (msg 0x0001000000000000 t (va / 2 ^ 16 % 32) h1)))))

/-- R304, R305, R306: `mspill` writes the latest request of the highest class to its heap slot and its tag, and delivers 0 where
there is nothing to spill or no room; `mreplay` admits a message from a valid slot again and clears the tag; `mstat` counts.
The order of image and tag, the tag's writability before the admission, and that selector 5 counts the job's own entries are
readings (notes/assumptions/33.md). -/
def Obligations.SpilledMessagesComeBack : Prop :=
  (∀ (g : Guard) (d : SDst) (a : SSrc) (s s1 : State) (ea : Word) (l tl : List Loc),
    s.guard g = true → s.InOrder → s.cur.ctx = 8 → s.readS a = .ok (ea, s1) →
    let j := s1.myJob
    let key := s1.me.slot + 64 * s1.me.jtile
    let base := j.mbspb.toNat / 64 * 64
    let size := j.mbcfg.toNat / 2 ^ 24 % 2 ^ 16
    ea.toNat % 64 = 0 → base ≤ ea.toNat → ea.toNat < base + 64 * size →
    let ta : Word := BitVec.ofNat 64 (base + 64 * size + 8 * ((ea.toNat - base) / 64))
    (spillChoice key s1.myCore.inbox = none ∨ size ≤ j.spcnt → Delivers (.mspill g d a) s s1 d 0 8)
    ∧ (∀ v i, spillChoice key s1.myCore.inbox = some (v, i) → j.spcnt < size → s1.drained = true →
      s1.heapLocs true ea 64 = .ok l →
      let s2 := s1.heapStore ea l (([v.h0, v.h1] ++ v.pay).flatMap (fun w => bytesOf 8 w.toNat))
      s1.heapLocs true ta 8 = .ok tl →
      let seq := if j.spseq = 2 ^ 31 - 1 then 1 else j.spseq + 1
      let s3 := (s2.heapStore ta tl (bytesOf 8 (2 ^ 63 + seq * 2 ^ 32 + v.launch.getD 0))).setMyJob
        { j with spseq := seq, spcnt := j.spcnt + 1 }
      let s4 := s3.setCore s3.cur.tile s3.cur.core { s3.myCore with inbox := s3.myCore.inbox.eraseIdx i }
      Delivers (.mspill g d a) s (s4.onLaunch v.slot v.launch (fun q => { q with spilled := q.spilled + 1 })) d
        (v.h0 ||| BitVec.ofNat 64 (2 ^ 63)) 8)
    ∧ (j.spcnt = 0 ∨ s1.room s1.cur.tile s1.cur.core key = false → Delivers (.mreplay g d a) s s1 d 0 8)
    ∧ (j.spcnt ≠ 0 → s1.room s1.cur.tile s1.cur.core key = true → s1.drained = true → s1.heapLocs false ea 64 = .ok l →
      s1.heapLocs false ta 8 = .ok tl → s1.heapLocs true ta 8 = .ok tl → (∀ h, Loc.host h ∉ l ++ tl) →
      let tag := leNat (tl.map s1.readLoc)
      let word (i : Nat) : Word := BitVec.ofNat 64 (leNat (((l.map s1.readLoc).drop (8 * i)).take 8))
      s1.replayOk tag (word 0) = true →
      let launch := s1.replayLaunch (tag % 2 ^ 32)
      let m : Msg :=
        { slot := s1.me.slot, h0 := word 0, h1 := word 1
          pay := (List.range 6).map (fun i => if i < (word 0).toNat / 2 ^ 56 % 8 then word (i + 2) else 0)
          launch := launch, sluice := false, dispatch := false, waiter := none, notice := false
          num := 0, seen := s1.allSeen, behind := none, nest := none }
      let s2 := (((s1.touchReads l).touchReads tl).setMyJob { j with spcnt := j.spcnt - 1 }).onLaunch m.slot launch
        (fun q => { q with spilled := q.spilled - 1 })
      s2.targetLives s1.cur.tile s1.cur.core m = true →
      let s3 := s2.setCore s1.cur.tile s1.cur.core
        { s2.core s1.cur.tile s1.cur.core with inbox := (s2.core s1.cur.tile s1.cur.core).inbox ++ [m] }
      Delivers (.mreplay g d a) s (s3.heapStore ta tl (bytesOf 8 (tag % 2 ^ 63))) d 1 8))
  ∧ (∀ (key : Nat) (l : List Msg) (v : Msg) (i : Nat), spillChoice key l = some (v, i) →
    l[i]? = some v ∧ spillable key v = true
    ∧ ∀ j w, l[j]? = some w → spillable key w = true → hCls w.h0 < hCls v.h0 ∨ (hCls w.h0 = hCls v.h0 ∧ j ≤ i))
  ∧ (∀ (g : Guard) (sel : BitVec 3) (d : SDst) (s : State), s.guard g = true →
    let k := s.myCore
    let j := s.myJob
    let key := s.me.slot + 64 * s.me.jtile
    let mine (l : List Msg) : Nat := (l.filter (fun m => m.slot == s.me.slot && hSrcTile m.h1 == s.me.jtile)).length
    let v := match sel.toNat with
      | 0 => k.inbox.length + (k.inbox.filter (fun m => m.key == key)).length * 2 ^ 8 + j.spcnt % 2 ^ 16 * 2 ^ 16
        + k.creditsOf key * 2 ^ 32
      | 1 => j.refusals
      | 2 => j.orphans
      | 3 => j.malformed
      | 4 => j.dropped
      | _ => mine k.sendQ + mine (k.delays.map Prod.snd) * 2 ^ 8
        + (k.replies.filter (fun r => r.slot == s.me.slot && r.jtile == s.me.jtile)).length * 2 ^ 16
    Delivers (.mstat g sel d) s s d (BitVec.ofNat 64 v) 8)

/-- R288, R292, R295, R297 to R300, R302: a message leaves its outlet, class 0 first, for the arrival buffer of its destination;
the head of an arrival buffer enters the inbox where the job's limit admits it, and otherwise waits, takes a spill credit or is
refused; one whose target generation is gone is an orphan.
notes/assumptions/32.md, 33.md name what is the model's choice. -/
def Obligations.MessagesTravelToTheirInbox : Prop :=
  ∀ (tile core : Nat) (s : State), let k := s.core tile core
    (∀ l1 i m l2 u, (sendHeads k.sendQ).filter (fun p => k.mayLeave p.2) = l1 ++ (i, m) :: l2 →
      (∀ p ∈ l1, s.inject p.2 = none) → s.inject m = some u →
      exec (.messageInjection tile core .sendQueue) s =
        .next (u.setCore tile core { u.core tile core with sendQ := (u.core tile core).sendQ.eraseIdx i }))
    ∧ (∀ m rest u, k.notices = m :: rest → s.inject m = some u →
      exec (.messageInjection tile core .noticeBuffer) s =
        .next (u.setCore tile core { u.core tile core with notices := (u.core tile core).notices.eraseIdx 0 }))
    ∧ (∀ r rest m u, k.replies = r :: rest → r.msg = some m → k.mayLeave m = true → s.inject m = some u →
      exec (.messageInjection tile core .replyBuffer) s =
        .next (u.setCore tile core { u.core tile core with replies := (u.core tile core).replies.eraseIdx 0 }))
    ∧ (∀ m : Msg, m.behind = none → s.wayBusy m = false → (s.slot m.slot).inShape (hTile m.h0) = true →
      hStage m.h0 = false →
      let t := (s.slot m.slot).devTile (hTile m.h0)
      let c := hCore m.h0
      let net : Fin 3 := if hCls m.h0 = 0 then 2 else if m.h0.getLsbD 52 then 1 else 0
      let l := (s.core t c).arrivals[net]
      s.inject m = if l.length < 4 then some (s.setArrivals t c net (l ++ [⟨m, false, none⟩])) else none)
    ∧ (∀ d m rest u, k.delays = (d, m) :: rest → (∀ p ∈ rest, d ≤ p.1) → d ≤ s.time → m.behind = none →
      (s.setCore tile core { k with delays := rest }).deliverTo tile core m = some u →
      exec (.delayExpiry tile core) s = .next u)
    ∧ (∀ (net : Net) (n : Fin 3) (a : Arrived) (i : Nat), n = netIndex net → headOf (k.arrivals[n]) = some (a, i) →
      s.cancelledMsg a.msg = false → a.msg.notice = false →
      let m := a.msg
      let j := k.job m.key
      let o := k.inbox.length
      let r0 := if s.c7Reserved tile then 1 else 0
      let thr := j.mbcfg.toNat / 2 ^ 16 % 2 ^ 5
      let depth := j.mbcfg.toNat / 2 ^ 8 % 2 ^ 5
      let net' : Fin 3 := if hCls m.h0 = 0 then 2 else if m.h0.getLsbD 52 then 1 else 0
      let fits := if net' = 2 then o < 16 else if net' = 1 then o < depth - r0
        else o < Nat.min thr (depth - 1 - r0) ∧ ∀ b ∈ k.arrivals[(0 : Fin 3)], b.credit = none
      let gone := s.setArrivals tile core n ((k.arrivals[n]).eraseIdx i)
      let entered : State := (gone.setCore tile core { gone.core tile core with
        inbox := (gone.core tile core).inbox ++ [{ m with waiter := none }] }).report m false
      let first := n ≠ 0 ∨ s.creditedNext tile core = none
      let nothingStarts := n ≠ 0 ∨ s.startFirst tile core [0, 1, 2, 3] = none
      let arrival := exec (.messageArrival tile core net) s
      (a.checked = false → s.targetLives tile core m = true →
        (fits → first → arrival = .next entered)
        ∧ (¬ fits → n ≠ 0 →
          arrival = .next (s.setArrivals tile core n ((k.arrivals[n]).set i { a with checked := true })))
        ∧ (¬ fits → n = 0 → first → nothingStarts →
          (j.spcnt + k.creditsOf m.key < j.mbcfg.toNat / 2 ^ 24 % 2 ^ 16 → j.mbbh ≠ 0 → arrival = .next
            ((s.setCore tile core { k with
              arrivals := k.arrivals.set 0 ((k.arrivals[(0 : Fin 3)]).set i ⟨{ m with waiter := none }, true, some k.credits⟩)
              credits := k.credits + 1 }).report m false))
          ∧ (j.mbcfg.toNat / 2 ^ 24 % 2 ^ 16 ≤ j.spcnt + k.creditsOf m.key ∨ j.mbbh = 0 →
            arrival = .next (gone.refuse tile core m 1))))
      ∧ (a.checked = false → s.targetLives tile core m = false → nothingStarts →
        arrival = .next (gone.orphan tile core m))
      ∧ (a.checked = true → fits → exec (.deferredAdmission tile core net) s = .next entered))
    ∧ (∀ a : Arrived, s.creditedNext tile core = some a → a.msg.notice = false →
      let l := (k.arrivals[(0 : Fin 3)]).filter (fun b => b.credit != a.credit)
      let u := s.setArrivals tile core 0 l
      exec (.creditedAdmission tile core) s = .next ((u.setCore tile core { u.core tile core with
        inbox := (u.core tile core).inbox ++ [{ a.msg with waiter := none }] }).report a.msg false))

/-- R75, R78, R89, R301, R303: a message starts in its context with a new generation, its eight words in g0 to g7, those of its
payload at or beyond its length zero, every other register as R78 gives it, and clean but for g0 to g7; the Bittern context
starts with its reason in g1.
What the Bittern context starts with is the model's choice: notes/assumptions/23.md. -/
def Obligations.ActivationsStartAsTheirMessageSays : Prop :=
  ∀ (tile core : Nat) (s : State), let k := s.core tile core
    let started (t : State) (n slot jt : Nat) (pc : Word) (cls allot : Nat) (m : Msg) : Prop :=
      let c := t.ctx ⟨tile, core, n⟩
      let g := (k.ctx n).gen
      let pay := (List.range 6).map (fun i => if i < m.h0.toNat / 2 ^ 56 % 8 then m.pay.getD i 0 else 0)
      c.active = true ∧ c.gen = (if g = 0xFFFF then 1 else g + 1) ∧ c.slot = slot ∧ c.jtile = jt ∧ c.cls = cls
        ∧ c.allot = allot ∧ c.r.pc = pc ∧ c.handler = true ∧ c.wait = .none ∧ c.src = m.h1 ∧ c.launch = m.launch
        ∧ (∀ i : Fin 64, c.r.g[i] = if i.val < 8 then ([m.h0] ++ pay ++ [m.h1]).getD i.val 0 else 0)
        ∧ (∀ i : Fin 32, c.r.v[i] = 0) ∧ (∀ i : Fin 8, c.r.o[i] = 0) ∧ c.r.lat = 0 ∧ c.r.vlat = 0 ∧ c.r.p = 1
        ∧ c.r.m[0] = 0xFFFFFFFF ∧ (∀ i : Fin 8, i ≠ 0 → c.r.m[i] = 0) ∧ (∀ i : Fin 8, c.q[i] = ⟨[], 0, []⟩)
        ∧ c.dirty.g = 0xFF ∧ c.dirty.v = 0 ∧ c.pend = [] ∧ c.prog = none
        ∧ c.csr.rngs = (if (s.slot slot).det then 0 else BitVec.ofNat 64 n)
    (∀ (cls : Nat) (m : Msg) (i n w : Nat) (pc : Word) (allot : Nat), cls < 4 →
      (∀ c < cls, s.considered tile core c = none) → s.considered tile core cls = some (m, i) →
      s.headerOf m = some (pc, allot) → s.placeFor tile core (hCls m.h0) allot = some (n, w) →
      ∃ t, exec (.activationStart tile core) s = .next t
        ∧ started t n m.slot (hTile m.h0) pc (hCls m.h0) allot m
        ∧ (t.core tile core).inbox = k.inbox.eraseIdx i
        ∧ (∀ q, q ≠ n → t.ctx ⟨tile, core, q⟩ = s.ctx ⟨tile, core, q⟩) ∧ t.mem = s.mem)
    ∧ (∀ (cls : Nat) (m : Msg) (i : Nat), cls < 4 → (∀ c < cls, s.considered tile core c = none) →
      s.considered tile core cls = some (m, i) → s.headerOf m = none →
      exec (.activationStart tile core) s =
        .next ((s.setCore tile core { k with inbox := k.inbox.eraseIdx i }).malformed tile core m))
    ∧ (∀ (slot code : Nat) (l : List Word) (u : State), (s.tile tile).holder = some slot →
      let jt := (s.tile tile).jtile
      let bh := (k.job (jobKey slot jt)).mbbh.toNat % 2 ^ 32
      (k.ctx 8).active = false → aget (s.tile tile).stopping slot = none → bh ≠ 0 →
      s.bitternReason tile core slot jt = some (code, l, u) → l.length = 5 → core < 32 → jt < 1536 → ∃ t m,
        exec (.bitternStart tile core) s = .next t
        ∧ started t 8 slot jt ((s.slot slot).code + BitVec.ofNat 64 (4 * bh)) 0 0 m
        ∧ (t.ctx ⟨tile, core, 8⟩).r.g[1] = BitVec.ofNat 64 code
        ∧ (∀ i < 5, (t.ctx ⟨tile, core, 8⟩).r.g[2 + i]? = l[i]?))
    ∧ (∀ (m : Msg) (pc : Word) (allot : Nat), s.headerOf m = some (pc, allot) →
      pc = (s.slot m.slot).code + BitVec.ofNat 64 (4 * (m.h0.toNat % 2 ^ 32)) ∧ allot ∈ [0, 8, 16, 32])

/-- R175, R282, R283: a due governor check reads the occupancies of the valid stages' rings and schedules the next one: with b
the lowest stage at HIGH or above and a the lowest other one at LOW or below with two groups, the highest group of a becomes
pending; without such a pair no move does. A pending move is carried out when the group has drained. That a ring which cannot
be read counts for neither, and that the delivery pointers stay, are readings (notes/assumptions/35.md). -/
def Obligations.GovernorsMoveGroups : Prop :=
  ∀ (tile slot jt : Nat) (s : State),
    (s.tile tile).running = [(slot, jt)] →
    let v := s.govOf tile slot jt
    let period := 2 ^ (v.c.toNat % 2 ^ 5)
    let grp (n i : Nat) : Bool := (v.stage n).getLsbD (52 + i)
    let ring (n : Nat) : Tensor := (s.slot slot).tensor ((v.stage n).toNat / 2 ^ 40 % 2 ^ 8)
    let reads (va : Word) (x : Nat) : Prop :=
      ∃ l, s.locate ⟨slot, jt, tile, 0, []⟩ false false 1 (span va 8) = .ok l ∧ s.loadNat l = x
    let occ (n o : Nat) : Prop := (v.stage n).getLsbD 63 = true ∧ tValid (ring n) = true ∧ tKind (ring n) = some .ring
      ∧ ∃ head tail, reads (ring n)[4] head ∧ reads (ring n)[5] tail ∧ o = (tail + 2 ^ 64 - head) % 2 ^ 64
    let high (n : Nat) : Prop := ∃ o, occ n o ∧ (ring n)[6].toNat / 2 ^ 16 % 2 ^ 16 ≤ o
    let low (n : Nat) : Prop := (∃ o, occ n o ∧ o ≤ (ring n)[6].toNat % 2 ^ 16)
      ∧ ∃ i < 4, ∃ j < 4, i ≠ j ∧ grp n i = true ∧ grp n j = true
    let checked (m : Option (Nat × Nat × Nat)) : Prop :=
      exec (.governorCheck tile) s = .next (s.setGov tile slot jt { v with move := m, nextCheck := s.time + period })
    (v.c.getLsbD 5 = true → v.move = none → v.nextCheck ≤ s.time →
      (∃ m, checked m)
      ∧ (∀ b < 4, high b → (∀ n < b, ¬ high n) →
        (∀ a < 4, a ≠ b → low a → (∀ n < a, n ≠ b → ¬ low n) → ∀ g < 4, grp a g = true →
          (∀ i < 4, g < i → grp a i = false) → checked (some (g, a, b)))
        ∧ ((∀ a < 4, a ≠ b → ¬ low a) → checked none))
      ∧ ((∀ b < 4, ¬ high b) → checked none))
    ∧ (∀ g a b, v.move = some (g, a, b) → s.stageBusy tile slot g a = false → a < 4 → b < 4 → a ≠ b → ∃ w : Governor,
      exec (.governorMove tile) s = .next (s.setGov tile slot jt w)
      ∧ w.move = none ∧ w.nextCheck = s.time + period ∧ w.c = v.c ∧ w.ptr = v.ptr
      ∧ (∀ n, n < 4 → n ≠ a → n ≠ b → w.stage n = v.stage n)
      ∧ (g < 4 → (∀ i < 4, (govGrp (w.stage a)).testBit i = (if i = g then false else (govGrp (v.stage a)).testBit i)
          ∧ (govGrp (w.stage b)).testBit i = (if i = g then true else (govGrp (v.stage b)).testBit i))))
    ∧ (∀ g a b, s.govChoice ⟨slot, jt, tile, 0, []⟩ v = some (g, a, b) → a ≠ b ∧ a < 4 ∧ b < 4
      ∧ (govGrp (v.stage a)).testBit g = true)

/-! Launches, graphs and phases (spec/15). -/

/-- R244, R264, R350, R351, R367, R368, R369: an accepted launch record joins its job's queue of 64 with the next serial number,
from `launch` or from the launch port, whose illegal words are discarded and counted; `cancel` and the port cancel the levels that
they name: queued records are removed and answered with status 1, messages not yet sent never go, members not yet started are
discarded, running ones take CANCEL and lose their engine commands, and a graph takes its launches with it. Serial numbers taken
at queueing, the mark of a record queued during an unbind, and what a boundary leaves in the queue are readings
(notes/assumptions/34.md). -/
def Obligations.LaunchRecordsJoinTheirQueue : Prop :=
  (∀ (slot : Nat) (s : State),
    let j := s.slot slot
    let serial := if j.serial = 2 ^ 32 - 1 then 1 else j.serial + 1
    let queued (va : Word) : State := s.setSlot slot { j with
      serial := serial, queue := j.queue ++ [⟨va, serial, j.unbind != .none, none⟩] }
    let count := (j.queue.filter (fun q => q.gone.isNone)).length
    (∀ (g : Guard) (d : SDst) (a : SSrc) (s0 : State) (ea : Word), s0.guard g = true → s0.readS a = .ok (ea, s) →
      slot = s.me.slot → ea.toNat % 64 = 0 → ea.toNat / 2 ^ 52 < 4 →
      (64 ≤ count → Delivers (.launch g d a) s0 s d 1 16)
      ∧ (count < 64 → s.drained = true → Delivers (.launch g d a) s0 (queued ea) d 0 16))
    ∧ (∀ w : Word, s.mg.powered = true → s.mg.inReset = false → s.mg.tripped = false → w.toNat / 2 ^ 58 = slot →
      let va := w.toNat / 2 ^ 6 % 2 ^ 49 * 64
      let legal := j.bound = true ∧ w.toNat / 2 ^ 56 % 4 = 0 ∧ w.toNat % 2 ^ 6 = 0 ∧ va / 2 ^ 52 % 8 < 4 ∧ count < 64
      let discarded := s.setSlot slot { j with discards := j.discards + 1 }
      (w.getLsbD 55 = false → legal → exec (.launchPortLaunch w) s = .next (queued (BitVec.ofNat 64 va)))
      ∧ (w.getLsbD 55 = false → ¬ legal → exec (.launchPortLaunch w) s = .next discarded)
      ∧ (w.getLsbD 55 = true → j.bound = false ∨ w.toNat % 16 ≠ 0 → exec (.launchPortCancel w) s = .next discarded)
      ∧ (w.getLsbD 55 = true → j.bound = true → w.toNat % 16 = 0 → w.toNat / 2 ^ 4 % 2 ^ 51 ≠ 0 →
        s.queueBusy slot = false → s.mg.switching = none →
        exec (.launchPortCancel w) s = .next
          (s.cancelLevels slot (w.toNat / 2 ^ 56 % 4) (BitVec.ofNat 64 (w.toNat / 2 ^ 4 % 2 ^ 51 * 16))))))
  ∧ (∀ (g : Guard) (a : SSrc) (s s1 : State) (x : Word), s.guard g = true → s.mg.switching = none →
    s.queueBusy s.me.slot = false → s.readS a = .ok (x, s1) →
    Completes (.cancel g (.launch a)) s (s1.cancelLevels s1.me.slot 0 x) 8
    ∧ Completes (.cancel g (.graph a)) s (s1.cancelLevels s1.me.slot 1 x) 8
    ∧ Completes (.cancel g (.phase a)) s (s1.cancelLevels s1.me.slot 2 x) 8
    ∧ Completes (.cancel g .job) s (s.cancelLevels s.me.slot 3 0) 8
    ∧ s1.cancelLevels s1.me.slot 0 0 = s1 ∧ s1.cancelLevels s1.me.slot 1 0 = s1)
  ∧ (∀ (s : State) (id : CtxId) (ctr : Word), let t := s.cancelContext id ctr
    (∃ p ∈ (t.ctx id).pend, p.code = 0x0E) ∧ (t.ctx id).r = (s.ctx id).r ∧ t.mem = s.mem
    ∧ ∀ r ∈ (t.core id.tile id.core).copies, r.slot = (s.ctx id).slot → r.ctx = id.ctx → r.cmd.isNear = true ∨ r.cut = true)
  ∧ (∀ (slot kind : Nat) (ctr : Word) (s : State) (q : Queued) (w : Vector Word 8), let j := s.slot slot
    kind < 4 → (kind < 2 → ctr ≠ 0) → j.queue = [q] → q.gone = none → s.touch slot (pagesOf q.va.toNat 64) = s →
    s.launchRecord slot q.va.toNat = some w →
    let named := (kind = 0 → recKind w = 0 ∧ w[7] = ctr) ∧ (kind = 1 → recKind w = 1 ∧ w[7] = ctr)
      ∧ (kind = 2 → recPhb w = false)
    let fl (l : Launch) : Bool := kind == 3 || (kind == 2 && !l.phb) || (kind == 0 && l.ctr == ctr)
    let fg (g : Graph) : Bool := kind == 3 || (kind == 2 && !g.phb) || (kind == 1 && g.ctr == ctr)
    (named → s.cancelLevels slot kind ctr =
      ((s.setSlot slot { j with queue := if recPhb w then [{ q with gone := some 1 }] else [] }).levelArrive slot w[7] 1).cancelRunning
        slot fl fg)
    ∧ (¬ named → s.cancelLevels slot kind ctr = (s.setSlot slot j).cancelRunning slot fl fg))
  ∧ (∀ (slot kind : Nat) (ctr : Word) (s : State), kind < 4 → (kind < 2 → ctr ≠ 0) → (s.slot slot).queue = [] →
    s.cancelLevels slot kind ctr = (s.setSlot slot (s.slot slot)).cancelRunning slot
      (fun l => kind == 3 || (kind == 2 && !l.phb) || (kind == 0 && l.ctr == ctr))
      (fun g => kind == 3 || (kind == 2 && !g.phb) || (kind == 1 && g.ctr == ctr)))
  ∧ (∀ (slot : Nat) (s : State) (fl : Launch → Bool) (fg : Graph → Bool), let j := s.slot slot
    (j.launches.map (fun l => l.serial)).Nodup → (j.graphs.map (fun g => g.serial)).Nodup →
    let t := s.cancelRunning slot fl fg
    let hit (l : Launch) : Prop := fl l = true
      ∨ ∃ g ∈ j.graphs, fg g = true ∧ g.cancelled = false ∧ j.graphCompleted g = false ∧ l.ofGraph g.serial = true
    (∀ l ∈ j.launches, l.cancelled = false → ¬ (l.todo = [] ∧ l.members = 0) → hit l →
      (∃ x ∈ (t.slot slot).launches, x.serial = l.serial ∧ x.cancelled = true ∧ x.todo = [] ∧ x.spilled = 0)
      ∧ (∀ d ∈ j.box, ∀ k, (∀ m ∈ (t.core d k).inbox, m.slot = slot → m.launch ≠ some l.serial)
        ∧ (∀ n : Fin 3, ∀ a ∈ (t.core d k).arrivals[n], a.msg.slot = slot → a.msg.launch ≠ some l.serial)
        ∧ ∀ n, (s.ctx ⟨d, k, n⟩).active = true → (s.ctx ⟨d, k, n⟩).slot = slot → (s.ctx ⟨d, k, n⟩).launch = some l.serial →
          ∃ p ∈ (t.ctx ⟨d, k, n⟩).pend, p.code = 0x0E))
    ∧ (∀ l ∈ j.launches, l.cancelled = true ∨ (l.todo = [] ∧ l.members = 0) ∨ ¬ hit l → l ∈ (t.slot slot).launches)
    ∧ ∀ g ∈ j.graphs, fg g = true → g.cancelled = false → j.graphCompleted g = false →
      ∃ x ∈ (t.slot slot).graphs, x.serial = g.serial ∧ x.cancelled = true)

/-- R349, R350, R352, R353, R355, R356, R368: dispatch sends a launch's messages in target order, x fastest and the core slowest,
then reaches the next record, which starts or is refused; the lowest due node of a graph fires, a LAUNCH node its record, the
others an arrival to the successor that their condition chooses; a finished launch, graph or phase gives its counter one arrival
with its status, and a launch of a graph one to each successor of its node. All of them wait while a counter or table that they
reach lies in a block under a swap or test (R322). notes/assumptions/26.md and 34.md name what is the model's choice: which of
several statuses is reported, and that a refused launch of a graph gives its successors their arrivals too. -/
def Obligations.LaunchesRunAndComplete : Prop :=
  ∀ (slot serial : Nat) (s : State), let j := s.slot slot
    (∀ l rest m ms u, j.bound = true → j.preempted = none → j.launches = l :: rest → l.todo = m :: ms → s.inject m = some u →
      exec (.dispatchLaunch slot) s = .next (u.onLaunch slot (some l.serial) (fun x =>
        { x with todo := x.todo.eraseIdx 0, members := x.members + 1 })))
    ∧ (∀ q rest w, j.bound = true → j.preempted = none → j.queue = q :: rest → q.gone = none → q.late = false →
      (∀ l ∈ j.launches, l.todo = []) → (∀ g ∈ j.graphs, g.ended = true ∨ g.cancelled = true) → j.phase = none →
      s.mg.switching = none → let s1 := s.touch slot (pagesOf q.va.toNat 64)
      s1.readBusy slot (q.va.toNat, 64) = false → s1.launchRecord slot q.va.toNat = some w →
      ((recPhb w = true ∨ recSer w = true) → j.launches = [] ∧ j.graphs = []) →
      let run := exec (.dispatchLaunch slot) s
      (∀ u, s1.startRecord slot q.serial w (recPhb w) none = .started u →
        let v := u.setSlot slot { u.slot slot with queue := (u.slot slot).queue.drop 1 }
        run = .next (if recPhb w then v.setSlot slot { v.slot slot with phase := some none } else v))
      ∧ (∀ st u, s1.startRecord slot q.serial w (recPhb w) none = .refused st u →
        let v := (u.setSlot slot { u.slot slot with queue := (u.slot slot).queue.drop 1 }).levelArrive slot w[7] st
        run = .next (if recPhb w then v.setSlot slot { v.slot slot with phase := some (some st) } else v)))
    ∧ (∀ w phb graph, ∃ l : Launch,
      ((s.acceptLaunch slot serial w phb graph).slot slot).launches = j.launches ++ [l]
      ∧ l.serial = serial ∧ l.ctr = w[7] ∧ l.members = 0 ∧ l.cancelled = false ∧ l.phb = phb
      ∧ l.todo.length = (recTargets w).length
      ∧ (∀ (o : Nat) (m : Msg) (p : Nat × Nat), l.todo[o]? = some m → (recTargets w)[o]? = some p → p.1 < 2048 → p.2 < 32 → j.cls < 4 →
          hTile m.h0 = p.1 ∧ hCore m.h0 = p.2 ∧ hCls m.h0 = j.cls ∧ hOfs m.h0 = w[0].toNat % 2 ^ 32 ∧ m.launch = some serial
          ∧ (w[2] = 0 → m.pay = List.replicate 6 0)))
    ∧ (∀ (w : Vector Word 8) (x y z c : Nat), let n (lo k : Nat) : Nat := w[1].toNat / 2 ^ lo % 2 ^ k
      let cs := (List.range c).filter (fun q => w[1].getLsbD (32 + q))
      x < n 16 4 → y < n 20 4 → z < n 24 5 → c < 32 → w[1].getLsbD (32 + c) = true →
      (recTargets w)[((cs.length * n 24 5 + z) * n 20 4 + y) * n 16 4 + x]?
        = some (tileNum (n 0 3 + x) (n 4 3 + y) (n 8 5 + z), c))
    ∧ (∀ g n i, j.bound = true → j.preempted = none → s.mg.switching = none →
      j.graphs.find? (fun g => g.serial == serial && !g.ended && !g.cancelled) = some g →
      g.nodes[i]? = some n → 0 < n.due → (∀ k < i, ∀ m, g.nodes[k]? = some m → m.due = 0) →
      let w := n.w
      let on (u : State) (f : Graph → Graph) : State := u.onGraph slot serial f
      let s1 := on s (fun x => { x with nodes := x.nodes.set i { n with due := n.due - 1, fired := n.fired + 1 } })
      let run := exec (.graphNodeFire slot serial) s
      let here (len : Nat) : Prop := s1.touch slot (pagesOf (w[1]).toNat len) = s1
      (nodeKind w = 4 → here 8 → run = .next (on s1 (fun x => { x with ended := true })))
      ∧ (∀ r, nodeKind w = 0 → here 64 → s1.readBusy slot ((w[1]).toNat, 64) = false →
        s1.launchRecord slot (w[1]).toNat = some r → recKind r = 0 →
        let num := if (s1.slot slot).serial = 2 ^ 32 - 1 then 1 else (s1.slot slot).serial + 1
        let start := (s1.setSlot slot { s1.slot slot with serial := num }).startRecord slot num r g.phb (some (serial, i))
        (∀ u, start = .started u → u.mg.maps = s.mg.maps ∨ s.mg.switching = none → run = .next u)
        ∧ (∀ st u, start = .refused st u → run = .next (on (u.levelArrive slot r[7] st) (fun x => x.arriveAll w))))
      ∧ (∀ v : Word, nodeKind w ∈ [1, 2, 3] → here 8 → s1.readBusy slot ((w[1]).toNat, 8) = false →
        s1.readWord slot (w[1]).toNat = some v →
        let c := n.fired + 1
        let k := if nodeKind w = 1 then if v ≠ 0 then 0 else 1
          else if nodeKind w = 2 then if v ≠ 0 ∧ (nodeLim w = 0 ∨ c ≤ nodeLim w) then 0 else 1
          else Nat.min v.toNat (nodeSuccs w - 1)
        run = .next (on s1 (fun x => x.arriveAt (nodeSucc w k)))))
    ∧ (∀ (x : Graph) (w : Vector Word 4) (k : Nat) (n : Node),
      x.arriveAll w = (List.range (nodeSuccs w)).foldl (fun y i => y.arriveAt (nodeSucc w i)) x
      ∧ (x.nodes[k]? = none → x.arriveAt k = x)
      ∧ (x.nodes[k]? = some n → let m := if n.arrivals + 1 = nodeDeps n.w
          then { n with arrivals := 0, due := n.due + 1 } else { n with arrivals := n.arrivals + 1 }
        x.arriveAt k = { x with nodes := x.nodes.set k m }))
    ∧ (∀ l st, j.launches.find? (fun l => l.serial == serial) = some l → l.todo = [] → l.members = 0 →
      s.mg.switching = none → s.ctrBusy slot l.ctr = false → st = (if l.cancelled then 1 else 0) →
      let v := (((if l.phb then s.boundary slot else s).dropLaunchReplicas slot serial).setSlot slot { j with
        regions := j.regions.filter (fun r => !l.free.contains r.num)
        launches := j.launches.filter (fun x => x.serial != serial) }).levelArrive slot l.ctr st
      let run := exec (.launchComplete slot serial) s
      (l.graph = none → run = .next (if l.phb then v.setSlot slot { v.slot slot with phase := some (some st) } else v))
      ∧ (∀ gs i, l.graph = some (gs, i) → run = .next (v.onGraph slot gs (fun x => match x.nodes[i]? with
        | some n => x.arriveAll n.w
        | none => x))))
    ∧ (∀ g, j.graphs.find? (fun g => g.serial == serial && (g.ended || g.cancelled)) = some g →
      (∀ l ∈ j.launches, ∀ i, l.graph ≠ some (serial, i)) → s.mg.switching = none → s.ctrBusy slot g.ctr = false →
      let st := if g.cancelled then 1 else g.status
      let v := (s.setSlot slot { j with graphs := j.graphs.filter (fun x => x.serial != serial) }).levelArrive slot g.ctr st
      exec (.graphComplete slot serial) s =
        .next (if g.phb then v.setSlot slot { v.slot slot with phase := some (some st) } else v))
    ∧ (∀ st, j.phase = some (some st) → s.mg.switching = none → s.ctrBusy slot j.bind[7] = false →
      exec (.phaseEnd slot) s =
        .next (((s.setSlot slot { j with phase := none }).boundary slot).levelArrive slot j.bind[7] st))
    ∧ (s.levelArrive slot 0 serial = s)
    ∧ (∀ (ctr : Word) (st : Nat) (l1 l2 : List Loc), s.InOrder → ctr ≠ 0 → s.evicted slot ctr.toNat = false → s.ctrReachable slot ctr = true →
      let ag : Agent := ⟨slot, 0, j.devTile 0, 0, []⟩
      s.locateRmw ag (span (ctr + 8) 8) = .ok l2 → let u := s.storeNat l2 st
      u.locateRmw ag (span ctr 8) = .ok l1 → u.loadNat l1 < 2 ^ 64 - 1 →
      s.levelArrive slot ctr st = u.storeNat l1 (u.loadNat l1 + 1))

/-! Jobs, pre-emption and the management core (spec/15, spec/16, spec/17). -/

/-- R357, R358, R389: BIND refuses a record with illegal fields, and each other failing check, with the lowest code that applies,
and otherwise answers with the slot that now holds the record; UNBIND marks its job, and UNBIND_RELEASE frees the slot once
nothing of the job is left; both wait while a block that they read or write is in a swap or under test (R322).
What the spec leaves open of a bind is the model's choice: notes/assumptions/27.md, 35.md. -/
def Obligations.JobsAreBoundAndUnbound : Prop :=
  (∀ (s : State) (c : MgCmd), s.mg.powered = true → s.mg.inReset = false → s.mg.tripped = false → s.mg.switching = none →
    s.mg.wait = .none → s.mg.running = some c →
    let rec' : Vector Word 8 := Vector.ofFn (fun i : Fin 8 => BitVec.ofNat 64 (memNat s.mg.buf (8 * i.val) 8))
    let w : Word := BitVec.ofNat 64 (memNat s.mg.buf 64 8)
    let j := { Slot.reset with bind := rec' }
    let answer (t : State) (state code v len : Nat) : State :=
      { t with mg := { t.mg with buf := memPut t.mg.buf 0 8 v, wait := .response state code len } }
    (c.code = 1 → (∀ d ∈ j.box, (s.tile d).stopping = []) →
      (bindLegal j = true → (s.candidateBind ((s.bindSlot w).getD 64) j).bindBusy ((s.bindSlot w).getD 64) = false) →
      (bindLegal j = false ∨ bindWordLegal w = false → exec .bind s = .next (answer s 4 1 1 8))
      ∧ (bindLegal j = true → let n := (s.bindSlot w).getD 64
        let u := s.candidateBind n j
        (∀ code rest, s.bindCodes u n j w = code :: rest → (∀ x ∈ rest, code ≤ x) → code ≠ 0 →
          exec .bind s = .next (answer s 4 code code 8))
        ∧ (s.bindCodes u n j w = [] → (∀ d ∈ j.box, (s.tile d).fenced = false) →
          exec .bind s = .next (answer (s.bindNow u n j) 2 0 (n * 2 ^ 8) 8))))
    ∧ (c.code = 2 → let w := (BitVec.ofNat 64 (memNat s.mg.buf 0 8) : Word)
      let n := w.toNat % 2 ^ 6
      let k := s.slot n
      let marked := { s with mg := { s.mg with wait := .unbind n, order := s.mg.order + 1 } }
      let open_ := (k.queue.filter (fun q => q.gone.isNone)).length ≠ 0
        ∨ (∃ l ∈ k.launches, l.cancelled = false ∧ l.completed = false)
        ∨ ∃ g ∈ k.graphs, g.cancelled = false ∧ k.graphCompleted g = false
      (w.toNat / 2 ^ 9 = 0 → w.toNat / 2 ^ 6 % 4 = 0 → k.bound = true → k.unbind = .none → w.getLsbD 8 = false →
        exec .unbind s = .next (marked.setSlot n { k with unbind := .drain, cut := false }))
      ∧ (w.toNat / 2 ^ 9 = 0 → w.toNat / 2 ^ 6 % 4 = 0 → k.bound = true → k.unbind = .none → w.getLsbD 8 = true →
        s.queueBusy n = false →
        (¬ open_ → exec .unbind s = .next (marked.setSlot n { k with unbind := .cancel, cut := false }))
        ∧ (open_ → ∃ u : State, u.slots = (marked.setSlot n { k with unbind := .cancel, cut := true }).slots
          ∧ { u with slots := s.slots } = { marked with slots := s.slots }
          ∧ exec .unbind s = .next
            ((u.dropQueued n 6 (fun _ _ => true) true).cancelRunning n (fun _ => true) (fun _ => true))))
      ∧ (k.bound = false → exec .unbind s =
          .next { s with mg := { s.mg with wait := .response 4 1 0 } })))
  ∧ (∀ (slot : Nat) (s t : State), let j := s.slot slot
    j.bound = true → j.unbind ≠ .none → s.mg.switching = none →
    (∀ p ∈ j.images, p.2.live = false) → j.launches = [] → j.graphs = [] → j.queue = [] → j.phase = none →
    s.jobActive slot = false → (∀ p ∈ s.tiles, ∀ q ∈ p.2.stopping, q.1 ≠ slot) →
    s.ctrBusy slot (j.bind[7] + 16) = false →
    ((s.levelArrive slot (j.bind[7] + 16) (if j.cut then 1 else 0)).releaseSlot slot).restoreAll 64 = some t →
    exec (.unbindRelease slot) s = .next (if t.mg.wait = .unbind slot then
      { t with mg := { t.mg with wait := .response 2 0 0 } } else t))
  ∧ (∀ (slot : Nat) (s : State), let t := s.releaseSlot slot
    (t.slot slot).bound = false ∧ (t.slot slot).traps = (s.slot slot).traps
    ∧ (∀ d, (t.tile d).holder ≠ some slot)
    ∧ (∀ d, (s.tile d).holder ≠ some slot → (t.tile d).holder = (s.tile d).holder ∧ (t.tile d).spad = (s.tile d).spad))
  ∧ (∀ (slot jt b : Nat) (s : State) (c : Nat), c < 32 → let j := s.slot slot
    let q := ((s.loadCores slot jt b).core (j.devTile jt) c).job (slot + 64 * jt)
    q.mxw = j.weight ∧ q.mbbh = BitVec.ofNat 64 b ∧ q.mbcfg = 0xC1000 ∧ q.copyTl = 0 ∧ q.matTl = 0 ∧ q.spcnt = 0)

/-- R361, R379 to R381, R384, R89: a pre-emption that has come to rest saves its job tile and loads what comes in; a saved context
has the units whose dirty bits were set written over those of its last image, and comes back with its registers, its queues and
its pending traps; a folded tile whose quantum is over gives way to the next.
The content of an image is the model's choice: notes/assumptions/35.md. -/
def Obligations.PreemptionKeepsContexts : Prop :=
  (∀ (tile : Nat) (s u : State) (p : Nat × Nat × Nat) (rest : List (Nat × Nat × Nat)),
    (s.tile tile).stopping = p :: rest → s.endStop tile p = some u → exec (.preemptionComplete tile) s = .next u)
  ∧ (∀ (tile slot jt inc ij : Nat) (s : State), (s.tile tile).holder = some slot → (s.tile tile).jtile = jt →
    s.quiet tile slot jt = true → inc = slot →
    let s1 := s.saveTile tile slot jt
    let t := s1.tile tile
    let s2 := s1.setTile tile { t with
      stopping := aerase t.stopping slot, holder := none, overlays := aerase t.overlays slot }
    s2.mayLoad tile inc ij = true → s.endStop tile (slot, inc, ij) = some (s2.loadTile tile inc ij))
  ∧ (∀ (tile slot jt core n : Nat) (s : State), let c := s.ctx ⟨tile, core, n⟩
    c.active = true → c.slot = slot → c.jtile = jt → (∀ k m z, c.wait ≠ .align k m z) →
    (∀ p ∈ (s.tile tile).cores, ∀ q ∈ p.2.ctxs, ∀ k m z, q.2.wait ≠ .align k m z) →
    ∃ d : Ctx, aget ((aget (((s.saveTile tile slot jt).slot slot).image jt).ctxs core).getD []) n = some d
      ∧ d.csr = c.csr ∧ d.nest = c.nest ∧ d.pend = c.pend ∧ d.gen = c.gen ∧ d.aligns = c.aligns
      ∧ d.launch = c.launch ∧ d.view = c.view ∧ d.dirty = Dirty.clear
      ∧ (let area := aget ((aget ((s.slot slot).image jt).area core).getD []) n
         let last : Regs × Vector Queue 8 := match area with
          | some v => if v.gen = c.gen then (v.r, v.q) else (Regs.start, Vector.replicate 8 Queue.empty)
          | none => (Regs.start, Vector.replicate 8 Queue.empty)
         d.r.pc = c.r.pc ∧ (∀ i : Fin 64, d.r.g[i] = if c.dirty.g.getLsbD i then c.r.g[i] else last.1.g[i])
          ∧ (∀ i : Fin 32, d.r.v[i] = if c.dirty.v.getLsbD i then c.r.v[i] else last.1.v[i])
          ∧ (∀ i : Fin 8, d.r.o[i] = if c.dirty.o.getLsbD i then c.r.o[i] else last.1.o[i])
          ∧ (∀ i : Fin 4, d.r.vo[i] = if c.dirty.vo.getLsbD i then c.r.vo[i] else last.1.vo[i])
          ∧ (∀ i : Fin 8, d.r.m[i] = if c.dirty.m.getLsbD i then c.r.m[i] else last.1.m[i])
          ∧ d.r.p = (if c.dirty.p then c.r.p else last.1.p) ∧ d.r.lat = (if c.dirty.lat then c.r.lat else last.1.lat)
          ∧ d.r.vlat = (if c.dirty.vlat then c.r.vlat else last.1.vlat) ∧ d.q = (if c.dirty.q then c.q else last.2)))
  ∧ (∀ (tile slot jt core n : Nat) (s : State) (c : Ctx), let i := (s.slot slot).image jt
    (i.ctxs.map Prod.fst).Nodup → (∀ k ∈ i.ctxs, (k.2.map Prod.fst).Nodup) →
    aget ((aget i.ctxs core).getD []) n = some c →
    let t := s.loadTile tile slot jt
    let d := t.ctx ⟨tile, core, n⟩
    d.active = c.active ∧ d.r = c.r ∧ d.csr = c.csr ∧ d.nest = c.nest ∧ d.q = c.q ∧ d.pend = c.pend ∧ d.gen = c.gen
      ∧ d.dirty = c.dirty ∧ d.wait = c.wait ∧ d.view = c.view
      ∧ d.wanted = [(c.r.pc &&& ~~~31, s.time), ((c.r.pc &&& ~~~31) + 32, s.time)]
      ∧ ((s.slot slot).ovl = false → (t.tile tile).holder = some slot ∧ (t.tile tile).jtile = jt ∧ (t.tile tile).spad = i.spad
        ∧ (t.tile tile).gov = i.gov ∧ (t.tile tile).wssl = i.wssl))
  ∧ (∀ (tile slot jt : Nat) (s : State), (s.tile tile).holder = some slot → (s.tile tile).jtile = jt →
    (s.tile tile).overlays = [] → aget (s.tile tile).stopping slot = none →
    let j := s.slot slot
    let l := j.tilesAt tile
    (j.bx ≠ j.sx ∨ j.by_ ≠ j.sy ∨ j.bz ≠ j.sz) → 2 ≤ l.length →
    (s.tile tile).since + 1600 * (j.bind[1].toNat / 2 ^ 48) ≤ s.wstime → ∃ m ∈ l,
      exec (.foldSwitch tile) s = .next (s.setTile tile { s.tile tile with
        stopping := aset (s.tile tile).stopping slot (slot, m) })
      ∧ (∀ k ∈ l, jt < k → jt < m ∧ m ≤ k) ∧ ((∀ k ∈ l, k ≤ jt) → ∀ k ∈ l, m ≤ k))

/-- R45, R46, R316, R318, R370, R389, R401, R419: MAP maps its pages in order and stops at the first that fails, whose lowest code it
answers; UNMAP removes them; HALT puts HALT_REQ before every active context of its job.
What a range of UNMAP meets, and the code with which a spill heap or a Bittern page stays mapped, is the model's choice:
notes/assumptions/28.md, 31.md. -/
def Obligations.PagesAreMappedAndJobsHalted : Prop :=
  ∀ (s : State) (c : MgCmd), s.mg.powered = true → s.mg.inReset = false → s.mg.tripped = false → s.mg.switching = none →
    s.mg.wait = .none → s.mg.running = some c →
    let answer (t : State) (state code len : Nat) : State := { t with mg := { t.mg with wait := .response state code len } }
    (c.code = 3 → let q : MapReq := ⟨BitVec.ofNat 64 (memNat s.mg.buf 0 8), memNat s.mg.buf 8 8⟩
      let named (k : Nat) : Nat := if q.pick then 0 else memNat s.mg.buf (16 + 8 * k) 8
      ∀ r u code, s.mapPages q ((List.range q.count).map (fun k => (k, named k))) [] = (r, u) → r.code = some code →
        exec .map s = .next (answer (u.putWords 0
          ([code + 256 * r.index, r.status.toNat] ++ r.frames ++ List.replicate (q.count - r.frames.length) 0))
          (if code = 0 then 2 else 4) code (16 + 8 * q.count)))
    ∧ (∀ (q : MapReq) (k f : Nat),
      (q.malformed k f = true → (s.mapPage q k f).1 = .failed 1 0)
      ∧ (q.malformed k f = false → q.untranslated k = true → (s.mapPage q k f).1 = .failed 2 0)
      ∧ (q.malformed k f = false → q.untranslated k = false → q.pick = false → q.host = false →
          frameColour f ≠ pageColour (q.pageVa k) → (s.mapPage q k f).1 = .failed 3 0)
      ∧ ((s.mapPage q k f).1 = .ok f → q.pick = false → ¬ (q.x = true ∧ q.w = true) ∧ s.mapConflict (q.mapping k f) = false
        ∧ (q.host = false → s.frameUsable f q.size = true)))
    ∧ (∀ (asid : BitVec 16) (va : BitVec 64) (n : Nat), c.code = 4 → s.bitternAt asid.toNat va.toNat (65536 * n) = false →
      (∀ m, s.mapsIn asid.toNat va.toNat (65536 * n) = [m] → s.heapPage m = true → ∃ t e, e ≠ 0 ∧ t.mg.maps = s.mg.maps
          ∧ exec (.unmap asid va n) s = .next (answer t 4 e 0))
      ∧ (∀ m, s.mapsIn asid.toNat va.toNat (65536 * n) = [m] → s.heapPage m = false →
        ∃ t, exec (.unmap asid va n) s = .next (answer t 2 0 0)
          ∧ t.mg.maps = s.mg.maps.filter (fun p => !p.isPage m.asid.toNat m.va.toNat)
          ∧ (∀ p ∈ t.mg.pages, p.asid = m.asid → p.va ≠ m.va)))
    ∧ (∀ slot, c.code = 5 → (s.slot slot).bound = true → ∃ t, exec (.halt slot) s = .next (answer t 2 0 0)
      ∧ (∀ id ∈ s.contextsIn slot, ∃ p ∈ (t.ctx id).pend, p.code = 0x18) ∧ t.mem = s.mem
      ∧ ∀ id, (t.ctx id).r = (s.ctx id).r)

/-- R385, R389, R398, R400, R401, R402: the other commands answer as the mailbox's table says; LOGCLR leaves every log and count
empty; a response returns state, tag, code and length in MGSTS and frees the mailbox.
The layout of responses and open codes are the model's choice: notes/assumptions/28.md, 36.md. -/
def Obligations.MailboxCommandsAnswer : Prop :=
  (∀ (s : State) (c : MgCmd), s.mg.powered = true → s.mg.inReset = false → s.mg.tripped = false → s.mg.switching = none →
    s.mg.wait = .none → s.mg.running = some c →
    let answer (t : State) (state code len : Nat) : State := { t with mg := { t.mg with wait := .response state code len } }
    let reports (t : State) (code : Nat) (content : List Nat) : State :=
      let bs := (Config.reportLayout code content).take 4096
      answer { t with mg := { t.mg with buf := memPut t.mg.buf 0 bs.length (leNat bs) } } 2 0 bs.length
    (c.code = 6 → exec .status s = .next (reports s 6 s.statusContent)
      ∧ ∃ l, s.statusContent = [s.mg.clock, if s.mg.clock < 1600 then 1 else 0, if s.mg.tripLog then 1 else 0,
          if s.mg.runB then 1 else 0] ++ l)
    ∧ (c.code = 7 → exec .logread s = .next (reports s 7 s.logContent))
    ∧ (c.code = 9 → exec .monread s = .next (reports s 9 s.monContent)
      ∧ s.monContent = (List.range 1536).flatMap (fun n => [(s.tile n).temp, (s.tile n).volt])
        ++ (List.range 29).map (fun n => (aget s.mg.procs n).getD 0))
    ∧ (c.code = 8 → exec .logclr s = .next (answer s.clearLogs 2 0 0)
      ∧ (∀ d, (s.clearLogs.tile d).sram = ErrLog.empty ∧ (s.clearLogs.tile d).link = ErrLog.empty)
      ∧ (∀ n, (s.clearLogs.slot n).traps = [] ∧ (s.clearLogs.slot n).discards = 0)
      ∧ s.clearLogs.mg.badAccess = 0 ∧ s.clearLogs.mg.busyWrites = 0 ∧ s.clearLogs.mem = s.mem)
    ∧ (∀ nonce, c.code = 0xA →
      (s.mg.leaf < 32768 →
        let signed := [s.mg.leaf, (if s.mg.runB then s.mg.imageB else s.mg.imageA).toNat, beNat (sha256 s.slotBytes), nonce.toNat]
        let sig := identitySign s.mg.leaf (signed.flatMap (beBytes 32))
        exec (.attest nonce) s = .next (reports { s with mg := { s.mg with leaf := s.mg.leaf + 1 } } 0xA
          (signed ++ sig.length :: sig.map BitVec.toNat)))
      ∧ (32768 ≤ s.mg.leaf → exec (.attest nonce) s = .next (answer s 4 0xA1 0)))
    ∧ (∀ image version, c.code = 0xB → ∃ t, exec (.update image version) s = .next t
      ∧ t.mg.runB = s.mg.runB
      ∧ (s.mg.runB = false → t.mg.imageB = image ∧ t.mg.versionB = version ∧ t.mg.imageA = s.mg.imageA
          ∧ t.mg.okB = s.mg.verifies image version)
      ∧ (s.mg.runB = true → t.mg.imageA = image ∧ t.mg.versionA = version ∧ t.mg.imageB = s.mg.imageB
          ∧ t.mg.okA = s.mg.verifies image version)
      ∧ (s.mg.verifies image version = true → t.mg.wait = .response 2 0 0)
      ∧ (s.mg.verifies image version = false → ∃ e, e ≠ 0 ∧ t.mg.wait = .response 4 e 0)
      ∧ (version < s.mg.fuseVersion → s.mg.verifies image version = false))
    ∧ (c.code = 0xC → (s.mg.otherOk = true → exec .switch s =
        .next (answer { s with mg := { s.mg with switching := some s.wstime } } 2 0 0))
      ∧ (s.mg.otherOk = false → ∃ t e, e ≠ 0 ∧ exec .switch s = .next (answer t 4 e 0)))
    ∧ (c.code = 0xD → let w := memNat s.mg.buf 0 8
      let n := w % 2 ^ 6
      let p := w / 2 ^ 8 % 4
      let rid := w / 2 ^ 16 % 2 ^ 8
      let zero := w / 2 ^ 6 % 4 = 0 ∧ w / 2 ^ 10 % 2 ^ 6 = 0 ∧ w / 2 ^ 24 % 2 ^ 8 = 0 ∧ w / 2 ^ 33 = 0
        ∧ memNat s.mg.buf 8 8 = 0
      let legal := zero ∧ (s.slot n).bound = true ∧ (s.slot n).ringAt rid = true
        ∧ ∀ m r, (s.port p).egress = some (m, r) → m = n
      (legal → exec .egress s = .next (answer (s.setPort p { s.port p with
        egress := if w / 2 ^ 32 % 2 = 1 then some (n, rid) else none }) 2 0 0))
      ∧ (¬ legal → exec .egress s = .next (answer s 4 1 0)))
    ∧ (c.code = 0 ∨ 0xD < c.code → exec .unknownCommand s = .next (answer s 3 0 0)))
  ∧ (∀ (s : State) (c : MgCmd) (st code len : Nat), s.mg.powered = true → s.mg.inReset = false → s.mg.tripped = false →
    s.mg.running = some c → s.mg.wait = .response st code len →
    exec .mailboxResponse s = .next { s with mg := { s.mg with
      running := none, wait := .none
      status := BitVec.ofNat 64 (st * 2 ^ 56 + c.tag.toNat * 2 ^ 40 + code * 2 ^ 32 + len) } })
  ∧ (∀ (s : State) (t : Nat), s.mg.switching = some t →
    (s.wstime < t + 8000000 → exec .switchReady s =
      .next { s with mg := { s.mg with switching := none, runB := !s.mg.runB } })
    ∧ (t + 8000000 ≤ s.wstime → exec .switchTimeout s = .next { s with mg := { s.mg with switching := none } }))

/-! The host, fabric peers and Ethernet (spec/17). -/

/-- R46, R389, R390, R392: BAR0 writes reach the management buffer and the command register or are counted; an access by device
address performs at its home, the bytes read going outside, those of the reserve and of lost blocks as zero, writing each byte
that may be written from outside and counting the access when one may not; a peer's atomic reads, computes and writes at once,
its old value going outside, and a `cas` that fails only reads.
notes/assumptions/37.md names what is the model's choice.
R395, R396, R398: a good frame that a rule matches joins the frame buffer with that rule's next sequence number, other frames
are counted; the Sluice writes a frame to the claimed slot of its rule's ring, marks the slot FULL and sends its message, which
waits in the Sluice while its inbox does not admit it (R298); a port sends the frame of the FULL slot at HEAD and empties it.
notes/assumptions/38.md names what is the model's choice. -/
def Obligations.OutsideAccessesAndFrames : Prop :=
  (∀ (s : State), s.mg.powered = true → s.mg.inReset = false → s.mg.tripped = false → s.InOrder →
      (∀ (ofs size : Nat) (val : BitVec 64), ¬ (ofs = 0 ∧ size = 8) →
        let run := exec (.bar0Write ofs size val) s
        let buffer := 0x2000 ≤ ofs ∧ ofs + size ≤ 0x3000 ∧ size ∈ [1, 2, 4, 8]
        (ofs = 0x1000 → size = 8 → s.mg.running = none →
          let c : MgCmd := ⟨val.toNat / 2 ^ 56, BitVec.ofNat 16 (val.toNat / 2 ^ 40 % 2 ^ 16), val.toNat % 2 ^ 32⟩
          val.toNat / 2 ^ 32 % 2 ^ 8 = 0 → c.len ≤ 4096 → run = .next { s with mg := { s.mg with
            running := some c, status := BitVec.ofNat 64 (2 ^ 56 + c.tag.toNat * 2 ^ 40) } })
        ∧ (ofs = 0x1000 → size = 8 → s.mg.running ≠ none →
          run = .next { s with mg := { s.mg with busyWrites := s.mg.busyWrites + 1 } })
        ∧ (buffer → run = .next { s with mg := { s.mg with
          buf := memPut s.mg.buf (ofs - 0x2000) size (val.toNat % 2 ^ (8 * size)) } })
        ∧ (ofs = 0x1008 → size = 8 → run = .next s)
        ∧ (¬ buffer → ¬ (ofs = 0x1000 ∧ size = 8) → ¬ (ofs = 0x1008 ∧ size = 8) →
          run = .next { s with mg := { s.mg with badAccess := s.mg.badAccess + 1 } }))
      ∧ (∀ (dpa n : Nat) (bs : List Byte), 0 < n → dpa + n ≤ 0x9000000000 → bs.length = n →
        (∀ i < n, s.blockBusy ((dpa + i) / 4096) = false) →
        let held (a : Nat) : Bool := decide (a < 0xFC0000000 ∨ 0x1000000000 ≤ a) && !s.mg.lost.contains (a / 4096)
        let may (a : Nat) : Bool := held a && !s.execFrame a
        (∃ t, exec (.hostMemAccess dpa n none) s = .next t ∧ exec (.peerAccess dpa n none) s = .next t ∧ t.mem = s.mem
          ∧ (∀ d, (t.tile d).spad = (s.tile d).spad)
          ∧ t.outsideGot = (List.range n).map (fun i => if held (dpa + i) then memGet s.mem (dpa + i) else 0))
        ∧ (∃ t, exec (.hostMemAccess dpa n (some bs)) s = .next t ∧ exec (.peerAccess dpa n (some bs)) s = .next t
          ∧ (Memory.wf s.mem = true → ∀ a, memGet t.mem a =
              if dpa ≤ a ∧ a < dpa + n ∧ may a = true then bs.getD (a - dpa) 0 else memGet s.mem a)
          ∧ (t.home (blockHome (dpa / 4096))).discarded = (s.home (blockHome (dpa / 4096))).discarded
            + (if (List.range n).all (fun i => may (dpa + i)) then 0 else 1)))
      ∧ (∀ (dpa : Nat) (sz : Size) (op : Option AmoOp) (x y : BitVec 128), let n := sz.bytes
        4 ≤ n → (n = 16 → op = none) → op ≠ some .fadd → dpa % n = 0 → dpa + n ≤ 0x9000000000 →
        (∀ i < n, s.blockBusy ((dpa + i) / 4096) = false) → (∀ i < n, s.outsideWritable (dpa + i) = true) →
        let old := memNat s.mem dpa n
        let new := match op with
          | some o => amoNew o (8 * n) old (x.toNat % 2 ^ (8 * n))
          | none => if old = x.toNat % 2 ^ (8 * n) then y.toNat % 2 ^ (8 * n) else old
        ∃ t, exec (.peerAtomic dpa sz op x y) s = .next t ∧ t.outsideGot = bytesOf n old
          ∧ (op = none → old ≠ x.toNat % 2 ^ (8 * n) → t.mem = s.mem)
          ∧ (Memory.wf s.mem = true → ∀ a, memGet t.mem a =
              if dpa ≤ a ∧ a < dpa + n then BitVec.ofNat 8 (new / 2 ^ (8 * (a - dpa))) else memGet s.mem a)))
  ∧ (∀ (s : State), s.mg.powered = true → s.mg.inReset = false → s.mg.tripped = false → s.mg.switching = none →
      (∀ (port : Nat) (ok : Bool) (f : List (BitVec 8)), port < 4 →
        let x := s.sluice
        let n := f.length + 4
        let good := ok = true ∧ 64 ≤ n ∧ n ≤ 9216 ∧ (x.frames.map (fun f => f.bytes.length + 4)).sum + n ≤ 8388608
        let u : State := { s with pick := s.pick + 1 }
        let ptp := (s.port port).ptp
        let now := ptp.base + ptp.rate * (s.wstime - ptp.since)
        let stamp : BitVec 96 := BitVec.ofNat 96 (now / 65536 / 1000000000 % 2 ^ 48
          + now / 65536 % 1000000000 * 2 ^ 48 + now % 65536 * 2 ^ 80)
        let run := exec (.frameIngress port ok stamp f) s
        (¬ good → run = .next (s.setPort port { s.port port with dropped := (s.port port).dropped + 1 }))
        ∧ (good → (∀ r w, (r, w) ∈ x.rules → ruleMatches w port f (Config.freeWord s.pick) = false) →
          run = .next (u.setPort port { s.port port with unmatched := (s.port port).unmatched + 1 }))
        ∧ (∀ r w, good → (r, w) ∈ x.rules → ruleMatches w port f (Config.freeWord s.pick) = true →
          (∀ q v, (q, v) ∈ x.rules → ruleMatches v port f (Config.freeWord s.pick) = true → r ≤ q) →
          let seq := (aget x.matched r).getD 0
          run = .next { u with sluice := { x with
            matched := aset x.matched r (seq + 1), frames := x.frames ++ [⟨port, stamp, r, seq, f⟩] } }))
      ∧ (∀ (r : Nat) (m : Msg) (rest : List (Nat × Msg)) (v : State), s.sluice.waiting = (r, m) :: rest → m.h0.toNat / 2 ^ 50 % 4 = 0 →
        ({ s with sluice := { s.sluice with waiting := rest } } : State).letSluiceIn m = some v → exec .sluiceDelivery s = .next v)
      ∧ (∀ (f : Frame), s.sluice.frames = [f] → s.sluice.waiting = [] →
        let w := (aget s.sluice.rules f.rule).getD (Vector.replicate 8 0)
        let slot := w[0].toNat / 2 ^ 8 % 2 ^ 6
        let jt := w[0].toNat / 2 ^ 14 % 2 ^ 11
        let j := s.slot slot
        let t := j.tensor (w[0].toNat / 2 ^ 30 % 2 ^ 8)
        let ag : Agent := ⟨slot, jt, 1536, w[0].toNat / 2 ^ 25 % 2 ^ 5, []⟩
        let gone := { s with sluice := { s.sluice with frames := [] } }
        (j.bound = false ∨ tf t 2 32 32 < f.bytes.length → exec .sluiceDelivery s = .next { s with sluice := { s.sluice with
          frames := [], dropped := aset s.sluice.dropped f.rule ((aget s.sluice.dropped f.rule).getD 0 + 1) } })
        ∧ (j.bound = true → j.ringAt (w[0].toNat / 2 ^ 30 % 2 ^ 8) = true → j.inShape jt = true →
          f.bytes.length ≤ tf t 2 32 32 → (tHome t = 0 → regionOf (t[3]).toNat = 7 ∧ ag.target (t[3]).toNat = jt) →
          ringTogether ag t = true → ∀ k u,
          (gone.touch slot (ringPages t)).produceFrame ag t f.bytes = .ok (some (k, u)) → u.sluice.waiting = [] →
          let m := frameMsg w f slot k u.allSeen
          (∀ v, u.letSluiceIn m = some v → exec .sluiceDelivery s = .next v)
          ∧ (u.letSluiceIn m = none →
            exec .sluiceDelivery s = .next { u with sluice := { u.sluice with waiting := [(f.rule, m)] } })))
      ∧ (∀ (w : Vector Word 8) (f : Frame) (slot k : Nat) (seen : Seen), (frameMsg w f slot k seen).pay.length = 6
        ∧ hLen (frameMsg w f slot k seen).h0 = 4 ∧ ∀ i ∈ [4, 5], (frameMsg w f slot k seen).pay[i]? = some 0)
      ∧ (∀ (port : Nat) (slot rid : Nat), (s.port port).egress = some (slot, rid) →
        let j := s.slot slot
        let t := j.tensor rid
        let jt := if tHome t = 0 then (t[3]).toNat / 2 ^ 21 % 2 ^ 11 else 0
        let ag : Agent := ⟨slot, jt, 1536, 0, []⟩
        j.bound = true → j.ringAt rid = true → ringTogether ag t = true → s.touch slot (ringPages t) = s →
        ∀ head hl tl wl fl, s.ringValue ag (t[4]) = .ok (head, hl) → let k := head % tf t 2 0 32
        s.tagLoc ag t k = .ok tl → s.readTag tl k = .full →
        s.partLocs ag false (ringDst t k 0) 8 = .ok wl → let d := s.loadNat wl
        let n := d % 2 ^ 14
        s.partLocs ag false (ringDst t k 32) n = .ok fl →
        let p := s.port port
        (60 ≤ n → n ≤ 9212 → d / 2 ^ 63 = 0 → exec (.egressTransmit port (s.stampOf port)) s = .next ((s.setPort port { p with
          sent := p.sent ++ [fl.map s.readLoc] }).emptySlot ag t tl hl k head))
        ∧ (n < 60 ∨ 9212 < n → exec (.egressTransmit port (s.stampOf port)) s = .next ((s.setPort port { p with
          badLength := p.badLength + 1 }).emptySlot ag t tl hl k head))))

/-! Heat, power, errors and swaps (spec/01, spec/13, spec/16, spec/17). -/

/-- R19, R393, R399, R400, R402: at 95 degrees the clock falls by 100 MHz each millisecond to no less than 800, at 90 and below for
10 ms it rises again to no more than 1600; at 105 degrees the part trips; a cold reset keeps flash, fuses and sensors; boot
takes image A, else B, else stays in reset with code 0xB0.
What a reset keeps is the model's choice: notes/assumptions/41.md, 42.md. -/
def Obligations.HeatAndResetsFollowTheirRules : Prop :=
  ∀ (s : State), let m := s.mg
    (m.powered = true → m.inReset = false → m.tripped = false → m.switching = none →
      (∃ t ∈ s.tiles, 380 ≤ t.2.temp) → (∀ c, m.hotSince = some c → c + 1600000 ≤ s.wstime) →
      exec .thermalThrottle s = .next { s with mg := { m with clock := Nat.max 800 (m.clock - 100), hotSince := some s.wstime } })
    ∧ (∀ c, m.powered = true → m.inReset = false → m.tripped = false → m.switching = none → m.coolSince = some c →
      (∀ t ∈ s.tiles, t.2.temp ≤ 360) → m.clock < 1600 → c + 16000000 ≤ s.wstime →
      exec .thermalRaise s = .next { s with mg := { m with clock := Nat.min 1600 (m.clock + 100), coolSince := some s.wstime } })
    ∧ (let lost (t : State) : Prop := t.mem = [] ∧ t.slots = [] ∧ t.hostReqs = [] ∧ t.homes = []
        ∧ t.mg.inReset = true ∧ t.mg.maps = [] ∧ t.mg.running = none ∧ t.mg.imageA = m.imageA ∧ t.mg.imageB = m.imageB
        ∧ t.mg.versionA = m.versionA ∧ t.mg.versionB = m.versionB ∧ t.mg.fuseVersion = m.fuseVersion
        ∧ t.mg.keyDigest = m.keyDigest ∧ t.mg.leaf = m.leaf
        ∧ ∀ d, (t.tile d).cores = [] ∧ (t.tile d).slice = [] ∧ (t.tile d).holder = none ∧ (t.tile d).temp = (s.tile d).temp
      (m.powered = true → m.tripped = false → (∃ t ∈ s.tiles, 420 ≤ t.2.temp) → ∃ t, exec .thermalTrip s = .next t
        ∧ lost t ∧ t.mg.tripped = true ∧ t.mg.tripLog = true ∧ t.mg.powered = true)
      ∧ (m.powered = true → (m.tripped = true → ∀ t ∈ s.tiles, t.2.temp ≤ 280) → ∃ t, exec .coldReset s = .next t
        ∧ lost t ∧ t.mg.tripped = false ∧ t.mg.tripLog = m.tripLog)
      ∧ (m.powered = true → m.tripped = true → (∃ t ∈ s.tiles, 280 < t.2.temp) →
        exec .coldReset s = .next { s with mg := { m with coldWanted := true } })
      ∧ (∃ t, exec .powerLoss s = .next t ∧ lost t ∧ t.mg.powered = false))
    ∧ (m.inReset = true → m.tripped = false →
      let a := m.verifies m.imageA m.versionA = true
      let b := m.verifies m.imageB m.versionB = true
      (a ∨ b → ∃ t, exec .boot s = .next t ∧ t.mg.inReset = false ∧ t.mg.powered = true ∧ (a → t.mg.runB = false)
        ∧ (¬ a → t.mg.runB = true) ∧ t.mem = s.mem
        ∧ ∀ i < 5, t.mg.rtord.toNat / 2 ^ (3 * i) % 8 < 6)
      ∧ (¬ a → ¬ b → exec .boot s = .next { s with mg := { m with
        powered := true, okA := false, okB := false, status := BitVec.ofNat 64 (4 * 2 ^ 56 + 0xB0 * 2 ^ 32) } }))
    ∧ (∀ temps volts procs : List (Nat × Nat), m.powered = true → m.tripped = false → ∃ t,
      exec (.monitorSample temps volts procs) s = .next t ∧ t.mem = s.mem ∧ t.mg.clock = m.clock
      ∧ (∀ d v, temps = [(d, v)] → d < 1536 → volts = [] → (t.tile d).temp = v ∧ (t.tile d).cores = (s.tile d).cores)
      ∧ (∀ d v, volts = [(d, v)] → d < 1536 → temps = [] → (t.tile d).volt = v
        ∧ ((t.tile d).voltSince = none ↔ 20 * (max v Config.nominalMv - min v Config.nominalMv) ≤ Config.nominalMv)))
    ∧ (∀ d c, m.powered = true → m.inReset = false → m.tripped = false → (s.tile d).voltSince = some c →
      c + 1600000 ≤ s.wstime → ∃ t, exec (.voltageExcursion d) s = .next t ∧ t.mg.voltFlags = m.voltFlags ++ [d]
      ∧ (t.tile d).voltSince = none ∧ (∃ e, (t.tile d).sram = (s.tile d).sram.push e) ∧ t.mem = s.mem)

/-- R321, R322, R332, R334, R335, R385, R386, R388: an error event is logged with its time and starts its unit's self-test, whose
end is logged too; the test after a third failed retry of the bus names its lane; a swap exchanges the stacked member of its set and changes no byte; refresh and deadlines change nothing
themselves.
What spares a unit has is the model's choice: notes/assumptions/39.md.
R387: fencing a tile drops its slice's sectors and loses the blocks whose dirty bytes it held; a job whose box holds the tile is
marked for a cancelling unbind (R358).
notes/assumptions/40.md names what is the model's choice. -/
def Obligations.ErrorsAreLoggedTestedAndFenced : Prop :=
  (∀ (s : State),
      let entry (kind action retry loc : Nat) : BitVec 128 :=
        BitVec.ofNat 128 (s.wstime % 2 ^ 64 * 2 ^ 64 + kind * 2 ^ 56 + action * 2 ^ 48 + retry * 2 ^ 40 + loc % 2 ^ 40)
      (s.mg.powered = true → s.mg.inReset = false → s.mg.tripped = false →
        (∀ (place loc : Nat), place < 1536 → loc < 512 * 2 ^ 31 → loc % 2 ^ 26 = 0 →
          (∃ t, exec (.errorEvent .plate place loc true) s = .next t
            ∧ (t.tile place).sram = (s.tile place).sram.push (entry 1 0 0 loc) ∧ (t.tile place).bad = (s.tile place).bad
            ∧ t.mg.selfTests = s.mg.selfTests ++ [(.plate, place, loc, false)] ∧ t.mem = s.mem)
          ∧ (∃ t, exec (.errorEvent .plate place loc false) s = .next t
            ∧ (t.tile place).sram = (s.tile place).sram.push (entry 2 0 0 loc)
            ∧ (t.tile place).bad = sinsert (s.tile place).bad ((loc / 2 ^ 31 * 4096 + loc / 2 ^ 26 % 32 * 128) / 256)
            ∧ t.mg.selfTests = s.mg.selfTests ++ [(.plate, place, loc, false)]))
        ∧ (∀ place loc fixable, place < 64 → loc < 2 ^ 40 → loc % 2 ^ 8 = 0 → loc.testBit 14 = false → ∃ t, exec (.errorEvent .dramRow place loc fixable) s = .next t
          ∧ (t.home place).ecc = (s.home place).ecc.push (entry (if fixable then 1 else 2) (if fixable then 0 else 5) 0 loc)
          ∧ t.mg.selfTests = s.mg.selfTests ++ [(.dramRow, place, loc, false)])
        ∧ (∀ place loc fixable, place < 1536 → loc < 6 * 2 ^ 37 → loc % 2 ^ 24 = 0 → ∃ t r,
          exec (.errorEvent .link place loc fixable) s = .next t ∧ 1 ≤ r ∧ r ≤ 3 ∧ (fixable = false → r = 3)
          ∧ (t.tile place).link = (s.tile place).link.push (entry (if fixable then 3 else 4) 0 r loc))
        ∧ (∀ h seg beat lane r failed, h < 64 → seg < 28 → beat < 8 → lane < 4098 → 1 ≤ r → r ≤ 3 → (failed = true → r = 3) →
          ∃ t, exec (.busParityFail h seg beat lane r failed) s = .next t
          ∧ (t.home h).bus = (s.home h).bus.push
            (entry (if failed then 4 else 3) 0 r (seg * 2 ^ 35 + beat * 2 ^ 32 + lane * 2 ^ 19))
          ∧ t.mg.selfTests = s.mg.selfTests ++ [(.bondGroup, h, seg * 2 ^ 35 + beat * 2 ^ 32 + lane * 2 ^ 19, failed)])
        ∧ (∀ h set m, h < 64 → set < 258048 → m ≤ 8 → m ≠ (s.home h).stacked set → (s.home h).swap = none →
          (s.home h).noSwap = false → (s.home h).retired = [] →
          exec (.swapStart h set m) s = .next (s.setHome h { s.home h with swap := some (set, m) })))
      ∧ (∀ h set m, (s.home h).swap = some (set, m) → ∃ t, exec (.swapComplete h set) s = .next t
        ∧ (t.home h).stacked set = m ∧ (t.home h).swap = none ∧ t.mem = s.mem
        ∧ ∀ n, n ≠ set → (t.home h).stacked n = (s.home h).stacked n)
      ∧ (∀ k place loc, s.mg.selfTests[k]? = some (.plate, place, loc, false) →
        let g := (loc / 2 ^ 31 * 4096 + loc / 2 ^ 26 % 32 * 128) / 256
        ∃ t, exec (.selfTestDone k true) s = .next t
          ∧ (t.tile place).sram = (s.tile place).sram.push (entry 5 0 0 loc) ∧ t.mg.selfTests = s.mg.selfTests.eraseIdx k
          ∧ (g ∈ (s.tile place).bad → g ∉ (t.tile place).bad ∧ ∀ i < 256, memGet (t.tile place).spad (256 * g + i) = 0))
      ∧ (∀ k place loc b n, s.mg.selfTests[k]? = some (.plate, place, loc, b) →
        (aget (s.tile place).rowsUsed (loc / 2 ^ 31)).getD 0 = n → n < 2 → ∃ t, exec (.selfTestDone k false) s = .next t
          ∧ (t.tile place).sram = (s.tile place).sram.push (entry 6 1 0 loc)
          ∧ aget (t.tile place).rowsUsed (loc / 2 ^ 31) = some (n + 1))
      ∧ (∀ k h loc n, s.mg.selfTests[k]? = some (.bondGroup, h, loc, true) →
        (aget (s.home h).lanesUsed (loc / 2 ^ 35)).getD 0 = n → n < 2 → ∃ t, exec (.selfTestDone k true) s = .next t
          ∧ (t.home h).bus = (s.home h).bus.push (entry 6 2 0 loc)
          ∧ aget (t.home h).lanesUsed (loc / 2 ^ 35) = some (n + 1))
      ∧ (∀ a b : Nat, exec (.wsRefresh a b) s = .next s ∧ exec (.wsDeadline a b) s = .next s))
  ∧ (∀ (s : State) (tile : Nat), (s.tile tile).fenced = false →
      ((∀ p ∈ s.slots, p.2.bound = true → tile ∉ p.2.box) → let t := s.fence tile
        (t.tile tile).fenced = true ∧ (∀ b, b ∈ t.mg.lost ↔ b ∈ s.dirtyBlocks tile ∨ b ∈ s.mg.lost) ∧ t.mem = s.mem
        ∧ (t.tile tile).slice = [] ∧ t.slots = s.slots
        ∧ ∀ d, d ≠ tile → t.tile d = s.tile d)
      ∧ (∀ k place loc b, s.mg.selfTests[k]? = some (.logic, place, loc, b) → place = tile →
        (∀ p ∈ s.slots, p.2.bound = true → tile ∉ p.2.box) →
        ∃ t, exec (.selfTestDone k false) s = .next t ∧ (t.tile tile).fenced = true)
      ∧ (∀ n, ((s.endJob n).slot n).unbind = .cancel ∧ ((s.endJob n).slot n).cut = ((s.slot n).cut || (s.slot n).cuttable)))

/-! Events that serve a tile (spec/04, spec/08, spec/09, spec/16, spec/17). -/

/-- R95, R96, R97, R319: a block that is asked for and missing is filled from its code through its home slice, after an eviction
of the oldest unpinned block of a full set; the fetch port gives a block of the cache to those who ask for it.
R208, R210, R214, R223, R226, R227, R344, R378: a posted update performs at its address after every earlier one of its context,
its arrival after the rest of its group: a store writes its bytes, a read-modify-write its operation's result, a gradient its
sum, an arrival one more; one that meets a page fault goes to the side log, into its place in program order, from which it
performs once its page is there.
notes/assumptions/19.md names what is the model's choice. -/
def Obligations.FetchPortsAndPostedUpdatesServeTheirTile : Prop :=
  (∀ (tile : Nat) (s : State), let t := s.tile tile
      (∀ r rest b, s.fetchReqs tile = r :: rest → (∀ q ∈ rest, (t.iblock q.asid q.block).isNone) → r.prog = false →
        t.iblock r.asid r.block = some b → r.id.tile = tile → ∃ u, exec (.fetchDelivery tile) s = .next u
          ∧ (u.ctx r.id).fetched = (s.ctx r.id).fetched.filter (fun p => p.1 != r.block) ++ [(r.block, b.data)]
          ∧ (u.ctx r.id).wanted = (s.ctx r.id).wanted.filter (fun p => p.1 != r.block)
          ∧ (u.ctx r.id).r = (s.ctx r.id).r ∧ u.mem = s.mem
          ∧ ∀ q, (q.tile, q.core, q.ctx) ≠ (r.id.tile, r.id.core, r.id.ctx) → u.ctx q = s.ctx q)
      ∧ (∀ (asid : BitVec 16) (block : BitVec 64) r data l,
        (s.fetchReqs tile).find? (fun r => r.asid == asid.toNat && r.block == block) = some r →
        t.iblock asid.toNat block = none → let slot := (s.ctx r.id).slot
        (s.execPage slot block).isSome = true → s.evictedAt asid.toNat block.toNat = none →
        s.codeBlock slot block = some data → t.iroom block = some l → s.unitBusy (s.agentOf r.id) block.toNat = false →
        let u := s.setTile tile { t with icache := l ++ [⟨asid, block, none, s.time, data⟩] }
        exec (.icacheFill tile asid block) s =
          .next (if regionOf block.toNat ≤ 3 then u.touchSector asid.toNat block.toNat 0 else u))
      ∧ (∀ va l, t.iroom va = some l → let set (b : IBlock) : Nat := b.va.toNat / 32 % 512
        let mine := t.icache.filter (fun b => set b == va.toNat / 32 % 512)
        (mine.length < 8 → l = t.icache)
        ∧ (8 ≤ mine.length → ∃ v ∈ mine, v.pinned = none ∧ (∀ b ∈ mine, b.pinned = none → v.used ≤ b.used)
          ∧ l = t.icache.filter (fun b => b != v))))
  ∧ (∀ (tile k : Nat) (s : State) (p : Posted), let t := s.tile tile
      t.runs p.slot p.jtile = true →
      (t.posted[k]? = some p → t.earlier p = false → (∀ w ∈ t.wide, w.owner ≠ p.owner) →
        let s1 := { (s.setTile tile { t with posted := t.posted.eraseIdx k }) with cur := p.owner, inProg := false }
        (p.isArrival = false → p.isRed = false → s.hostFirst p = false → ∀ u, s1.perform p = .ok u →
          exec (.accessPerform tile k) s = .next u)
        ∧ (p.isRed = true → s.hostFirst p = false → s1.faultOf p = none → (∀ q ∈ (s1.tile tile).posted ++ (s1.tile tile).sideLog, p.sameGroup q = true →
            s1.faultOf q = none) → ∀ u, s1.perform p = .ok u → exec (.accessPerform tile k) s = .next u)
        ∧ (p.isArrival = true → t.groupLeft p = false → s.hostFirst p = false → ∀ u, s1.perform p = .ok u →
          exec (.arrival tile k) s = .next u)
        ∧ (∀ o e n acc cells va w, p.upd = .store o e n acc cells → s.hostFirst p = false → s1.perform p = .error (.fault va w) → p.owner.tile = tile →
          t.sideLog.length < 128 → (∀ q ∈ t.posted, p.sameGroup q = true → q.isArrival = false) →
          let later (q : Posted) : Prop := q.sameOwner p = true ∧ p.group < q.group
          ∃ u, exec (.accessPerform tile k) s = .next u
            ∧ (∃ a b, t.sideLog = a ++ b ∧ (u.tile tile).sideLog = a ++ p :: b ∧ (∀ q ∈ a, ¬ later q) ∧ (∀ q, b.head? = some q → later q))
            ∧ (u.tile tile).posted = t.posted.eraseIdx k
            ∧ ∃ f : PageFault, u.mg.faults = s.mg.faults ++ [f] ∧ f.va = va ∧ f.write = true ∧ f.who = .sideLog tile))
      ∧ (t.sideLog[k]? = some p → (∀ q ∈ t.sideLog.take k, q.sameOwner p = false) →
        (∀ q ∈ t.posted, q.sameOwner p = true → p.group ≤ q.group) → p.isArrival = false → p.isRed = false →
        s.hostFirst p = false →
        let s1 := { s with cur := p.owner, inProg := false }
        ∀ u, s1.hostWord p = none → s1.perform p = .ok u → exec (.sideLogReplay tile k) s =
          .next (u.setTile tile { u.tile tile with sideLog := (u.tile tile).sideLog.eraseIdx k }))
      ∧ (∀ (o : Bool) (e n acc : Nat) (cells : List Host.Cell) (l : List Loc), s.InOrder → p.upd = .store o e n acc cells →
        s.locate p.agent true o e (cells.map Prod.fst) = .ok l → let bs := cells.map Prod.snd
        s.perform p = .ok ((s.store (l.zip bs)).hostStores (some (p.attr, p.passing)) (((cells.map Prod.fst).zip l).zip bs)))
      ∧ (∀ (op : AmoOp) (n : Nat) (va y : Word) (l : List Loc), s.InOrder → p.upd = .rmw op n va y →
        s.locateRmw p.agent (span va n) = .ok l → s.portBusy p.agent p.scope va.toNat = false → (∀ h, Loc.host h ∉ l) →
        s.perform p = .ok (s.store (l.zip (bytesOf n (amoNew op (8 * n) (s.loadNat l) y.toNat)))))
      ∧ (∀ (va : Word) (n : BitVec 96) (l : List Loc), s.InOrder → p.upd = .grid va n → s.locateRmw p.agent (span va 16) = .ok l →
        s.perform p = .ok (s.store (l.zip (bytesOf 16 ((BitVec.ofNat 96 (s.loadNat l) + n).signExtend 128).toNat))))
      ∧ (∀ (va : Word) (l : List Loc), s.InOrder → p.upd = .arrive va → s.portBusy p.agent p.scope va.toNat = false →
        s.locateRmw ⟨p.slot, p.jtile, p.owner.tile, p.owner.core, p.waited⟩ (span va 8) = .ok l →
        (s.loadNat l < 2 ^ 64 - 1 → s.perform p = .ok (s.storeNat l (s.loadNat l + 1)))
        ∧ (s.loadNat l = 2 ^ 64 - 1 → ∃ u, s.perform p = .ok u ∧ u.mem = s.mem ∧ ∀ d, (u.tile d).spad = (s.tile d).spad)))

/-- R317, R370, R372, R373, R378: at a boundary, or in the wait of `cwait`, `rdv` or `rclaim`, a context takes HALT_REQ before CANCEL
before the oldest pending trap, but in a handler only those two; in the wait of `done` it is a trap ending, and an `align` ends
first; a fault that can be resolved lets its context go on, and another is a PAGE trap of the held instruction.
notes/assumptions/30.md names what is the model's choice. -/
def Obligations.PendingTrapsAndFaultsReachTheirContexts : Prop :=
  ∀ (s : State), s.inProg = false → let c := s.me
    (∀ p : Pending, c.active = true → s.myTile.runs c.slot c.jtile = true → s.wideBusy = false →
      (let l := if c.csr.tcause.getLsbD 16 then c.pend.filter (fun p => p.code == 0x0E || p.code == 0x18) else c.pend
       l.find? (fun p => p.code == 0x18) = some p
        ∨ ((∀ q ∈ l, q.code ≠ 0x18) ∧ l.find? (fun p => p.code == 0x0E) = some p)
        ∨ ((∀ q ∈ l, q.code ≠ 0x18 ∧ q.code ≠ 0x0E) ∧ l.head? = some p)) →
      let run := exec (.asyncTrap s.cur.tile s.cur.core s.cur.ctx) s
      ∃ (u : State) (code : TrapCode), u.me = { c with pend := c.pend.erase p } ∧ u.mem = s.mem ∧ u.slots = s.slots
        ∧ (1 ≤ p.code → p.code ≤ 0x18 → code.num = p.code)
        ∧ (c.wait = .none ∨ c.wait = .watch ∨ (∃ a b, c.wait = .reread a b) ∨ (∃ a b, c.wait = .ring a b) →
          run = .next (u.takeTrap code p.src c.r.pc p.val))
        ∧ (c.wait = .ending false → run = .next (u.trapEnding p.code p.src c.r.pc p.val))
        ∧ (∀ k n a, c.wait = .align k n a → run = .next ((s.setMe { c with wait := .none }).advance 8)))
    ∧ (∀ (k : Nat) (f : PageFault), s.mg.faults[k]? = some f → s.mg.switching = none → f.who = .ctx s.cur →
      let s1 := { s with mg := { s.mg with faults := s.mg.faults.eraseIdx k } }
      (s.faultOver f = true → exec (.faultResolution k true) s = .next (s1.setMe { c with wait := .none }))
      ∧ (s.resolvable f = false → s.wideBusy = false → (∀ b, c.wait ≠ .ending b) →
        exec (.faultResolution k false) s =
          .next ((s1.setMe { c with wait := .none }).takeTrap .page 0 c.r.pc f.va)))

/-- R235, R391: the host's answer, within 50 ms, reaches the instruction that waits for it; an aborted, poisoned or overdue request is a PERM or
MEM_LOST trap of that instruction, and a posted write just completes. A FetchAdd of a reduction that is aborted is a pending
PERM of its context, and its arrival is not made: notes/assumptions/43.md. -/
def Obligations.HostRequestsAreAnswered : Prop :=
  ∀ (s : State) (k : Nat) (r : HostReq), s.inProg = false → s.hostReqs[k]? = some r → let c := s.me
    let s1 := { s with hostReqs := s.hostReqs.eraseIdx k }
    let trapped (code : TrapCode) : State := (s1.setMe { c with wait := .none }).takeTrap code 0 c.r.pc r.va
    let early := s.wstime < r.since + 80000000
    (∀ st data, early → r.posted = true → r.op ≠ .flush → r.group = none → r.event = none →
      exec (.hostCompletion k st data) s = .next s1)
    ∧ (∀ g data, early → r.posted = true → r.op ≠ .flush → r.group = some g → r.event = none →
      exec (.hostCompletion k .ok data) s = .next s1
      ∧ ∃ u : State, exec (.hostCompletion k .abort data) s = .next u
        ∧ (∀ q ∈ (u.tile r.owner.tile).posted ++ (u.tile r.owner.tile).sideLog,
          q.owner = r.owner → q.gen = r.gen → q.group = g → q.isArrival = false)
        ∧ (let x := s.ctx r.owner
           x.active = true → x.gen = r.gen → x.slot = r.slot → (u.ctx r.owner).pend = x.pend ++ [⟨0x03, 3, r.va⟩])
        ∧ u.mem = s.mem)
    ∧ (r.posted = false → r.via = .self → r.owner = s.cur → s.wideBusy = false → ∀ got, c.wait = .host got →
      (∀ n data, early → r.op = .read n → data.length = n →
        exec (.hostCompletion k .ok data) s = .next (s1.setMe { c with wait := .host (aset got r.va.toNat data) }))
      ∧ (∀ data, early → r.op ≠ .flush → exec (.hostCompletion k .abort data) s = .next (trapped .perm)
        ∧ exec (.hostCompletion k .poisoned data) s = .next (trapped .memLost))
      ∧ (r.since + 80000000 ≤ s.wstime → exec (.hostRequestTimeout k) s = .next (trapped .perm)))
    ∧ (r.posted = true → r.group = none → r.since + 80000000 ≤ s.wstime → (s.actAs r.owner).wideBusy = false → exec (.hostRequestTimeout k) s = .next s1)

/-! The encoding and the machine (spec/02). -/

/-- R20 to R39, R47: an instruction whose operands are within their fields has an encoding, and the decoder reads it back from the
bytes of that encoding with every operand as it was.
R20, R25, R33: whatever bytes are read, what the decoder answers is a well-formed instruction whose encoding is those bytes, and
the reserved length code is refused. -/
def Obligations.EncodingAndDecodingAgree : Prop :=
  (∀ i : Instr, i.isEvent = false → i.wf = true → ∃ w len : Nat, encode i = some w ∧ len = lenBytes (w % 4)
      ∧ ∀ rest : List Byte, decode (bytesOf len w ++ rest) = .ok (i, len))
  ∧ ((∀ (bs : List Byte) (i : Instr) (len : Nat), decode bs = .ok (i, len) →
      i.isEvent = false ∧ i.wf = true ∧ (len = 8 ∨ len = 12 ∨ len = 16) ∧ encode i = some (leNat (bs.take len)))
    ∧ (∀ bs : List Byte, (bs.headD 0).toNat % 4 = 3 → ∀ r, decode bs ≠ .ok r))

/-- R23 to R39, R98, R114, R121, R142, R179, R221, R251: words of each group written out from the encoding tables decode to the
instructions that they stand for, and a word with a reserved bit set is refused. -/
def Obligations.TableWordsDecode : Prop :=
  let g : Guard := ⟨0, false⟩
  let reads (n w : Nat) (i : Instr) : Prop := decode (bytesOf n w) = .ok (i, n)
  reads 8 0xFFFFFFD00182810C (.addi g (.g 5) (.g 6) (-3))
  ∧ reads 8 0x00001000A1098178 (.cmp g .s32 .lt 3 (.g 4) (.g 5))
  ∧ reads 16 0x123456789ABCDEF00000000000038102 (.li g (.g 7) 0x123456789ABCDEF0)
  ∧ reads 8 0xFFFFFFFF00800008 (.br g false 2 (-4))
  ∧ reads 8 0x0000021000000740 (.trap g 0x21)
  ∧ reads 8 0x0000000000000744 (.eret g)
  ∧ reads 8 0x0000400060808200 (.fadd g .f32 .rne (.g 1) (.g 2) (.g 3))
  ∧ reads 8 0x0038C80000808230 (.fcvt g (.fp .f64) .q4 .rtz (.g 1) (.g 2))
  ∧ reads 8 0x0034300060808300 (.vadd g .n32 ⟨5, true⟩ (.v 1) (.v 2) (.v 3))
  ∧ reads 8 0x0004400060808400 (.vfadd g .f32 .rne ⟨1, false⟩ (.v 1) (.v 2) (.v 3))
  ∧ reads 8 0x0080480000808434 (.vfred g .f64 .max .rne ⟨0, false⟩ (.g 1) (.v 2))
  ∧ reads 12 0x000000081C4C880060808501 (.ld g .h true .acq true 2 true (.g 1) ⟨.g 2, .g 3, 3, 8⟩)
  ∧ reads 16 0x00000000000002090005E8006080851A (.tld g true true true 9 2 ⟨5, true⟩ (.v 1) (.g 2) (.g 3))
  ∧ reads 16 0x00000000000000090000280060808606 (.mma g true false true 9 (.g 1) (.g 2) (.g 3))
  ∧ reads 8 0x000000000004860C (.mclr g false (.g 9))
  ∧ reads 12 0x000000000051C860A1248709 (.red g .fadd true true 2 .zr ⟨.g 4, .g 5, 0, 0⟩ (.g 6))
  ∧ reads 8 0x0000B0000000070C (.fenceRel g 5)
  ∧ (∀ r, decode (bytesOf 8 0x0000000080000744) ≠ .ok r)
  ∧ (∀ r, decode (bytesOf 8 0x0000000000000747) ≠ .ok r)

/-- R19, R20, R21, R22, R91, R92: when the schedule names a core, the first context in its issue order that is ready executes the
instruction that the bytes at its program counter decode to, its class's pointer moves past it, and the core issues nothing
more in that clock; with no turn named, the focus core does so and one clock passes; an event named by the schedule takes
place. While the clocks are stopped no core issues and no clock passes.
The order of turns, and loads put off to a later turn, which the premises leave out, are the model's choice:
notes/assumptions/2.md, 3.md. -/
def Obligations.AStepRunsTheDecodedInstruction : Prop :=
  ∀ (s u : State) (t c n : Nat) (i : Instr) (len : Nat) (blk : BitVec 256) (before after : List Nat),
    let run (s0 : State) (done : State → State) : Prop :=
      let id : CtxId := ⟨t, c, n⟩
      let x := s0.ctx id
      s0.up = true → s0.record.delay = false → s0.late = [] → (s0.core t c).issued ≠ some s0.time →
      trial exec s0 ⟨t, c, 8⟩ = none → issueOrder (s0.core t c) = before ++ n :: after →
      (∀ m ∈ before, trial exec s0 ⟨t, c, m⟩ = none) → x.mayIssue (s0.tile t) = true → x.cancelDue = false →
      (∀ code val, x.wait ≠ .flow code val) →
      fetchedBlock x.fetched x.r.pc = some blk →
      decode (bytesOf 16 (blk.toNat / 2 ^ (8 * (x.r.pc.toNat % 32)))) = .ok (i, len) →
      exec i { s0 with cur := id, inProg := false, stalled := false } = .next u → u.stalled = false → ∀ h : x.cls < 4,
      let v := u.setCore t c { u.core t c with rr := (u.core t c).rr.set x.cls ((n + 1) % 8) h }
      step s = .next (done (v.setCore t c { v.core t c with issued := some v.time }))
    (∀ rest, s.turns = .issue t c :: rest → run { s with turns := rest } id)
    ∧ (s.turns = [] → s.focus = (t, c) → run s (fun v => v.tick 1))
    ∧ (∀ rest, s.turns = .issue t c :: rest → (s.core t c).issued = some s.time ∨ s.up = false → step s = .next { s with turns := rest })
    ∧ (∀ rest, s.turns = .event i :: rest → i.isEvent = true → { s with turns := rest }.needsSlot i = false →
      s.late = [] ∨ Instr.besideLate i = true → s.up = true ∨ Instr.inReset i = true → step s = exec i { s with turns := rest })
    ∧ (∀ rest k, s.turns = .clock k :: rest → step s = .next (if s.up then { s with turns := rest }.tick k else { s with turns := rest }))

/-- R321, R390: device memory keeps one canonical form, addresses rising and no zero byte listed, through every step, so that equal
memories are equal data.
The form of memory is the model's: notes/assumptions/1.md. -/
def Obligations.StepsKeepDeviceMemoryCanonical : Prop :=
  ∀ s t : State, s.memCanonical → step s = .next t → t.memCanonical

/-- R19, R75, R206, R332, R389, R399: after reset no job is bound, every context is free, no tile is held, no page is mapped and the
management core waits for a command; device memory is in its canonical form.
That memory reads zero is the model's choice: notes/assumptions/1.md. -/
def Obligations.ResetLeavesThePartEmpty : Prop :=
  let s := State.reset
  s.memCanonical ∧ (∀ n, (s.slot n).bound = false) ∧ (∀ id, (s.ctx id).active = false)
    ∧ (∀ d, (s.tile d).holder = none ∧ (s.tile d).spad = []) ∧ s.mg.maps = [] ∧ s.mg.pages = [] ∧ s.mg.running = none
    ∧ s.mg.status = 0 ∧ s.wstime = 0 ∧ s.mg.clock = 1600 ∧ s.hostReqs = [] ∧ s.InOrder ∧ (∀ d, (s.tile d).slice = [])
    ∧ (∀ a, memGet s.mem a = 0)

/-- R81, R82, R103, R104, R110, R118, R122, R129, R133, R138, R139: an instruction that computes on registers leaves memory,
scratchpads, weight stores, the queues of every engine and every other context as they were, and of its own context every
register but its destination, the latch and what flags and a trap write; one that writes a predicate or a mask writes no latch,
and `vmov v[gB], vA` writes the register that B names and the vector latch. -/
def Obligations.RegisterInstructionsLeaveTheRestAlone : Prop :=
  ∀ (i : Instr) (s t : State), exec i s = .next t →
    let own : Prop := s.sameBut t ∧ t.me.csr = { s.me.csr with
        fpcs := t.me.csr.fpcs, tcause := t.me.csr.tcause, tepc := t.me.csr.tepc, tval := t.me.csr.tval }
      ∧ t.me.nest = s.me.nest ∧ t.me.gen = s.me.gen ∧ t.me.launch = s.me.launch
    let kept : Prop := own ∧ t.me.r.p = s.me.r.p ∧ t.me.r.m = s.me.r.m
    let latched : Prop := own ∧ t.me.r.g = s.me.r.g ∧ t.me.r.o = s.me.r.o ∧ t.me.r.lat = s.me.r.lat ∧ t.me.r.v = s.me.r.v
      ∧ t.me.r.vo = s.me.r.vo ∧ t.me.r.vlat = s.me.r.vlat
    (∀ d, scalarDst i = some d → kept ∧ t.me.r.v = s.me.r.v ∧ t.me.r.vo = s.me.r.vo ∧ t.me.r.vlat = s.me.r.vlat
      ∧ (∀ n, d ≠ .g n → t.me.r.getG n = s.me.r.getG n) ∧ (∀ n, d ≠ .o n → t.me.r.getO n = s.me.r.getO n))
    ∧ (∀ d, vectorDst i = some d → kept ∧ t.me.r.g = s.me.r.g ∧ t.me.r.o = s.me.r.o ∧ t.me.r.lat = s.me.r.lat
      ∧ (∀ n, d ≠ .v n → t.me.r.getV n = s.me.r.getV n) ∧ (∀ n, d ≠ .o n → t.me.r.getVO n = s.me.r.getVO n))
    ∧ (∀ d, predDst i = some d → latched ∧ t.me.r.m = s.me.r.m ∧ ∀ n, n ≠ d ∨ n = 0 → t.readP n = s.readP n)
    ∧ (∀ d, maskDst i = some d → latched ∧ t.me.r.p = s.me.r.p ∧ ∀ n, n ≠ d → t.readM n = s.readM n)
    ∧ (∀ g a b, i = .vmovToIndex g a b → kept ∧ t.me.r.g = s.me.r.g ∧ t.me.r.o = s.me.r.o ∧ t.me.r.vo = s.me.r.vo
      ∧ t.me.r.lat = s.me.r.lat ∧ ∀ n, (∀ x u, s.readS b = .ok (x, u) → x.toNat ≠ n.toNat) → t.me.r.getV n = s.me.r.getV n)

end Slice0Obligations
end

