-- ==== Sys2Proof/Laws/Memory.lean ====
section
/-! SUPPORT. What the operations over sparse lists and memory do: a read after a write, every other place left alone, and
the canonical form kept by each of them. -/

namespace Sys2Proof.Machine

theorem aget_aset_same {α : Type} (m : Assoc α) (k : Nat) (v : α) : aget (aset m k v) k = some v := by
  induction m with
  | nil => simp [aset, aget]
  | cons p t ih =>
    obtain ⟨i, w⟩ := p
    simp only [aset]
    split
    · simp [aget]
    · split
      · simp [aget]
      · rename_i h; simp [aget, h, ih]

theorem aget_aset_other {α : Type} (m : Assoc α) (k n : Nat) (v : α) (h : n ≠ k) : aget (aset m k v) n = aget m n := by
  induction m with
  | nil => simp [aset, aget, Ne.symm h]
  | cons p t ih =>
    obtain ⟨i, w⟩ := p
    simp only [aset]
    split
    · simp [aget, Ne.symm h]
    · split
      · rename_i e; subst e; simp [aget, Ne.symm h]
      · by_cases e : i = n <;> simp [aget, e, ih]

theorem aget_aerase_same {α : Type} (m : Assoc α) (k : Nat) : aget (aerase m k) k = none := by
  induction m with
  | nil => rfl
  | cons p t ih =>
    obtain ⟨i, w⟩ := p
    unfold aerase at ih ⊢
    by_cases e : i = k <;> simp [aget, e, ih]

theorem aget_aerase_other {α : Type} (m : Assoc α) (k n : Nat) (h : n ≠ k) : aget (aerase m k) n = aget m n := by
  induction m with
  | nil => rfl
  | cons p t ih =>
    obtain ⟨i, w⟩ := p
    unfold aerase at ih ⊢
    by_cases e : i = k
    · simp [aget, e, ih, Ne.symm h]
    · simp [aget, e, ih]

/-- A byte reads as it was written. -/
@[simp] theorem memGet_memSet_same (m : Memory) (a : Nat) (b : Byte) : memGet (memSet m a b) a = b := by
  unfold memGet memSet
  split
  · rename_i h; rw [aget_aerase_same]; simp [h]
  · rw [aget_aset_same]; rfl

/-- Every other byte reads as before. -/
theorem memGet_memSet_other (m : Memory) (a n : Nat) (b : Byte) (h : n ≠ a) : memGet (memSet m a b) n = memGet m n := by
  unfold memGet memSet
  split
  · rw [aget_aerase_other _ _ _ h]
  · rw [aget_aset_other _ _ _ _ h]

/-! The canonical form. -/

/-- The keys of a list with one more key listed. -/
theorem mem_keys_aset {α : Type} (m : Assoc α) (k : Nat) (v : α) (x : Nat) :
    x ∈ (aset m k v).map Prod.fst → x = k ∨ x ∈ m.map Prod.fst := by
  induction m with
  | nil => simp [aset]
  | cons p t ih =>
    obtain ⟨i, w⟩ := p
    simp only [aset]
    split
    · intro h; simpa using h
    · split
      · rename_i e; subst e; intro h; right; simpa using h
      · intro h
        simp only [List.map_cons, List.mem_cons] at h ⊢
        rcases h with h | h
        · exact .inr (.inl h)
        · rcases ih h with h | h
          · exact .inl h
          · exact .inr (.inr h)

/-- Listing a key keeps keys rising. -/
theorem keys_aset_rising {α : Type} (m : Assoc α) (k : Nat) (v : α)
    (h : List.Pairwise (fun a b => a < b) (m.map Prod.fst)) :
    List.Pairwise (fun a b => a < b) ((aset m k v).map Prod.fst) := by
  induction m with
  | nil => simp [aset]
  | cons p t ih =>
    obtain ⟨i, w⟩ := p
    simp only [List.map_cons, List.pairwise_cons] at h
    simp only [aset]
    split
    · rename_i hk
      simp only [List.map_cons, List.pairwise_cons, List.mem_cons]
      refine ⟨?_, h⟩
      rintro x (rfl | hx)
      · exact hk
      · exact lt_trans hk (h.1 x hx)
    · split
      · rename_i e; subst e; simpa [List.pairwise_cons] using h
      · simp only [List.map_cons, List.pairwise_cons]
        refine ⟨fun x hx => ?_, ih h.2⟩
        rcases mem_keys_aset t k v x hx with rfl | hx
        · omega
        · exact h.1 x hx

/-- A filtered memory keeps its canonical form. -/
theorem wf_filter (m : Memory) (p : Host.Cell → Bool) (h : Memory.wf m = true) : Memory.wf (m.filter p) = true := by
  simp only [Memory.wf, Bool.and_eq_true, decide_eq_true_eq, List.all_eq_true] at h ⊢
  refine ⟨?_, fun c hc => h.2 c (List.mem_of_mem_filter hc)⟩
  exact h.1.sublist (List.filter_sublist.map _)

/-- Every byte that a list with one more listed byte holds was held or is the new one. -/
theorem mem_aset {α : Type} (m : Assoc α) (k : Nat) (v : α) (c : Nat × α) (h : c ∈ aset m k v) : c = (k, v) ∨ c ∈ m := by
  induction m with
  | nil => simpa [aset] using h
  | cons p t ih =>
    obtain ⟨i, w⟩ := p
    simp only [aset] at h
    split at h
    · simpa using h
    · split at h
      · rcases List.mem_cons.mp h with h | h
        · exact .inl h
        · exact .inr (List.mem_cons_of_mem _ h)
      · rcases List.mem_cons.mp h with h | h
        · exact .inr (h ▸ List.mem_cons_self)
        · rcases ih h with h | h
          · exact .inl h
          · exact .inr (List.mem_cons_of_mem _ h)

/-- Writing one byte keeps the canonical form. -/
theorem wf_memSet (m : Memory) (a : Nat) (b : Byte) (h : Memory.wf m = true) : Memory.wf (memSet m a b) = true := by
  unfold memSet
  split
  · exact wf_filter m _ h
  · rename_i hb
    simp only [Memory.wf, Bool.and_eq_true, decide_eq_true_eq, List.all_eq_true] at h ⊢
    refine ⟨keys_aset_rising m a b h.1, fun c hc => ?_⟩
    rcases mem_aset m a b c hc with rfl | hc
    · simpa using hb
    · exact h.2 c hc

/-- Writing bytes one after the other keeps the canonical form. -/
theorem wf_foldl_memSet {α : Type} (l : List α) (f : α → Nat) (g : α → Byte) (m : Memory) (h : Memory.wf m = true) :
    Memory.wf (l.foldl (fun (q : Memory) x => memSet q (f x) (g x)) m) = true := by
  induction l generalizing m with
  | nil => exact h
  | cons x t ih => exact ih _ (wf_memSet m _ _ h)

/-- Writing a number keeps the canonical form. -/
theorem wf_memPut (m : Memory) (a n v : Nat) (h : Memory.wf m = true) : Memory.wf (memPut m a n v) = true :=
  wf_foldl_memSet _ (fun p : Nat × Byte => a + p.1) (fun p => p.2) m h

/-- Clearing bytes keeps the canonical form. -/
theorem wf_memClear (m : Memory) (a n : Nat) (h : Memory.wf m = true) : Memory.wf (memClear m a n) = true := wf_filter m _ h

/-- The memory of a part after reset is in its canonical form. -/
theorem reset_mem_wf : Memory.wf State.reset.mem = true := by decide

end Sys2Proof.Machine
end

