-- ==== Sys2Proof/Laws/State.lean ====
section
/-! SUPPORT. What each named update of the state leaves as it was, one lemma a field, and that an updated part reads back. -/

namespace Sys2Proof.Machine

/-! `State.setTile`. -/

@[simp] theorem State.setTile_turns (s : State) (n : Nat) (t : Tile) : (s.setTile n t).turns = s.turns := rfl
@[simp] theorem State.setTile_focus (s : State) (n : Nat) (t : Tile) : (s.setTile n t).focus = s.focus := rfl
@[simp] theorem State.setTile_cur (s : State) (n : Nat) (t : Tile) : (s.setTile n t).cur = s.cur := rfl
@[simp] theorem State.setTile_inProg (s : State) (n : Nat) (t : Tile) : (s.setTile n t).inProg = s.inProg := rfl
@[simp] theorem State.setTile_stalled (s : State) (n : Nat) (t : Tile) : (s.setTile n t).stalled = s.stalled := rfl
@[simp] theorem State.setTile_pick (s : State) (n : Nat) (t : Tile) : (s.setTile n t).pick = s.pick := rfl
@[simp] theorem State.setTile_nextId (s : State) (n : Nat) (t : Tile) : (s.setTile n t).nextId = s.nextId := rfl
@[simp] theorem State.setTile_time (s : State) (n : Nat) (t : Tile) : (s.setTile n t).time = s.time := rfl
@[simp] theorem State.setTile_ticks (s : State) (n : Nat) (t : Tile) : (s.setTile n t).ticks = s.ticks := rfl
@[simp] theorem State.setTile_slots (s : State) (n : Nat) (t : Tile) : (s.setTile n t).slots = s.slots := rfl
@[simp] theorem State.setTile_mem (s : State) (n : Nat) (t : Tile) : (s.setTile n t).mem = s.mem := rfl
@[simp] theorem State.setTile_record (s : State) (n : Nat) (t : Tile) : (s.setTile n t).record = s.record := rfl
@[simp] theorem State.setTile_late (s : State) (n : Nat) (t : Tile) : (s.setTile n t).late = s.late := rfl
@[simp] theorem State.setTile_hostReqs (s : State) (n : Nat) (t : Tile) : (s.setTile n t).hostReqs = s.hostReqs := rfl
@[simp] theorem State.setTile_outsideGot (s : State) (n : Nat) (t : Tile) : (s.setTile n t).outsideGot = s.outsideGot := rfl
@[simp] theorem State.setTile_homes (s : State) (n : Nat) (t : Tile) : (s.setTile n t).homes = s.homes := rfl
@[simp] theorem State.setTile_mg (s : State) (n : Nat) (t : Tile) : (s.setTile n t).mg = s.mg := rfl
@[simp] theorem State.setTile_ports (s : State) (n : Nat) (t : Tile) : (s.setTile n t).ports = s.ports := rfl
@[simp] theorem State.setTile_sluice (s : State) (n : Nat) (t : Tile) : (s.setTile n t).sluice = s.sluice := rfl

/-! `State.setSlot`. -/

@[simp] theorem State.setSlot_turns (s : State) (n : Nat) (j : Slot) : (s.setSlot n j).turns = s.turns := rfl
@[simp] theorem State.setSlot_focus (s : State) (n : Nat) (j : Slot) : (s.setSlot n j).focus = s.focus := rfl
@[simp] theorem State.setSlot_cur (s : State) (n : Nat) (j : Slot) : (s.setSlot n j).cur = s.cur := rfl
@[simp] theorem State.setSlot_inProg (s : State) (n : Nat) (j : Slot) : (s.setSlot n j).inProg = s.inProg := rfl
@[simp] theorem State.setSlot_stalled (s : State) (n : Nat) (j : Slot) : (s.setSlot n j).stalled = s.stalled := rfl
@[simp] theorem State.setSlot_pick (s : State) (n : Nat) (j : Slot) : (s.setSlot n j).pick = s.pick := rfl
@[simp] theorem State.setSlot_nextId (s : State) (n : Nat) (j : Slot) : (s.setSlot n j).nextId = s.nextId := rfl
@[simp] theorem State.setSlot_time (s : State) (n : Nat) (j : Slot) : (s.setSlot n j).time = s.time := rfl
@[simp] theorem State.setSlot_ticks (s : State) (n : Nat) (j : Slot) : (s.setSlot n j).ticks = s.ticks := rfl
@[simp] theorem State.setSlot_tiles (s : State) (n : Nat) (j : Slot) : (s.setSlot n j).tiles = s.tiles := rfl
@[simp] theorem State.setSlot_mem (s : State) (n : Nat) (j : Slot) : (s.setSlot n j).mem = s.mem := rfl
@[simp] theorem State.setSlot_record (s : State) (n : Nat) (j : Slot) : (s.setSlot n j).record = s.record := rfl
@[simp] theorem State.setSlot_late (s : State) (n : Nat) (j : Slot) : (s.setSlot n j).late = s.late := rfl
@[simp] theorem State.setSlot_hostReqs (s : State) (n : Nat) (j : Slot) : (s.setSlot n j).hostReqs = s.hostReqs := rfl
@[simp] theorem State.setSlot_outsideGot (s : State) (n : Nat) (j : Slot) : (s.setSlot n j).outsideGot = s.outsideGot := rfl
@[simp] theorem State.setSlot_homes (s : State) (n : Nat) (j : Slot) : (s.setSlot n j).homes = s.homes := rfl
@[simp] theorem State.setSlot_mg (s : State) (n : Nat) (j : Slot) : (s.setSlot n j).mg = s.mg := rfl
@[simp] theorem State.setSlot_ports (s : State) (n : Nat) (j : Slot) : (s.setSlot n j).ports = s.ports := rfl
@[simp] theorem State.setSlot_sluice (s : State) (n : Nat) (j : Slot) : (s.setSlot n j).sluice = s.sluice := rfl

/-! `State.setHome`. -/

@[simp] theorem State.setHome_turns (s : State) (n : Nat) (h : Home) : (s.setHome n h).turns = s.turns := rfl
@[simp] theorem State.setHome_focus (s : State) (n : Nat) (h : Home) : (s.setHome n h).focus = s.focus := rfl
@[simp] theorem State.setHome_cur (s : State) (n : Nat) (h : Home) : (s.setHome n h).cur = s.cur := rfl
@[simp] theorem State.setHome_inProg (s : State) (n : Nat) (h : Home) : (s.setHome n h).inProg = s.inProg := rfl
@[simp] theorem State.setHome_stalled (s : State) (n : Nat) (h : Home) : (s.setHome n h).stalled = s.stalled := rfl
@[simp] theorem State.setHome_pick (s : State) (n : Nat) (h : Home) : (s.setHome n h).pick = s.pick := rfl
@[simp] theorem State.setHome_nextId (s : State) (n : Nat) (h : Home) : (s.setHome n h).nextId = s.nextId := rfl
@[simp] theorem State.setHome_time (s : State) (n : Nat) (h : Home) : (s.setHome n h).time = s.time := rfl
@[simp] theorem State.setHome_ticks (s : State) (n : Nat) (h : Home) : (s.setHome n h).ticks = s.ticks := rfl
@[simp] theorem State.setHome_tiles (s : State) (n : Nat) (h : Home) : (s.setHome n h).tiles = s.tiles := rfl
@[simp] theorem State.setHome_slots (s : State) (n : Nat) (h : Home) : (s.setHome n h).slots = s.slots := rfl
@[simp] theorem State.setHome_mem (s : State) (n : Nat) (h : Home) : (s.setHome n h).mem = s.mem := rfl
@[simp] theorem State.setHome_record (s : State) (n : Nat) (h : Home) : (s.setHome n h).record = s.record := rfl
@[simp] theorem State.setHome_late (s : State) (n : Nat) (h : Home) : (s.setHome n h).late = s.late := rfl
@[simp] theorem State.setHome_hostReqs (s : State) (n : Nat) (h : Home) : (s.setHome n h).hostReqs = s.hostReqs := rfl
@[simp] theorem State.setHome_outsideGot (s : State) (n : Nat) (h : Home) : (s.setHome n h).outsideGot = s.outsideGot := rfl
@[simp] theorem State.setHome_mg (s : State) (n : Nat) (h : Home) : (s.setHome n h).mg = s.mg := rfl
@[simp] theorem State.setHome_ports (s : State) (n : Nat) (h : Home) : (s.setHome n h).ports = s.ports := rfl
@[simp] theorem State.setHome_sluice (s : State) (n : Nat) (h : Home) : (s.setHome n h).sluice = s.sluice := rfl

/-! `State.setCore`. -/

@[simp] theorem State.setCore_turns (s : State) (t c : Nat) (k : Core) : (s.setCore t c k).turns = s.turns := rfl
@[simp] theorem State.setCore_focus (s : State) (t c : Nat) (k : Core) : (s.setCore t c k).focus = s.focus := rfl
@[simp] theorem State.setCore_cur (s : State) (t c : Nat) (k : Core) : (s.setCore t c k).cur = s.cur := rfl
@[simp] theorem State.setCore_inProg (s : State) (t c : Nat) (k : Core) : (s.setCore t c k).inProg = s.inProg := rfl
@[simp] theorem State.setCore_stalled (s : State) (t c : Nat) (k : Core) : (s.setCore t c k).stalled = s.stalled := rfl
@[simp] theorem State.setCore_pick (s : State) (t c : Nat) (k : Core) : (s.setCore t c k).pick = s.pick := rfl
@[simp] theorem State.setCore_nextId (s : State) (t c : Nat) (k : Core) : (s.setCore t c k).nextId = s.nextId := rfl
@[simp] theorem State.setCore_time (s : State) (t c : Nat) (k : Core) : (s.setCore t c k).time = s.time := rfl
@[simp] theorem State.setCore_ticks (s : State) (t c : Nat) (k : Core) : (s.setCore t c k).ticks = s.ticks := rfl
@[simp] theorem State.setCore_slots (s : State) (t c : Nat) (k : Core) : (s.setCore t c k).slots = s.slots := rfl
@[simp] theorem State.setCore_mem (s : State) (t c : Nat) (k : Core) : (s.setCore t c k).mem = s.mem := rfl
@[simp] theorem State.setCore_record (s : State) (t c : Nat) (k : Core) : (s.setCore t c k).record = s.record := rfl
@[simp] theorem State.setCore_late (s : State) (t c : Nat) (k : Core) : (s.setCore t c k).late = s.late := rfl
@[simp] theorem State.setCore_hostReqs (s : State) (t c : Nat) (k : Core) : (s.setCore t c k).hostReqs = s.hostReqs := rfl
@[simp] theorem State.setCore_outsideGot (s : State) (t c : Nat) (k : Core) : (s.setCore t c k).outsideGot = s.outsideGot := rfl
@[simp] theorem State.setCore_homes (s : State) (t c : Nat) (k : Core) : (s.setCore t c k).homes = s.homes := rfl
@[simp] theorem State.setCore_mg (s : State) (t c : Nat) (k : Core) : (s.setCore t c k).mg = s.mg := rfl
@[simp] theorem State.setCore_ports (s : State) (t c : Nat) (k : Core) : (s.setCore t c k).ports = s.ports := rfl
@[simp] theorem State.setCore_sluice (s : State) (t c : Nat) (k : Core) : (s.setCore t c k).sluice = s.sluice := rfl

/-! `State.setCtx`. -/

@[simp] theorem State.setCtx_turns (s : State) (i : CtxId) (x : Ctx) : (s.setCtx i x).turns = s.turns := rfl
@[simp] theorem State.setCtx_focus (s : State) (i : CtxId) (x : Ctx) : (s.setCtx i x).focus = s.focus := rfl
@[simp] theorem State.setCtx_cur (s : State) (i : CtxId) (x : Ctx) : (s.setCtx i x).cur = s.cur := rfl
@[simp] theorem State.setCtx_inProg (s : State) (i : CtxId) (x : Ctx) : (s.setCtx i x).inProg = s.inProg := rfl
@[simp] theorem State.setCtx_stalled (s : State) (i : CtxId) (x : Ctx) : (s.setCtx i x).stalled = s.stalled := rfl
@[simp] theorem State.setCtx_pick (s : State) (i : CtxId) (x : Ctx) : (s.setCtx i x).pick = s.pick := rfl
@[simp] theorem State.setCtx_nextId (s : State) (i : CtxId) (x : Ctx) : (s.setCtx i x).nextId = s.nextId := rfl
@[simp] theorem State.setCtx_time (s : State) (i : CtxId) (x : Ctx) : (s.setCtx i x).time = s.time := rfl
@[simp] theorem State.setCtx_ticks (s : State) (i : CtxId) (x : Ctx) : (s.setCtx i x).ticks = s.ticks := rfl
@[simp] theorem State.setCtx_slots (s : State) (i : CtxId) (x : Ctx) : (s.setCtx i x).slots = s.slots := rfl
@[simp] theorem State.setCtx_mem (s : State) (i : CtxId) (x : Ctx) : (s.setCtx i x).mem = s.mem := rfl
@[simp] theorem State.setCtx_record (s : State) (i : CtxId) (x : Ctx) : (s.setCtx i x).record = s.record := rfl
@[simp] theorem State.setCtx_late (s : State) (i : CtxId) (x : Ctx) : (s.setCtx i x).late = s.late := rfl
@[simp] theorem State.setCtx_hostReqs (s : State) (i : CtxId) (x : Ctx) : (s.setCtx i x).hostReqs = s.hostReqs := rfl
@[simp] theorem State.setCtx_outsideGot (s : State) (i : CtxId) (x : Ctx) : (s.setCtx i x).outsideGot = s.outsideGot := rfl
@[simp] theorem State.setCtx_homes (s : State) (i : CtxId) (x : Ctx) : (s.setCtx i x).homes = s.homes := rfl
@[simp] theorem State.setCtx_mg (s : State) (i : CtxId) (x : Ctx) : (s.setCtx i x).mg = s.mg := rfl
@[simp] theorem State.setCtx_ports (s : State) (i : CtxId) (x : Ctx) : (s.setCtx i x).ports = s.ports := rfl
@[simp] theorem State.setCtx_sluice (s : State) (i : CtxId) (x : Ctx) : (s.setCtx i x).sluice = s.sluice := rfl

/-! `State.setMe`. -/

@[simp] theorem State.setMe_turns (s : State) (x : Ctx) : (s.setMe x).turns = s.turns := rfl
@[simp] theorem State.setMe_focus (s : State) (x : Ctx) : (s.setMe x).focus = s.focus := rfl
@[simp] theorem State.setMe_cur (s : State) (x : Ctx) : (s.setMe x).cur = s.cur := rfl
@[simp] theorem State.setMe_inProg (s : State) (x : Ctx) : (s.setMe x).inProg = s.inProg := rfl
@[simp] theorem State.setMe_stalled (s : State) (x : Ctx) : (s.setMe x).stalled = s.stalled := rfl
@[simp] theorem State.setMe_pick (s : State) (x : Ctx) : (s.setMe x).pick = s.pick := rfl
@[simp] theorem State.setMe_nextId (s : State) (x : Ctx) : (s.setMe x).nextId = s.nextId := rfl
@[simp] theorem State.setMe_time (s : State) (x : Ctx) : (s.setMe x).time = s.time := rfl
@[simp] theorem State.setMe_ticks (s : State) (x : Ctx) : (s.setMe x).ticks = s.ticks := rfl
@[simp] theorem State.setMe_slots (s : State) (x : Ctx) : (s.setMe x).slots = s.slots := rfl
@[simp] theorem State.setMe_mem (s : State) (x : Ctx) : (s.setMe x).mem = s.mem := rfl
@[simp] theorem State.setMe_record (s : State) (x : Ctx) : (s.setMe x).record = s.record := rfl
@[simp] theorem State.setMe_late (s : State) (x : Ctx) : (s.setMe x).late = s.late := rfl
@[simp] theorem State.setMe_hostReqs (s : State) (x : Ctx) : (s.setMe x).hostReqs = s.hostReqs := rfl
@[simp] theorem State.setMe_outsideGot (s : State) (x : Ctx) : (s.setMe x).outsideGot = s.outsideGot := rfl
@[simp] theorem State.setMe_homes (s : State) (x : Ctx) : (s.setMe x).homes = s.homes := rfl
@[simp] theorem State.setMe_mg (s : State) (x : Ctx) : (s.setMe x).mg = s.mg := rfl
@[simp] theorem State.setMe_ports (s : State) (x : Ctx) : (s.setMe x).ports = s.ports := rfl
@[simp] theorem State.setMe_sluice (s : State) (x : Ctx) : (s.setMe x).sluice = s.sluice := rfl

/-! `State.setMyJob`. -/

@[simp] theorem State.setMyJob_turns (s : State) (j : JobCore) : (s.setMyJob j).turns = s.turns := rfl
@[simp] theorem State.setMyJob_focus (s : State) (j : JobCore) : (s.setMyJob j).focus = s.focus := rfl
@[simp] theorem State.setMyJob_cur (s : State) (j : JobCore) : (s.setMyJob j).cur = s.cur := rfl
@[simp] theorem State.setMyJob_inProg (s : State) (j : JobCore) : (s.setMyJob j).inProg = s.inProg := rfl
@[simp] theorem State.setMyJob_stalled (s : State) (j : JobCore) : (s.setMyJob j).stalled = s.stalled := rfl
@[simp] theorem State.setMyJob_pick (s : State) (j : JobCore) : (s.setMyJob j).pick = s.pick := rfl
@[simp] theorem State.setMyJob_nextId (s : State) (j : JobCore) : (s.setMyJob j).nextId = s.nextId := rfl
@[simp] theorem State.setMyJob_time (s : State) (j : JobCore) : (s.setMyJob j).time = s.time := rfl
@[simp] theorem State.setMyJob_ticks (s : State) (j : JobCore) : (s.setMyJob j).ticks = s.ticks := rfl
@[simp] theorem State.setMyJob_slots (s : State) (j : JobCore) : (s.setMyJob j).slots = s.slots := rfl
@[simp] theorem State.setMyJob_mem (s : State) (j : JobCore) : (s.setMyJob j).mem = s.mem := rfl
@[simp] theorem State.setMyJob_record (s : State) (j : JobCore) : (s.setMyJob j).record = s.record := rfl
@[simp] theorem State.setMyJob_late (s : State) (j : JobCore) : (s.setMyJob j).late = s.late := rfl
@[simp] theorem State.setMyJob_hostReqs (s : State) (j : JobCore) : (s.setMyJob j).hostReqs = s.hostReqs := rfl
@[simp] theorem State.setMyJob_outsideGot (s : State) (j : JobCore) : (s.setMyJob j).outsideGot = s.outsideGot := rfl
@[simp] theorem State.setMyJob_homes (s : State) (j : JobCore) : (s.setMyJob j).homes = s.homes := rfl
@[simp] theorem State.setMyJob_mg (s : State) (j : JobCore) : (s.setMyJob j).mg = s.mg := rfl
@[simp] theorem State.setMyJob_ports (s : State) (j : JobCore) : (s.setMyJob j).ports = s.ports := rfl
@[simp] theorem State.setMyJob_sluice (s : State) (j : JobCore) : (s.setMyJob j).sluice = s.sluice := rfl

/-! `Tile.setCore`. -/

@[simp] theorem Tile.setCore_units (t : Tile) (n : Nat) (k : Core) : (t.setCore n k).units = t.units := rfl
@[simp] theorem Tile.setCore_holder (t : Tile) (n : Nat) (k : Core) : (t.setCore n k).holder = t.holder := rfl
@[simp] theorem Tile.setCore_jtile (t : Tile) (n : Nat) (k : Core) : (t.setCore n k).jtile = t.jtile := rfl
@[simp] theorem Tile.setCore_overlays (t : Tile) (n : Nat) (k : Core) : (t.setCore n k).overlays = t.overlays := rfl
@[simp] theorem Tile.setCore_since (t : Tile) (n : Nat) (k : Core) : (t.setCore n k).since = t.since := rfl
@[simp] theorem Tile.setCore_stopping (t : Tile) (n : Nat) (k : Core) : (t.setCore n k).stopping = t.stopping := rfl
@[simp] theorem Tile.setCore_spad (t : Tile) (n : Nat) (k : Core) : (t.setCore n k).spad = t.spad := rfl
@[simp] theorem Tile.setCore_granules (t : Tile) (n : Nat) (k : Core) : (t.setCore n k).granules = t.granules := rfl
@[simp] theorem Tile.setCore_ws (t : Tile) (n : Nat) (k : Core) : (t.setCore n k).ws = t.ws := rfl
@[simp] theorem Tile.setCore_deadlines (t : Tile) (n : Nat) (k : Core) : (t.setCore n k).deadlines = t.deadlines := rfl
@[simp] theorem Tile.setCore_wssl (t : Tile) (n : Nat) (k : Core) : (t.setCore n k).wssl = t.wssl := rfl
@[simp] theorem Tile.setCore_sideLog (t : Tile) (n : Nat) (k : Core) : (t.setCore n k).sideLog = t.sideLog := rfl
@[simp] theorem Tile.setCore_posted (t : Tile) (n : Nat) (k : Core) : (t.setCore n k).posted = t.posted := rfl
@[simp] theorem Tile.setCore_wide (t : Tile) (n : Nat) (k : Core) : (t.setCore n k).wide = t.wide := rfl
@[simp] theorem Tile.setCore_watches (t : Tile) (n : Nat) (k : Core) : (t.setCore n k).watches = t.watches := rfl
@[simp] theorem Tile.setCore_rereads (t : Tile) (n : Nat) (k : Core) : (t.setCore n k).rereads = t.rereads := rfl
@[simp] theorem Tile.setCore_sliceRereads (t : Tile) (n : Nat) (k : Core) : (t.setCore n k).sliceRereads = t.sliceRereads := rfl
@[simp] theorem Tile.setCore_fills (t : Tile) (n : Nat) (k : Core) : (t.setCore n k).fills = t.fills := rfl
@[simp] theorem Tile.setCore_gov (t : Tile) (n : Nat) (k : Core) : (t.setCore n k).gov = t.gov := rfl
@[simp] theorem Tile.setCore_govs (t : Tile) (n : Nat) (k : Core) : (t.setCore n k).govs = t.govs := rfl
@[simp] theorem Tile.setCore_wssls (t : Tile) (n : Nat) (k : Core) : (t.setCore n k).wssls = t.wssls := rfl
@[simp] theorem Tile.setCore_icache (t : Tile) (n : Nat) (k : Core) : (t.setCore n k).icache = t.icache := rfl
@[simp] theorem Tile.setCore_slice (t : Tile) (n : Nat) (k : Core) : (t.setCore n k).slice = t.slice := rfl
@[simp] theorem Tile.setCore_fenced (t : Tile) (n : Nat) (k : Core) : (t.setCore n k).fenced = t.fenced := rfl
@[simp] theorem Tile.setCore_sram (t : Tile) (n : Nat) (k : Core) : (t.setCore n k).sram = t.sram := rfl
@[simp] theorem Tile.setCore_link (t : Tile) (n : Nat) (k : Core) : (t.setCore n k).link = t.link := rfl
@[simp] theorem Tile.setCore_rowsUsed (t : Tile) (n : Nat) (k : Core) : (t.setCore n k).rowsUsed = t.rowsUsed := rfl
@[simp] theorem Tile.setCore_lanesUsed (t : Tile) (n : Nat) (k : Core) : (t.setCore n k).lanesUsed = t.lanesUsed := rfl
@[simp] theorem Tile.setCore_dead (t : Tile) (n : Nat) (k : Core) : (t.setCore n k).dead = t.dead := rfl
@[simp] theorem Tile.setCore_bad (t : Tile) (n : Nat) (k : Core) : (t.setCore n k).bad = t.bad := rfl
@[simp] theorem Tile.setCore_temp (t : Tile) (n : Nat) (k : Core) : (t.setCore n k).temp = t.temp := rfl
@[simp] theorem Tile.setCore_volt (t : Tile) (n : Nat) (k : Core) : (t.setCore n k).volt = t.volt := rfl
@[simp] theorem Tile.setCore_voltSince (t : Tile) (n : Nat) (k : Core) : (t.setCore n k).voltSince = t.voltSince := rfl

/-! `Core.setCtx`. -/

@[simp] theorem Core.setCtx_rr (k : Core) (n : Nat) (x : Ctx) : (k.setCtx n x).rr = k.rr := rfl
@[simp] theorem Core.setCtx_seqRr (k : Core) (n : Nat) (x : Ctx) : (k.setCtx n x).seqRr = k.seqRr := rfl
@[simp] theorem Core.setCtx_bittern (k : Core) (n : Nat) (x : Ctx) : (k.setCtx n x).bittern = k.bittern := rfl
@[simp] theorem Core.setCtx_issued (k : Core) (n : Nat) (x : Ctx) : (k.setCtx n x).issued = k.issued := rfl
@[simp] theorem Core.setCtx_sequenced (k : Core) (n : Nat) (x : Ctx) : (k.setCtx n x).sequenced = k.sequenced := rfl
@[simp] theorem Core.setCtx_inbox (k : Core) (n : Nat) (x : Ctx) : (k.setCtx n x).inbox = k.inbox := rfl
@[simp] theorem Core.setCtx_arrivals (k : Core) (n : Nat) (x : Ctx) : (k.setCtx n x).arrivals = k.arrivals := rfl
@[simp] theorem Core.setCtx_credits (k : Core) (n : Nat) (x : Ctx) : (k.setCtx n x).credits = k.credits := rfl
@[simp] theorem Core.setCtx_sendQ (k : Core) (n : Nat) (x : Ctx) : (k.setCtx n x).sendQ = k.sendQ := rfl
@[simp] theorem Core.setCtx_delays (k : Core) (n : Nat) (x : Ctx) : (k.setCtx n x).delays = k.delays := rfl
@[simp] theorem Core.setCtx_replies (k : Core) (n : Nat) (x : Ctx) : (k.setCtx n x).replies = k.replies := rfl
@[simp] theorem Core.setCtx_notices (k : Core) (n : Nat) (x : Ctx) : (k.setCtx n x).notices = k.notices := rfl
@[simp] theorem Core.setCtx_held (k : Core) (n : Nat) (x : Ctx) : (k.setCtx n x).held = k.held := rfl
@[simp] theorem Core.setCtx_copies (k : Core) (n : Nat) (x : Ctx) : (k.setCtx n x).copies = k.copies := rfl
@[simp] theorem Core.setCtx_jobs (k : Core) (n : Nat) (x : Ctx) : (k.setCtx n x).jobs = k.jobs := rfl

/-! `Core.setJob`. -/

@[simp] theorem Core.setJob_ctxs (k : Core) (n : Nat) (j : JobCore) : (k.setJob n j).ctxs = k.ctxs := rfl
@[simp] theorem Core.setJob_rr (k : Core) (n : Nat) (j : JobCore) : (k.setJob n j).rr = k.rr := rfl
@[simp] theorem Core.setJob_seqRr (k : Core) (n : Nat) (j : JobCore) : (k.setJob n j).seqRr = k.seqRr := rfl
@[simp] theorem Core.setJob_bittern (k : Core) (n : Nat) (j : JobCore) : (k.setJob n j).bittern = k.bittern := rfl
@[simp] theorem Core.setJob_issued (k : Core) (n : Nat) (j : JobCore) : (k.setJob n j).issued = k.issued := rfl
@[simp] theorem Core.setJob_sequenced (k : Core) (n : Nat) (j : JobCore) : (k.setJob n j).sequenced = k.sequenced := rfl
@[simp] theorem Core.setJob_inbox (k : Core) (n : Nat) (j : JobCore) : (k.setJob n j).inbox = k.inbox := rfl
@[simp] theorem Core.setJob_arrivals (k : Core) (n : Nat) (j : JobCore) : (k.setJob n j).arrivals = k.arrivals := rfl
@[simp] theorem Core.setJob_credits (k : Core) (n : Nat) (j : JobCore) : (k.setJob n j).credits = k.credits := rfl
@[simp] theorem Core.setJob_sendQ (k : Core) (n : Nat) (j : JobCore) : (k.setJob n j).sendQ = k.sendQ := rfl
@[simp] theorem Core.setJob_delays (k : Core) (n : Nat) (j : JobCore) : (k.setJob n j).delays = k.delays := rfl
@[simp] theorem Core.setJob_replies (k : Core) (n : Nat) (j : JobCore) : (k.setJob n j).replies = k.replies := rfl
@[simp] theorem Core.setJob_notices (k : Core) (n : Nat) (j : JobCore) : (k.setJob n j).notices = k.notices := rfl
@[simp] theorem Core.setJob_held (k : Core) (n : Nat) (j : JobCore) : (k.setJob n j).held = k.held := rfl
@[simp] theorem Core.setJob_copies (k : Core) (n : Nat) (j : JobCore) : (k.setJob n j).copies = k.copies := rfl

/-! `Regs.setG`. -/

@[simp] theorem Regs.setG_pc (r : Regs) (n : BitVec 6) (v : Word) : (r.setG n v).pc = r.pc := rfl
@[simp] theorem Regs.setG_o (r : Regs) (n : BitVec 6) (v : Word) : (r.setG n v).o = r.o := rfl
@[simp] theorem Regs.setG_lat (r : Regs) (n : BitVec 6) (v : Word) : (r.setG n v).lat = r.lat := rfl
@[simp] theorem Regs.setG_v (r : Regs) (n : BitVec 6) (v : Word) : (r.setG n v).v = r.v := rfl
@[simp] theorem Regs.setG_vo (r : Regs) (n : BitVec 6) (v : Word) : (r.setG n v).vo = r.vo := rfl
@[simp] theorem Regs.setG_vlat (r : Regs) (n : BitVec 6) (v : Word) : (r.setG n v).vlat = r.vlat := rfl
@[simp] theorem Regs.setG_p (r : Regs) (n : BitVec 6) (v : Word) : (r.setG n v).p = r.p := rfl
@[simp] theorem Regs.setG_m (r : Regs) (n : BitVec 6) (v : Word) : (r.setG n v).m = r.m := rfl

/-! `Regs.setO`. -/

@[simp] theorem Regs.setO_pc (r : Regs) (n : BitVec 3) (v : Word) : (r.setO n v).pc = r.pc := rfl
@[simp] theorem Regs.setO_g (r : Regs) (n : BitVec 3) (v : Word) : (r.setO n v).g = r.g := rfl
@[simp] theorem Regs.setO_lat (r : Regs) (n : BitVec 3) (v : Word) : (r.setO n v).lat = r.lat := rfl
@[simp] theorem Regs.setO_v (r : Regs) (n : BitVec 3) (v : Word) : (r.setO n v).v = r.v := rfl
@[simp] theorem Regs.setO_vo (r : Regs) (n : BitVec 3) (v : Word) : (r.setO n v).vo = r.vo := rfl
@[simp] theorem Regs.setO_vlat (r : Regs) (n : BitVec 3) (v : Word) : (r.setO n v).vlat = r.vlat := rfl
@[simp] theorem Regs.setO_p (r : Regs) (n : BitVec 3) (v : Word) : (r.setO n v).p = r.p := rfl
@[simp] theorem Regs.setO_m (r : Regs) (n : BitVec 3) (v : Word) : (r.setO n v).m = r.m := rfl

/-! `Regs.setV`. -/

@[simp] theorem Regs.setV_pc (r : Regs) (n : BitVec 5) (v : VWord) : (r.setV n v).pc = r.pc := rfl
@[simp] theorem Regs.setV_g (r : Regs) (n : BitVec 5) (v : VWord) : (r.setV n v).g = r.g := rfl
@[simp] theorem Regs.setV_o (r : Regs) (n : BitVec 5) (v : VWord) : (r.setV n v).o = r.o := rfl
@[simp] theorem Regs.setV_lat (r : Regs) (n : BitVec 5) (v : VWord) : (r.setV n v).lat = r.lat := rfl
@[simp] theorem Regs.setV_vo (r : Regs) (n : BitVec 5) (v : VWord) : (r.setV n v).vo = r.vo := rfl
@[simp] theorem Regs.setV_vlat (r : Regs) (n : BitVec 5) (v : VWord) : (r.setV n v).vlat = r.vlat := rfl
@[simp] theorem Regs.setV_p (r : Regs) (n : BitVec 5) (v : VWord) : (r.setV n v).p = r.p := rfl
@[simp] theorem Regs.setV_m (r : Regs) (n : BitVec 5) (v : VWord) : (r.setV n v).m = r.m := rfl

/-! `Regs.setVO`. -/

@[simp] theorem Regs.setVO_pc (r : Regs) (n : BitVec 2) (v : VWord) : (r.setVO n v).pc = r.pc := rfl
@[simp] theorem Regs.setVO_g (r : Regs) (n : BitVec 2) (v : VWord) : (r.setVO n v).g = r.g := rfl
@[simp] theorem Regs.setVO_o (r : Regs) (n : BitVec 2) (v : VWord) : (r.setVO n v).o = r.o := rfl
@[simp] theorem Regs.setVO_lat (r : Regs) (n : BitVec 2) (v : VWord) : (r.setVO n v).lat = r.lat := rfl
@[simp] theorem Regs.setVO_v (r : Regs) (n : BitVec 2) (v : VWord) : (r.setVO n v).v = r.v := rfl
@[simp] theorem Regs.setVO_vlat (r : Regs) (n : BitVec 2) (v : VWord) : (r.setVO n v).vlat = r.vlat := rfl
@[simp] theorem Regs.setVO_p (r : Regs) (n : BitVec 2) (v : VWord) : (r.setVO n v).p = r.p := rfl
@[simp] theorem Regs.setVO_m (r : Regs) (n : BitVec 2) (v : VWord) : (r.setVO n v).m = r.m := rfl

/-! `Regs.setM`. -/

@[simp] theorem Regs.setM_pc (r : Regs) (n : BitVec 3) (v : BitVec 32) : (r.setM n v).pc = r.pc := rfl
@[simp] theorem Regs.setM_g (r : Regs) (n : BitVec 3) (v : BitVec 32) : (r.setM n v).g = r.g := rfl
@[simp] theorem Regs.setM_o (r : Regs) (n : BitVec 3) (v : BitVec 32) : (r.setM n v).o = r.o := rfl
@[simp] theorem Regs.setM_lat (r : Regs) (n : BitVec 3) (v : BitVec 32) : (r.setM n v).lat = r.lat := rfl
@[simp] theorem Regs.setM_v (r : Regs) (n : BitVec 3) (v : BitVec 32) : (r.setM n v).v = r.v := rfl
@[simp] theorem Regs.setM_vo (r : Regs) (n : BitVec 3) (v : BitVec 32) : (r.setM n v).vo = r.vo := rfl
@[simp] theorem Regs.setM_vlat (r : Regs) (n : BitVec 3) (v : BitVec 32) : (r.setM n v).vlat = r.vlat := rfl
@[simp] theorem Regs.setM_p (r : Regs) (n : BitVec 3) (v : BitVec 32) : (r.setM n v).p = r.p := rfl

/-! `Ctx.setLat`. -/

@[simp] theorem Ctx.setLat_active (c : Ctx) (v : Word) : (c.setLat v).active = c.active := rfl
@[simp] theorem Ctx.setLat_gen (c : Ctx) (v : Word) : (c.setLat v).gen = c.gen := rfl
@[simp] theorem Ctx.setLat_slot (c : Ctx) (v : Word) : (c.setLat v).slot = c.slot := rfl
@[simp] theorem Ctx.setLat_jtile (c : Ctx) (v : Word) : (c.setLat v).jtile = c.jtile := rfl
@[simp] theorem Ctx.setLat_cls (c : Ctx) (v : Word) : (c.setLat v).cls = c.cls := rfl
@[simp] theorem Ctx.setLat_handler (c : Ctx) (v : Word) : (c.setLat v).handler = c.handler := rfl
@[simp] theorem Ctx.setLat_allot (c : Ctx) (v : Word) : (c.setLat v).allot = c.allot := rfl
@[simp] theorem Ctx.setLat_csr (c : Ctx) (v : Word) : (c.setLat v).csr = c.csr := rfl
@[simp] theorem Ctx.setLat_nest (c : Ctx) (v : Word) : (c.setLat v).nest = c.nest := rfl
@[simp] theorem Ctx.setLat_q (c : Ctx) (v : Word) : (c.setLat v).q = c.q := rfl
@[simp] theorem Ctx.setLat_aligns (c : Ctx) (v : Word) : (c.setLat v).aligns = c.aligns := rfl
@[simp] theorem Ctx.setLat_view (c : Ctx) (v : Word) : (c.setLat v).view = c.view := rfl
@[simp] theorem Ctx.setLat_hostWrote (c : Ctx) (v : Word) : (c.setLat v).hostWrote = c.hostWrote := rfl
@[simp] theorem Ctx.setLat_src (c : Ctx) (v : Word) : (c.setLat v).src = c.src := rfl
@[simp] theorem Ctx.setLat_ownsReply (c : Ctx) (v : Word) : (c.setLat v).ownsReply = c.ownsReply := rfl
@[simp] theorem Ctx.setLat_replied (c : Ctx) (v : Word) : (c.setLat v).replied = c.replied := rfl
@[simp] theorem Ctx.setLat_launch (c : Ctx) (v : Word) : (c.setLat v).launch = c.launch := rfl
@[simp] theorem Ctx.setLat_stage (c : Ctx) (v : Word) : (c.setLat v).stage = c.stage := rfl
@[simp] theorem Ctx.setLat_wait (c : Ctx) (v : Word) : (c.setLat v).wait = c.wait := rfl
@[simp] theorem Ctx.setLat_pend (c : Ctx) (v : Word) : (c.setLat v).pend = c.pend := rfl
@[simp] theorem Ctx.setLat_prog (c : Ctx) (v : Word) : (c.setLat v).prog = c.prog := rfl
@[simp] theorem Ctx.setLat_kept (c : Ctx) (v : Word) : (c.setLat v).kept = c.kept := rfl
@[simp] theorem Ctx.setLat_waited (c : Ctx) (v : Word) : (c.setLat v).waited = c.waited := rfl
@[simp] theorem Ctx.setLat_reserved (c : Ctx) (v : Word) : (c.setLat v).reserved = c.reserved := rfl
@[simp] theorem Ctx.setLat_fetched (c : Ctx) (v : Word) : (c.setLat v).fetched = c.fetched := rfl
@[simp] theorem Ctx.setLat_wanted (c : Ctx) (v : Word) : (c.setLat v).wanted = c.wanted := rfl
@[simp] theorem Ctx.setLat_r_pc (c : Ctx) (v : Word) : (c.setLat v).r.pc = c.r.pc := rfl
@[simp] theorem Ctx.setLat_r_g (c : Ctx) (v : Word) : (c.setLat v).r.g = c.r.g := rfl
@[simp] theorem Ctx.setLat_r_o (c : Ctx) (v : Word) : (c.setLat v).r.o = c.r.o := rfl
@[simp] theorem Ctx.setLat_r_v (c : Ctx) (v : Word) : (c.setLat v).r.v = c.r.v := rfl
@[simp] theorem Ctx.setLat_r_vo (c : Ctx) (v : Word) : (c.setLat v).r.vo = c.r.vo := rfl
@[simp] theorem Ctx.setLat_r_vlat (c : Ctx) (v : Word) : (c.setLat v).r.vlat = c.r.vlat := rfl
@[simp] theorem Ctx.setLat_r_p (c : Ctx) (v : Word) : (c.setLat v).r.p = c.r.p := rfl
@[simp] theorem Ctx.setLat_r_m (c : Ctx) (v : Word) : (c.setLat v).r.m = c.r.m := rfl
@[simp] theorem Ctx.setLat_dirty_g (c : Ctx) (v : Word) : (c.setLat v).dirty.g = c.dirty.g := rfl
@[simp] theorem Ctx.setLat_dirty_o (c : Ctx) (v : Word) : (c.setLat v).dirty.o = c.dirty.o := rfl
@[simp] theorem Ctx.setLat_dirty_v (c : Ctx) (v : Word) : (c.setLat v).dirty.v = c.dirty.v := rfl
@[simp] theorem Ctx.setLat_dirty_vo (c : Ctx) (v : Word) : (c.setLat v).dirty.vo = c.dirty.vo := rfl
@[simp] theorem Ctx.setLat_dirty_vlat (c : Ctx) (v : Word) : (c.setLat v).dirty.vlat = c.dirty.vlat := rfl
@[simp] theorem Ctx.setLat_dirty_p (c : Ctx) (v : Word) : (c.setLat v).dirty.p = c.dirty.p := rfl
@[simp] theorem Ctx.setLat_dirty_m (c : Ctx) (v : Word) : (c.setLat v).dirty.m = c.dirty.m := rfl
@[simp] theorem Ctx.setLat_dirty_q (c : Ctx) (v : Word) : (c.setLat v).dirty.q = c.dirty.q := rfl

/-! `Ctx.putG`. -/

@[simp] theorem Ctx.putG_active (c : Ctx) (n : BitVec 6) (v : Word) : (c.putG n v).active = c.active := rfl
@[simp] theorem Ctx.putG_gen (c : Ctx) (n : BitVec 6) (v : Word) : (c.putG n v).gen = c.gen := rfl
@[simp] theorem Ctx.putG_slot (c : Ctx) (n : BitVec 6) (v : Word) : (c.putG n v).slot = c.slot := rfl
@[simp] theorem Ctx.putG_jtile (c : Ctx) (n : BitVec 6) (v : Word) : (c.putG n v).jtile = c.jtile := rfl
@[simp] theorem Ctx.putG_cls (c : Ctx) (n : BitVec 6) (v : Word) : (c.putG n v).cls = c.cls := rfl
@[simp] theorem Ctx.putG_handler (c : Ctx) (n : BitVec 6) (v : Word) : (c.putG n v).handler = c.handler := rfl
@[simp] theorem Ctx.putG_allot (c : Ctx) (n : BitVec 6) (v : Word) : (c.putG n v).allot = c.allot := rfl
@[simp] theorem Ctx.putG_csr (c : Ctx) (n : BitVec 6) (v : Word) : (c.putG n v).csr = c.csr := rfl
@[simp] theorem Ctx.putG_nest (c : Ctx) (n : BitVec 6) (v : Word) : (c.putG n v).nest = c.nest := rfl
@[simp] theorem Ctx.putG_q (c : Ctx) (n : BitVec 6) (v : Word) : (c.putG n v).q = c.q := rfl
@[simp] theorem Ctx.putG_aligns (c : Ctx) (n : BitVec 6) (v : Word) : (c.putG n v).aligns = c.aligns := rfl
@[simp] theorem Ctx.putG_view (c : Ctx) (n : BitVec 6) (v : Word) : (c.putG n v).view = c.view := rfl
@[simp] theorem Ctx.putG_hostWrote (c : Ctx) (n : BitVec 6) (v : Word) : (c.putG n v).hostWrote = c.hostWrote := rfl
@[simp] theorem Ctx.putG_src (c : Ctx) (n : BitVec 6) (v : Word) : (c.putG n v).src = c.src := rfl
@[simp] theorem Ctx.putG_ownsReply (c : Ctx) (n : BitVec 6) (v : Word) : (c.putG n v).ownsReply = c.ownsReply := rfl
@[simp] theorem Ctx.putG_replied (c : Ctx) (n : BitVec 6) (v : Word) : (c.putG n v).replied = c.replied := rfl
@[simp] theorem Ctx.putG_launch (c : Ctx) (n : BitVec 6) (v : Word) : (c.putG n v).launch = c.launch := rfl
@[simp] theorem Ctx.putG_stage (c : Ctx) (n : BitVec 6) (v : Word) : (c.putG n v).stage = c.stage := rfl
@[simp] theorem Ctx.putG_wait (c : Ctx) (n : BitVec 6) (v : Word) : (c.putG n v).wait = c.wait := rfl
@[simp] theorem Ctx.putG_pend (c : Ctx) (n : BitVec 6) (v : Word) : (c.putG n v).pend = c.pend := rfl
@[simp] theorem Ctx.putG_prog (c : Ctx) (n : BitVec 6) (v : Word) : (c.putG n v).prog = c.prog := rfl
@[simp] theorem Ctx.putG_kept (c : Ctx) (n : BitVec 6) (v : Word) : (c.putG n v).kept = c.kept := rfl
@[simp] theorem Ctx.putG_waited (c : Ctx) (n : BitVec 6) (v : Word) : (c.putG n v).waited = c.waited := rfl
@[simp] theorem Ctx.putG_reserved (c : Ctx) (n : BitVec 6) (v : Word) : (c.putG n v).reserved = c.reserved := rfl
@[simp] theorem Ctx.putG_fetched (c : Ctx) (n : BitVec 6) (v : Word) : (c.putG n v).fetched = c.fetched := rfl
@[simp] theorem Ctx.putG_wanted (c : Ctx) (n : BitVec 6) (v : Word) : (c.putG n v).wanted = c.wanted := rfl
@[simp] theorem Ctx.putG_r_pc (c : Ctx) (n : BitVec 6) (v : Word) : (c.putG n v).r.pc = c.r.pc := rfl
@[simp] theorem Ctx.putG_r_o (c : Ctx) (n : BitVec 6) (v : Word) : (c.putG n v).r.o = c.r.o := rfl
@[simp] theorem Ctx.putG_r_lat (c : Ctx) (n : BitVec 6) (v : Word) : (c.putG n v).r.lat = c.r.lat := rfl
@[simp] theorem Ctx.putG_r_v (c : Ctx) (n : BitVec 6) (v : Word) : (c.putG n v).r.v = c.r.v := rfl
@[simp] theorem Ctx.putG_r_vo (c : Ctx) (n : BitVec 6) (v : Word) : (c.putG n v).r.vo = c.r.vo := rfl
@[simp] theorem Ctx.putG_r_vlat (c : Ctx) (n : BitVec 6) (v : Word) : (c.putG n v).r.vlat = c.r.vlat := rfl
@[simp] theorem Ctx.putG_r_p (c : Ctx) (n : BitVec 6) (v : Word) : (c.putG n v).r.p = c.r.p := rfl
@[simp] theorem Ctx.putG_r_m (c : Ctx) (n : BitVec 6) (v : Word) : (c.putG n v).r.m = c.r.m := rfl
@[simp] theorem Ctx.putG_dirty_o (c : Ctx) (n : BitVec 6) (v : Word) : (c.putG n v).dirty.o = c.dirty.o := rfl
@[simp] theorem Ctx.putG_dirty_lat (c : Ctx) (n : BitVec 6) (v : Word) : (c.putG n v).dirty.lat = c.dirty.lat := rfl
@[simp] theorem Ctx.putG_dirty_v (c : Ctx) (n : BitVec 6) (v : Word) : (c.putG n v).dirty.v = c.dirty.v := rfl
@[simp] theorem Ctx.putG_dirty_vo (c : Ctx) (n : BitVec 6) (v : Word) : (c.putG n v).dirty.vo = c.dirty.vo := rfl
@[simp] theorem Ctx.putG_dirty_vlat (c : Ctx) (n : BitVec 6) (v : Word) : (c.putG n v).dirty.vlat = c.dirty.vlat := rfl
@[simp] theorem Ctx.putG_dirty_p (c : Ctx) (n : BitVec 6) (v : Word) : (c.putG n v).dirty.p = c.dirty.p := rfl
@[simp] theorem Ctx.putG_dirty_m (c : Ctx) (n : BitVec 6) (v : Word) : (c.putG n v).dirty.m = c.dirty.m := rfl
@[simp] theorem Ctx.putG_dirty_q (c : Ctx) (n : BitVec 6) (v : Word) : (c.putG n v).dirty.q = c.dirty.q := rfl

/-! `Ctx.putO`. -/

@[simp] theorem Ctx.putO_active (c : Ctx) (n : BitVec 3) (v : Word) : (c.putO n v).active = c.active := rfl
@[simp] theorem Ctx.putO_gen (c : Ctx) (n : BitVec 3) (v : Word) : (c.putO n v).gen = c.gen := rfl
@[simp] theorem Ctx.putO_slot (c : Ctx) (n : BitVec 3) (v : Word) : (c.putO n v).slot = c.slot := rfl
@[simp] theorem Ctx.putO_jtile (c : Ctx) (n : BitVec 3) (v : Word) : (c.putO n v).jtile = c.jtile := rfl
@[simp] theorem Ctx.putO_cls (c : Ctx) (n : BitVec 3) (v : Word) : (c.putO n v).cls = c.cls := rfl
@[simp] theorem Ctx.putO_handler (c : Ctx) (n : BitVec 3) (v : Word) : (c.putO n v).handler = c.handler := rfl
@[simp] theorem Ctx.putO_allot (c : Ctx) (n : BitVec 3) (v : Word) : (c.putO n v).allot = c.allot := rfl
@[simp] theorem Ctx.putO_csr (c : Ctx) (n : BitVec 3) (v : Word) : (c.putO n v).csr = c.csr := rfl
@[simp] theorem Ctx.putO_nest (c : Ctx) (n : BitVec 3) (v : Word) : (c.putO n v).nest = c.nest := rfl
@[simp] theorem Ctx.putO_q (c : Ctx) (n : BitVec 3) (v : Word) : (c.putO n v).q = c.q := rfl
@[simp] theorem Ctx.putO_aligns (c : Ctx) (n : BitVec 3) (v : Word) : (c.putO n v).aligns = c.aligns := rfl
@[simp] theorem Ctx.putO_view (c : Ctx) (n : BitVec 3) (v : Word) : (c.putO n v).view = c.view := rfl
@[simp] theorem Ctx.putO_hostWrote (c : Ctx) (n : BitVec 3) (v : Word) : (c.putO n v).hostWrote = c.hostWrote := rfl
@[simp] theorem Ctx.putO_src (c : Ctx) (n : BitVec 3) (v : Word) : (c.putO n v).src = c.src := rfl
@[simp] theorem Ctx.putO_ownsReply (c : Ctx) (n : BitVec 3) (v : Word) : (c.putO n v).ownsReply = c.ownsReply := rfl
@[simp] theorem Ctx.putO_replied (c : Ctx) (n : BitVec 3) (v : Word) : (c.putO n v).replied = c.replied := rfl
@[simp] theorem Ctx.putO_launch (c : Ctx) (n : BitVec 3) (v : Word) : (c.putO n v).launch = c.launch := rfl
@[simp] theorem Ctx.putO_stage (c : Ctx) (n : BitVec 3) (v : Word) : (c.putO n v).stage = c.stage := rfl
@[simp] theorem Ctx.putO_wait (c : Ctx) (n : BitVec 3) (v : Word) : (c.putO n v).wait = c.wait := rfl
@[simp] theorem Ctx.putO_pend (c : Ctx) (n : BitVec 3) (v : Word) : (c.putO n v).pend = c.pend := rfl
@[simp] theorem Ctx.putO_prog (c : Ctx) (n : BitVec 3) (v : Word) : (c.putO n v).prog = c.prog := rfl
@[simp] theorem Ctx.putO_kept (c : Ctx) (n : BitVec 3) (v : Word) : (c.putO n v).kept = c.kept := rfl
@[simp] theorem Ctx.putO_waited (c : Ctx) (n : BitVec 3) (v : Word) : (c.putO n v).waited = c.waited := rfl
@[simp] theorem Ctx.putO_reserved (c : Ctx) (n : BitVec 3) (v : Word) : (c.putO n v).reserved = c.reserved := rfl
@[simp] theorem Ctx.putO_fetched (c : Ctx) (n : BitVec 3) (v : Word) : (c.putO n v).fetched = c.fetched := rfl
@[simp] theorem Ctx.putO_wanted (c : Ctx) (n : BitVec 3) (v : Word) : (c.putO n v).wanted = c.wanted := rfl
@[simp] theorem Ctx.putO_r_pc (c : Ctx) (n : BitVec 3) (v : Word) : (c.putO n v).r.pc = c.r.pc := rfl
@[simp] theorem Ctx.putO_r_g (c : Ctx) (n : BitVec 3) (v : Word) : (c.putO n v).r.g = c.r.g := rfl
@[simp] theorem Ctx.putO_r_lat (c : Ctx) (n : BitVec 3) (v : Word) : (c.putO n v).r.lat = c.r.lat := rfl
@[simp] theorem Ctx.putO_r_v (c : Ctx) (n : BitVec 3) (v : Word) : (c.putO n v).r.v = c.r.v := rfl
@[simp] theorem Ctx.putO_r_vo (c : Ctx) (n : BitVec 3) (v : Word) : (c.putO n v).r.vo = c.r.vo := rfl
@[simp] theorem Ctx.putO_r_vlat (c : Ctx) (n : BitVec 3) (v : Word) : (c.putO n v).r.vlat = c.r.vlat := rfl
@[simp] theorem Ctx.putO_r_p (c : Ctx) (n : BitVec 3) (v : Word) : (c.putO n v).r.p = c.r.p := rfl
@[simp] theorem Ctx.putO_r_m (c : Ctx) (n : BitVec 3) (v : Word) : (c.putO n v).r.m = c.r.m := rfl
@[simp] theorem Ctx.putO_dirty_g (c : Ctx) (n : BitVec 3) (v : Word) : (c.putO n v).dirty.g = c.dirty.g := rfl
@[simp] theorem Ctx.putO_dirty_lat (c : Ctx) (n : BitVec 3) (v : Word) : (c.putO n v).dirty.lat = c.dirty.lat := rfl
@[simp] theorem Ctx.putO_dirty_v (c : Ctx) (n : BitVec 3) (v : Word) : (c.putO n v).dirty.v = c.dirty.v := rfl
@[simp] theorem Ctx.putO_dirty_vo (c : Ctx) (n : BitVec 3) (v : Word) : (c.putO n v).dirty.vo = c.dirty.vo := rfl
@[simp] theorem Ctx.putO_dirty_vlat (c : Ctx) (n : BitVec 3) (v : Word) : (c.putO n v).dirty.vlat = c.dirty.vlat := rfl
@[simp] theorem Ctx.putO_dirty_p (c : Ctx) (n : BitVec 3) (v : Word) : (c.putO n v).dirty.p = c.dirty.p := rfl
@[simp] theorem Ctx.putO_dirty_m (c : Ctx) (n : BitVec 3) (v : Word) : (c.putO n v).dirty.m = c.dirty.m := rfl
@[simp] theorem Ctx.putO_dirty_q (c : Ctx) (n : BitVec 3) (v : Word) : (c.putO n v).dirty.q = c.dirty.q := rfl

/-! `Ctx.setVLat`. -/

@[simp] theorem Ctx.setVLat_active (c : Ctx) (v : VWord) : (c.setVLat v).active = c.active := rfl
@[simp] theorem Ctx.setVLat_gen (c : Ctx) (v : VWord) : (c.setVLat v).gen = c.gen := rfl
@[simp] theorem Ctx.setVLat_slot (c : Ctx) (v : VWord) : (c.setVLat v).slot = c.slot := rfl
@[simp] theorem Ctx.setVLat_jtile (c : Ctx) (v : VWord) : (c.setVLat v).jtile = c.jtile := rfl
@[simp] theorem Ctx.setVLat_cls (c : Ctx) (v : VWord) : (c.setVLat v).cls = c.cls := rfl
@[simp] theorem Ctx.setVLat_handler (c : Ctx) (v : VWord) : (c.setVLat v).handler = c.handler := rfl
@[simp] theorem Ctx.setVLat_allot (c : Ctx) (v : VWord) : (c.setVLat v).allot = c.allot := rfl
@[simp] theorem Ctx.setVLat_csr (c : Ctx) (v : VWord) : (c.setVLat v).csr = c.csr := rfl
@[simp] theorem Ctx.setVLat_nest (c : Ctx) (v : VWord) : (c.setVLat v).nest = c.nest := rfl
@[simp] theorem Ctx.setVLat_q (c : Ctx) (v : VWord) : (c.setVLat v).q = c.q := rfl
@[simp] theorem Ctx.setVLat_aligns (c : Ctx) (v : VWord) : (c.setVLat v).aligns = c.aligns := rfl
@[simp] theorem Ctx.setVLat_view (c : Ctx) (v : VWord) : (c.setVLat v).view = c.view := rfl
@[simp] theorem Ctx.setVLat_hostWrote (c : Ctx) (v : VWord) : (c.setVLat v).hostWrote = c.hostWrote := rfl
@[simp] theorem Ctx.setVLat_src (c : Ctx) (v : VWord) : (c.setVLat v).src = c.src := rfl
@[simp] theorem Ctx.setVLat_ownsReply (c : Ctx) (v : VWord) : (c.setVLat v).ownsReply = c.ownsReply := rfl
@[simp] theorem Ctx.setVLat_replied (c : Ctx) (v : VWord) : (c.setVLat v).replied = c.replied := rfl
@[simp] theorem Ctx.setVLat_launch (c : Ctx) (v : VWord) : (c.setVLat v).launch = c.launch := rfl
@[simp] theorem Ctx.setVLat_stage (c : Ctx) (v : VWord) : (c.setVLat v).stage = c.stage := rfl
@[simp] theorem Ctx.setVLat_wait (c : Ctx) (v : VWord) : (c.setVLat v).wait = c.wait := rfl
@[simp] theorem Ctx.setVLat_pend (c : Ctx) (v : VWord) : (c.setVLat v).pend = c.pend := rfl
@[simp] theorem Ctx.setVLat_prog (c : Ctx) (v : VWord) : (c.setVLat v).prog = c.prog := rfl
@[simp] theorem Ctx.setVLat_kept (c : Ctx) (v : VWord) : (c.setVLat v).kept = c.kept := rfl
@[simp] theorem Ctx.setVLat_waited (c : Ctx) (v : VWord) : (c.setVLat v).waited = c.waited := rfl
@[simp] theorem Ctx.setVLat_reserved (c : Ctx) (v : VWord) : (c.setVLat v).reserved = c.reserved := rfl
@[simp] theorem Ctx.setVLat_fetched (c : Ctx) (v : VWord) : (c.setVLat v).fetched = c.fetched := rfl
@[simp] theorem Ctx.setVLat_wanted (c : Ctx) (v : VWord) : (c.setVLat v).wanted = c.wanted := rfl
@[simp] theorem Ctx.setVLat_r_pc (c : Ctx) (v : VWord) : (c.setVLat v).r.pc = c.r.pc := rfl
@[simp] theorem Ctx.setVLat_r_g (c : Ctx) (v : VWord) : (c.setVLat v).r.g = c.r.g := rfl
@[simp] theorem Ctx.setVLat_r_o (c : Ctx) (v : VWord) : (c.setVLat v).r.o = c.r.o := rfl
@[simp] theorem Ctx.setVLat_r_lat (c : Ctx) (v : VWord) : (c.setVLat v).r.lat = c.r.lat := rfl
@[simp] theorem Ctx.setVLat_r_v (c : Ctx) (v : VWord) : (c.setVLat v).r.v = c.r.v := rfl
@[simp] theorem Ctx.setVLat_r_vo (c : Ctx) (v : VWord) : (c.setVLat v).r.vo = c.r.vo := rfl
@[simp] theorem Ctx.setVLat_r_p (c : Ctx) (v : VWord) : (c.setVLat v).r.p = c.r.p := rfl
@[simp] theorem Ctx.setVLat_r_m (c : Ctx) (v : VWord) : (c.setVLat v).r.m = c.r.m := rfl
@[simp] theorem Ctx.setVLat_dirty_g (c : Ctx) (v : VWord) : (c.setVLat v).dirty.g = c.dirty.g := rfl
@[simp] theorem Ctx.setVLat_dirty_o (c : Ctx) (v : VWord) : (c.setVLat v).dirty.o = c.dirty.o := rfl
@[simp] theorem Ctx.setVLat_dirty_lat (c : Ctx) (v : VWord) : (c.setVLat v).dirty.lat = c.dirty.lat := rfl
@[simp] theorem Ctx.setVLat_dirty_v (c : Ctx) (v : VWord) : (c.setVLat v).dirty.v = c.dirty.v := rfl
@[simp] theorem Ctx.setVLat_dirty_vo (c : Ctx) (v : VWord) : (c.setVLat v).dirty.vo = c.dirty.vo := rfl
@[simp] theorem Ctx.setVLat_dirty_p (c : Ctx) (v : VWord) : (c.setVLat v).dirty.p = c.dirty.p := rfl
@[simp] theorem Ctx.setVLat_dirty_m (c : Ctx) (v : VWord) : (c.setVLat v).dirty.m = c.dirty.m := rfl
@[simp] theorem Ctx.setVLat_dirty_q (c : Ctx) (v : VWord) : (c.setVLat v).dirty.q = c.dirty.q := rfl

/-! `Ctx.putV`. -/

@[simp] theorem Ctx.putV_active (c : Ctx) (n : BitVec 5) (v : VWord) : (c.putV n v).active = c.active := rfl
@[simp] theorem Ctx.putV_gen (c : Ctx) (n : BitVec 5) (v : VWord) : (c.putV n v).gen = c.gen := rfl
@[simp] theorem Ctx.putV_slot (c : Ctx) (n : BitVec 5) (v : VWord) : (c.putV n v).slot = c.slot := rfl
@[simp] theorem Ctx.putV_jtile (c : Ctx) (n : BitVec 5) (v : VWord) : (c.putV n v).jtile = c.jtile := rfl
@[simp] theorem Ctx.putV_cls (c : Ctx) (n : BitVec 5) (v : VWord) : (c.putV n v).cls = c.cls := rfl
@[simp] theorem Ctx.putV_handler (c : Ctx) (n : BitVec 5) (v : VWord) : (c.putV n v).handler = c.handler := rfl
@[simp] theorem Ctx.putV_allot (c : Ctx) (n : BitVec 5) (v : VWord) : (c.putV n v).allot = c.allot := rfl
@[simp] theorem Ctx.putV_csr (c : Ctx) (n : BitVec 5) (v : VWord) : (c.putV n v).csr = c.csr := rfl
@[simp] theorem Ctx.putV_nest (c : Ctx) (n : BitVec 5) (v : VWord) : (c.putV n v).nest = c.nest := rfl
@[simp] theorem Ctx.putV_q (c : Ctx) (n : BitVec 5) (v : VWord) : (c.putV n v).q = c.q := rfl
@[simp] theorem Ctx.putV_aligns (c : Ctx) (n : BitVec 5) (v : VWord) : (c.putV n v).aligns = c.aligns := rfl
@[simp] theorem Ctx.putV_view (c : Ctx) (n : BitVec 5) (v : VWord) : (c.putV n v).view = c.view := rfl
@[simp] theorem Ctx.putV_hostWrote (c : Ctx) (n : BitVec 5) (v : VWord) : (c.putV n v).hostWrote = c.hostWrote := rfl
@[simp] theorem Ctx.putV_src (c : Ctx) (n : BitVec 5) (v : VWord) : (c.putV n v).src = c.src := rfl
@[simp] theorem Ctx.putV_ownsReply (c : Ctx) (n : BitVec 5) (v : VWord) : (c.putV n v).ownsReply = c.ownsReply := rfl
@[simp] theorem Ctx.putV_replied (c : Ctx) (n : BitVec 5) (v : VWord) : (c.putV n v).replied = c.replied := rfl
@[simp] theorem Ctx.putV_launch (c : Ctx) (n : BitVec 5) (v : VWord) : (c.putV n v).launch = c.launch := rfl
@[simp] theorem Ctx.putV_stage (c : Ctx) (n : BitVec 5) (v : VWord) : (c.putV n v).stage = c.stage := rfl
@[simp] theorem Ctx.putV_wait (c : Ctx) (n : BitVec 5) (v : VWord) : (c.putV n v).wait = c.wait := rfl
@[simp] theorem Ctx.putV_pend (c : Ctx) (n : BitVec 5) (v : VWord) : (c.putV n v).pend = c.pend := rfl
@[simp] theorem Ctx.putV_prog (c : Ctx) (n : BitVec 5) (v : VWord) : (c.putV n v).prog = c.prog := rfl
@[simp] theorem Ctx.putV_kept (c : Ctx) (n : BitVec 5) (v : VWord) : (c.putV n v).kept = c.kept := rfl
@[simp] theorem Ctx.putV_waited (c : Ctx) (n : BitVec 5) (v : VWord) : (c.putV n v).waited = c.waited := rfl
@[simp] theorem Ctx.putV_reserved (c : Ctx) (n : BitVec 5) (v : VWord) : (c.putV n v).reserved = c.reserved := rfl
@[simp] theorem Ctx.putV_fetched (c : Ctx) (n : BitVec 5) (v : VWord) : (c.putV n v).fetched = c.fetched := rfl
@[simp] theorem Ctx.putV_wanted (c : Ctx) (n : BitVec 5) (v : VWord) : (c.putV n v).wanted = c.wanted := rfl
@[simp] theorem Ctx.putV_r_pc (c : Ctx) (n : BitVec 5) (v : VWord) : (c.putV n v).r.pc = c.r.pc := rfl
@[simp] theorem Ctx.putV_r_g (c : Ctx) (n : BitVec 5) (v : VWord) : (c.putV n v).r.g = c.r.g := rfl
@[simp] theorem Ctx.putV_r_o (c : Ctx) (n : BitVec 5) (v : VWord) : (c.putV n v).r.o = c.r.o := rfl
@[simp] theorem Ctx.putV_r_lat (c : Ctx) (n : BitVec 5) (v : VWord) : (c.putV n v).r.lat = c.r.lat := rfl
@[simp] theorem Ctx.putV_r_vo (c : Ctx) (n : BitVec 5) (v : VWord) : (c.putV n v).r.vo = c.r.vo := rfl
@[simp] theorem Ctx.putV_r_vlat (c : Ctx) (n : BitVec 5) (v : VWord) : (c.putV n v).r.vlat = c.r.vlat := rfl
@[simp] theorem Ctx.putV_r_p (c : Ctx) (n : BitVec 5) (v : VWord) : (c.putV n v).r.p = c.r.p := rfl
@[simp] theorem Ctx.putV_r_m (c : Ctx) (n : BitVec 5) (v : VWord) : (c.putV n v).r.m = c.r.m := rfl
@[simp] theorem Ctx.putV_dirty_g (c : Ctx) (n : BitVec 5) (v : VWord) : (c.putV n v).dirty.g = c.dirty.g := rfl
@[simp] theorem Ctx.putV_dirty_o (c : Ctx) (n : BitVec 5) (v : VWord) : (c.putV n v).dirty.o = c.dirty.o := rfl
@[simp] theorem Ctx.putV_dirty_lat (c : Ctx) (n : BitVec 5) (v : VWord) : (c.putV n v).dirty.lat = c.dirty.lat := rfl
@[simp] theorem Ctx.putV_dirty_vo (c : Ctx) (n : BitVec 5) (v : VWord) : (c.putV n v).dirty.vo = c.dirty.vo := rfl
@[simp] theorem Ctx.putV_dirty_vlat (c : Ctx) (n : BitVec 5) (v : VWord) : (c.putV n v).dirty.vlat = c.dirty.vlat := rfl
@[simp] theorem Ctx.putV_dirty_p (c : Ctx) (n : BitVec 5) (v : VWord) : (c.putV n v).dirty.p = c.dirty.p := rfl
@[simp] theorem Ctx.putV_dirty_m (c : Ctx) (n : BitVec 5) (v : VWord) : (c.putV n v).dirty.m = c.dirty.m := rfl
@[simp] theorem Ctx.putV_dirty_q (c : Ctx) (n : BitVec 5) (v : VWord) : (c.putV n v).dirty.q = c.dirty.q := rfl

/-! `Ctx.putVO`. -/

@[simp] theorem Ctx.putVO_active (c : Ctx) (n : BitVec 2) (v : VWord) : (c.putVO n v).active = c.active := rfl
@[simp] theorem Ctx.putVO_gen (c : Ctx) (n : BitVec 2) (v : VWord) : (c.putVO n v).gen = c.gen := rfl
@[simp] theorem Ctx.putVO_slot (c : Ctx) (n : BitVec 2) (v : VWord) : (c.putVO n v).slot = c.slot := rfl
@[simp] theorem Ctx.putVO_jtile (c : Ctx) (n : BitVec 2) (v : VWord) : (c.putVO n v).jtile = c.jtile := rfl
@[simp] theorem Ctx.putVO_cls (c : Ctx) (n : BitVec 2) (v : VWord) : (c.putVO n v).cls = c.cls := rfl
@[simp] theorem Ctx.putVO_handler (c : Ctx) (n : BitVec 2) (v : VWord) : (c.putVO n v).handler = c.handler := rfl
@[simp] theorem Ctx.putVO_allot (c : Ctx) (n : BitVec 2) (v : VWord) : (c.putVO n v).allot = c.allot := rfl
@[simp] theorem Ctx.putVO_csr (c : Ctx) (n : BitVec 2) (v : VWord) : (c.putVO n v).csr = c.csr := rfl
@[simp] theorem Ctx.putVO_nest (c : Ctx) (n : BitVec 2) (v : VWord) : (c.putVO n v).nest = c.nest := rfl
@[simp] theorem Ctx.putVO_q (c : Ctx) (n : BitVec 2) (v : VWord) : (c.putVO n v).q = c.q := rfl
@[simp] theorem Ctx.putVO_aligns (c : Ctx) (n : BitVec 2) (v : VWord) : (c.putVO n v).aligns = c.aligns := rfl
@[simp] theorem Ctx.putVO_view (c : Ctx) (n : BitVec 2) (v : VWord) : (c.putVO n v).view = c.view := rfl
@[simp] theorem Ctx.putVO_hostWrote (c : Ctx) (n : BitVec 2) (v : VWord) : (c.putVO n v).hostWrote = c.hostWrote := rfl
@[simp] theorem Ctx.putVO_src (c : Ctx) (n : BitVec 2) (v : VWord) : (c.putVO n v).src = c.src := rfl
@[simp] theorem Ctx.putVO_ownsReply (c : Ctx) (n : BitVec 2) (v : VWord) : (c.putVO n v).ownsReply = c.ownsReply := rfl
@[simp] theorem Ctx.putVO_replied (c : Ctx) (n : BitVec 2) (v : VWord) : (c.putVO n v).replied = c.replied := rfl
@[simp] theorem Ctx.putVO_launch (c : Ctx) (n : BitVec 2) (v : VWord) : (c.putVO n v).launch = c.launch := rfl
@[simp] theorem Ctx.putVO_stage (c : Ctx) (n : BitVec 2) (v : VWord) : (c.putVO n v).stage = c.stage := rfl
@[simp] theorem Ctx.putVO_wait (c : Ctx) (n : BitVec 2) (v : VWord) : (c.putVO n v).wait = c.wait := rfl
@[simp] theorem Ctx.putVO_pend (c : Ctx) (n : BitVec 2) (v : VWord) : (c.putVO n v).pend = c.pend := rfl
@[simp] theorem Ctx.putVO_prog (c : Ctx) (n : BitVec 2) (v : VWord) : (c.putVO n v).prog = c.prog := rfl
@[simp] theorem Ctx.putVO_kept (c : Ctx) (n : BitVec 2) (v : VWord) : (c.putVO n v).kept = c.kept := rfl
@[simp] theorem Ctx.putVO_waited (c : Ctx) (n : BitVec 2) (v : VWord) : (c.putVO n v).waited = c.waited := rfl
@[simp] theorem Ctx.putVO_reserved (c : Ctx) (n : BitVec 2) (v : VWord) : (c.putVO n v).reserved = c.reserved := rfl
@[simp] theorem Ctx.putVO_fetched (c : Ctx) (n : BitVec 2) (v : VWord) : (c.putVO n v).fetched = c.fetched := rfl
@[simp] theorem Ctx.putVO_wanted (c : Ctx) (n : BitVec 2) (v : VWord) : (c.putVO n v).wanted = c.wanted := rfl
@[simp] theorem Ctx.putVO_r_pc (c : Ctx) (n : BitVec 2) (v : VWord) : (c.putVO n v).r.pc = c.r.pc := rfl
@[simp] theorem Ctx.putVO_r_g (c : Ctx) (n : BitVec 2) (v : VWord) : (c.putVO n v).r.g = c.r.g := rfl
@[simp] theorem Ctx.putVO_r_o (c : Ctx) (n : BitVec 2) (v : VWord) : (c.putVO n v).r.o = c.r.o := rfl
@[simp] theorem Ctx.putVO_r_lat (c : Ctx) (n : BitVec 2) (v : VWord) : (c.putVO n v).r.lat = c.r.lat := rfl
@[simp] theorem Ctx.putVO_r_v (c : Ctx) (n : BitVec 2) (v : VWord) : (c.putVO n v).r.v = c.r.v := rfl
@[simp] theorem Ctx.putVO_r_vlat (c : Ctx) (n : BitVec 2) (v : VWord) : (c.putVO n v).r.vlat = c.r.vlat := rfl
@[simp] theorem Ctx.putVO_r_p (c : Ctx) (n : BitVec 2) (v : VWord) : (c.putVO n v).r.p = c.r.p := rfl
@[simp] theorem Ctx.putVO_r_m (c : Ctx) (n : BitVec 2) (v : VWord) : (c.putVO n v).r.m = c.r.m := rfl
@[simp] theorem Ctx.putVO_dirty_g (c : Ctx) (n : BitVec 2) (v : VWord) : (c.putVO n v).dirty.g = c.dirty.g := rfl
@[simp] theorem Ctx.putVO_dirty_o (c : Ctx) (n : BitVec 2) (v : VWord) : (c.putVO n v).dirty.o = c.dirty.o := rfl
@[simp] theorem Ctx.putVO_dirty_lat (c : Ctx) (n : BitVec 2) (v : VWord) : (c.putVO n v).dirty.lat = c.dirty.lat := rfl
@[simp] theorem Ctx.putVO_dirty_v (c : Ctx) (n : BitVec 2) (v : VWord) : (c.putVO n v).dirty.v = c.dirty.v := rfl
@[simp] theorem Ctx.putVO_dirty_vlat (c : Ctx) (n : BitVec 2) (v : VWord) : (c.putVO n v).dirty.vlat = c.dirty.vlat := rfl
@[simp] theorem Ctx.putVO_dirty_p (c : Ctx) (n : BitVec 2) (v : VWord) : (c.putVO n v).dirty.p = c.dirty.p := rfl
@[simp] theorem Ctx.putVO_dirty_m (c : Ctx) (n : BitVec 2) (v : VWord) : (c.putVO n v).dirty.m = c.dirty.m := rfl
@[simp] theorem Ctx.putVO_dirty_q (c : Ctx) (n : BitVec 2) (v : VWord) : (c.putVO n v).dirty.q = c.dirty.q := rfl

/-! `Ctx.setQueue`. -/

@[simp] theorem Ctx.setQueue_active (c : Ctx) (n : BitVec 3) (q : Queue) : (c.setQueue n q).active = c.active := rfl
@[simp] theorem Ctx.setQueue_gen (c : Ctx) (n : BitVec 3) (q : Queue) : (c.setQueue n q).gen = c.gen := rfl
@[simp] theorem Ctx.setQueue_slot (c : Ctx) (n : BitVec 3) (q : Queue) : (c.setQueue n q).slot = c.slot := rfl
@[simp] theorem Ctx.setQueue_jtile (c : Ctx) (n : BitVec 3) (q : Queue) : (c.setQueue n q).jtile = c.jtile := rfl
@[simp] theorem Ctx.setQueue_cls (c : Ctx) (n : BitVec 3) (q : Queue) : (c.setQueue n q).cls = c.cls := rfl
@[simp] theorem Ctx.setQueue_handler (c : Ctx) (n : BitVec 3) (q : Queue) : (c.setQueue n q).handler = c.handler := rfl
@[simp] theorem Ctx.setQueue_allot (c : Ctx) (n : BitVec 3) (q : Queue) : (c.setQueue n q).allot = c.allot := rfl
@[simp] theorem Ctx.setQueue_r (c : Ctx) (n : BitVec 3) (q : Queue) : (c.setQueue n q).r = c.r := rfl
@[simp] theorem Ctx.setQueue_csr (c : Ctx) (n : BitVec 3) (q : Queue) : (c.setQueue n q).csr = c.csr := rfl
@[simp] theorem Ctx.setQueue_nest (c : Ctx) (n : BitVec 3) (q : Queue) : (c.setQueue n q).nest = c.nest := rfl
@[simp] theorem Ctx.setQueue_aligns (c : Ctx) (n : BitVec 3) (q : Queue) : (c.setQueue n q).aligns = c.aligns := rfl
@[simp] theorem Ctx.setQueue_view (c : Ctx) (n : BitVec 3) (q : Queue) : (c.setQueue n q).view = c.view := rfl
@[simp] theorem Ctx.setQueue_hostWrote (c : Ctx) (n : BitVec 3) (q : Queue) : (c.setQueue n q).hostWrote = c.hostWrote := rfl
@[simp] theorem Ctx.setQueue_src (c : Ctx) (n : BitVec 3) (q : Queue) : (c.setQueue n q).src = c.src := rfl
@[simp] theorem Ctx.setQueue_ownsReply (c : Ctx) (n : BitVec 3) (q : Queue) : (c.setQueue n q).ownsReply = c.ownsReply := rfl
@[simp] theorem Ctx.setQueue_replied (c : Ctx) (n : BitVec 3) (q : Queue) : (c.setQueue n q).replied = c.replied := rfl
@[simp] theorem Ctx.setQueue_launch (c : Ctx) (n : BitVec 3) (q : Queue) : (c.setQueue n q).launch = c.launch := rfl
@[simp] theorem Ctx.setQueue_stage (c : Ctx) (n : BitVec 3) (q : Queue) : (c.setQueue n q).stage = c.stage := rfl
@[simp] theorem Ctx.setQueue_wait (c : Ctx) (n : BitVec 3) (q : Queue) : (c.setQueue n q).wait = c.wait := rfl
@[simp] theorem Ctx.setQueue_pend (c : Ctx) (n : BitVec 3) (q : Queue) : (c.setQueue n q).pend = c.pend := rfl
@[simp] theorem Ctx.setQueue_prog (c : Ctx) (n : BitVec 3) (q : Queue) : (c.setQueue n q).prog = c.prog := rfl
@[simp] theorem Ctx.setQueue_kept (c : Ctx) (n : BitVec 3) (q : Queue) : (c.setQueue n q).kept = c.kept := rfl
@[simp] theorem Ctx.setQueue_waited (c : Ctx) (n : BitVec 3) (q : Queue) : (c.setQueue n q).waited = c.waited := rfl
@[simp] theorem Ctx.setQueue_reserved (c : Ctx) (n : BitVec 3) (q : Queue) : (c.setQueue n q).reserved = c.reserved := rfl
@[simp] theorem Ctx.setQueue_fetched (c : Ctx) (n : BitVec 3) (q : Queue) : (c.setQueue n q).fetched = c.fetched := rfl
@[simp] theorem Ctx.setQueue_wanted (c : Ctx) (n : BitVec 3) (q : Queue) : (c.setQueue n q).wanted = c.wanted := rfl

/-! Reading back. -/

@[simp] theorem State.tile_setTile_same (s : State) (n : Nat) (t : Tile) : (s.setTile n t).tile n = t := by
  simp [State.tile, State.setTile, aget_aset_same]

theorem State.tile_setTile_other (s : State) (n k : Nat) (t : Tile) (h : k ≠ n) : (s.setTile n t).tile k = s.tile k := by
  simp [State.tile, State.setTile, aget_aset_other _ _ _ _ h]

@[simp] theorem Tile.core_setCore_same (t : Tile) (n : Nat) (k : Core) : (t.setCore n k).core n = k := by
  simp [Tile.core, Tile.setCore, aget_aset_same]

theorem Tile.core_setCore_other (t : Tile) (n m : Nat) (k : Core) (h : m ≠ n) : (t.setCore n k).core m = t.core m := by
  simp [Tile.core, Tile.setCore, aget_aset_other _ _ _ _ h]

@[simp] theorem Core.ctx_setCtx_same (k : Core) (n : Nat) (x : Ctx) : (k.setCtx n x).ctx n = x := by
  simp [Core.ctx, Core.setCtx, aget_aset_same]

theorem Core.ctx_setCtx_other (k : Core) (n m : Nat) (x : Ctx) (h : m ≠ n) : (k.setCtx n x).ctx m = k.ctx m := by
  simp [Core.ctx, Core.setCtx, aget_aset_other _ _ _ _ h]

@[simp] theorem Core.job_setJob_same (k : Core) (n : Nat) (j : JobCore) : (k.setJob n j).job n = j := by
  simp [Core.job, Core.setJob, aget_aset_same]

@[simp] theorem State.slot_setSlot_same (s : State) (n : Nat) (j : Slot) : (s.setSlot n j).slot n = j := by
  simp [State.slot, State.setSlot, aget_aset_same]

theorem State.slot_setSlot_other (s : State) (n k : Nat) (j : Slot) (h : k ≠ n) : (s.setSlot n j).slot k = s.slot k := by
  simp [State.slot, State.setSlot, aget_aset_other _ _ _ _ h]

@[simp] theorem State.home_setHome_same (s : State) (n : Nat) (h : Home) : (s.setHome n h).home n = h := by
  simp [State.home, State.setHome, aget_aset_same]

/-- A slot does not depend on the tiles. -/
@[simp] theorem State.slot_setMe (s : State) (x : Ctx) (n : Nat) : (s.setMe x).slot n = s.slot n := rfl

/-- A home does not depend on the tiles. -/
@[simp] theorem State.home_setMe (s : State) (x : Ctx) (n : Nat) : (s.setMe x).home n = s.home n := rfl

@[simp] theorem State.core_setCore_same (s : State) (t c : Nat) (k : Core) : (s.setCore t c k).core t c = k := by
  simp [State.core, State.setCore]

/-- Another core is unchanged, on the same tile or on another one. -/
theorem State.core_setCore_other (s : State) (t c u d : Nat) (k : Core) (h : (u, d) ≠ (t, c)) :
    (s.setCore t c k).core u d = s.core u d := by
  unfold State.core State.setCore
  by_cases e : u = t
  · subst e
    have hd : d ≠ c := fun e => h (by rw [e])
    rw [State.tile_setTile_same, Tile.core_setCore_other _ _ _ _ hd]
  · rw [State.tile_setTile_other _ _ _ _ e]

@[simp] theorem State.ctx_setCtx_same (s : State) (i : CtxId) (x : Ctx) : (s.setCtx i x).ctx i = x := by
  simp [State.ctx, State.setCtx]

/-- Every other context is unchanged. -/
theorem State.ctx_setCtx_other (s : State) (i k : CtxId) (x : Ctx) (h : k ≠ i) : (s.setCtx i x).ctx k = s.ctx k := by
  unfold State.ctx State.setCtx
  by_cases e : (k.tile, k.core) = (i.tile, i.core)
  · obtain ⟨e1, e2⟩ := Prod.mk.inj e
    have hc : k.ctx ≠ i.ctx := by
      intro e3; apply h; cases k; cases i; simp_all
    rw [e1, e2, State.core_setCore_same, Core.ctx_setCtx_other _ _ _ _ hc]
  · rw [State.core_setCore_other _ _ _ _ _ _ e]

/-- The context that executes reads as it was replaced. -/
@[simp] theorem State.me_setMe (s : State) (x : Ctx) : (s.setMe x).me = x := by
  unfold State.me State.setMe
  exact State.ctx_setCtx_same s s.cur x

/-- Replacing the executing context leaves every other one alone. -/
theorem State.ctx_setMe_other (s : State) (k : CtxId) (x : Ctx) (h : k ≠ s.cur) : (s.setMe x).ctx k = s.ctx k :=
  State.ctx_setCtx_other s s.cur k x h

end Sys2Proof.Machine
end

