-- ==== Sys2Proof/Laws/Ops.lean ====
section
/-! SUPPORT. What each shared operation can do, said once: running an instruction, taking a trap, reading and writing
operands, and writing bytes. -/

namespace Sys2Proof.Machine

/-! Running an instruction (R24). -/

theorem runBranch_guard_false (g : Guard) (len : Nat) (s : State) (body : State → Except Stop State)
    (h : s.guard g = false) : runBranch g len s body = .next (s.advance len) := by simp [runBranch, h]

theorem runBranch_ok (g : Guard) (len : Nat) (s t : State) (body : State → Except Stop State)
    (h : s.guard g = true) (hb : body s = .ok t) : runBranch g len s body = .next t := by simp [runBranch, h, hb]

theorem runBranch_error (g : Guard) (len : Nat) (s : State) (e : Stop) (body : State → Except Stop State)
    (h : s.guard g = true) (hb : body s = .error e) : runBranch g len s body = .next (s.stopped len e) := by
  simp [runBranch, h, hb]

/-- A branch answers a next state in one of three ways. -/
theorem runBranch_cases (g : Guard) (len : Nat) (s : State) (body : State → Except Stop State) :
    (s.guard g = false ∧ runBranch g len s body = .next (s.advance len))
    ∨ (s.guard g = true ∧ ∃ t, body s = .ok t ∧ runBranch g len s body = .next t)
    ∨ (s.guard g = true ∧ ∃ e, body s = .error e ∧ runBranch g len s body = .next (s.stopped len e)) := by
  by_cases h : s.guard g = true
  · cases hb : body s with
    | ok t => exact .inr (.inl ⟨h, t, rfl, runBranch_ok g len s t body h hb⟩)
    | error e => exact .inr (.inr ⟨h, e, rfl, runBranch_error g len s e body h hb⟩)
  · have h' : s.guard g = false := by simpa using h
    exact .inl ⟨h', runBranch_guard_false g len s body h'⟩

theorem runInstr_guard_false (g : Guard) (len : Nat) (s : State) (body : State → Except Stop State)
    (h : s.guard g = false) : runInstr g len s body = .next (s.advance len) :=
  runBranch_guard_false g len s _ h

theorem runInstr_ok (g : Guard) (len : Nat) (s t : State) (body : State → Except Stop State)
    (h : s.guard g = true) (hb : body s = .ok t) :
    runInstr g len s body = .next ((t.setMe { t.me with wait := .none, kept := none, waited := [] }).advance len) :=
  runBranch_ok g len s _ _ h (by simp [hb, Except.map])

theorem runInstr_error (g : Guard) (len : Nat) (s : State) (e : Stop) (body : State → Except Stop State)
    (h : s.guard g = true) (hb : body s = .error e) : runInstr g len s body = .next (s.stopped len e) :=
  runBranch_error g len s e _ h (by simp [hb, Except.map])

/-- An instruction always answers a next state. -/
theorem runInstr_answers_next (g : Guard) (len : Nat) (s : State) (body : State → Except Stop State) :
    ∃ t, runInstr g len s body = .next t := by
  rcases runBranch_cases g len s (fun s => (body s).map (fun t => (t.setMe { t.me with wait := .none, kept := none, waited := [] }).advance len)) with
    ⟨-, h⟩ | ⟨-, t, -, h⟩ | ⟨-, e, -, h⟩
  · exact ⟨_, h⟩
  · exact ⟨t, h⟩
  · exact ⟨_, h⟩

theorem runEvent_enabled (s t : State) : runEvent s (some t) = .next t := rfl

theorem runEvent_disabled (s : State) : runEvent s none = .next s := rfl

/-! Flow and traps (R21, R22, R372). -/

/-- Within a page, sequential flow only moves the executing context. -/
theorem advance_within_page (s : State) (len : Nat)
    (h : (nextPc s.me.r.pc len).toNat / 65536 = s.me.r.pc.toNat / 65536) :
    s.advance len = s.setMe (s.me.flowTo s.time (nextPc s.me.r.pc len)) := by simp [State.advance, h]

theorem flowTo_pc (c : Ctx) (time : Nat) (p : Word) : (c.flowTo time p).r.pc = p := by
  unfold Ctx.flowTo; split <;> rfl

theorem jumpTo_pc (c : Ctx) (time : Nat) (p : Word) : (c.jumpTo time p).r.pc = p := rfl

theorem transferTo_legal (s : State) (t : Word) (h : s.targetBad s.me.slot s.me.allot s.inProg t = none) :
    s.transferTo t = s.setMe (s.me.jumpTo s.time t) := by simp [State.transferTo, h]

/-- Taking a trap goes to the handler or ends the activation, and nothing else. -/
theorem takeTrap_cases (s : State) (code : TrapCode) (src : Nat) (resume val : Word) :
    s.takeTrap code src resume val = s.trapEnding code.num src resume val
    ∨ (code ≠ .haltReq ∧ s.me.tvecOfs ≠ 0 ∧ s.me.inTrap = false ∧ s.cur.ctx ≠ 8
      ∧ s.targetBad s.me.slot s.me.allot false (s.mySlot.code + BitVec.ofNat 64 (s.me.tvecOfs * 4)) = none
      ∧ s.takeTrap code src resume val = s.setMe ({ s.me with
          csr := { s.me.csr with tcause := tcauseOf src code.num, tepc := resume, tval := val }, wait := .none, kept := none, waited := [] }.jumpTo s.time
          (s.mySlot.code + BitVec.ofNat 64 (s.me.tvecOfs * 4)))) := by
  unfold State.takeTrap
  simp only
  split
  · exact .inl rfl
  · rename_i h
    simp only [Bool.or_eq_true, decide_eq_true_eq, beq_iff_eq, not_or, Bool.not_eq_true, Option.isSome_eq_false_iff,
      Option.isNone_iff_eq_none] at h
    exact .inr ⟨h.1.1.1.1, h.1.1.1.2, h.1.1.2, h.1.2, h.2, rfl⟩

/-! Registers. -/

@[simp] theorem Regs.getG_setG_same (r : Regs) (n : BitVec 6) (v : Word) : (r.setG n v).getG n = v := by
  simp [Regs.getG, Regs.setG]

theorem Regs.getG_setG_other (r : Regs) (n k : BitVec 6) (v : Word) (h : k ≠ n) : (r.setG n v).getG k = r.getG k := by
  have : n.toNat ≠ k.toNat := fun e => h (BitVec.eq_of_toNat_eq e.symm)
  simp [Regs.getG, Regs.setG, this]

@[simp] theorem Regs.getO_setO_same (r : Regs) (n : BitVec 3) (v : Word) : (r.setO n v).getO n = v := by
  simp [Regs.getO, Regs.setO]

theorem Regs.getO_setO_other (r : Regs) (n k : BitVec 3) (v : Word) (h : k ≠ n) : (r.setO n v).getO k = r.getO k := by
  have : n.toNat ≠ k.toNat := fun e => h (BitVec.eq_of_toNat_eq e.symm)
  simp [Regs.getO, Regs.setO, this]

@[simp] theorem Regs.getV_setV_same (r : Regs) (n : BitVec 5) (v : VWord) : (r.setV n v).getV n = v := by
  simp [Regs.getV, Regs.setV]

theorem Regs.getV_setV_other (r : Regs) (n k : BitVec 5) (v : VWord) (h : k ≠ n) : (r.setV n v).getV k = r.getV k := by
  have : n.toNat ≠ k.toNat := fun e => h (BitVec.eq_of_toNat_eq e.symm)
  simp [Regs.getV, Regs.setV, this]

@[simp] theorem Regs.getM_setM_same (r : Regs) (n : BitVec 3) (v : BitVec 32) : (r.setM n v).getM n = v := by
  simp [Regs.getM, Regs.setM]

/-! Operands (R34, R35, R79, R82, R84). -/

/-- A source that is no queue reads without any effect. -/
theorem readS_keeps_state (s s1 : State) (a : SSrc) (v : Word) (hq : ∀ n, a ≠ .q n) (h : s.readS a = .ok (v, s1)) :
    s1 = s := by
  cases a <;> simp_all [State.readS]

/-- A queue pop takes the oldest entry of the executing context. -/
theorem popQ_ok (s s1 : State) (n : BitVec 3) (v : Word) (h : s.popQ n = .ok (v, s1)) :
    ∃ t, (s.me.queue n).items = v :: t ∧ s1 = s.popItem n t := by
  unfold State.popQ at h
  simp only at h
  split at h
  · cases h
  · split at h
    · cases h
    · rename_i x t hx
      simp only [Except.ok.injEq, Prod.mk.injEq] at h
      exact ⟨t, h.1 ▸ hx, h.2.symm⟩

/-- A destination that is ready is no queue, or one that the running agent may push and that has room. -/
theorem dstReady_ok (s : State) (d : SDst) (h : s.dstReady d = .ok ()) :
    ∀ n, d = .q n → (s.me.queue n).hasRoom = true ∧ s.mayPush n = true := by
  rintro n rfl
  simp only [State.dstReady] at h
  split at h
  · cases h
  · rename_i hp
    simp only [Bool.or_eq_true, Bool.not_eq_true', not_or, Bool.not_eq_false] at hp
    refine ⟨?_, hp.2⟩
    unfold ready at h
    split at h
    · assumption
    · cases h

/-- A push appends behind the newest entry of the executing context, of a queue that is ready. -/
theorem pushQ_ok (s s1 : State) (n : BitVec 3) (v : Word) (h : s.pushQ n v = .ok s1) :
    s.dstReady (.q n) = .ok () ∧ s1 = s.pushItem n v := by
  unfold State.pushQ at h
  cases hd : s.dstReady (.q n) with
  | error e => simp [hd, Bind.bind, Except.bind] at h
  | ok u => simp only [hd, Bind.bind, Except.bind, Except.ok.injEq] at h; exact ⟨rfl, h.symm⟩

theorem writeS_g (s : State) (n : BitVec 6) (v : Word) : s.writeS (.g n) v = .ok (s.setMe ((s.me.putG n v).setLat v)) := rfl

theorem writeS_o (s : State) (n : BitVec 3) (v : Word) : s.writeS (.o n) v = .ok (s.setMe ((s.me.putO n v).setLat v)) := rfl

theorem writeS_zr (s : State) (v : Word) : s.writeS .zr v = .ok (s.setMe (s.me.setLat v)) := rfl

/-- A write to p0 is discarded (R84). -/
@[simp] theorem writeP_zero (s : State) (b : Bool) : s.writeP 0 b = s := by simp [State.writeP]

/-- The base, the scaled index and the displacement, the base read first (R30). -/
theorem memEa_ok (s s1 s2 : State) (m : MemOp) (b i : Word) (hb : s.readS m.base = .ok (b, s1))
    (hi : s1.readS m.index = .ok (i, s2)) :
    s.memEa m = .ok (b + i <<< m.scl.toNat + m.disp.signExtend 64, s2) := by
  simp [State.memEa, hb, hi, Bind.bind, Except.bind]

/-! Writing bytes. -/

/-- A slice of the LLC holds no bytes of its own: passing a sector through it leaves device memory alone. -/
@[simp] theorem touchSector_mem (s : State) (asid va : Nat) (m : BitVec 1024) : (s.touchSector asid va m).mem = s.mem := rfl

/-- Writing at a location keeps device memory canonical. -/
theorem writeLoc_mem_wf (s : State) (l : Loc) (b : Byte) (h : Memory.wf s.mem = true) :
    Memory.wf (s.writeLoc l b).mem = true := by
  cases l <;> simp only [State.writeLoc, State.setTile, State.setSlot, touchSector_mem, h]
  all_goals exact wf_memSet _ _ _ h

/-- Writing at locations keeps device memory canonical. -/
theorem writeLocs_mem_wf (s : State) (l : List (Loc × Byte)) (h : Memory.wf s.mem = true) :
    Memory.wf (s.writeLocs l).mem = true := by
  induction l generalizing s with
  | nil => exact h
  | cons p t ih => exact ih _ (writeLoc_mem_wf s p.1 p.2 h)

/-- Comparing the watches leaves device memory alone. -/
@[simp] theorem respond_mem (s : State) : s.respond.mem = s.mem := by
  unfold State.respond
  simp only
  generalize (s.tiles.flatMap _).filterMap _ = l
  suffices H : ∀ u : State, (l.foldl (fun (t : State) d =>
      t.setCtx d.1 { t.ctx d.1 with wait := .answered d.2.1 d.2.2 }) u).mem = u.mem from H _
  induction l with
  | nil => intro u; rfl
  | cons d t ih => intro u; exact ih _

/-- A store keeps device memory canonical. -/
theorem store_mem_wf (s : State) (l : List (Loc × Byte)) (h : Memory.wf s.mem = true) :
    Memory.wf (s.store l).mem = true := by
  simpa [State.store] using writeLocs_mem_wf s l h

/-! The record (R191 to R211). -/

/-- Where no record is kept, a write of an agent is a store, and it makes no events. -/
theorem writeAs_inOrder (s : State) (a : Attr) (kind : EventKind) (v : Seen) (pass : Passing) (cs : List (Nat × Nat))
    (accs : List (List (List (Loc × Byte)))) (h : s.record.keep = false) :
    s.writeAs a kind v pass cs accs = ([], s.store accs.flatten.flatten) := by simp [State.writeAs, h]

/-- Where no record is kept, a read of an agent returns what lies there. -/
theorem readAs_inOrder (s : State) (a : Attr) (v : Seen) (units : List (List Loc)) (h : s.record.keep = false) :
    s.readAs a v units = (units.flatten.map s.readLoc, [], s.touchReads units.flatten) := by simp [State.readAs, h]

/-- One unit of a write keeps device memory canonical. -/
theorem emit_mem_wf (s : State) (a : Attr) (kind : EventKind) (v : Seen) (pass : Passing) (whole choice : Nat)
    (unit : List (Loc × Byte)) (h : Memory.wf s.mem = true) :
    Memory.wf (s.emit a kind v pass whole choice unit).2.mem = true :=
  writeLocs_mem_wf s _ h

/-- The units of one access keep device memory canonical. -/
theorem emitUnits_mem_wf (a : Attr) (kind : EventKind) (pass : Passing) (whole : Nat) (units : List (List (Loc × Byte))) :
    ∀ (s : State) (v : Seen) (cs : List (Nat × Nat)), Memory.wf s.mem = true →
      Memory.wf (s.emitUnits a kind v pass whole cs units).2.mem = true := by
  induction units with
  | nil => intro s v cs h; simpa [State.emitUnits] using h
  | cons u t ih => intro s v cs h; exact ih _ _ _ (emit_mem_wf s a kind v pass whole _ u h)

/-- The accesses of a write keep device memory canonical. -/
theorem emitAll_mem_wf (a : Attr) (kind : EventKind) (pass : Passing) (accs : List (List (List (Loc × Byte)))) :
    ∀ (s : State) (v : Seen) (cs : List (Nat × Nat)), Memory.wf s.mem = true →
      Memory.wf (s.emitAll a kind v pass cs accs).2.mem = true := by
  induction accs with
  | nil => intro s v cs h; simpa [State.emitAll] using h
  | cons u t ih => intro s v cs h; exact ih _ _ _ (emitUnits_mem_wf a kind pass _ u s v cs h)

/-- A write of an agent keeps device memory canonical. -/
theorem writeAs_mem_wf (s : State) (a : Attr) (kind : EventKind) (v : Seen) (pass : Passing) (cs : List (Nat × Nat))
    (accs : List (List (List (Loc × Byte)))) (h : Memory.wf s.mem = true) :
    Memory.wf (s.writeAs a kind v pass cs accs).2.mem = true := by
  unfold State.writeAs
  split
  · exact store_mem_wf s _ h
  · simpa using emitAll_mem_wf a kind pass accs s v cs h

end Sys2Proof.Machine
end

