-- ==== Sys2Proof/Laws/PerInstr.lean ====
section
/-! SUPPORT. One statement for each instruction as syntax: every instruction but an event has an encoding, and an event has
neither a guard nor an encoding (R20, R24). -/

namespace Sys2Proof.Laws.Encodes

/-- An encoding exists exactly for what is no event. -/
def Statement (i : Instr) : Prop := i.enc.isSome = i.guard?.isSome

theorem nop (g : Guard) (hdr : Option (BitVec 6)) : Statement (.nop g hdr) := by
  cases hdr <;> rfl

theorem brk (g : Guard) (code : BitVec 16) : Statement (.brk g code) := by
  rfl

theorem br (g : Guard) (neg : Bool) (p : BitVec 3) (ofs : BitVec 34) : Statement (.br g neg p ofs) := by
  rfl

theorem jmp (g : Guard) (ofs : BitVec 34) : Statement (.jmp g ofs) := by
  rfl

theorem call (g : Guard) (link : BitVec 6) (ofs : BitVec 34) : Statement (.call g link ofs) := by
  rfl

theorem jr (g : Guard) (a : SSrc) : Statement (.jr g a) := by
  rfl

theorem callr (g : Guard) (link : BitVec 6) (a : SSrc) : Statement (.callr g link a) := by
  rfl

theorem ret (g : Guard) (a : SSrc) : Statement (.ret g a) := by
  rfl

theorem plog (g : Guard) (pd pa pb : BitVec 3) (tt : BitVec 4) : Statement (.plog g pd pa pb tt) := by
  rfl

theorem pmov (g : Guard) (n : BitVec 3) (f : PmovForm) : Statement (.pmov g n f) := by
  cases f <;> rfl

theorem nest (g : Guard) (ps : BitVec 3) (a b c : SSrc) (stp : BitVec 32) : Statement (.nest g ps a b c stp) := by
  rfl

theorem iter (g : Guard) (ofs : BitVec 34) : Statement (.iter g ofs) := by
  rfl

theorem align (g : Guard) (k : BitVec 4) : Statement (.align g k) := by
  rfl

theorem alignTimeout (tile core ctx : Nat) : Statement (.alignTimeout tile core ctx) := by
  rfl

theorem done (g : Guard) : Statement (.done g) := by
  rfl

theorem doneComplete (tile core ctx : Nat) : Statement (.doneComplete tile core ctx) := by
  rfl

theorem who (g : Guard) (d : SDst) (sel : BitVec 2) : Statement (.who g d sel) := by
  rfl

theorem li (g : Guard) (d : SDst) (imm : BitVec 64) : Statement (.li g d imm) := by
  rfl

theorem mov (g : Guard) (d : SDst) (a : SSrc) : Statement (.mov g d a) := by
  rfl

theorem add (g : Guard) (ty : IntTy) (d : SDst) (a b : SSrc) : Statement (.add g ty d a b) := by
  rfl

theorem addi (g : Guard) (d : SDst) (a : SSrc) (imm : BitVec 28) : Statement (.addi g d a imm) := by
  rfl

theorem sub (g : Guard) (ty : IntTy) (d : SDst) (a b : SSrc) : Statement (.sub g ty d a b) := by
  rfl

theorem mul (g : Guard) (ty : IntTy) (d : SDst) (a b : SSrc) : Statement (.mul g ty d a b) := by
  rfl

theorem muli (g : Guard) (d : SDst) (a : SSrc) (imm : BitVec 28) : Statement (.muli g d a imm) := by
  rfl

theorem mulh (g : Guard) (ty : IntTy) (d : SDst) (a b : SSrc) : Statement (.mulh g ty d a b) := by
  rfl

theorem div (g : Guard) (ty : IntTy) (d : SDst) (a b : SSrc) : Statement (.div g ty d a b) := by
  rfl

theorem rem (g : Guard) (ty : IntTy) (d : SDst) (a b : SSrc) : Statement (.rem g ty d a b) := by
  rfl

theorem and (g : Guard) (ty : IntTy) (d : SDst) (a b : SSrc) : Statement (.and g ty d a b) := by
  rfl

theorem andi (g : Guard) (d : SDst) (a : SSrc) (imm : BitVec 28) : Statement (.andi g d a imm) := by
  rfl

theorem or (g : Guard) (ty : IntTy) (d : SDst) (a b : SSrc) : Statement (.or g ty d a b) := by
  rfl

theorem ori (g : Guard) (d : SDst) (a : SSrc) (imm : BitVec 28) : Statement (.ori g d a imm) := by
  rfl

theorem xor (g : Guard) (ty : IntTy) (d : SDst) (a b : SSrc) : Statement (.xor g ty d a b) := by
  rfl

theorem xori (g : Guard) (d : SDst) (a : SSrc) (imm : BitVec 28) : Statement (.xori g d a imm) := by
  rfl

theorem andn (g : Guard) (ty : IntTy) (d : SDst) (a b : SSrc) : Statement (.andn g ty d a b) := by
  rfl

theorem shl (g : Guard) (ty : IntTy) (d : SDst) (a b : SSrc) : Statement (.shl g ty d a b) := by
  rfl

theorem shli (g : Guard) (d : SDst) (a : SSrc) (imm : BitVec 28) : Statement (.shli g d a imm) := by
  rfl

theorem shr (g : Guard) (ty : IntTy) (d : SDst) (a b : SSrc) : Statement (.shr g ty d a b) := by
  rfl

theorem shri (g : Guard) (d : SDst) (a : SSrc) (imm : BitVec 28) : Statement (.shri g d a imm) := by
  rfl

theorem sar (g : Guard) (ty : IntTy) (d : SDst) (a b : SSrc) : Statement (.sar g ty d a b) := by
  rfl

theorem sari (g : Guard) (d : SDst) (a : SSrc) (imm : BitVec 28) : Statement (.sari g d a imm) := by
  rfl

theorem rol (g : Guard) (ty : IntTy) (d : SDst) (a b : SSrc) : Statement (.rol g ty d a b) := by
  rfl

theorem roli (g : Guard) (d : SDst) (a : SSrc) (imm : BitVec 28) : Statement (.roli g d a imm) := by
  rfl

theorem min (g : Guard) (ty : IntTy) (d : SDst) (a b : SSrc) : Statement (.min g ty d a b) := by
  rfl

theorem max (g : Guard) (ty : IntTy) (d : SDst) (a b : SSrc) : Statement (.max g ty d a b) := by
  rfl

theorem abs (g : Guard) (ty : IntTy) (d : SDst) (a : SSrc) : Statement (.abs g ty d a) := by
  rfl

theorem neg (g : Guard) (ty : IntTy) (d : SDst) (a : SSrc) : Statement (.neg g ty d a) := by
  rfl

theorem sel (g : Guard) (n : BitVec 3) (d : SDst) (a b : SSrc) : Statement (.sel g n d a b) := by
  rfl

theorem cmp (g : Guard) (ty : IntTy) (cc : ICond) (pd : BitVec 3) (a b : SSrc) : Statement (.cmp g ty cc pd a b) := by
  rfl

theorem cmpi (g : Guard) (cc : ICond) (pd : BitVec 3) (a : SSrc) (imm : BitVec 28) : Statement (.cmpi g cc pd a imm) := by
  rfl

theorem clz (g : Guard) (ty : IntTy) (d : SDst) (a : SSrc) : Statement (.clz g ty d a) := by
  rfl

theorem ctz (g : Guard) (ty : IntTy) (d : SDst) (a : SSrc) : Statement (.ctz g ty d a) := by
  rfl

theorem popc (g : Guard) (ty : IntTy) (d : SDst) (a : SSrc) : Statement (.popc g ty d a) := by
  rfl

theorem brev (g : Guard) (ty : IntTy) (d : SDst) (a : SSrc) : Statement (.brev g ty d a) := by
  rfl

theorem bfx (g : Guard) (signed : Bool) (d : SDst) (a : SSrc) (pos lm1 : BitVec 6) : Statement (.bfx g signed d a pos lm1) := by
  rfl

theorem bfi (g : Guard) (d : SDst) (a b : SSrc) (pos lm1 : BitVec 6) : Statement (.bfi g d a b pos lm1) := by
  rfl

theorem ext (g : Guard) (ty : IntTy) (d : SDst) (a : SSrc) : Statement (.ext g ty d a) := by
  rfl

theorem lea (g : Guard) (d : SDst) (a b : SSrc) (scl : BitVec 2) (disp : BitVec 15) : Statement (.lea g d a b scl disp) := by
  rfl

theorem fadd (g : Guard) (ty : FTy) (rm : RMode) (d : SDst) (a b : SSrc) : Statement (.fadd g ty rm d a b) := by
  rfl

theorem fsub (g : Guard) (ty : FTy) (rm : RMode) (d : SDst) (a b : SSrc) : Statement (.fsub g ty rm d a b) := by
  rfl

theorem fmul (g : Guard) (ty : FTy) (rm : RMode) (d : SDst) (a b : SSrc) : Statement (.fmul g ty rm d a b) := by
  rfl

theorem fma (g : Guard) (ty : FTy) (rm : RMode) (d : SDst) (a b c : SSrc) : Statement (.fma g ty rm d a b c) := by
  rfl

theorem fdiv (g : Guard) (ty : FTy) (rm : RMode) (d : SDst) (a b : SSrc) : Statement (.fdiv g ty rm d a b) := by
  rfl

theorem fsqrt (g : Guard) (ty : FTy) (rm : RMode) (d : SDst) (a : SSrc) : Statement (.fsqrt g ty rm d a) := by
  rfl

theorem frcp (g : Guard) (ty : FTy) (rm : RMode) (d : SDst) (a : SSrc) : Statement (.frcp g ty rm d a) := by
  rfl

theorem frsq (g : Guard) (ty : FTy) (rm : RMode) (d : SDst) (a : SSrc) : Statement (.frsq g ty rm d a) := by
  rfl

theorem fmin (g : Guard) (ty : FTy) (d : SDst) (a b : SSrc) : Statement (.fmin g ty d a b) := by
  rfl

theorem fmax (g : Guard) (ty : FTy) (d : SDst) (a b : SSrc) : Statement (.fmax g ty d a b) := by
  rfl

theorem fabs (g : Guard) (ty : FpTy) (d : SDst) (a : SSrc) : Statement (.fabs g ty d a) := by
  rfl

theorem fneg (g : Guard) (ty : FpTy) (d : SDst) (a : SSrc) : Statement (.fneg g ty d a) := by
  rfl

theorem fcmp (g : Guard) (ty : FTy) (cc : FCond) (pd : BitVec 3) (a b : SSrc) : Statement (.fcmp g ty cc pd a b) := by
  rfl

theorem fclass (g : Guard) (ty : FpTy) (d : SDst) (a : SSrc) : Statement (.fclass g ty d a) := by
  rfl

theorem fcvt (g : Guard) (ty dty : ElemTy) (rm : RMode) (d : SDst) (a : SSrc) : Statement (.fcvt g ty dty rm d a) := by
  rfl

theorem faddi (g : Guard) (d : SDst) (a : SSrc) (imm : BitVec 16) : Statement (.faddi g d a imm) := by
  rfl

theorem fmuli (g : Guard) (d : SDst) (a : SSrc) (imm : BitVec 16) : Statement (.fmuli g d a imm) := by
  rfl

theorem vadd (g : Guard) (ty : IntTy) (c : VCtl) (d : VDst) (a b : VSrc) : Statement (.vadd g ty c d a b) := by
  rfl

theorem vsub (g : Guard) (ty : IntTy) (c : VCtl) (d : VDst) (a b : VSrc) : Statement (.vsub g ty c d a b) := by
  rfl

theorem vmul (g : Guard) (ty : IntTy) (c : VCtl) (d : VDst) (a b : VSrc) : Statement (.vmul g ty c d a b) := by
  rfl

theorem vmad (g : Guard) (ty : IntTy) (c : VCtl) (d : VDst) (a b x : VSrc) : Statement (.vmad g ty c d a b x) := by
  rfl

theorem vmin (g : Guard) (ty : IntTy) (c : VCtl) (d : VDst) (a b : VSrc) : Statement (.vmin g ty c d a b) := by
  rfl

theorem vmax (g : Guard) (ty : IntTy) (c : VCtl) (d : VDst) (a b : VSrc) : Statement (.vmax g ty c d a b) := by
  rfl

theorem vabs (g : Guard) (ty : IntTy) (c : VCtl) (d : VDst) (a : VSrc) : Statement (.vabs g ty c d a) := by
  rfl

theorem vneg (g : Guard) (ty : IntTy) (c : VCtl) (d : VDst) (a : VSrc) : Statement (.vneg g ty c d a) := by
  rfl

theorem vand (g : Guard) (ty : IntTy) (c : VCtl) (d : VDst) (a b : VSrc) : Statement (.vand g ty c d a b) := by
  rfl

theorem vor (g : Guard) (ty : IntTy) (c : VCtl) (d : VDst) (a b : VSrc) : Statement (.vor g ty c d a b) := by
  rfl

theorem vxor (g : Guard) (ty : IntTy) (c : VCtl) (d : VDst) (a b : VSrc) : Statement (.vxor g ty c d a b) := by
  rfl

theorem vshl (g : Guard) (ty : IntTy) (c : VCtl) (d : VDst) (a b : VSrc) : Statement (.vshl g ty c d a b) := by
  rfl

theorem vshr (g : Guard) (ty : IntTy) (c : VCtl) (d : VDst) (a b : VSrc) : Statement (.vshr g ty c d a b) := by
  rfl

theorem vsar (g : Guard) (ty : IntTy) (c : VCtl) (d : VDst) (a b : VSrc) : Statement (.vsar g ty c d a b) := by
  rfl

theorem vcmp (g : Guard) (signed : Bool) (c : VCtl) (cc : ICond) (md : BitVec 3) (a b : VSrc) : Statement (.vcmp g signed c cc md a b) := by
  rfl

theorem vsel (g : Guard) (mk : BitVec 3) (d : VDst) (a b : VSrc) : Statement (.vsel g mk d a b) := by
  rfl

theorem vaddi (g : Guard) (d : VDst) (a : VSrc) (imm : BitVec 28) : Statement (.vaddi g d a imm) := by
  rfl

theorem vred (g : Guard) (ty : IntTy) (op : RedOp) (c : VCtl) (d : SDst) (a : VSrc) : Statement (.vred g ty op c d a) := by
  rfl

theorem vscan (g : Guard) (ty : IntTy) (op : RedOp) (c : VCtl) (d : VDst) (a : VSrc) : Statement (.vscan g ty op c d a) := by
  rfl

theorem vperm (g : Guard) (ty : IntTy) (c : VCtl) (d : VDst) (a b x : VSrc) : Statement (.vperm g ty c d a b x) := by
  rfl

theorem vbcast (g : Guard) (ty : IntTy) (c : VCtl) (d : VDst) (a : SSrc) : Statement (.vbcast g ty c d a) := by
  rfl

theorem vextr (g : Guard) (ty : IntTy) (d : SDst) (a : VSrc) (b : SSrc) : Statement (.vextr g ty d a b) := by
  rfl

theorem vins (g : Guard) (ty : IntTy) (d : VDst) (a b : SSrc) : Statement (.vins g ty d a b) := by
  rfl

theorem vmov (g : Guard) (c : VCtl) (d : VDst) (a : VSrc) : Statement (.vmov g c d a) := by
  rfl

theorem vmovFromIndex (g : Guard) (d : VDst) (b : SSrc) : Statement (.vmovFromIndex g d b) := by
  rfl

theorem vmovToIndex (g : Guard) (a : VSrc) (b : SSrc) : Statement (.vmovToIndex g a b) := by
  rfl

theorem vmpop (g : Guard) (d : SDst) (n : BitVec 3) (first : Bool) : Statement (.vmpop g d n first) := by
  rfl

theorem vmlog (g : Guard) (md ma mb : BitVec 3) (tt : BitVec 4) : Statement (.vmlog g md ma mb tt) := by
  rfl

theorem vfadd (g : Guard) (ty : FTy) (rm : RMode) (c : VCtl) (d : VDst) (a b : VSrc) : Statement (.vfadd g ty rm c d a b) := by
  rfl

theorem vfsub (g : Guard) (ty : FTy) (rm : RMode) (c : VCtl) (d : VDst) (a b : VSrc) : Statement (.vfsub g ty rm c d a b) := by
  rfl

theorem vfmul (g : Guard) (ty : FTy) (rm : RMode) (c : VCtl) (d : VDst) (a b : VSrc) : Statement (.vfmul g ty rm c d a b) := by
  rfl

theorem vfma (g : Guard) (ty : FTy) (rm : RMode) (c : VCtl) (d : VDst) (a b x : VSrc) : Statement (.vfma g ty rm c d a b x) := by
  rfl

theorem vfmin (g : Guard) (ty : FTy) (c : VCtl) (d : VDst) (a b : VSrc) : Statement (.vfmin g ty c d a b) := by
  rfl

theorem vfmax (g : Guard) (ty : FTy) (c : VCtl) (d : VDst) (a b : VSrc) : Statement (.vfmax g ty c d a b) := by
  rfl

theorem vfabs (g : Guard) (ty : FpTy) (inv : Bool) (c : VCtl) (d : VDst) (a : VSrc) : Statement (.vfabs g ty inv c d a) := by
  rfl

theorem vfcmp (g : Guard) (ty : FTy) (c : VCtl) (cc : FCond) (md : BitVec 3) (a b : VSrc) : Statement (.vfcmp g ty c cc md a b) := by
  rfl

theorem vfcvt (g : Guard) (ty dty : ElemTy) (part : BitVec 3) (rm : RMode) (c : VCtl) (d : VDst) (a : VSrc) (row : SSrc) : Statement (.vfcvt g ty dty part rm c d a row) := by
  rfl

theorem vexp2 (g : Guard) (rm : RMode) (c : VCtl) (d : VDst) (a : VSrc) : Statement (.vexp2 g rm c d a) := by
  rfl

theorem vlog2 (g : Guard) (rm : RMode) (c : VCtl) (d : VDst) (a : VSrc) : Statement (.vlog2 g rm c d a) := by
  rfl

theorem vrcp (g : Guard) (rm : RMode) (c : VCtl) (d : VDst) (a : VSrc) : Statement (.vrcp g rm c d a) := by
  rfl

theorem vrsq (g : Guard) (rm : RMode) (c : VCtl) (d : VDst) (a : VSrc) : Statement (.vrsq g rm c d a) := by
  rfl

theorem vfred (g : Guard) (ty : FTy) (op : FRedOp) (rm : RMode) (c : VCtl) (d : SDst) (a : VSrc) : Statement (.vfred g ty op rm c d a) := by
  rfl

theorem wclr (g : Guard) (a : SSrc) : Statement (.wclr g a) := by
  rfl

theorem wadd (g : Guard) (ty : FTy) (m : MemOp) (c : SSrc) : Statement (.wadd g ty m c) := by
  rfl

theorem wrd (g : Guard) (ty : FTy) (rm : RMode) (d : SDst) (a : SSrc) : Statement (.wrd g ty rm d a) := by
  rfl

theorem wideUpdate (tile : Nat) : Statement (.wideUpdate tile) := by
  rfl

theorem rng (g : Guard) (c : VCtl) (d : VDst) : Statement (.rng g c d) := by
  rfl

theorem ld (g : Guard) (sz : Size) (o : Bool) (ord : MemOrd) (rep : Bool) (scope : BitVec 5) (sx : Bool) (d : SDst) (m : MemOp) : Statement (.ld g sz o ord rep scope sx d m) := by
  rfl

theorem st (g : Guard) (sz : Size) (o : Bool) (ord : MemOrd) (scope : BitVec 5) (m : MemOp) (c : SSrc) : Statement (.st g sz o ord scope m c) := by
  rfl

theorem vld (g : Guard) (sz : Size) (o : Bool) (acq rep : Bool) (scope : BitVec 5) (c : VCtl) (d : VDst) (m : MemOp) : Statement (.vld g sz o acq rep scope c d m) := by
  rfl

theorem vst (g : Guard) (sz : Size) (o : Bool) (rel : Bool) (scope : BitVec 5) (mk : BitVec 3) (m : MemOp) (c : VSrc) : Statement (.vst g sz o rel scope mk m c) := by
  rfl

theorem vldx (g : Guard) (sz : Size) (o : Bool) (acq rep : Bool) (scope : BitVec 5) (sx : Bool) (c : VCtl) (d : VDst) (base : SSrc) (idx : VSrc) (scl : BitVec 2) (disp : BitVec 32) : Statement (.vldx g sz o acq rep scope sx c d base idx scl disp) := by
  rfl

theorem vstx (g : Guard) (sz : Size) (o : Bool) (rel : Bool) (scope : BitVec 5) (mk : BitVec 3) (base : SSrc) (idx : VSrc) (scl : BitVec 2) (disp : BitVec 32) (c : VSrc) : Statement (.vstx g sz o rel scope mk base idx scl disp c) := by
  rfl

theorem tld (g : Guard) (o acq rep : Bool) (id : BitVec 8) (scope : BitVec 5) (c : VCtl) (d : VDst) (a b : SSrc) : Statement (.tld g o acq rep id scope c d a b) := by
  rfl

theorem tst (g : Guard) (o rel : Bool) (id : BitVec 8) (scope : BitVec 5) (mk : BitVec 3) (a b : SSrc) (c : VSrc) : Statement (.tst g o rel id scope mk a b c) := by
  rfl

theorem pf (g : Guard) (rep sector : Bool) (m : MemOp) : Statement (.pf g rep sector m) := by
  rfl

theorem tdef (g : Guard) (a b : SSrc) : Statement (.tdef g a b) := by
  rfl

theorem tdefBroadcast (slot : Nat) : Statement (.tdefBroadcast slot) := by
  rfl

theorem tget (g : Guard) (w : BitVec 3) (d : SDst) (a : SSrc) : Statement (.tget g w d a) := by
  rfl

theorem taddr (g : Guard) (o : Bool) (id : BitVec 8) (d : SDst) (a b : SSrc) : Statement (.taddr g o id d a b) := by
  rfl

theorem hgl (g : Guard) (acq rep : Bool) (id : BitVec 8) (scope : BitVec 5) (c : VCtl) (d a : BitVec 5) (b : SSrc) : Statement (.hgl g acq rep id scope c d a b) := by
  rfl

theorem hgs (g : Guard) (id : BitVec 8) (scope : BitVec 5) (mk : BitVec 3) (ctr : SSrc) (a : BitVec 5) (b : SSrc) (c : BitVec 5) : Statement (.hgs g id scope mk ctr a b c) := by
  rfl

theorem hgw (g : Guard) (id : BitVec 8) (c : VCtl) (d a : BitVec 5) (b corner : SSrc) : Statement (.hgw g id c d a b corner) := by
  rfl

theorem nmop (g : Guard) (kind : NmKind) (nm1 : BitVec 12) (scope : BitVec 5) (aval : BitVec 32) (d : SDst) (a b c : SSrc) : Statement (.nmop g kind nm1 scope aval d a b c) := by
  rfl

theorem nmopLineUpdate (tile core : Nat) : Statement (.nmopLineUpdate tile core) := by
  rfl

theorem cinv (g : Guard) (all : Bool) (m : MemOp) : Statement (.cinv g all m) := by
  rfl

theorem cwb (g : Guard) (drop : Bool) (m : MemOp) : Statement (.cwb g drop m) := by
  rfl

theorem mwl (g : Guard) (slot o af8 : Bool) (id : BitVec 8) (d : SDst) (a b : SSrc) : Statement (.mwl g slot o af8 id d a b) := by
  rfl

theorem mma (g : Guard) (acc slot o : Bool) (id : BitVec 8) (d : SDst) (a b : SSrc) : Statement (.mma g acc slot o id d a b) := by
  rfl

theorem mst (g : Guard) (acc o clr fz8 : Bool) (rm : RMode) (id : BitVec 8) (d : SDst) (a b c : SSrc) : Statement (.mst g acc o clr fz8 rm id d a b c) := by
  rfl

theorem mclr (g : Guard) (acc : Bool) (d : SDst) : Statement (.mclr g acc d) := by
  rfl

theorem mclrLoad (g : Guard) (acc o : Bool) (id : BitVec 8) (d : SDst) (a b : SSrc) : Statement (.mclrLoad g acc o id d a b) := by
  rfl

theorem mfac (g : Guard) (acc lu ptrap : Bool) (status : Option (BitVec 2)) (num : SDst) (a c : SSrc) : Statement (.mfac g acc lu ptrap status num a c) := by
  rfl

theorem mtrs (g : Guard) (acc : Bool) (kind : SolveKind) (id : BitVec 8) (status : Option (BitVec 2)) (num : SDst) (a b : SSrc) : Statement (.mtrs g acc kind id status num a b) := by
  rfl

theorem matrixTileStep (tile unit : Nat) (path : MPath) : Statement (.matrixTileStep tile unit path) := by
  rfl

theorem cpy (g : Guard) (tr o d4 : Bool) (sid did : BitVec 8) (mcax : BitVec 2) (mcmap : BitVec 24) (d : SDst) (a b c : SSrc) : Statement (.cpy g tr o d4 sid did mcax mcmap d a b c) := by
  rfl

theorem cpyk (g : Guard) (d : SDst) (a b c : SSrc) : Statement (.cpyk g d a b c) := by
  rfl

theorem cfill (g : Guard) (d : SDst) (a b c : SSrc) : Statement (.cfill g d a b c) := by
  rfl

theorem cring (g : Guard) (id : BitVec 8) (d : SDst) (a b c : SSrc) : Statement (.cring g id d a b c) := by
  rfl

theorem copyGranule (tile core k : Nat) : Statement (.copyGranule tile core k) := by
  rfl

theorem fillCountUpdate (tile core : Nat) : Statement (.fillCountUpdate tile core) := by
  rfl

theorem rclaim (g : Guard) (cons : Bool) (id : BitVec 8) (scope : BitVec 5) (d : SDst) : Statement (.rclaim g cons id scope d) := by
  rfl

theorem rclaimNb (g : Guard) (ps : BitVec 3) (cons : Bool) (id : BitVec 8) (scope : BitVec 5) (d : SDst) : Statement (.rclaimNb g ps cons id scope d) := by
  rfl

theorem rclaimTimeout (tile core ctx : Nat) : Statement (.rclaimTimeout tile core ctx) := by
  rfl

theorem rfree (g : Guard) (id : BitVec 8) (scope : BitVec 5) (a : SSrc) : Statement (.rfree g id scope a) := by
  rfl

theorem fork (g : Guard) (a : SSrc) (ofs : BitVec 34) : Statement (.fork g a ofs) := by
  rfl

theorem rdv (g : Guard) (d : SDst) : Statement (.rdv g d) := by
  rfl

theorem programEnd (tile core ctx : Nat) : Statement (.programEnd tile core ctx) := by
  rfl

theorem qpush (g : Guard) (qn : BitVec 3) (a : SSrc) : Statement (.qpush g qn a) := by
  rfl

theorem qpushNb (g : Guard) (ps qn : BitVec 3) (a : SSrc) : Statement (.qpushNb g ps qn a) := by
  rfl

theorem qpop (g : Guard) (qn : BitVec 3) (d : SDst) : Statement (.qpop g qn d) := by
  rfl

theorem qpopNb (g : Guard) (ps qn : BitVec 3) (d : SDst) : Statement (.qpopNb g ps qn d) := by
  rfl

theorem amo (g : Guard) (op : AmoOp) (dbl : Bool) (ord : MemOrd) (scope : BitVec 5) (d : SDst) (m : MemOp) (c : SSrc) : Statement (.amo g op dbl ord scope d m c) := by
  rfl

theorem cas (g : Guard) (sz : Size) (ord : MemOrd) (scope : BitVec 5) (ps : BitVec 3) (d : SDst) (m : MemOp) (c : SSrc) : Statement (.cas g sz ord scope ps d m c) := by
  rfl

theorem red (g : Guard) (op : AmoOp) (dbl rel : Bool) (scope : BitVec 5) (ctr : SSrc) (m : MemOp) (c : SSrc) : Statement (.red g op dbl rel scope ctr m c) := by
  rfl

theorem redVector (g : Guard) (op : AmoOp) (rel : Bool) (scope : BitVec 5) (ctr : SSrc) (m : MemOp) (c : VSrc) : Statement (.redVector g op rel scope ctr m c) := by
  rfl

theorem fenceAcq (g : Guard) (scope : BitVec 5) : Statement (.fenceAcq g scope) := by
  rfl

theorem fenceRel (g : Guard) (scope : BitVec 5) : Statement (.fenceRel g scope) := by
  rfl

theorem fenceSc (g : Guard) (scope : BitVec 5) : Statement (.fenceSc g scope) := by
  rfl

theorem cadd (g : Guard) (ord : MemOrd) (scope : BitVec 5) (m : MemOp) (c : SSrc) : Statement (.cadd g ord scope m c) := by
  rfl

theorem cwait (g : Guard) (src : CtrSrc) (d : SDst) (c : SSrc) : Statement (.cwait g src d c) := by
  cases src <;> rfl

theorem cwaitNb (g : Guard) (ps : BitVec 3) (src : CtrSrc) (d : SDst) (c : SSrc) : Statement (.cwaitNb g ps src d c) := by
  cases src <;> rfl

theorem cwaitReread (tile core ctx : Nat) : Statement (.cwaitReread tile core ctx) := by
  rfl

theorem cread (g : Guard) (acq : Bool) (src : CtrSrc) (d : SDst) : Statement (.cread g acq src d) := by
  cases src <;> rfl

theorem claim (g : Guard) (ord : MemOrd) (scope : BitVec 5) (d : BitVec 6) (m : MemOp) (c : SSrc) : Statement (.claim g ord scope d m c) := by
  rfl

theorem send (g : Guard) (delay : BitVec 20) (a : SSrc) (b : Option (BitVec 6)) (c : SSrc) : Statement (.send g delay a b c) := by
  cases b <;> rfl

theorem sendNb (g : Guard) (ps : BitVec 3) (delay : BitVec 20) (a : SSrc) (b : Option (BitVec 6)) (c : SSrc) : Statement (.sendNb g ps delay a b c) := by
  cases b <;> rfl

theorem sendTrapping (g : Guard) (delay : BitVec 20) (a : SSrc) (b : Option (BitVec 6)) (c : SSrc) : Statement (.sendTrapping g delay a b c) := by
  cases b <;> rfl

theorem sendOutcome (tile core ctx : Nat) : Statement (.sendOutcome tile core ctx) := by
  rfl

theorem reply (g : Guard) (a : SSrc) (b : Option (BitVec 6)) (c : SSrc) : Statement (.reply g a b c) := by
  cases b <;> rfl

theorem spawn (g : Guard) (det : Bool) (a : SSrc) (b : Option (BitVec 6)) (c : SSrc) : Statement (.spawn g det a b c) := by
  cases b <;> rfl

theorem spawnNb (g : Guard) (ps : BitVec 3) (det : Bool) (a : SSrc) (b : Option (BitVec 6)) (c : SSrc) : Statement (.spawnNb g ps det a b c) := by
  cases b <;> rfl

theorem mspill (g : Guard) (d : SDst) (a : SSrc) : Statement (.mspill g d a) := by
  rfl

theorem mreplay (g : Guard) (d : SDst) (a : SSrc) : Statement (.mreplay g d a) := by
  rfl

theorem mstat (g : Guard) (sel : BitVec 3) (d : SDst) : Statement (.mstat g sel d) := by
  rfl

theorem launch (g : Guard) (d : SDst) (a : SSrc) : Statement (.launch g d a) := by
  rfl

theorem cancel (g : Guard) (sel : CancelSel) : Statement (.cancel g sel) := by
  cases sel <;> rfl

theorem trap (g : Guard) (code : BitVec 16) : Statement (.trap g code) := by
  rfl

theorem eret (g : Guard) : Statement (.eret g) := by
  rfl

theorem csrr (g : Guard) (d : SDst) (num : BitVec 12) : Statement (.csrr g d num) := by
  rfl

theorem csrw (g : Guard) (num : BitVec 12) (a : SSrc) : Statement (.csrw g num a) := by
  rfl

theorem asyncTrap (tile core ctx : Nat) : Statement (.asyncTrap tile core ctx) := by
  rfl

theorem fetchDelivery (tile : Nat) : Statement (.fetchDelivery tile) := by
  rfl

theorem icacheFill (tile : Nat) (asid : BitVec 16) (block : BitVec 64) : Statement (.icacheFill tile asid block) := by
  rfl

theorem accessPerform (tile k : Nat) : Statement (.accessPerform tile k) := by
  rfl

theorem faultResolution (k : Nat) (resolved : Bool) : Statement (.faultResolution k resolved) := by
  rfl

theorem sideLogReplay (tile k : Nat) : Statement (.sideLogReplay tile k) := by
  rfl

theorem arrival (tile k : Nat) : Statement (.arrival tile k) := by
  rfl

theorem messageInjection (tile core : Nat) (out : Outlet) : Statement (.messageInjection tile core out) := by
  rfl

theorem delayExpiry (tile core : Nat) : Statement (.delayExpiry tile core) := by
  rfl

theorem messageArrival (tile core : Nat) (net : Net) : Statement (.messageArrival tile core net) := by
  rfl

theorem deferredAdmission (tile core : Nat) (net : Net) : Statement (.deferredAdmission tile core net) := by
  rfl

theorem creditedAdmission (tile core : Nat) : Statement (.creditedAdmission tile core) := by
  rfl

theorem activationStart (tile core : Nat) : Statement (.activationStart tile core) := by
  rfl

theorem bitternStart (tile core : Nat) : Statement (.bitternStart tile core) := by
  rfl

theorem governorCheck (tile : Nat) : Statement (.governorCheck tile) := by
  rfl

theorem governorMove (tile : Nat) : Statement (.governorMove tile) := by
  rfl

theorem launchPortLaunch (w : BitVec 64) : Statement (.launchPortLaunch w) := by
  rfl

theorem launchPortCancel (w : BitVec 64) : Statement (.launchPortCancel w) := by
  rfl

theorem dispatchLaunch (slot : Nat) : Statement (.dispatchLaunch slot) := by
  rfl

theorem graphNodeFire (slot serial : Nat) : Statement (.graphNodeFire slot serial) := by
  rfl

theorem graphComplete (slot serial : Nat) : Statement (.graphComplete slot serial) := by
  rfl

theorem launchComplete (slot serial : Nat) : Statement (.launchComplete slot serial) := by
  rfl

theorem phaseEnd (slot : Nat) : Statement (.phaseEnd slot) := by
  rfl

theorem bind : Statement (.bind ) := by
  rfl

theorem preemptionComplete (tile : Nat) : Statement (.preemptionComplete tile) := by
  rfl

theorem unbind : Statement (.unbind ) := by
  rfl

theorem unbindRelease (slot : Nat) : Statement (.unbindRelease slot) := by
  rfl

theorem foldSwitch (tile : Nat) : Statement (.foldSwitch tile) := by
  rfl

theorem map : Statement (.map ) := by
  rfl

theorem unmap (asid : BitVec 16) (va : BitVec 64) (n : Nat) : Statement (.unmap asid va n) := by
  rfl

theorem halt (slot : Nat) : Statement (.halt slot) := by
  rfl

theorem status : Statement (.status ) := by
  rfl

theorem logread : Statement (.logread ) := by
  rfl

theorem logclr : Statement (.logclr ) := by
  rfl

theorem monread : Statement (.monread ) := by
  rfl

theorem attest (nonce : BitVec 256) : Statement (.attest nonce) := by
  rfl

theorem update (image : BitVec 256) (version : Nat) : Statement (.update image version) := by
  rfl

theorem switch : Statement (.switch ) := by
  rfl

theorem switchReady : Statement (.switchReady ) := by
  rfl

theorem switchTimeout : Statement (.switchTimeout ) := by
  rfl

theorem egress : Statement (.egress ) := by
  rfl

theorem unknownCommand : Statement (.unknownCommand ) := by
  rfl

theorem mailboxResponse : Statement (.mailboxResponse ) := by
  rfl

theorem bar0Write (ofs size : Nat) (val : BitVec 64) : Statement (.bar0Write ofs size val) := by
  rfl

theorem hostMemAccess (dpa : Nat) (len : Nat) (write : Option (List (BitVec 8))) : Statement (.hostMemAccess dpa len write) := by
  rfl

theorem hostCompletion (k : Nat) (st : CplStatus) (data : List (BitVec 8)) : Statement (.hostCompletion k st data) := by
  rfl

theorem hostRequestTimeout (k : Nat) : Statement (.hostRequestTimeout k) := by
  rfl

theorem peerAccess (dpa : Nat) (len : Nat) (write : Option (List (BitVec 8))) : Statement (.peerAccess dpa len write) := by
  rfl

theorem peerAtomic (dpa : Nat) (sz : Size) (op : Option AmoOp) (x y : BitVec 128) : Statement (.peerAtomic dpa sz op x y) := by
  rfl

theorem frameIngress (port : Nat) (fcsOk : Bool) (stamp : BitVec 96) (frame : List (BitVec 8)) : Statement (.frameIngress port fcsOk stamp frame) := by
  rfl

theorem sluiceDelivery : Statement (.sluiceDelivery ) := by
  rfl

theorem egressTransmit (port : Nat) (stamp : BitVec 96) : Statement (.egressTransmit port stamp) := by
  rfl

theorem thermalThrottle : Statement (.thermalThrottle ) := by
  rfl

theorem thermalRaise : Statement (.thermalRaise ) := by
  rfl

theorem thermalTrip : Statement (.thermalTrip ) := by
  rfl

theorem coldReset : Statement (.coldReset ) := by
  rfl

theorem boot : Statement (.boot ) := by
  rfl

theorem monitorSample (temps : List (Nat × Nat)) (volts : List (Nat × Nat)) (procs : List (Nat × Nat)) : Statement (.monitorSample temps volts procs) := by
  rfl

theorem voltageExcursion (tile : Nat) : Statement (.voltageExcursion tile) := by
  rfl

theorem errorEvent (unit : ErrUnit) (place loc : Nat) (fixable : Bool) : Statement (.errorEvent unit place loc fixable) := by
  rfl

theorem busParityFail (home seg beat lane retries : Nat) (failed : Bool) : Statement (.busParityFail home seg beat lane retries failed) := by
  rfl

theorem selfTestDone (k : Nat) (passed : Bool) : Statement (.selfTestDone k passed) := by
  rfl

theorem swapStart (home set member : Nat) : Statement (.swapStart home set member) := by
  rfl

theorem swapComplete (home set : Nat) : Statement (.swapComplete home set) := by
  rfl

theorem wsRefresh (tile bank : Nat) : Statement (.wsRefresh tile bank) := by
  rfl

theorem wsDeadline (tile unit : Nat) : Statement (.wsDeadline tile unit) := by
  rfl

theorem powerLoss : Statement (.powerLoss ) := by
  rfl

end Sys2Proof.Laws.Encodes
end

