-- ==== Sys2Proof/Tests/Slice0.lean ====
section
/-! SUPPORT. Tests: every encoding entry decoded from a word written out from the tables of spec/, ill-formed terms refused,
single steps on small states, and for each statement with hypotheses a state that meets them. -/

namespace Sys2Proof.Tests

/- One theorem after another, so that the kernel's checks do not pile up. -/
set_option Elab.async false

open Sys2Proof.Machine

/-! Words by format (R26 to R31): the numbers of the fields as the encoding tables give them. -/

/-- Format S: OP, D, A, B, C, FN. -/
def wS (op d a b c fn : Nat) : Nat := op * 2 ^ 2 + d * 2 ^ 15 + a * 2 ^ 22 + b * 2 ^ 29 + c * 2 ^ 36 + fn * 2 ^ 43
/-- Format I: OP, D, A, IMM28. -/
def wI (op d a imm : Nat) : Nat := op * 2 ^ 2 + d * 2 ^ 15 + a * 2 ^ 22 + imm * 2 ^ 36
/-- Format B: OP, A, OFS. -/
def wB (op a ofs : Nat) : Nat := op * 2 ^ 2 + a * 2 ^ 22 + ofs * 2 ^ 30
/-- Format M: OP, D, A, B, C, FN, DISP. -/
def wM (op d a b c fn disp : Nat) : Nat := 1 + wS op d a b c fn + disp * 2 ^ 64
/-- Formats T and L: OP, D, A, B, C, FN, word 1. -/
def wT (op d a b c fn w1 : Nat) : Nat := 2 + wS op d a b c fn + w1 * 2 ^ 64
/-- FN of a vector instruction (R132): TY, RM, MK, ZM, X1, X2. -/
def fV (ty rm mk zm x1 x2 : Nat) : Nat := ty + rm * 2 ^ 4 + mk * 2 ^ 7 + zm * 2 ^ 10 + x1 * 2 ^ 11 + x2 * 2 ^ 15
/-- FN of format M (R29): TW, SIZE, O, ORD, SCOPE, SCL, HINT, XF. -/
def fM (tw size o ord scope scl hint xf : Nat) : Nat :=
  tw + size * 2 ^ 4 + o * 2 ^ 7 + ord * 2 ^ 8 + scope * 2 ^ 10 + scl * 2 ^ 15 + hint * 2 ^ 17 + xf * 2 ^ 19

/-- The guard p0. -/
def always : Guard := ⟨0, false⟩

/-- Every word of a list decodes to its instruction. -/
def allDecode (n : Nat) (l : List (Nat × Instr)) : Bool := l.all (fun p => decodeTableWord n p.1 == some p.2)

/-- R98, R39, R101 to R109. -/
theorem test_decode_control : allDecode 64 [
    (0, .nop always none), (wS 0 0 0 0 0 (2 ^ 20 + 2 ^ 5 + 0b1011), .nop always (some 0b101011)),
    (wS 1 0 0 0 0 0x1234, .brk always 0x1234), (wB 2 (5 + 8) 3, .br always true 5 3), (wB 3 0 (2 ^ 34 - 1), .jmp always (-1)),
    (wB 4 0x3F 16, .call always 63 16), (wS 5 0 0x48 0 0 0, .jr always .lat), (wS 6 9 0x4 0 0 0, .callr always 9 (.g 4)),
    (wS 7 0 0x3F 0 0 0, .ret always (.g 63)), (wS 8 0 0 0 0 (1 + 2 * 2 ^ 3 + 3 * 2 ^ 6 + 0xD * 2 ^ 9), .plog always 1 2 3 0xD),
    (wS 9 0 7 0 0 (0 + 4 * 2 ^ 2), .pmov always 4 (.toPred (.g 7))), (wS 9 0x41 0 0 0 (1 + 4 * 2 ^ 2), .pmov always 4 (.fromPred (.o 1))),
    (wS 9 0 7 0 0 (2 + 6 * 2 ^ 2), .pmov always 6 (.toMask (.g 7))), (wS 9 8 0 0 0 (3 + 6 * 2 ^ 2), .pmov always 6 (.fromMask (.g 8))),
    (wB 11 0 2, .iter always 2), (wI 12 0 0 9, .align always 9), (wS 13 0 0 0 0 0, .done always),
    (wS 14 3 0 0 0 2, .who always (.g 3) 2)] = true := by decide +kernel

/-- R98, R105: `nest` with its step in word 1; a guard `!p3` (R23). -/
theorem test_decode_nest : allDecode 128 [
    (wT 10 0 2 3 4 (5 * 2) 7 + 3 * 2 ^ 11 + 2 ^ 14, .nest ⟨3, true⟩ 5 (.g 2) (.g 3) (.g 4) 7),
    (wT 0x40 0x22 0 0 0 0 0x123456789ABCDEF0, .li always (.g 34) 0x123456789ABCDEF0)] = true := by decide +kernel

/-- R114. -/
theorem test_decode_scalar_integer : allDecode 64 [
    (wS 0x41 1 0x58 0 0 0, .mov always (.g 1) (.i 0)), (wS 0x42 1 2 3 0 6, .add always .n32 (.g 1) (.g 2) (.g 3)),
    (wI 0x43 1 2 (2 ^ 28 - 3), .addi always (.g 1) (.g 2) (-3)), (wS 0x44 1 2 3 0 3, .sub always .s64 (.g 1) (.g 2) (.g 3)),
    (wS 0x45 1 2 3 0 0, .mul always .s8 (.g 1) (.g 2) (.g 3)), (wI 0x46 1 2 5, .muli always (.g 1) (.g 2) 5),
    (wS 0x47 1 2 3 0 7, .mulh always .n64 (.g 1) (.g 2) (.g 3)), (wS 0x48 1 2 3 0 1, .div always .s16 (.g 1) (.g 2) (.g 3)),
    (wS 0x49 1 2 3 0 4, .rem always .n8 (.g 1) (.g 2) (.g 3)), (wS 0x4A 0x50 2 3 0 5, .and always .n16 (.q 0) (.g 2) (.g 3)),
    (wI 0x4B 1 2 5, .andi always (.g 1) (.g 2) 5), (wS 0x4C 1 2 3 0 2, .or always .s32 (.g 1) (.g 2) (.g 3)),
    (wI 0x4D 1 2 5, .ori always (.g 1) (.g 2) 5), (wS 0x4E 1 2 3 0 2, .xor always .s32 (.g 1) (.g 2) (.g 3)),
    (wI 0x4F 1 2 5, .xori always (.g 1) (.g 2) 5), (wS 0x50 1 2 3 0 2, .andn always .s32 (.g 1) (.g 2) (.g 3)),
    (wS 0x51 1 2 0x53 0 2, .shl always .s32 (.g 1) (.g 2) (.q 3)), (wI 0x52 1 2 5, .shli always (.g 1) (.g 2) 5),
    (wS 0x53 1 2 3 0 2, .shr always .s32 (.g 1) (.g 2) (.g 3)), (wI 0x54 1 2 5, .shri always (.g 1) (.g 2) 5),
    (wS 0x55 1 2 3 0 2, .sar always .s32 (.g 1) (.g 2) (.g 3)), (wI 0x56 1 2 5, .sari always (.g 1) (.g 2) 5),
    (wS 0x57 1 2 3 0 2, .rol always .s32 (.g 1) (.g 2) (.g 3)), (wI 0x58 1 2 5, .roli always (.g 1) (.g 2) 5),
    (wS 0x59 1 2 3 0 6, .min always .n32 (.g 1) (.g 2) (.g 3)), (wS 0x5A 1 2 3 0 2, .max always .s32 (.g 1) (.g 2) (.g 3)),
    (wS 0x5B 1 2 0 0 2, .abs always .s32 (.g 1) (.g 2)), (wS 0x5C 1 2 0 0 6, .neg always .n32 (.g 1) (.g 2)),
    (wS 0x5D 1 2 3 0 (5 * 2 ^ 4), .sel always 5 (.g 1) (.g 2) (.g 3)),
    (wS 0x5E (2 + 3 * 8) 2 3 0 7, .cmp always .n64 .le 2 (.g 2) (.g 3)), (wI 0x5F (2 + 7 * 8) 2 9, .cmpi always .ntst 2 (.g 2) 9),
    (wS 0x60 1 2 0 0 3, .clz always .s64 (.g 1) (.g 2)), (wS 0x61 1 2 0 0 3, .ctz always .s64 (.g 1) (.g 2)),
    (wS 0x62 1 2 0 0 3, .popc always .s64 (.g 1) (.g 2)), (wS 0x63 1 2 0 0 3, .brev always .s64 (.g 1) (.g 2)),
    (wS 0x64 1 2 0 0 (3 + 8 * 2 ^ 4 + 15 * 2 ^ 10), .bfx always true (.g 1) (.g 2) 8 15),
    (wS 0x65 1 2 3 0 (8 * 2 ^ 4 + 15 * 2 ^ 10), .bfi always (.g 1) (.g 2) (.g 3) 8 15),
    (wS 0x66 1 2 0 0 0, .ext always .s8 (.g 1) (.g 2)),
    (wS 0x67 1 2 0x49 0 (3 * 2 ^ 4 + (2 ^ 15 - 8) * 2 ^ 6), .lea always (.g 1) (.g 2) .zr 3 (-8))] = true := by decide +kernel

/-- R121. -/
theorem test_decode_scalar_fp : allDecode 64 [
    (wS 0x80 1 2 3 0 8, .fadd always .f32 .rne (.g 1) (.g 2) (.g 3)), (wS 0x81 1 2 3 0 (9 + 1 * 16), .fsub always .f64 .rtz (.g 1) (.g 2) (.g 3)),
    (wS 0x82 1 2 3 0 (8 + 2 * 16), .fmul always .f32 .rup (.g 1) (.g 2) (.g 3)),
    (wS 0x83 1 2 3 4 (9 + 3 * 16), .fma always .f64 .rdn (.g 1) (.g 2) (.g 3) (.g 4)),
    (wS 0x84 1 2 3 0 (8 + 4 * 16), .fdiv always .f32 .srd (.g 1) (.g 2) (.g 3)), (wS 0x85 1 2 0 0 (8 + 5 * 16), .fsqrt always .f32 .dyn (.g 1) (.g 2)),
    (wS 0x86 1 2 3 0 9, .fmin always .f64 (.g 1) (.g 2) (.g 3)), (wS 0x87 1 2 3 0 8, .fmax always .f32 (.g 1) (.g 2) (.g 3)),
    (wS 0x88 0x51 2 0 0 0xA, .fabs always .bf16 (.q 1) (.g 2)), (wS 0x89 1 2 0 0 0xB, .fneg always .e4m3 (.g 1) (.g 2)),
    (wS 0x8A (3 + 6 * 8) 2 3 0 8, .fcmp always .f32 .uno 3 (.g 2) (.g 3)), (wS 0x8B 1 2 0 0 0xC, .fclass always .e5m2 (.g 1) (.g 2)),
    (wS 0x8C 1 2 0 0 (9 + 1 * 16 + 0xE * 2 ^ 7), .fcvt always (.fp .f64) .q4 .rtz (.g 1) (.g 2)),
    (wS 0x8D 1 2 0 0 8, .frcp always .f32 .rne (.g 1) (.g 2)), (wS 0x8E 1 2 0 0 9, .frsq always .f64 .rne (.g 1) (.g 2)),
    (wI 0x8F 1 2 0x3F80, .faddi always (.g 1) (.g 2) 0x3F80), (wI 0x90 1 2 0xBF80, .fmuli always (.g 1) (.g 2) 0xBF80)] = true := by
  decide +kernel

/-- R134, R139 to R141. -/
theorem test_decode_vector_integer : allDecode 64 [
    (wS 0xC0 1 2 3 0 (fV 6 0 5 1 0 0), .vadd always .n32 ⟨5, true⟩ (.v 1) (.v 2) (.v 3)),
    (wS 0xC1 1 2 3 0 (fV 2 0 0 0 0 0), .vsub always .s32 ⟨0, false⟩ (.v 1) (.v 2) (.v 3)),
    (wS 0xC2 0x43 2 3 0 (fV 1 0 0 0 0 0), .vmul always .s16 ⟨0, false⟩ (.o 3) (.v 2) (.v 3)),
    (wS 0xC3 1 2 3 0x48 (fV 0 0 0 0 0 0), .vmad always .s8 ⟨0, false⟩ (.v 1) (.v 2) (.v 3) .lat),
    (wS 0xC4 1 2 3 0 (fV 4 0 0 0 0 0), .vmin always .n8 ⟨0, false⟩ (.v 1) (.v 2) (.v 3)),
    (wS 0xC5 1 2 3 0 (fV 5 0 0 0 0 0), .vmax always .n16 ⟨0, false⟩ (.v 1) (.v 2) (.v 3)),
    (wS 0xC6 1 2 0 0 (fV 2 0 0 0 0 0), .vabs always .s32 ⟨0, false⟩ (.v 1) (.v 2)),
    (wS 0xC7 1 2 0 0 (fV 6 0 0 0 0 0), .vneg always .n32 ⟨0, false⟩ (.v 1) (.v 2)),
    (wS 0xC8 1 2 3 0 (fV 6 0 0 0 0 0), .vand always .n32 ⟨0, false⟩ (.v 1) (.v 2) (.v 3)),
    (wS 0xC9 1 2 3 0 (fV 6 0 0 0 0 0), .vor always .n32 ⟨0, false⟩ (.v 1) (.v 2) (.v 3)),
    (wS 0xCA 1 2 3 0 (fV 6 0 0 0 0 0), .vxor always .n32 ⟨0, false⟩ (.v 1) (.v 2) (.v 3)),
    (wS 0xCB 1 2 3 0 (fV 6 0 0 0 0 0), .vshl always .n32 ⟨0, false⟩ (.v 1) (.v 2) (.v 3)),
    (wS 0xCC 1 2 3 0 (fV 6 0 0 0 0 0), .vshr always .n32 ⟨0, false⟩ (.v 1) (.v 2) (.v 3)),
    (wS 0xCD 1 2 3 0 (fV 6 0 0 0 0 0), .vsar always .n32 ⟨0, false⟩ (.v 1) (.v 2) (.v 3)),
    (wS 0xCE (4 + 2 * 8) 2 3 0 (fV 2 0 1 0 0 0), .vcmp always true ⟨1, false⟩ .lt 4 (.v 2) (.v 3)),
    (wS 0xCF 1 2 3 0 (fV 0 0 6 0 0 0), .vsel always 6 (.v 1) (.v 2) (.v 3)), (wI 0xD0 1 2 5, .vaddi always (.v 1) (.v 2) 5),
    (wS 0xD1 1 2 0 0 (fV 6 0 0 0 5 0), .vred always .n32 .xor ⟨0, false⟩ (.g 1) (.v 2)),
    (wS 0xD2 1 2 0 0 (fV 6 0 0 0 1 0), .vscan always .n32 .min ⟨0, false⟩ (.v 1) (.v 2)),
    (wS 0xD3 1 2 3 4 (fV 5 0 0 0 0 0), .vperm always .n16 ⟨0, false⟩ (.v 1) (.v 2) (.v 3) (.v 4)),
    (wS 0xD4 1 0x3F 0 0 (fV 4 0 0 0 0 0), .vbcast always .n8 ⟨0, false⟩ (.v 1) (.g 63)),
    (wS 0xD5 1 2 3 0 (fV 2 0 0 0 0 0), .vextr always .s32 (.g 1) (.v 2) (.g 3)),
    (wS 0xD6 1 0x22 3 0 (fV 2 0 0 0 0 0), .vins always .s32 (.v 1) (.g 34) (.g 3)),
    (wS 0xD7 1 2 0 0 (fV 0 0 3 1 0 0), .vmov always ⟨3, true⟩ (.v 1) (.v 2)),
    (wS 0xD7 1 0 3 0 (fV 0 0 0 0 1 0), .vmovFromIndex always (.v 1) (.g 3)),
    (wS 0xD7 0 2 3 0 (fV 0 0 0 0 2 0), .vmovToIndex always (.v 2) (.g 3)), (wS 0xD8 1 0 0 0 (5 + 8), .vmpop always (.g 1) 5 true),
    (wS 0xD9 0 0 0 0 (1 + 2 * 2 ^ 3 + 3 * 2 ^ 6 + 6 * 2 ^ 9), .vmlog always 1 2 3 6)] = true := by decide +kernel

/-- R142, R145. -/
theorem test_decode_vector_fp : allDecode 64 [
    (wS 0x100 1 2 3 0 (fV 8 0 1 0 0 0), .vfadd always .f32 .rne ⟨1, false⟩ (.v 1) (.v 2) (.v 3)),
    (wS 0x101 1 2 3 0 (fV 9 4 0 0 0 0), .vfsub always .f64 .srd ⟨0, false⟩ (.v 1) (.v 2) (.v 3)),
    (wS 0x102 1 2 3 0 (fV 8 5 0 0 0 0), .vfmul always .f32 .dyn ⟨0, false⟩ (.v 1) (.v 2) (.v 3)),
    (wS 0x103 1 2 3 4 (fV 8 0 0 0 0 0), .vfma always .f32 .rne ⟨0, false⟩ (.v 1) (.v 2) (.v 3) (.v 4)),
    (wS 0x104 1 2 3 0 (fV 8 0 0 0 0 0), .vfmin always .f32 ⟨0, false⟩ (.v 1) (.v 2) (.v 3)),
    (wS 0x105 1 2 3 0 (fV 9 0 0 0 0 0), .vfmax always .f64 ⟨0, false⟩ (.v 1) (.v 2) (.v 3)),
    (wS 0x106 1 2 0 0 (fV 0xA 0 0 0 1 0), .vfabs always .bf16 true ⟨0, false⟩ (.v 1) (.v 2)),
    (wS 0x107 (3 + 7 * 8) 2 3 0 (fV 8 0 0 0 0 0), .vfcmp always .f32 ⟨0, false⟩ .ord 3 (.v 2) (.v 3)),
    (wS 0x108 5 4 0 10 (fV 8 4 0 0 1 0xA), .vfcvt always (.fp .f32) (.fp .bf16) 1 .srd ⟨0, false⟩ (.v 5) (.v 4) (.g 10)),
    (wS 0x109 1 2 0 0 (fV 8 0 0 0 0 0), .vexp2 always .rne ⟨0, false⟩ (.v 1) (.v 2)),
    (wS 0x10A 1 2 0 0 (fV 8 1 0 0 0 0), .vlog2 always .rtz ⟨0, false⟩ (.v 1) (.v 2)),
    (wS 0x10B 1 2 0 0 (fV 8 2 0 0 0 0), .vrcp always .rup ⟨0, false⟩ (.v 1) (.v 2)),
    (wS 0x10C 1 2 0 0 (fV 8 3 0 0 0 0), .vrsq always .rdn ⟨0, false⟩ (.v 1) (.v 2)),
    (wS 0x10D 1 2 0 0 (fV 9 0 0 0 2 0), .vfred always .f64 .max .rne ⟨0, false⟩ (.g 1) (.v 2)),
    (wS 0x10E 0 4 0 0 0, .wclr always (.g 4)), (wS 0x110 1 2 0 0 (fV 8 4 0 0 0 0), .wrd always .f32 .srd (.g 1) (.g 2)),
    (wS 0x111 1 0 0 0 (fV 0 0 2 1 0 0), .rng always ⟨2, true⟩ (.v 1))] = true := by decide +kernel

/-- R149, R179, R327, R221: format M. -/
theorem test_decode_format_m : allDecode 96 [
    (wM 0x10F 0 2 0x49 4 (fM 0 3 0 0 0 0 0 0) 0x80, .wadd always .f64 ⟨.g 2, .zr, 0, 0x80⟩ (.g 4)),
    (wM 0x140 1 2 3 0 (fM 1 1 1 1 2 3 1 0) 8, .ld always .h true .acq true 2 true (.g 1) ⟨.g 2, .g 3, 3, 8⟩),
    (wM 0x141 0 2 0x49 6 (fM 0 4 0 3 31 0 0 0) (2 ^ 32 - 16), .st always .q false .sc 31 ⟨.g 2, .zr, 0, -16⟩ (.g 6)),
    (wM 0x142 0xA 4 5 0 (fM 1 2 0 0 3 2 1 0) 0x40, .vld always .w false false true 3 ⟨1, false⟩ (.v 10) ⟨.g 4, .g 5, 2, 0x40⟩),
    (wM 0x143 0 4 0x49 7 (fM 6 3 0 2 3 0 0 0) 0, .vst always .d false true 3 6 ⟨.g 4, .zr, 0, 0⟩ (.v 7)),
    (wM 0x144 1 2 3 0 (fM (2 + 8) 2 1 0 3 1 0 1) 4, .vldx always .w true false false 3 true ⟨2, true⟩ (.v 1) (.g 2) (.v 3) 1 4),
    (wM 0x145 0 2 3 4 (fM 2 0 0 2 3 1 0 0) 4, .vstx always .b false true 3 2 (.g 2) (.v 3) 1 4 (.v 4)),
    (wM 0x148 0 2 3 0 (fM 0 0 0 0 0 1 1 1) 4, .pf always true true ⟨.g 2, .g 3, 1, 4⟩),
    (wM 0x150 0 2 3 0 (fM 0 0 0 0 0 1 0 1) 4, .cinv always true ⟨.g 2, .g 3, 1, 4⟩),
    (wM 0x151 0 2 3 0 (fM 0 0 0 0 0 1 0 1) 4, .cwb always true ⟨.g 2, .g 3, 1, 4⟩),
    (wM 0x1C0 1 2 3 4 (fM 8 2 0 3 5 0 0 0) 4, .amo always .swap false .sc 5 (.g 1) ⟨.g 2, .g 3, 0, 4⟩ (.g 4)),
    (wM 0x1C1 2 4 0x49 6 (fM 1 4 0 1 2 0 0 0) 0, .cas always .q .acq 2 1 (.g 2) ⟨.g 4, .zr, 0, 0⟩ (.g 6)),
    (wM 0x1C2 0x49 4 5 6 (fM 9 3 0 2 2 0 0 0) 0, .red always .fadd true true 2 .zr ⟨.g 4, .g 5, 0, 0⟩ (.g 6)),
    (wM 0x1C2 9 4 5 6 (fM 4 2 0 0 2 0 0 1) 0, .redVector always .nmax false 2 (.g 9) ⟨.g 4, .g 5, 0, 0⟩ (.v 6)),
    (wM 0x1C4 0 4 0x49 6 (fM 0 3 0 2 2 0 0 0) 0, .cadd always .rel 2 ⟨.g 4, .zr, 0, 0⟩ (.g 6)),
    (wM 0x1C5 1 4 0x49 6 (fM 0 3 0 1 2 0 0 0) 0, .cwait always (.mem ⟨.g 4, .zr, 0, 0⟩ 2) (.g 1) (.g 6)),
    (wM 0x1C5 0x49 0x49 0x49 6 (fM (1 + 3 * 2) 3 0 1 2 0 0 1) 0, .cwaitNb always 3 .copyTl .zr (.g 6)),
    (wM 0x1C6 1 0x49 0x49 0 (fM 0 3 0 1 2 0 0 2) 0, .cread always true .matTl (.g 1)),
    (wM 0x1C7 8 4 0x49 6 (fM 0 3 0 3 2 0 0 0) 0, .claim always .sc 2 8 ⟨.g 4, .zr, 0, 0⟩ (.g 6))] = true := by decide +kernel

/-- R179, R323, R341, R251, R269, R289, R366: format T. -/
theorem test_decode_format_t : allDecode 128 [
    (wT 0x146 1 2 3 0 (5 + 2 ^ 3 + 2 ^ 4 + 2 ^ 5 + 2 ^ 7) (9 + 2 * 2 ^ 8), .tld always true true true 9 2 ⟨5, true⟩ (.v 1) (.g 2) (.g 3)),
    (wT 0x147 0 2 3 4 (5 + 2 * 2 ^ 5) (9 + 2 * 2 ^ 8), .tst always false true 9 2 5 (.g 2) (.g 3) (.v 4)),
    (wT 0x149 0 2 3 0 0 0, .tdef always (.g 2) (.g 3)), (wT 0x14B 1 2 3 0x49 1 200, .taddr always true 200 (.g 1) (.g 2) (.g 3)),
    (wT 0x14C 1 2 3 0 (1 + 8) (7 + 2 * 2 ^ 8 + 2 ^ 13), .hgl always true false 7 2 ⟨1, true⟩ 1 2 (.g 3)),
    (wT 0x14D 0x49 2 3 4 1 (7 + 2 * 2 ^ 8), .hgs always 7 2 1 .zr 2 (.g 3) 4), (wT 0x14E 1 2 3 4 1 7, .hgw always 7 ⟨1, false⟩ 1 2 (.g 3) (.g 4)),
    (wT 0x14F 1 2 3 4 4 (15 + 2 * 2 ^ 16 + 0x3F800000 * 2 ^ 32), .nmop always .axpy 15 2 0x3F800000 (.g 1) (.g 2) (.g 3) (.g 4)),
    (wT 0x180 1 2 3 0 (1 + 4) 9, .mwl always true false true 9 (.g 1) (.g 2) (.g 3)),
    (wT 0x181 1 2 3 0 (1 + 4) 9, .mma always true false true 9 (.g 1) (.g 2) (.g 3)),
    (wT 0x182 1 2 3 0x49 (1 + 4 * 4 + 32 + 64) 9, .mst always true false true true .srd 9 (.g 1) (.g 2) (.g 3) .zr),
    (wT 0x184 0x54 2 0 3 (1 + 2 + 4) 5, .mfac always true true true (some 0) (.g 5) (.g 2) (.g 3)),
    (wT 0x185 0x49 2 3 0 (1 + 3 * 2) (5 + 9 * 2 ^ 8), .mtrs always true .u 9 none (.g 5) (.g 2) (.g 3)),
    (wT 0x186 1 2 3 4 (1 + 4) (7 + 8 * 2 ^ 8 + 2 * 2 ^ 16 + 0x555 * 2 ^ 32), .cpy always true false true 7 8 2 0x555 (.g 1) (.g 2) (.g 3) (.g 4)),
    (wT 0x187 9 2 3 4 0 0, .cpyk always (.g 9) (.g 2) (.g 3) (.g 4)), (wT 0x188 9 2 3 4 0 0, .cfill always (.g 9) (.g 2) (.g 3) (.g 4)),
    (wT 0x189 9 2 3 4 0 6, .cring always 6 (.g 9) (.g 2) (.g 3) (.g 4)), (wT 0x18A 9 0 0 0 16 (6 + 2 * 2 ^ 8), .rclaim always true 6 2 (.g 9)),
    (wT 0x18A 9 0 0 0 (1 + 2 * 2) (6 + 2 * 2 ^ 8), .rclaimNb always 2 false 6 2 (.g 9)), (wT 0x18B 0 9 0 0 0 (6 + 2 * 2 ^ 8), .rfree always 6 2 (.g 9)),
    (wT 0x1C8 0 4 8 5 0 3, .send always 3 (.g 4) (some 8) (.g 5)), (wT 0x1C8 0 4 0x49 5 (1 + 2 * 2) 0, .sendNb always 2 0 (.g 4) none (.g 5)),
    (wT 0x1C8 0 4 8 5 16 0, .sendTrapping always 0 (.g 4) (some 8) (.g 5)), (wT 0x1C9 0 4 8 5 0 0, .reply always (.g 4) (some 8) (.g 5)),
    (wT 0x1CA 0 4 8 5 16 0, .spawn always true (.g 4) (some 8) (.g 5)), (wT 0x1CA 0 4 8 5 (1 + 7 * 2) 0, .spawnNb always 7 false (.g 4) (some 8) (.g 5)),
    (wT 0x1CE 9 4 0 0 0 0, .launch always (.g 9) (.g 4))] = true := by decide +kernel

/-- R179, R251, R269, R221, R289, R366, R374: the entries of 64 bits among the rest. -/
theorem test_decode_system : allDecode 64 [
    (wS 0x14A 1 2 0 0 7, .tget always 7 (.g 1) (.g 2)), (wS 0x183 9 0 0 0 0, .mclr always false (.g 9)),
    (wS 0x183 9 2 3 0 (1 + 2 + 4 + 9 * 8), .mclrLoad always true true 9 (.g 9) (.g 2) (.g 3)), (wB 0x18C 4 (2 ^ 34 - 2), .fork always (.g 4) (-2)),
    (wS 0x18D 9 0 0 0 0, .rdv always (.g 9)), (wS 0x18E 0 5 0 0 (6 * 16), .qpush always 6 (.g 5)),
    (0x0000280001400638, .qpushNb always 2 0 (.g 5)), (wS 0x18F 5 0 0 0 (3 * 16), .qpop always 3 (.g 5)),
    (wS 0x18F 5 0 0 0 (1 + 4 * 2 + 2 * 16), .qpopNb always 4 2 (.g 5)), (wS 0x1C3 0 0 0 0 (1 + 4 * 4), .fenceAcq always 4),
    (wS 0x1C3 0 0 0 0 (2 + 5 * 4), .fenceRel always 5), (wS 0x1C3 0 0 0 0 (3 + 6 * 4), .fenceSc always 6),
    (wS 0x1CB 1 2 0 0 0, .mspill always (.g 1) (.g 2)), (wS 0x1CC 1 2 0 0 0, .mreplay always (.g 1) (.g 2)),
    (wS 0x1CD 1 0 0 0 5, .mstat always 5 (.g 1)), (0x000008000100073C, .cancel always (.graph (.g 4))),
    (wS 0x1CF 0 0x49 0 0 3, .cancel always .job), (0x0000021000000740, .trap always 0x21), (0x744, .eret always),
    (0x0000080000028748, .csrr always (.g 5) 1), (0x0000A8000180074C, .csrw always 0x15 (.g 6))] = true := by decide +kernel

/-- R20, R24, R25, R33, R34: words that the scanner refuses: the reserved length code, the guard `never`, a length that does
not match, a reserved bit, an unallocated opcode, a destination `lat`. -/
theorem test_decode_refuses : [3, 2 ^ 14, 1 + wS 0x42 1 2 3 0 2, wS 0x42 1 2 3 1 2, wS 0x0F 0 0 0 0 0, wS 0x41 0x48 2 0 0 0].all
    (fun w => decodeTableWord 64 w == none) = true := by decide +kernel

/-! Ill-formed terms (R24, R33 and the entries): each breaks one check. -/

/-- Terms that no word encodes: of the core's own units. -/
def illFormed : List Instr := [
  .done ⟨0, true⟩, .nop ⟨1, false⟩ (some 0), .nop always (some 0b010100), .br always true 0 0, .nest always 0 .zr .zr .zr 0,
  .bfx always true .zr .zr 60 4, .bfi always .zr .zr .zr 60 4, .abs always .n8 .zr .zr, .fadd always .f32 .rne (.q 0) .zr .zr,
  .fma always .f32 .rne (.q 0) .zr .zr .zr, .fsqrt always .f32 .rne (.q 0) .zr, .fmin always .f32 (.q 0) .zr .zr,
  .fcvt always (.int .s8) .q3 .rtz .zr .zr, .fmuli always (.q 0) .zr 0, .vadd always .s64 ⟨0, false⟩ .zr .zr .zr,
  .vabs always .n8 ⟨0, false⟩ .zr .zr, .vscan always .s8 .xor ⟨0, false⟩ .zr .zr, .vfcvt always (.fp .f32) .q3 0 .rne ⟨0, false⟩ .zr .zr .zr,
  .vfcvt always (.fp .f32) (.fp .bf16) 2 .rne ⟨0, false⟩ .zr .zr .zr, .vfred always .f32 .min .rtz ⟨0, false⟩ .zr .zr,
  .ld always .b false .rel false 0 false .zr ⟨.zr, .zr, 0, 0⟩, .ld always .q false .plain false 0 false (.g 3) ⟨.zr, .zr, 0, 0⟩,
  .st always .b false .acq 0 ⟨.zr, .zr, 0, 0⟩ .zr, .st always .q false .plain 0 ⟨.zr, .zr, 0, 0⟩ (.g 3),
  .vld always .d true false false 0 ⟨0, false⟩ .zr ⟨.zr, .zr, 0, 0⟩, .vst always .q false false 0 0 ⟨.zr, .zr, 0, 0⟩ .zr,
  .vldx always .d false false false 0 false ⟨0, false⟩ .zr .zr .zr 0 0, .vstx always .d false false 0 0 .zr .zr 0 0 .zr,
  .hgl always true true 0 0 ⟨0, false⟩ 0 0 .zr, .hgs always 0 0 0 .lat 0 .zr 0, .nmop always .addf 0 0 1 .zr .zr .zr .zr]
/-- Terms that no word encodes: of the engines, messages, atomics and the system. -/
def illFormedCommands : List Instr := [
  .mwl always false false false 0 (.q 0) .zr .zr, .mma always false false false 0 (.q 0) .zr .zr,
  .mst always false false false false .dyn 0 .zr .zr .zr .zr, .mclr always false (.q 0), .mclrLoad always false false 0 (.q 0) .zr .zr,
  .mfac always false false false none (.q 0) .zr .zr, .mtrs always false .l 0 none (.q 0) .zr .zr,
  .cpy always false false false 0 0 0 1 .zr .zr .zr .zr, .cpyk always (.q 0) .zr .zr .zr, .cring always 0 (.q 0) .zr .zr .zr,
  .rclaimNb always 0 false 0 0 .zr, .qpushNb always 0 0 .zr, .qpopNb always 0 0 .zr, .cwaitNb always 0 .copyTl .zr .zr,
  .sendNb always 0 0 .zr none .zr, .spawnNb always 0 false .zr none .zr, .amo always .fadd false .plain 0 .zr ⟨.zr, .zr, 0, 0⟩ .zr,
  .cas always .b .plain 0 0 .zr ⟨.zr, .zr, 0, 0⟩ .zr, .cas always .q .plain 0 0 (.g 1) ⟨.zr, .zr, 0, 0⟩ (.g 2),
  .red always .swap false false 0 .zr ⟨.zr, .zr, 0, 0⟩ .zr, .redVector always .swap false 0 .zr ⟨.zr, .zr, 0, 0⟩ .zr,
  .claim always .plain 0 3 ⟨.zr, .zr, 0, 0⟩ .zr, .mstat always 6 .zr, .launch always (.q 0) .zr, .cancel always (.launch .zr),
  .csrr always .zr 0, .csrw always 0x035 .zr, .boot]

theorem test_ill_formed_refused : (illFormed.all (fun i => !i.wf) && illFormedCommands.all (fun i => !i.wf)) = true := by
  decide +kernel

/-! Small states: slot 0 bound to one tile, which it holds, with its whole scratchpad allotted and one page of code; context 0 of
core 0 runs. -/

/-- A bound job of one tile. -/
def job0 : Slot :=
  { Slot.reset with
    bind := #v[BitVec.ofNat 64 (2 ^ 41 + 2 ^ 39 + 2 ^ 34), BitVec.ofNat 64 (0x111 + 0x111 * 2 ^ 32),
      BitVec.ofNat 64 (2 ^ 16 + 2 ^ 48), 0, 0, 0, 0x10000, 0]
    regions := [⟨0, 0, 256⟩] }
/-- Page tables for a page of code at 0x10000 and a page of data at 0x20000, and the code: headers and `nop`. -/
def mem0 : Memory :=
  [(0x10000, 0x20001), (0x20000, 0x30001), (0x30008, 0x40017), (0x30010, 0x5000F),
    (0x40000, wS 0 0 0 0 0 (2 ^ 20))].foldl (fun (m : Memory) p => memPut m p.1 8 p.2) []
/-- The part with that job. -/
def s0 : State :=
  { State.reset with
    mem := mem0
    slots := [(0, job0)]
    tiles := [(0, { Tile.reset with
      holder := some 0
      cores := [(0, { Core.reset with ctxs := [(0, { Ctx.reset with active := true, handler := false, gen := 1, allot := 32 })] })] })]
    mg := { State.reset.mg with pages := [⟨0, 0x10000, 65536, false, 0⟩] } }
/-- The state with numbers in registers g1, g2 and so on. -/
def withG (s : State) (l : List Word) : State :=
  s.setMe { s.me with r := (l.zipIdx 1).foldl (fun (r : Regs) p => r.setG (BitVec.ofNat 6 p.2) p.1) s.me.r }
/-- The state with its job's slot changed. -/
def withJob (s : State) (f : Slot → Slot) : State := s.setSlot 0 (f (s.slot 0))
/-- The state with core 0 of tile 0 changed. -/
def withCore (s : State) (f : Core → Core) : State := s.setCore 0 0 (f (s.core 0 0))
/-- The state with tile 0 changed. -/
def withTile (s : State) (f : Tile → Tile) : State := s.setTile 0 (f (s.tile 0))
/-- The executing context's scratchpad, byte 0. -/
def own : Word := BitVec.ofNat 64 (7 * 2 ^ 52 + 2047 * 2 ^ 21)
/-- The address `[g1]`. -/
def atG1 : MemOp := ⟨.g 1, .zr, 0, 0⟩
/-- The locations of `n` bytes of the scratchpad of tile 0 from an offset. -/
def spad (ofs n : Nat) : List Loc := (List.range n).map (fun i => .spad 0 (ofs + i))
/-- A guard, two sources and a third that can be read. -/
def operands (s : State) (a b c : SSrc) : Prop :=
  s.guard always = true ∧ (∃ x, s.readS a = .ok (x, s)) ∧ (∃ y, s.readS b = .ok (y, s)) ∧ ∃ z, s.readS c = .ok (z, s)
theorem operands_g (s : State) (h : s.guard always = true) (i j k : BitVec 6) : operands s (.g i) (.g j) (.g k) :=
  ⟨h, ⟨_, rfl⟩, ⟨_, rfl⟩, ⟨_, rfl⟩⟩

/-! Witnesses: for each statement, under its name, a state and operands that meet its hypotheses, clause by clause. -/

theorem witness_IntegerFormsActOnTheirPattern : operands s0 (.g 1) (.g 2) (.g 3) ∧ IntTy.s8.signed = true :=
  ⟨operands_g _ (by decide +kernel) _ _ _, rfl⟩
theorem witness_ComparisonsAndMoves : operands s0 (.g 1) (.g 2) (.g 3) ∧ (63#6).toNat + (0#6).toNat ≤ 63 ∧ (7 : BitVec 3) ≠ 0 :=
  ⟨operands_g _ (by decide +kernel) _ _ _, by decide, by decide⟩
theorem witness_FpArithmeticRoundsOnceAndNanIsCanonical : operands s0 (.g 1) (.g 2) (.g 3) ∧ s0.fpTraps 0x1F = false
    ∧ FpTy.f32 ≠ .f64 ∧ (FVal.nan true).isNan = true ∧ s0.readS (.g 1) = .ok (0, s0) := by
  refine ⟨operands_g _ ?_ _ _ _, ?_, ?_, ?_, ?_⟩ <;> decide +kernel
theorem witness_FpIntegerConversionsSaturate : operands s0 (.g 1) (.g 2) (.g 3) ∧ s0.fpTraps 0x1F = false
    ∧ (ElemTy.int .s32).isInt = true ∧ ElemTy.q4.isInt = true :=
  ⟨operands_g _ (by decide +kernel) _ _ _, by decide +kernel, rfl, rfl⟩
theorem witness_FpSelectionsComparisonsAndSigns : operands s0 (.g 1) (.g 2) (.g 3) ∧ s0.fpTraps 0x1F = false :=
  ⟨operands_g _ (by decide +kernel) _ _ _, by decide +kernel⟩
theorem witness_RoundingPicksTheNeighbourOfItsMode :
    ((fmtOf .f32).round .rne 0 false false 3 (-1) false).2 &&& fOF = 0
    ∧ (fmtOf .f32).val ((fmtOf .f32).round .rne 0 false false 3 (-1) false).1 = .fin false (3 * 2 ^ 22) (-23) := by decide +kernel
/-- Every flag enabled, and a signalling NaN in g1 to g3 and in each element of v1. -/
def trapping : State :=
  let s := withG s0 [0x7FA00000, 0x7FA00000, 0x7FA00000]
  s.setMe { s.me with
    csr := { s.me.csr with fpcs := 0x1F00 }
    r := s.me.r.setV 1 (BitVec.ofNat 1024 ((List.range 32).foldl (fun n k => n + 0x7FA00000 * 2 ^ (32 * k)) 0)) }
/-- Each form of the statement raises a flag there that is enabled to trap. -/
def trapsAll (s : State) : Bool :=
  let f := fmtTy .f32
  let x := f.val 0x7FA00000
  let q := s.readV (.v 1)
  let e : FVal := f.val (elem q 32 0)
  let p := elem q 32 0
  let t (fl : Flags) : Bool := s.fpTraps fl
  let w (r : Nat → Nat × Flags) : Bool := t (activeFlags 32 (s.readM 0) r)
  t (addVal f .rne 0 x x).2 && t (addVal f .rne 0 x x.opp).2 && t (mulVal f .rne 0 x x).2 && t (fmaVal f .rne 0 x x x).2
    && t (divVal f .rne 0 x x).2 && t (sqrtVal f .rne 0 x).2 && t (divVal f .rne 0 (.fin false 1 0) x).2
    && t (rsqVal f .rne 0 x).2 && t (minMaxVal f false 0x7FA00000 0x7FA00000).2 && t (minMaxVal f true 0x7FA00000 0x7FA00000).2
    && t (fcmpVal .eq x x).2 && t (convert (.fp .f32) (.fp .bf16) .rne 0 false 0x7FA00000).2
    && t (addVal (fmtTy s.immFTy) .rne 0 ((fmtTy s.immFTy).val 0x7FA00000) (immVal 0)).2
    && t (mulVal (fmtTy s.immFTy) .rne 0 ((fmtTy s.immFTy).val 0x7FA00000) (immVal 0)).2
    && w (fun _ => addVal f .rne 0 e e) && w (fun _ => mulVal f .rne 0 e e) && w (fun _ => fmaVal f .rne 0 e e e)
    && w (fun _ => minMaxVal f false p p) && w (fun _ => minMaxVal f true p p) && w (fun _ => (0, (fcmpVal .lt e e).2))
    && w (fun _ => exp2Val f .rne 0 e) && w (fun _ => log2Val f .rne 0 e) && w (fun _ => divVal f .rne 0 (.fin false 1 0) e)
    && w (fun _ => rsqVal f .rne 0 e) && t (vfcvtVal (.fp .f32) (.fp .bf16) 0 .rne false 0 (s.readM 0) false q q).2
    && t (vfredVal .f32 .add .rne (s.readM 0) q).2
theorem witness_EnabledFlagsTrapBeforeTheDestination : operands trapping (.g 1) (.g 2) (.g 3) ∧ trapping.wideBusy = false
    ∧ trapping.inProg = false ∧ trapping.readS (.g 1) = .ok (0x7FA00000, trapping) ∧ trapping.dstReady (.g 1) = .ok ()
    ∧ trapsAll trapping = true := by
  refine ⟨operands_g _ ?_ _ _ _, ?_, ?_, ?_, ?_, ?_⟩ <;> decide +kernel
theorem witness_VectorIntegersPermutesAndMoves : let s := withG s0 [31, 32]
    operands s (.g 1) (.g 2) (.g 0) ∧ s.readS (.g 1) = .ok (31, s) ∧ s.readS (.g 2) = .ok (32, s) ∧ s.me.allot = 32
    ∧ s.wideBusy = false ∧ IntTy.s32.signed = true := by
  refine ⟨operands_g _ ?_ _ _ _, ?_, ?_, ?_, ?_, ?_⟩ <;> decide +kernel
theorem witness_MasksAndReductionsTakeTheActiveElements : s0.guard always = true ∧ (s0.readM 0).getLsbD 0 = true := by decide +kernel
theorem witness_DrawsAreKeyedByLaneStreamAndCore :
    let s := s0.setMe { s0.me with csr := { s0.me.csr with rngc := BitVec.allOnes 64 } }
    (s0.guard always = true ∧ s0.me.csr.rngc ≠ BitVec.allOnes 64)
    ∧ s.guard always = true ∧ s.me.csr.rngc = BitVec.allOnes 64 ∧ s.wideBusy = false := by decide +kernel
theorem witness_VectorFpActsElementByElement : operands s0 (.g 1) (.g 2) (.g 3) ∧ s0.fpTraps 0x1F = false :=
  ⟨operands_g _ (by decide +kernel) _ _ _, by decide +kernel⟩
theorem witness_VectorFpReductionIsAFixedTree : s0.guard always = true ∧ s0.fpTraps 0x1F = false := by decide +kernel
/-- An operation that succeeds, with a result of which `p` holds. -/
def yields {α : Type} (e : Except Stop α) (p : α → Bool) : Bool :=
  match e with
  | .ok x => p x
  | .error _ => false
theorem yields_iff {α : Type} (e : Except Stop α) (p : α → Bool) (h : yields e p = true) : ∃ x, e = .ok x ∧ p x = true := by
  cases e with
  | ok x => exact ⟨x, rfl, h⟩
  | error _ => cases h
/-- The state with tile 0's atomic unit holding one event. -/
def oneWide (s : State) (w : WideUpd) : State := withTile s (fun t => { t with wide := [w] })
theorem witness_WideObjectsTakeTheirUpdatesInAnyOrder : let s := withG s0 [own]
    let w : WideUpd := ⟨s.cur, 0, 0, some 1⟩
    operands s (.g 1) (.g 2) (.g 3) ∧ s.readS (.g 1) = .ok (own, s) ∧ s.memEa atG1 = .ok (own, s)
    ∧ own.toNat / 2 ^ 32 = 7 * 2 ^ 20 ∧ own.toNat % 128 = 0 ∧ own.toNat / 2 ^ 21 % 2 ^ 11 = 2047 ∧ s.InOrder
    ∧ (∃ locs, s.locate s.agent true false 1 (span own 80) = .ok locs) ∧ s.widePending own = false ∧ s.fpTraps 0x1F = false
    ∧ s.myTile.wide = [] ∧ (((oneWide s w).tile 0).wide = [w] ∧ (oneWide s w).plateBusy 0 0 = false
      ∧ ((oneWide s w).tile 0).bad.contains 0 = false ∧ (oneWide s w).InOrder)
    ∧ (let u := withTile (oneWide s w) (fun t => { t with bad := [0] })
       (u.tile 0).wide = [w] ∧ u.plateBusy 0 0 = false ∧ (u.tile 0).bad.contains 0 = true) := by
  refine ⟨operands_g _ ?_ _ _ _, ?_, ?_, ?_, ?_, ?_, ⟨?_, ?_⟩,
    (yields_iff _ (fun _ => true) ?_).imp (fun _ h => h.1), ?_, ?_, ?_, ⟨?_, ?_, ?_, ?_, ?_⟩, ?_⟩ <;> decide +kernel
theorem witness_AFalseGuardOnlyMovesOn : (Instr.done ⟨1, false⟩).guard? = some ⟨1, false⟩
    ∧ (Instr.done ⟨1, false⟩).enc.isSome = true ∧ s0.guard ⟨1, false⟩ = false := by decide +kernel

/-- The state with the context's wait. -/
def waiting (s : State) (w : Wait) : State := s.setMe { s.me with wait := w }
/-- The state with an iteration fetcher at `n` of `stop`. -/
def fetching (n stop : Word) : State :=
  s0.setMe { s0.me with nest := { s0.me.nest with active := true, ext := 0x0001000100010004, next := n, stop := stop, step := 1 } }
theorem witness_ControlInstructionsAlignAndDone : operands s0 (.g 1) (.g 2) (.g 3)
    ∧ s0.me.wait = .none ∧ s0.me.launch = none ∧ s0.inProg = false ∧ s0.me.active = true
    ∧ s0.myTile.cores.all (fun p => p.2.ctxs.all (fun q => (p.1 == 0 && q.1 == 0) || decide (1 ≤ q.2.alignCount 0))) = true
    ∧ (waiting s0 (.align 0 1 0)).me.wait = .align 0 1 0 ∧ 0 + 256 ≤ ({ waiting s0 (.align 0 1 0) with time := 256 } : State).time
    ∧ (let s := waiting s0 (.ending false)
       s.me.wait = .ending false ∧ s.me.active = true ∧ s.myTile.runs s.me.slot s.me.jtile = true ∧ s.engineBusy = false
        ∧ s.programBusy = false ∧ s.drained = true ∧ s.me.hostWrote = false ∧ s.hostPending = false
        ∧ (s.setMe { s.me with hostWrote := true }).me.hostWrote = true
        ∧ (s.setMe { s.me with hostWrote := true }).asking = false) := by
  refine ⟨operands_g _ ?_ _ _ _, ?_⟩ <;> decide +kernel
theorem witness_TransfersGoToTheirTargets : let s := withG s0 [0x10008, 0x10002]
    operands s (.g 1) (.g 2) (.g 3) ∧ s.readS (.g 1) = .ok (0x10008, s) ∧ (0x10008 : Word).toNat % 4 = 0
    ∧ s.readS (.g 2) = .ok (0x10002, s) ∧ (0x10002 : Word).toNat % 4 ≠ 0 ∧ s.wideBusy = false ∧ s.inProg = false
    ∧ s.targetBad s.me.slot s.me.allot s.inProg 0x10008 = none ∧ s.execPage s.me.slot 0 = none
    ∧ (fetching 3 4).me.nest.active = true ∧ (fetching 3 4).me.nest.next.toNat < (fetching 3 4).me.nest.stop.toNat
    ∧ (fetching 4 4).me.nest.stop.toNat ≤ (fetching 4 4).me.nest.next.toNat := by
  refine ⟨operands_g _ ?_ _ _ _, ?_⟩ <;> decide +kernel
/-- Targets in a page of allotment 40: the middle of an instruction, and the start of one. -/
theorem witness_TransfersGoToTheirTargets_pages :
    let page : ExecPage := ⟨0, 0x10000, 65536, false, 40⟩
    let u : State := { s0 with mg := { s0.mg with pages := [page] } }
    u.inProg = false ∧ u.wideBusy = false ∧ u.execPage u.me.slot 0x10004 = some page ∧ u.execPage u.me.slot 0x10008 = some page
    ∧ (u.codeBlock u.me.slot 0x10004).map (fun b => isStart b 0x10004) = some false
    ∧ (u.codeBlock u.me.slot 0x10008).map (fun b => isStart b 0x10008) = some true ∧ u.me.allot < page.allot := by
  decide +kernel
/-- A handler at 0x10008. -/
def handling : State := s0.setMe { s0.me with csr := { s0.me.csr with tvec := 2 } }
/-- In a handler for a trap of a code. -/
def inTrap (code : Nat) : State := 
  s0.setMe { s0.me with csr := { s0.me.csr with tcause := BitVec.ofNat 64 (2 ^ 16 + code), tepc := BitVec.ofNat 64 code } }
theorem witness_TrapsSaveAndReturn :
    (handling.me.csr.tvec.toNat % 2 ^ 32 ≠ 0 ∧ handling.me.inTrap = false ∧ handling.cur.ctx ≠ 8
      ∧ handling.targetBad 0 32 false (handling.mySlot.code + BitVec.ofNat 64 (4 * 2)) = none)
    ∧ s0.me.csr.tvec.toNat % 2 ^ 32 = 0 ∧ (inTrap 1).me.inTrap = true
    ∧ s0.guard always = true ∧ s0.inProg = false ∧ s0.wideBusy = false ∧ s0.me.csr.tcause.getLsbD 16 = false
    ∧ (inTrap 1).me.csr.tcause.getLsbD 16 = true ∧ (inTrap 1).me.csr.tcause.toNat % 256 ≠ 0x0E
    ∧ (inTrap 1).me.csr.tepc.toNat % 4 ≠ 0 ∧ (inTrap 1).wideBusy = false ∧ (inTrap 4).me.csr.tepc.toNat % 4 = 0
    ∧ (inTrap 4).me.csr.tcause.getLsbD 16 = true ∧ (inTrap 4).me.csr.tcause.toNat % 256 ≠ 0x0E
    ∧ (inTrap 0x0E).me.csr.tcause.getLsbD 16 = true ∧ (inTrap 0x0E).me.csr.tcause.toNat % 256 = 0x0E
    ∧ (inTrap 1).guard always = true ∧ (inTrap 0x0E).guard always = true := by decide +kernel
theorem witness_SystemRegistersFollowTheirMaps : operands s0 (.g 1) (.g 2) (.g 3) := operands_g _ (by decide +kernel) _ _ _
/-- No location in host memory. -/
def inside (l : List Loc) : Bool := l.all (fun x => !x.atHost)
/-- The bytes `l` can be read. -/
def readsE (s : State) (e : Nat) (l : List Nat) (al : Except Stop Unit) : Bool :=
  yields (s.access s.agent false false e l l al) (fun locs => (hostNeed s.answers (l.zip locs)).isNone)
    && !s.blocked false e l && !s.strongPending
theorem reads_iff (s : State) (e : Nat) (l : List Nat) (al : Except Stop Unit) (h : readsE s e l al = true) :
    ∃ locs, s.ReadsAt false e l l al locs := by
  simp only [readsE, Bool.and_eq_true, Bool.not_eq_true'] at h
  obtain ⟨x, hx, hi⟩ := yields_iff _ _ h.1.1
  exact ⟨x, ⟨hx, h.1.2, h.2⟩, by simpa using hi⟩
/-- The same in units of one byte. -/
def reads (s : State) (l : List Nat) (al : Except Stop Unit) : Bool := readsE s 1 l al
/-- The bytes `l` can be written, and no earlier update of the context meets the store `u`. -/
def writesE (s : State) (e : Nat) (l : List Nat) (al : Except Stop Unit) (u : Update) : Bool :=
  yields (preCheck false l al) (fun _ => true) && yields (checkAll l (stepW true) .wsWrite) (fun _ => true)
    && yields (s.locate s.agent true false e l) (fun _ => true) && s.myTile.sideLog.isEmpty && s.myTile.posted.isEmpty
    && s.late.isEmpty && !s.onOwnWide (s.postOf .plain 0 s.nextId u) && !s.strongPending
theorem writes_iff (s : State) (e : Nat) (l : List Nat) (al : Except Stop Unit) (u : Update) (h : writesE s e l al u = true) :
    (∃ locs, s.WritesAt false e l l al locs) ∧ s.Unclashed u := by
  simp only [writesE, Bool.and_eq_true, Bool.not_eq_true', List.isEmpty_iff] at h
  obtain ⟨⟨⟨⟨⟨⟨⟨h1, h2⟩, h3⟩, h4⟩, h5⟩, h8⟩, h6⟩, h7⟩ := h
  obtain ⟨⟨⟩, p1, -⟩ := yields_iff _ _ h1
  obtain ⟨⟨⟩, p2, -⟩ := yields_iff _ _ h2
  obtain ⟨x, p3, -⟩ := yields_iff _ _ h3
  refine ⟨⟨x, p1, p2, p3⟩, ?_, h6, h7, ?_⟩
  · rw [h4, h5]; simp
  · simp [State.onLate, h8]
/-- The same in units of one byte. -/
def writes (s : State) (l : List Nat) (al : Except Stop Unit) (u : Update) : Bool := writesE s 1 l al u

/-- No load is late, nothing is kept of an earlier try, and no record is kept. -/
def plainState (s : State) : Bool := !s.record.keep && s.record.trace.isNone && s.me.kept.isNone && s.late.isEmpty
/-- A load or store of `n` bytes at the scratchpad's start, in units of four. -/
def touches (s : State) (n : Nat) : Bool :=
  s.guard always && plainState s && yields (s.scopeCheck false 0 false) (fun _ => true) && yields (s.scopeCheck true 0 false) (fun _ => true)
    && yields (s.order false 0 own) (fun _ => true) && yields (s.order true 0 own) (fun _ => true)
    && readsE s 4 (span own n) (aligned own 4)
    && writesE s 4 (span own n) (aligned own 4) (.store false 4 4 4 ((span own n).zip (bytesOf n 1)))
    && yields (s.release 0 own) (fun _ => true)
/-- The same, and its sources name the scratchpad's start. -/
def touching (s : State) (n : Nat) : Prop := touches s n = true ∧ s.memEa atG1 = .ok (own, s) ∧ s.readS (.g 1) = .ok (own, s)
theorem touches_own : touching (withG s0 [own]) 4 ∧ touching (withG s0 [own]) 128 := by
  refine ⟨⟨?_, ?_, ?_⟩, ⟨?_, ?_, ?_⟩⟩ <;> decide +kernel
theorem witness_LoadsDeliverTheirBytes : let s := withG s0 [own]
    touching s 4 ∧ touching s 128 ∧ regionOf own.toNat ≠ 0 ∧ own.toNat % 4 = 0 ∧ Size.w.bytes ≤ 4 ∧ s.dstReady (.g 2) = .ok ()
    ∧ s.replicaRoom true true (span own 128) :=
  ⟨touches_own.1, touches_own.2, by decide, by decide, by decide, by decide +kernel, by unfold State.replicaRoom; decide +kernel⟩
/-- The job with a page of host memory mapped at the start of region 5, whose first byte is the host's 0x9000000. -/
def hosted : State :=
  let s := withG s0 [0x50000000000000]
  let rows := [(0x1A000, 0x601A1), (0x60000, 0x701A1), (0x70000, 0x90001AF)]
  { s with mem := rows.foldl (fun (m : Memory) p => memPut m p.1 8 p.2) s.mem }
/-- A load of the host's memory passes its checks and must ask the host; a store is a posted write. -/
theorem witness_LoadsDeliverTheirBytes_host : let a : Word := 0x50000000000000
    let l := span a 8
    hosted.guard always = true ∧ plainState hosted = true ∧ hosted.memEa atG1 = .ok (a, hosted)
    ∧ yields (hosted.scopeCheck false 0 true) (fun _ => true) = true ∧ yields (hosted.order false 0 a) (fun _ => true) = true
    ∧ yields (hosted.access hosted.agent false false 4 l l (.ok ())) (fun locs => (hostNeed hosted.answers (l.zip locs)).isSome
      && (locs.map some == l.map (fun x => some (Loc.host (x - 0x50000000000000 + 0x9000000))))) = true
    ∧ hosted.blocked false 4 l = false ∧ hosted.strongPending = false ∧ hosted.asking = false := by
  refine ⟨?_, ?_, ?_, ?_, ?_, ?_, ?_, ?_, ?_⟩ <;> decide +kernel
theorem witness_StoresWriteTheirBytes : let s := withG s0 [own]
    touching s 4 ∧ touching s 128 ∧ regionOf own.toNat ≠ 0 ∧ own.toNat % 4 = 0 ∧ Size.w.bytes ≤ 4 ∧ Loc.same (.spad 0 0) (.spad 0 9) = false :=
  ⟨touches_own.1, touches_own.2, by decide, by decide, by decide, rfl⟩
/-- A `vst` without an active lane, beside one that stores; and a store to the host's memory. -/
theorem witness_StoresWriteTheirBytes_forms : let s := withG s0 [own]
    let u := s.setMe { s.me with r := s.me.r.setM 1 0 }
    (List.range 128).filter (fun t => (u.readM 1).getLsbD (8 * t / 32)) = [] ∧ writesE u 1 [] (aligned own 128) (.store false 1 4 128 []) = true
    ∧ (List.range 128).filter (fun t => (u.readM 0).getLsbD (8 * t / 32)) ≠ []
    ∧ writesE hosted 4 (span 0x50000000000000 8) (.ok ()) (.store false 4 8 8 ((span 0x50000000000000 8).zip (bytesOf 8 1))) = true := by
  refine ⟨?_, ?_, ?_, ?_⟩ <;> decide +kernel
/-- A release store of core 0 to byte 5, which passes event 6 on. -/
def released : WriteEvent :=
  ⟨7, 7, .write, (attrOf s0.agent .rel 2).at [.raw 5], .tile 0, [⟨s0.agent, 2, [(6, 9)]⟩], [(5, 1)]⟩
/-- A state that keeps a record with that event, which the context has seen. -/
def recording : State :=
  { s0.setMe { s0.me with view := { s0.me.view with own := [(7, 5)] } } with
    record := { Record.empty with keep := true, log := [released], base := [(5, 0)] }, nextId := 8 }
theorem witness_StoresReadBackAndTouchNothingElse :
    (Loc.same (.spad 0 0) (.spad 0 1) = false ∧ Loc.same (.dev 5 0 0) (.dev 6 0 0) = false)
    ∧ (recording.record.readUnit [(7, 5)] (fun _ => true) (0, 0) [(5, 1)] = [(1, some 7)]
      ∧ recording.record.log[0]? = some released ∧ released.hits [5] = true)
    ∧ (recording.nextId ≠ 7 ∧ 5 ∈ [recording.keyOf (.raw 5)] ∧ (7, 5) ∈ recording.me.view.own)
    ∧ (recording.record.keep = true ∧ ((attrOf recording.agent .acq 2).at [.raw 5]).acq = true ∧ recording.keyOf (.raw 5) = 5
      ∧ recording.record.met [5] [(7, 5)] = [⟨s0.agent, 2, [(6, 9)]⟩]
      ∧ recording.covers s0.agent 2 s0.agent = true ∧ s0.agent.slot < 64) := by decide +kernel
/-- A state whose first source names an address. -/
def pointing (a : Word) : State := withG s0 [a]
/-- A first source that names `a`, with all that the checks of an access ask before they look at it. -/
def asks (a : Word) : Prop :=
  (pointing a).guard always = true ∧ (pointing a).memEa atG1 = .ok (a, pointing a) ∧ (pointing a).readS (.g 2) = .ok (0, pointing a)
    ∧ (pointing a).wideBusy = false ∧ (pointing a).inProg = false ∧ (pointing a).scopeHas (pointing a).agent 0 = true
    ∧ (pointing a).dstReady (.g 1) = .ok ()
theorem asks_each : asks 0x80000000000000 ∧ asks 0x40000000000000 ∧ asks (own + 2) ∧ asks 0x60000000000000 := by
  refine ⟨⟨?_, ?_, ?_, ?_, ?_, ?_, ?_⟩, ⟨?_, ?_, ?_, ?_, ?_, ?_, ?_⟩, ⟨?_, ?_, ?_, ?_, ?_, ?_, ?_⟩,
    ⟨?_, ?_, ?_, ?_, ?_, ?_, ?_⟩⟩ <;> decide +kernel
theorem witness_AccessChecksTrapInOrder :
    (asks 0x80000000000000 ∧ asks 0x40000000000000 ∧ asks (own + 2) ∧ asks 0x60000000000000)
    ∧ 0x80000000000000 / 2 ^ 55 ≠ 0 ∧ regionOf 0x40000000000000 = 4 ∧ (own + 2).toNat % 4 ≠ 0 ∧ (own + 2).toNat % 128 ≠ 0
    ∧ regionOf own.toNat ≠ 5 ∧ (∀ i < 128, let a := (own + 2 + BitVec.ofNat 64 i).toNat
        a / 2 ^ 55 = 0 ∧ regionOf a = 7)
    ∧ (∀ i < 4, let a := (0x60000000000000 + BitVec.ofNat 64 i).toNat
        a / 2 ^ 55 = 0 ∧ regionOf a = 6) := by
  refine ⟨asks_each, ?_, ?_, ?_, ?_, ?_, ?_, ?_⟩ <;> decide
theorem witness_FencesAndCacheInstructionsChangeNoByte :
    (let s := pointing 0x20000
     s.guard always = true ∧ s.memEa atG1 = .ok (0x20000, s) ∧ regionOf 0x20000 < 4 ∧ s.prefetches 0x20000 = true
       ∧ s.cleanBusy s.mySlot.asid 0x20000 = false)
    ∧ (pointing own).memEa atG1 = .ok (own, pointing own) ∧ own.toNat / 2 ^ 55 = 0 ∧ 4 < regionOf own.toNat
    ∧ s0.guard always = true ∧ s0.scopeHas s0.agent 3 = true ∧ s0.scopeHas s0.agent 4 = false ∧ s0.myTile.posted = []
    ∧ s0.myTile.sideLog = [] ∧ s0.myTile.wide = [] ∧ s0.hostRmwsDone = true ∧ s0.me.hostWrote = false ∧ s0.late = []
    ∧ s0.wideBusy = false ∧ s0.inProg = false := by
  decide +kernel


/-! Memory operations (spec/07 to spec/09, spec/14). -/

/-- A linear entry of four 32-bit words at the scratchpad's start, and a ring of two slots of 64 bytes. -/
def plainT : Tensor := #v[0x680, own, 4 + 2 ^ 32, 1 + 2 ^ 32, 0, 0, 0, 0]
/-- The ring. -/
def ringT : Tensor := #v[0x483, 0x20000, 2 + 64 * 2 ^ 32, 0x20100, 0x20200, 0x20300, 2 ^ 16, 0]
/-- The job with those entries. -/
def tabled : State := withJob (withG s0 [own, 2]) (fun j => { j with tensors := [(0, plainT), (1, ringT)] })
/-- The bytes of the first four elements of `plainT`. -/
def plainBytes : List Nat := span own 16
theorem witness_TensorAccessesUseTheirEntries :
    (tabled.guard always && tValid plainT && tKind plainT == some .plain && !isPacked (tTy plainT) && tLayout plainT == 0
      && yields (tabled.scopeCheck false 0 false) (fun _ => true) && yields (tabled.release 0 (BitVec.ofNat 64 (2 ^ 52))) (fun _ => true)
      && regionOf own.toNat != 0 && own.toNat % 4 == 0 && reads tabled plainBytes (.ok ())
      && writes tabled plainBytes (.ok ()) (.store false 1 4 4 (plainBytes.zip (bytesOf 16 0)))
      && decide (0 < plainExt plainT 0 ∧ 0 < plainExt plainT 1 ∧ 0 < plainExt plainT 2 ∧ 0 < plainExt plainT 3)
      && !decide (4 < plainExt plainT 0) && !tabled.wideBusy && !tabled.inProg
      && tValid ringT && tKind ringT == some .ring && decide (0 < tf ringT 2 32 32 ∧ 0 < tf ringT 2 0 32)
      && !tValid (tabled.mySlot.tensor 5)) = true ∧ tabled.mySlot.tensor 0 = plainT ∧ tabled.mySlot.tensor 1 = ringT
    ∧ plainState tabled = true ∧ tabled.readS (.g 2) = .ok (2, tabled) ∧ tabled.readS .zr = .ok (0, tabled) := by
  refine ⟨?_, ?_, ?_, ?_, ?_, ?_⟩ <;> decide +kernel
/-- Entries of every kind that `tld` takes: eight packed Q4 elements; a weight-store slice; a tensor of two channels, two columns and
two rows and its unfolding; the ring of above in the scratchpad; a column-tiled one. -/
def kinds : State :=
  withJob (withG s0 [0, 0]) (fun j => { j with
    wsLen := 1
    tensors := [(0, #v[0xE80, own, 8 + 2 ^ 32, 1 + 2 ^ 32, 0, 0, 0, 0]),
      (1, #v[0x51EA4, 0, 8 + 2 ^ 32, 4, 0, 0, 0, 0]), (2, #v[0x3480, own, 2 + 2 * 2 ^ 32, 2 + 2 ^ 32, 2, 4, 0, 0]),
      (3, #v[0x1481, 2, 0x10101010101, 0, 0, 0, 0, 0]), (4, #v[0x483, own, 1 + 64 * 2 ^ 32, own + 256, own + 272, own + 288, 2 ^ 16, 0]),
      (5, #v[0x5680, own, 2 + 2 * 2 ^ 32, 1 + 2 ^ 32, 1024, 0, 0, 0])] })
/-- The elements of a register that an access through an entry moves, by rows or by columns. -/
def movedOf (s : State) (o : Bool) (t src : Tensor) : List Place :=
  (List.range (if tTy t = .q3 then 320 else 1024 / (tTy t).width)).filterMap (fun j =>
    let cs := (if o then [j / 32, j % 32] else [j, 0]) ++ [0, 0]
    if tInside t src cs then placeOf t src s.me.jtile cs else none)
/-- The bytes of those elements, each place once. -/
def movedBytes (s : State) (o : Bool) (t src : Tensor) : List Nat :=
  ((movedOf s o t src).map (fun p => (p.addr, p.n))).eraseDups.flatMap (fun q => span (BitVec.ofNat 64 q.1) q.2)
/-- `tld` may read through the entry. -/
def loadsBy (s : State) (id : Nat) (o : Bool) : Bool :=
  yields (s.entry id (fun k => k == .plain || (k == .unfold && !o) || k == .ring || k == .weights)) (fun p =>
    !(movedOf s o p.1 p.2).isEmpty && reads s (movedBytes s o p.1 p.2) (.ok ())
      && yields (preCheck o (movedBytes s o p.1 p.2) (.ok ())) (fun _ => true))
/-- `tst` may write through the entry. -/
def storesBy (s : State) (id : Nat) (o : Bool) : Bool :=
  yields (s.entry id (fun k => k == .plain || k == .ring)) (fun p =>
    let l := movedBytes s o p.1 p.2
    !l.isEmpty && yields (preCheck o l (.ok ())) (fun _ => true)
      && writes s l (.ok ()) (if isPacked (tTy p.1) then .packed ((movedOf s o p.1 p.2).map (fun q => (q.addr, 0, 0)))
        else .store false 1 1 1 (l.zip (bytesOf l.length 0))))
theorem witness_TensorAccessesUseTheirEntries_kinds : (kinds.guard always && plainState kinds && loadsBy kinds 0 false && loadsBy kinds 1 false
      && loadsBy kinds 2 false && loadsBy kinds 2 true && loadsBy kinds 3 false && loadsBy kinds 4 false && loadsBy kinds 5 false
      && storesBy kinds 0 false && storesBy kinds 2 true && storesBy kinds 4 false && storesBy kinds 5 false
      && yields (kinds.scopeCheck false 0 false) (fun _ => true) && yields (kinds.order false 0 (BitVec.ofNat 64 (2 ^ 52))) (fun _ => true)) = true
    ∧ kinds.readS (.g 1) = .ok (0, kinds) ∧ kinds.readS (.g 2) = .ok (0, kinds) := by
  refine ⟨?_, ?_, ?_⟩ <;> decide +kernel
/-- The state with the words of `plainT` at the scratchpad's start. -/
def drafted : State := withTile (withG s0 [own]) (fun t =>
  { t with spad := plainT.toList.zipIdx.foldl (fun (m : Memory) p => memPut m (8 * p.2) 8 p.1.toNat) [] })
theorem witness_TensorDefinitionsReachTheTable : let s := drafted
    (s.guard always && s.me.wait != .tdef && reads s (span own 64) (aligned own 64)
      && yields (s.order false 2 own) (fun _ => true) && s.mySlot.accepts (tensorOf ((spad 0 64).map s.readLoc))) = true
    ∧ plainState s = true ∧ s.readS (.g 1) = .ok (own, s) ∧ s.readS .zr = .ok (0, s)
    ∧ ((withJob s (fun j => { j with tdefs := [(s.cur, 3, plainT)] })).slot 0).tdefs = [(s.cur, 3, plainT)]
    ∧ (waiting s .tdef).me.wait = .tdef := by
  refine ⟨?_, ?_, ?_, ?_, ?_, ?_⟩ <;> decide +kernel

/-- An address of the scratchpad in g1, a number in g2, and a counter's address in g3. -/
def counting (n : Word) : State := withG s0 [own, n, own + 64]
/-- A read-modify-write of `n` bytes at `own` passes its checks. -/
def rmwOk (s : State) (n : Nat) : Bool :=
  yields (s.rmwChecks (span own n) (aligned own n) true false) (fun _ => true)
    && yields (s.rmwChecks (span own n) (aligned own n) false false) (fun _ => true)
    && yields (s.rmwLocs 0 own n) inside && yields (s.issueLocate (span own n)) (fun _ => true)
    && yields (s.flushFor true 0 own) (fun _ => true)
/-- The record of a context whose one event is a read-modify-write at the tile. -/
def rmwRecord : State :=
  { recording with record := { recording.record with log := [{ released with kind := .rmw, cells := [(recording.keyOf (.spad 0 0), 1)] }] } }
theorem witness_AtomicsAndReductionsUpdateTheirBytes : let s := counting 3
    (s.guard always && yields (s.scopeCheck true 0 (atHost own)) (fun _ => true) && yields (s.order true 0 own) (fun _ => true)
      && rmwOk s 4 && rmwOk s 8 && rmwOk s 16 && rmwOk s 128 && s.scopeHas s.agent 0 && regionOf own.toNat != 5
      && yields (s.counterOk (some (own + 64))) (fun _ => true)
      && rmwRecord.record.keep && decide (rmwRecord.pointOf true 0 (.spad 0 0) = .tile 0)) = true
    ∧ plainState s = true ∧ s.memEa atG1 = .ok (own, s) ∧ s.readS (.g 2) = .ok (3, s) ∧ s.readS (.g 3) = .ok (own + 64, s) := by
  refine ⟨?_, ?_, ?_, ?_, ?_⟩ <;> decide +kernel
/-- The counter at `own` full to its last value. -/
def fullCounter (s : State) : State := withTile s (fun t => { t with spad := memPut t.spad 0 8 (2 ^ 64 - 1) })
/-- `cread` and `cwait` of the counter at `own`. -/
def src : CtrSrc := .mem atG1 0
theorem witness_CountersAddAndAnswerTheirWaits : let s := counting 3
    (s.guard always && yields (s.scopeCheck true 0 (atHost own)) (fun _ => true) && yields (s.counterChecks own) (fun _ => true)
      && yields (s.order true 0 own) (fun _ => true) && yields (s.rmwLocs 0 own 8) (fun l => leNat (l.map s.readLoc) == 0)
      && yields ((fullCounter s).rmwLocs 0 own 8) (fun l => leNat (l.map (fullCounter s).readLoc) == 2 ^ 64 - 1)
      && !s.wideBusy && !s.inProg && !s.me.handler && s.me.wait == .none
      && yields (s.cwaitOperands src (.g 2)) (fun p => p.1 == own && p.2.1 == 3)
      && yields (s.readSource true (fun v => decide (3 ≤ v.toNat)) src own) (fun p => p.1 == 0
        && yields (p.2.cwaitOperands src (.g 2)) (fun _ => true))
      && yields ((counting 0).readSource true (fun v => decide (0 ≤ v.toNat)) src own) (fun p => p.1 == 0)
      && yields (s.sourceEa src) (fun p => yields (p.2.readSource true (fun _ => true) src p.1) (fun _ => true))
      && s.freeWatch (s.watchPoint own) && yields (s.dstReady (.g 4)) (fun _ => true)
      && (waiting s (.answered 5 [])).me.wait == .answered 5 []
      && yields ((waiting s (.answered 5 [])).sourceEa src) (fun _ => true)
      && (waiting s (.reread 0 false)).me.wait == .reread 0 false) = true ∧ plainState s = true
    ∧ s.memEa atG1 = .ok (own, s) ∧ s.readS (.g 2) = .ok (3, s) ∧ (counting (2 ^ 63)).readS (.g 2) = .ok (2 ^ 63, counting (2 ^ 63)) := by
  refine ⟨?_, ?_, ?_, ?_, ?_⟩ <;> decide +kernel
theorem witness_ClaimsTakeConsecutiveChunks : let s := counting 3
    (s.guard always && yields (s.scopeCheck true 0 (atHost own)) (fun _ => true) && yields (s.counterChecks own) (fun _ => true)
      && yields (s.order true 0 own) (fun _ => true) && yields (s.rmwLocs 0 own 16) (fun _ => true)
      && claimEnd 0 100 4 3 == 13 && claimEnd 98 100 4 3 == 100 && claimEnd 100 100 4 3 == 100) = true
    ∧ plainState s = true ∧ s.memEa atG1 = .ok (own, s) ∧ s.readS (.g 2) = .ok (3, s) := by
  refine ⟨?_, ?_, ?_, ?_⟩ <;> decide +kernel

/-- A grid of one dimension, one level of two points and one feature, its table at 0x20000 and its level table at the
scratchpad's start. -/
def gridT : Tensor := #v[0xA92, 0x20000, own, 0x30000000000000, 0, 0, 0, 0]
/-- The job with that grid, whose level table is in place, and a counter's address in g3. -/
def gridded : State :=
  withTile (withJob (withG s0 [0, 0, own + 64]) (fun j => { j with tensors := [(0, gridT)] }))
    (fun t => { t with spad := memPut t.spad 0 8 (1 + 4 * 2 ^ 32) })
/-- The bytes of the corners of each lane. -/
def cornerBytes (n base : Nat) : List Nat := (List.range 32).flatMap (fun _ => (List.range (2 * n)).map (fun i => base + i))
theorem witness_GridReadsBlendTheCornersOfTheirTable :
    (gridded.guard always && yields (gridded.gridEntry 0) (fun t => t == gridT)
      && yields (gridded.gridLevel 0 gridT 0) (fun p => p.1 == (⟨1, 4⟩, 0)
        && yields (p.2.gridLanes gridT (gridded.readM 0) 0 none) (fun l => l.length == 32)
        && reads p.2 (cornerBytes 2 0x20000) (.ok ()) && yields (p.2.order false 0 0x20000) (fun _ => true))
      && yields (gridded.runOk 0 (gridD gridT)) (fun _ => true) && yields (gridded.runOk 1 2) (fun _ => true)
      && yields (gridded.scopeCheck false 0 false) (fun _ => true) && decide (0 < 2 ^ gridD gridT)
      && levelOk (1 + 4 * 2 ^ 32) && (levelOf (1 + 4 * 2 ^ 32)).dense 1 && decide (1 ≤ (levelOf (1 + 4 * 2 ^ 32)).n)) = true
    ∧ plainState gridded = true ∧ gridded.readS .zr = .ok (0, gridded) := by
  refine ⟨?_, ?_, ?_⟩ <;> decide +kernel
theorem witness_GridWritesPostTermsThatSumInAnyOrder :
    (gridded.guard always && gridded.scopeHas gridded.agent 0 && regionOf (own + 64).toNat != 5
      && yields (gridded.gridEntry 0) (fun t => t == gridT) && yields (gridded.runOk 2 (gridF gridT)) (fun _ => true)
      && yields (gridded.gridLevel 0 gridT 0) (fun p =>
        yields (p.2.gridLanes gridT (gridded.readM 0) 0 (some 2)) (fun l => l.length == 32)
        && yields (p.2.rmwChecks (cornerBytes 16 0x30000000000000) (.ok ()) false true) (fun _ => true)
        && yields (p.2.issueLocate (cornerBytes 16 0x30000000000000)) (fun _ => true)
        && yields (p.2.counterOk (some (own + 64))) (fun _ => true))) = true
    ∧ gridded.readS (.g 3) = .ok (own + 64, gridded) ∧ [(1 : BitVec 96), 2].Perm [2, 1] := by
  refine ⟨?_, ?_, List.Perm.swap 2 1 []⟩ <;> decide +kernel

/-- A near-memory exchange of two lines, the first performed. -/
def nearRun (next : Nat) : CopyRun :=
  { num := 1, slot := 0, ctx := 0, byProg := false, launch := none, started := true, next := next, held := none, waited := [], moved := false
    cut := false, got := [], seen := [], made := [], after := 0, cmd := .near 0x20000 own 0 false .cx 2 0 0 }
/-- The core with that command. -/
def nearing (next : Nat) : State := withCore (withG s0 [0x20000, own, own + 64]) (fun k => { k with copies := [nearRun next] })
theorem witness_NearMemoryCommandsApplyTheirKind : let s := withG s0 [0x20000, own, own + 64]
    (s.guard always && s.scopeHas s.agent 0 && regionOf (own + 64).toNat != 5 && own.toNat % 32 == 0
      && (span own 64).all (fun a => ownSpad s.me.jtile (BitVec.ofNat 64 a) && s.mySlot.allotted (a % 2 ^ 16))
      && yields (s.counterOk (some (own + 64))) (fun _ => true) && s.myCore.copyRoom && s.drained
      && yields (s.locateRmw s.agent (span own 64)) inside && yields (s.locateRmw s.agent (span 0x20000 32)) inside
      && (nearing 0).nearIndex ((nearing 0).core 0 0).copies == some 0 && ((nearing 0).tile 0).works 0
      && canRun ((nearing 0).core 0 0).copies 0 && canRun ((nearing 1).core 0 0).copies 0
      && yields ((nearing 0).nearUpdate s.agent (nearRun 0) 0x20000 own .cx 0) (fun _ => true)
      && yields ((nearing 1).nearUpdate s.agent (nearRun 1) 0x20000 own .cx 0) (fun _ => true)) = true
    ∧ s.readS (.g 1) = .ok (0x20000, s) ∧ s.readS (.g 2) = .ok (own, s) ∧ s.readS (.g 3) = .ok (own + 64, s) ∧ plainState s = true := by
  refine ⟨?_, ?_, ?_, ?_, ?_⟩ <;> decide +kernel


/-! Engines (spec/10, spec/11). -/

/-- A plain entry of two by two elements of a type, at the scratchpad's start. -/
def squareT (ty : ElemTy) : Tensor :=
  #v[BitVec.ofNat 64 (0x1080 + 256 * ty.code), own, 2 + 2 * 2 ^ 32, 1 + 2 ^ 32, BitVec.ofNat 64 (2 * (ty.width / 8)), 0, 0, 0]
/-- The job with such entries of BF16 and FP32 and with a ring, the coordinates 0 in g1 and g2 and an address in g3. -/
def engined : State :=
  withJob (withG s0 [0, 0, own + 128]) (fun j => { j with
    tensors := [(0, squareT (.fp .bf16)), (1, squareT (.fp .f32)), (2, ringT)] })
/-- Every byte can be reached by an engine, and none lies in the weight store. -/
def reach (s : State) (l : List Nat) : Bool :=
  l.all (fun a => step1 a && step4 s.mySlot a && step5 s.mySlot a && regionOf a != 6)
/-- The bytes of an operand. -/
def operandBytes (t : Tensor) (rows ks : Nat) : List Nat :=
  accessBytes (accessesOf ((⟨t, t, false, [0, 0, 0, 0]⟩ : Operand).places 0 rows ks))
theorem witness_MatrixCommandsJoinTheirQueue : let s := engined
    (s.guard always && !s.mySlot.ovl && !s.me.handler && s.drained && ((s.myTile.unit 0).queue 0).isEmpty
      && (s.me.queue 4).hasRoom
      && yields (s.entry 0 (fun k => k == .plain)) (fun p => p.1 == squareT (.fp .bf16))
      && yields (s.entry 0 (fun k => k == .plain || k == .weights)) (fun p => p.1 == squareT (.fp .bf16))
      && yields (s.entry 0 (fun k => k == .plain || k == .unfold)) (fun p => p.1 == squareT (.fp .bf16))
      && yields (s.entry 1 (fun k => k == .plain)) (fun p => p.1 == squareT (.fp .f32))
      && fmtOk (squareT (.fp .bf16)) [.fp .e4m3, .q4, .q3] && fmtOk (squareT (.fp .bf16)) [.fp .e4m3, .fp .e5m2]
      && kOk (squareT (.fp .bf16)) (squareT (.fp .bf16)) false [0, 0, 0, 0] && tHome (squareT (.fp .bf16)) != 2
      && reach s (operandBytes (squareT (.fp .bf16)) 32 32) && mstFmt (squareT (.fp .f32)) && tHome (squareT (.fp .f32)) == 0
      && (own + 128).toNat % 128 == 0 && reach s (span (own + 128) 128) && reach s (operandBytes (squareT (.fp .f32)) 32 32)
      && tTy (squareT (.fp .f32)) == .fp .f32 && tLayout (squareT (.fp .f32)) == 0
      && reach s (operandBytes (squareT (.fp .f32)) 1 32)) = true
    ∧ s.readS (.g 1) = .ok (0, s) ∧ s.readS (.g 2) = .ok (0, s) ∧ s.readS (.g 3) = .ok (own + 128, s) := by
  refine ⟨?_, ?_, ?_, ?_⟩ <;> decide +kernel

/-- A matrix command, its first step to come. -/
def matRun (cmd : MatCmd) : MatRun :=
  { num := 1, slot := 0, ctx := 0, launch := none, status := none, next := 0, low := 0, begun := false, cut := false, held := none, waited := []
    got := [], seen := [], made := [], cmd := cmd }
/-- The core's queue with that command. -/
def steppingM (cmd : MatCmd) : State :=
  engined.setUnit 0 0 ((engined.myTile.unit 0).setQueue 0 [matRun cmd])
/-- The command may take a step on its path. -/
def stepReady (cmd : MatCmd) : Bool :=
  let s := steppingM cmd
  let u := (s.tile 0).unit 0
  let cand (k : Nat) : Option MatRun := u.candidate (s.tile 0) 0 k k cmd.path
  u.begunOn cmd.path == none && cand 0 == some (matRun cmd)
    && (MUnit.arbitrate u.ptr[(pathIndex cmd.path)] u.credit[(pathIndex cmd.path)] (fun k => if k = 0 then 1 else 0)
      (fun k => (cand k).isSome)) == some (0, 1)
    && ((s.core 0 0).job (jobKey 0 0)).mxw == 1
/-- An engine of the core may read the bytes. -/
def engineReads (cmd : MatCmd) (l : List Nat) : Bool :=
  yields ((steppingM cmd).matrixRead engined.agent (matRun cmd) l) (fun _ => true)
/-- An engine of the core may write the bytes. -/
def engineWrites (cmd : MatCmd) (l : List Nat) : Bool :=
  yields ((steppingM cmd).locate engined.agent true false 1 l) inside
/-- A command of each kind. -/
def mClear : MatCmd := .clear 0
/-- `mclr` with a tensor. -/
def mLoadAcc : MatCmd := .loadAcc 0 false 1 (squareT (.fp .f32)) [0, 0, 0, 0]
/-- `mwl`. -/
def mLoad : MatCmd := .load 0 false false 0 (squareT (.fp .bf16)) [0, 0, 0, 0]
/-- `mma`. -/
def mMulAcc : MatCmd := .mulAcc 0 0 false 0 (squareT (.fp .bf16)) (squareT (.fp .bf16)) [0, 0, 0, 0]
/-- `mst`. -/
def mStore : MatCmd := .store 0 false false false .rne 1 (squareT (.fp .f32)) [0, 0, 0, 0] none
/-- `mst` with a scale vector. -/
def mScaled : MatCmd := .store 0 false false false .rne 1 (squareT (.fp .f32)) [0, 0, 0, 0] (some (own + 128))
/-- `mfac`. -/
def mFactor : MatCmd := .factor 0 true false 2 0x3F800000
/-- `mtrs`. -/
def mSolve : MatCmd := .solve 0 .l 1 (squareT (.fp .f32)) [0, 0, 0, 0] 1
theorem witness_MatrixStepsComputeTheirCommands : plainState (steppingM mClear) = true ∧ (stepReady mClear && stepReady mLoadAcc && engineReads mLoadAcc (operandBytes (squareT (.fp .f32)) 32 32)
      && stepReady mLoad && engineReads mLoad ((⟨squareT (.fp .bf16), squareT (.fp .bf16), false, [0, 0, 0, 0]⟩ : Operand).bytes 0 32 32)) = true :=
  ⟨rfl, by decide +kernel⟩
theorem witness_MatrixStepsThatMultiplyAndStore :
    (stepReady mMulAcc && (tTy (squareT (.fp .bf16)) == .fp .bf16) != (((steppingM mMulAcc).tile 0).unit 0 |>.slot 0).af8
      && (((steppingM mMulAcc).tile 0).unit 0 |>.slot 0).k == 32
      && engineReads mMulAcc ((⟨squareT (.fp .bf16), squareT (.fp .bf16), false, [0, 0, 0, 0]⟩ : Operand).bytes 0 32 32)
      && stepReady mStore && engineWrites mStore (operandBytes (squareT (.fp .f32)) 32 32)
      && stepReady mScaled && engineReads mScaled (span (own + 128) 128) && engineWrites mScaled (operandBytes (squareT (.fp .f32)) 32 32)) = true := by
  decide +kernel
theorem witness_MatrixStepsThatFactorAndSolve :
    (stepReady mFactor && stepReady mSolve && engineReads mSolve (operandBytes (squareT (.fp .f32)) 1 32)
      && engineWrites mSolve (operandBytes (squareT (.fp .f32)) 1 32)) = true := by
  decide +kernel
theorem witness_ArbitrationAndBlockSums : [some (.fin false 1 0), none].Perm [none, (some (.fin false 1 0) : Option FVal)]
    ∧ MUnit.arbitrate 0 0 (fun _ => 1) (fun k => k == 0) = some (0, 1) ∧ MUnit.arbitrate 0 1 (fun _ => 1) (fun k => k == 2) = some (2, 1) :=
  ⟨List.Perm.swap _ _ [], by decide, by decide⟩


/-- A ring of the scratchpad: two slots of 64 bytes at its byte 4096, its tags, HEAD and TAIL behind them. -/
def spadRing : Tensor := #v[0x483, own + 4096, 2 + 64 * 2 ^ 32, own + 4352, own + 4608, own + 4624, 2 ^ 16, 0]
/-- A square entry elsewhere in the scratchpad. -/
def squareAt (ofs : Word) : Tensor := (squareT (.fp .f32)).set 1 (own + ofs)
/-- The job with entries to copy between: g1 to g6 hold coordinates, a box of one by one, and addresses. -/
def copying : State :=
  withJob (withG s0 [0, 0, 1 + 2 ^ 16, 0x20000, 64, own + 8192]) (fun j => { j with
    tensors := [(1, squareT (.fp .f32)), (2, spadRing), (3, squareAt 64)] })
theorem witness_CopyCommandsQueueAndMoveTheirBytes : let s := copying
    (s.guard always && s.myCore.copyRoom && s.drained
      && yields (s.cpyEntries false false false 1 3 [0, 0, 0, 0] [0, 0, 0, 0] [1, 1, 1, 1] (1 + 2 ^ 16)) (fun p =>
        p == (squareT (.fp .f32), squareAt 64) && tHome p.2 == 0)
      && reach s (span own 4) && reach s (span (own + 64) 4)
      && rakeOk s.me.csr.rake 64 (own + 8192) && regionOf 0x20000 == 0 && regionOf (own + 8192).toNat == 7
      && reach s (span 0x20000 64) && reach s ((List.range 64).map (rakeByte (own + 8192) s.me.csr.rake))
      && yields (s.ringEntry 2) (fun t => t == spadRing) && reach s (span (own + 4096) 64)
      && decide (0 < tf spadRing 2 0 32) && decide (0 + 64 ≤ tf spadRing 2 32 32)) = true
    ∧ s.readS (.g 1) = .ok (0, s) ∧ s.readS (.g 3) = .ok (1 + 2 ^ 16, s) ∧ plainState s = true := by
  refine ⟨?_, ?_, ?_, ?_⟩ <;> decide +kernel

/-- A copy command at granule `next`. -/
def copyRun (cmd : CopyCmd) (moved : Bool) (next : Nat) : CopyRun :=
  { num := 1, slot := 0, ctx := 0, byProg := false, launch := none, started := true, next := next, held := none, waited := [], moved := moved
    cut := false, got := [], seen := [], made := [], after := 0, cmd := cmd }
/-- The core with that command. -/
def movingC (r : CopyRun) : State := withCore copying (fun k => { k with copies := [r] })
/-- The next granule can move: its source and destination bytes have places, and its reads an answer. -/
def granuleReady (cmd : CopyCmd) (srcs dsts : List Nat) : Bool :=
  let r := copyRun cmd false 0
  let s := movingC r
  (s.tile 0).works 0 && !r.cmd.isNear && canRun (s.core 0 0).copies 0 && decide (0 < r.cmd.granules) && !s.programWaits 0 0 0 r
    && yields (s.locate s.agent false false 1 srcs) (fun sl =>
      yields (s.engineRead s.agent r.got r.seen (srcs.zip sl)) (fun _ => true))
    && yields (s.locate s.agent true false 1 dsts) inside
/-- A `cring` of 64 bytes into slot 0, all bytes moved. -/
def ringRun : CopyRun := copyRun (.ring 0x20000 0 0 64 2 spadRing) true 1
/-- The state with a byte of the ring's tags. -/
def ringTags (s : State) (b : Byte) : State := withTile s (fun t => { t with spad := memSet t.spad 4352 b })
theorem witness_CopyGranulesMove :
    (granuleReady (.fill 0x20000 64 0) [] (span 0x20000 64)
      && granuleReady (.rake 0x20000 (own + 8192) 64 copying.me.csr.rake) (span 0x20000 64)
        ((List.range 64).map (rakeByte (own + 8192) copying.me.csr.rake))
      && granuleReady (.ring 0x20000 0 0 64 2 spadRing) (span 0x20000 64) (span (own + 4096) 64)
      && granuleReady (.box false false (squareT (.fp .f32)) (squareAt 64) 3 [0, 0, 0, 0] [0, 0, 0, 0] [1, 1, 1, 1] 0 0)
        (span own 4) (span (own + 64) 4)
      && !isPacked (tTy (squareT (.fp .f32)))) = true := by decide +kernel
theorem witness_CopyFillCounts :
    (((movingC ringRun).tile 0).works 0
      && yields ((ringTags (movingC ringRun) 0x01).tagLoc copying.agent spadRing 0) (fun tl => inside tl
        && (ringTags (movingC ringRun) 0x01).readTag tl 0 == .filling && (movingC ringRun).readTag tl 0 == .empty)
      && decide (tf spadRing 2 32 32 ≤ 64) && fillRoom ((movingC ringRun).tile 0).fills (fillKey copying.agent spadRing 0)) = true := by
  decide +kernel

/-- The ring's producer or consumer finds its slot so. -/
def ringState (b : Byte) : State := ringTags (withG s0 [0]) b |> fun s => withJob s (fun j => { j with tensors := [(2, spadRing)] })
/-- The hypotheses of a claim that the tag decides. -/
def claims (b : Byte) (tag : RTag) : Bool :=
  let s := ringState b
  s.guard always && s.scopeHas s.agent 2 && yields (s.ringEntry 2) (fun t => t == spadRing)
    && yields (s.rmwLocs 0 (spadRing[4]) 8) (fun hl => yields (s.rmwLocs 0 (spadRing[5]) 8) (fun tl =>
      s.loadNat hl == 0 && s.loadNat tl == 0
        && yields (s.tagLoc s.agent spadRing 0) (fun l => s.readTag l 0 == tag && inside (l ++ hl ++ tl)
          && (l ++ hl).all (fun x => ((l ++ hl).filter (fun y => x.same y)).length == 1)
          && (l ++ tl).all (fun x => ((l ++ tl).filter (fun y => x.same y)).length == 1))))
    && yields (s.dstReady (.g 4)) (fun _ => true) && s.me.wait == .none
    && !s.blocked false 1 [(tagAddr spadRing 0).toNat] && !s.strongPending
    && yields (s.release 2 (tagAddr spadRing 0)) (fun _ => true) && decide (0 < tf spadRing 2 0 32) && !s.wideBusy && !s.inProg
theorem witness_RingsAndQueuesKeepTheirOrder :
    (claims 0 .empty && claims 1 .filling && claims 2 .full && claims 3 .draining) = true
    ∧ plainState (ringState 0) = true ∧ (ringState 0).readS (.g 1) = .ok (0, ringState 0)
    ∧ (waiting (ringState 0) (.ring 0 true)).me.wait = .ring 0 true
    ∧ (waiting (ringState 0) (.ring 0 false)).me.wait = .ring 0 false := by
  refine ⟨?_, ?_, ?_, ?_, ?_⟩ <;> decide +kernel
/-- The state with a queue's entries. -/
def queued (s : State) (n : BitVec 3) (l : List Word) : State := s.setMe (s.me.setQueue n { s.me.queue n with items := l })
/-- A program, ended or not. -/
def progOf (closing finished : Bool) (ended : Option Word) : Prog :=
  { Prog.begin 0x10008 0 0 [] with closing := closing, finished := finished, ended := ended }
/-- A program runs. -/
def programmed (p : Prog) : State := { s0.setMe { s0.me with prog := some p } with inProg := true }
/-- A handler context. -/
def inHandler : State := s0.setMe { s0.me with handler := true }
theorem witness_QueuesOfContextsAndPrograms :
    (s0.guard always && !s0.me.handler && (s0.me.queue 0).hasRoom && !(((queued s0 0 (List.replicate 8 1)).me.queue 0).hasRoom)
      && ((queued s0 2 [7]).me.queue 2).items == [7] && (s0.me.queue 2).items == []
      && (programmed (progOf true false none)).inProg && ((programmed (progOf true false none)).me.queue 0).items == []
      && (programmed (progOf true false none)).me.prog == some (progOf true false none)
      && yields ((programmed (progOf true false none)).dstReady (.g 1)) (fun _ => true)
      && !s0.inProg && !s0.wideBusy && inHandler.guard always && inHandler.me.handler && (inHandler.me.queue 0).hasRoom
      && !((queued inHandler 0 (List.replicate 8 1)).me.queue 0).hasRoom && ((queued inHandler 2 [7]).me.queue 2).items == [7]
      && (inHandler.me.queue 2).items == [] && yields (s0.dstReady (.g 1)) (fun _ => true)
      && yields (inHandler.dstReady (.g 1)) (fun _ => true) && !decide ((4 : BitVec 3).toNat < 2) && !decide (2 ≤ (0 : BitVec 3).toNat)
      && ((programmed (progOf false false none)).me.queue 3).hasRoom
      && ((queued (programmed (progOf false false none)) 1 [9]).me.queue 1).items == [9]) = true
    ∧ s0.readS (.g 1) = .ok (0, s0) ∧ inHandler.readS (.g 1) = .ok (0, inHandler) := by
  refine ⟨?_, ?_, ?_⟩ <;> decide +kernel
theorem witness_ProgramsForkAndJoin :
    (s0.guard always && s0.me.prog == none && s0.targetBad s0.me.slot s0.me.allot true (s0.me.r.pc + ((0x4002 : BitVec 34).signExtend 64 <<< 2)) == none
      && s0.drained && !s0.inProg
      && (s0.setMe { s0.me with prog := some (progOf false true (some 3)) }).me.prog == some (progOf false true (some 3))
      && !({ programmed (progOf false false none) with inProg := false } : State).inProg
      && ((programmed (progOf true false (some 3))).myCore.copies).isEmpty) = true
    ∧ plainState s0 = true ∧ s0.readS (.g 1) = .ok (0, s0) := by
  refine ⟨?_, ?_, ?_⟩ <;> decide +kernel

/-! Messages (spec/12). -/

/-- A header of one payload word to the executing core itself. -/
def head0 : Word := BitVec.ofNat 64 (2 ^ 56 + 2047 * 2 ^ 32)
/-- Headers in g1 and g2. -/
def sending : State := withG s0 [head0, 0]
/-- A message with a header. -/
def msgOf (h0 : Word) : Msg :=
  { slot := 0, h0 := h0, h1 := 0, pay := [1, 0, 0, 0, 0, 0], launch := none, sluice := false, dispatch := false, waiter := none
    notice := false, num := 0, seen := [], behind := none, nest := none }
/-- A context that owes a reply. -/
def replying : State := sending.setMe { sending.me with ownsReply := true }
/-- A core whose send queue is full. -/
def sendFull : State := withCore sending (fun k => { k with sendQ := List.replicate 16 (msgOf head0) })
theorem witness_SendsRepliesAndSpawnsEnqueueOneRequest :
    (sending.guard always && decide (head0.toNat / 2 ^ 59 = 0 ∧ head0.toNat / 2 ^ 54 % 4 = 0 ∧ head0.toNat / 2 ^ 56 % 8 ≠ 7)
      && decide (sending.mySlot.cls ≤ head0.toNat / 2 ^ 50 % 4) && !head0.getLsbD 49 && sending.mySlot.inShape 0
      && decide (sending.cur.core < 32 ∧ sending.cur.ctx < 9 ∧ sending.me.jtile < 1536)
      && decide (sending.myCore.sendQ.length < 16 ∧ sending.myCore.delays.length < 8) && !decide (sendFull.myCore.sendQ.length < 16)
      && !sending.me.handler && !sending.inProg && !sending.wideBusy && sending.me.wait == .none && sending.me.active
      && decide (head0.toNat / 2 ^ 43 % 32 = sending.cur.core)
      && (waiting sending (.outcome head0 (some true))).me.wait == .outcome head0 (some true)
      && !sending.me.ownsReply && replying.me.ownsReply && !replying.me.replied
      && decide (0 < 32 * sending.mySlot.sx * sending.mySlot.sy * sending.mySlot.sz) && decide (sending.mySlot.sx ≤ 8)
      && decide (sending.mySlot.sy ≤ 8 ∧ sending.mySlot.sz ≤ 24) && regionOf own.toNat == 7) = true
    ∧ plainState sending = true ∧ sending.readS (.g 1) = .ok (head0, sending) ∧ sending.readS (.g 2) = .ok (0, sending) := by
  refine ⟨?_, ?_, ?_, ?_⟩ <;> decide +kernel


/-! Spills, arrivals, starts and launches (spec/12, spec/15). -/

/-- The state with words in the page of data, at 0x20000. -/
def withData (s : State) (l : List (Nat × Nat)) : State :=
  { s with mem := l.foldl (fun (m : Memory) p => memPut m (0x50000 + p.1) 8 p.2) s.mem }
/-- A request of class 1 and one payload word to the core itself. -/
def head1 : Word := BitVec.ofNat 64 (2 ^ 56 + 2 ^ 50)
/-- The Bittern context runs, with a heap of one slot at 0x20000, whose address g1 holds. -/
def spilling (inbox : List Msg) (spcnt : Nat) : State :=
  let s := withCore s0 (fun k => { k with
    ctxs := aset k.ctxs 8 { Ctx.reset with active := true, gen := 1, r := Regs.start.setG 1 0x20000 }
    inbox := inbox
    jobs := [(0, { JobCore.reset with mbspb := 0x20000, mbcfg := 0x10C1000, mbbh := 2, spcnt := spcnt })] })
  { s with cur := ⟨0, 0, 8⟩ }
/-- The heap's slot and its tag hold that request. -/
def spilled1 : State := withData (spilling [] 1) [(0, head1.toNat), (64, 2 ^ 63)]
theorem witness_SpilledMessagesComeBack :
    ((spilling [msgOf head1] 0).guard always && decide ((0x20000 : Word).toNat % 64 = 0)
      && (spillChoice 0 (spilling [msgOf head1] 0).myCore.inbox).isSome && (spillChoice 0 (spilling [] 0).myCore.inbox).isNone
      && (spilling [msgOf head1] 0).drained && (spilling [msgOf head1] 0).myJob.mbspb.toNat == 0x20000
      && (spilling [msgOf head1] 0).myJob.mbcfg.toNat / 2 ^ 24 % 2 ^ 16 == 1
      && yields ((spilling [msgOf head1] 0).heapLocs true 0x20000 64) inside
      && yields (((spilling [msgOf head1] 0).heapStore 0x20000 [] []).heapLocs true 0x20040 8) inside
      && yields (spilled1.heapLocs false 0x20000 64) (fun l => inside l
        && leNat ((l.map spilled1.readLoc).take 8) == head1.toNat)
      && yields (spilled1.heapLocs false 0x20040 8) (fun l => inside l && leNat (l.map spilled1.readLoc) == 2 ^ 63)
      && yields (spilled1.heapLocs true 0x20040 8) inside && spilled1.room 0 0 0 && spilled1.drained
      && spilled1.replayOk (2 ^ 63) head1 && spilled1.targetLives 0 0 (msgOf head1) && spilled1.myJob.spcnt == 1
      && (spillChoice 0 [msgOf head1]) == some (msgOf head1, 0)) = true
    ∧ plainState spilled1 = true ∧ spilled1.cur.ctx = 8 ∧ spilled1.readS (.g 1) = .ok (0x20000, spilled1) := by
  refine ⟨?_, ?_, ?_, ?_⟩ <;> decide +kernel

/-- A core with messages in its outlets. -/
def leaving (m : Msg) : State := withCore s0 (fun k => { k with
  sendQ := [m], notices := [m], replies := [⟨0, 0, 0, 1, some m⟩], delays := [(0, m)] })
/-- A core with an arrival in a buffer, messages in its inbox, and its job's spill settings. -/
def arriving (n : Fin 3) (a : Arrived) (inbox : List Msg) (size bh : Nat) : State := withCore s0 (fun k => { k with
  arrivals := k.arrivals.set n [a], inbox := inbox
  jobs := [(0, { JobCore.reset with mbcfg := BitVec.ofNat 64 (0xC1000 + size * 2 ^ 24), mbbh := BitVec.ofNat 64 bh })] })
/-- A request of class 1, a reply of class 1 and a message of class 0. -/
def request : Msg := msgOf head1
/-- The reply. -/
def answer1 : Msg := msgOf (BitVec.ofNat 64 (2 ^ 56 + 2 ^ 50 + 2 ^ 52))
/-- An arrival that waits. -/
def fresh (m : Msg) : Arrived := ⟨m, false, none⟩
/-- What an arrival needs beside room. -/
def heads (s : State) (n : Fin 3) (a : Arrived) : Bool :=
  headOf ((s.core 0 0).arrivals[n]) == some (a, 0) && !s.cancelledMsg a.msg && !a.msg.notice
/-- A full inbox of started work. -/
def fullBox : List Msg := List.replicate 16 (msgOf (head1 ||| BitVec.ofNat 64 (2 ^ 51)))
theorem witness_MessagesTravelToTheirInbox :
    (((sendHeads ((leaving request).core 0 0).sendQ).filter (fun p => ((leaving request).core 0 0).mayLeave p.2)) == [(0, request)]
      && ((leaving request).inject request).isSome && ((leaving request).core 0 0).notices == [request]
      && ((leaving answer1).core 0 0).mayLeave answer1 && ((leaving answer1).inject answer1).isSome
      && request.behind == none && !(leaving request).wayBusy request
      && ((leaving request).slot 0).inShape (hTile request.h0) && !hStage request.h0
      && decide (0 ≤ (leaving request).time) && ((leaving request).deliverTo 0 0 request).isSome
      && heads (arriving 0 (fresh request) [] 0 0) 0 (fresh request) && (arriving 0 (fresh request) [] 0 0).targetLives 0 0 request
      && (arriving 0 (fresh request) [] 0 0).creditedNext 0 0 == none
      && heads (arriving 1 (fresh answer1) fullBox 0 0) 1 (fresh answer1)
      && heads (arriving 0 (fresh request) fullBox 1 2) 0 (fresh request) && heads (arriving 0 (fresh request) fullBox 0 0) 0 (fresh request)
      && (arriving 0 (fresh request) fullBox 1 2).creditedNext 0 0 == none
      && (withTile (arriving 0 (fresh request) fullBox 1 2) (fun t => { t with holder := none })).startFirst 0 0 [0, 1, 2, 3] == none
      && (let lost : Msg := { request with h1 := BitVec.ofNat 64 (5 * 2 ^ 20) }
          heads (arriving 0 (fresh lost) [] 0 0) 0 (fresh lost) && !(arriving 0 (fresh lost) [] 0 0).targetLives 0 0 lost
            && (arriving 0 (fresh lost) [] 0 0).startFirst 0 0 [0, 1, 2, 3] == none)
      && heads (arriving 1 ⟨answer1, true, none⟩ [] 0 0) 1 ⟨answer1, true, none⟩
      && (arriving 0 ⟨request, true, some 0⟩ [] 0 0).creditedNext 0 0 == some ⟨request, true, some 0⟩) = true := by
  decide +kernel

/-- A message to the header at the code region's start, or to the `nop` behind it. -/
def startMsg (ofs : Nat) : Msg := msgOf (BitVec.ofNat 64 (2 ^ 56 + ofs))
/-- A core that considers it. -/
def considering (ofs : Nat) : State := withCore s0 (fun k => { k with inbox := [startMsg ofs] })
/-- A core with an orphan for its Bittern context. -/
def orphaned : State := withCore s0 (fun k => { k with
  held := [⟨false, request⟩], jobs := [(0, { JobCore.reset with mbbh := 2 })] })
theorem witness_ActivationsStartAsTheirMessageSays :
    ((considering 0).considered 0 0 0 == some (startMsg 0, 0) && ((considering 0).headerOf (startMsg 0)).isSome
      && ((considering 0).placeFor 0 0 0 (((considering 0).headerOf (startMsg 0)).getD (0, 0)).2).isSome
      && (considering 2).considered 0 0 0 == some (startMsg 2, 0) && ((considering 2).headerOf (startMsg 2)).isNone
      && (orphaned.tile 0).holder == some 0 && !((orphaned.core 0 0).ctx 8).active && (aget (orphaned.tile 0).stopping 0).isNone
      && ((orphaned.core 0 0).job (jobKey 0 0)).mbbh.toNat % 2 ^ 32 == 2
      && (match orphaned.bitternReason 0 0 0 0 with
        | some (_, l, _) => l.length == 5
        | none => false)) = true := by decide +kernel

/-- The tile with a governor and two rings, of which the first holds what its HEAD and TAIL say and the second is empty. -/
def governed (g : Governor) (head tail : Nat) : State :=
  withJob (withTile s0 (fun t => { t with
    gov := g, spad := memPut (memPut t.spad 4608 8 head) 4624 8 tail })) (fun j => { j with
      tensors := [(2, spadRing), (3, (spadRing.set 4 (own + 4640)).set 5 (own + 4656))] })
/-- Its settings: period 2^10 and checking. -/
def checking : Governor := { Governor.reset with c := 42, nextCheck := 0 }
/-- Stage 0 has the first ring and group 0; stage 1, where it is valid, the second and groups 1 and 2. -/
def staged (both : Bool) : Governor :=
  { checking with st := #v[BitVec.ofNat 64 (2 ^ 63 + 2 * 2 ^ 40 + 2 ^ 52),
      if both then BitVec.ofNat 64 (2 ^ 63 + 3 * 2 ^ 40 + 6 * 2 ^ 52) else 0, 0, 0] }
/-- What a check reads in a word. -/
def governs (s : State) (va : Word) (x : Nat) : Bool :=
  yields (s.locate ⟨0, 0, 0, 0, []⟩ false false 1 (span va 8)) (fun l => s.loadNat l == x)
theorem witness_GovernorsMoveGroups :
    (((governed checking 0 0).tile 0).running == [(0, 0)] && ((governed checking 0 0).govOf 0 0 0).c.getLsbD 5
      && ((governed checking 0 0).govOf 0 0 0).move == none && (checking.stage 0).getLsbD 63 == false
      && ((governed { checking with move := some (0, 0, 1) } 0 0).govOf 0 0 0).move == some (0, 0, 1)
      && !(governed { checking with move := some (0, 0, 1) } 0 0).stageBusy 0 0 0 0) = true := by decide +kernel
/-- A stage at HIGH with one at LOW of two groups beside it, and one alone. -/
theorem witness_GovernorsMoveGroups_pairs : let s := governed (staged true) 0 1
    governs s (own + 4608) 0 = true ∧ governs s (own + 4624) 1 = true ∧ governs s (own + 4640) 0 = true ∧ governs s (own + 4656) 0 = true
    ∧ tValid spadRing = true ∧ tKind spadRing = some .ring ∧ spadRing[6].toNat / 2 ^ 16 % 2 ^ 16 ≤ 1 ∧ 0 ≤ spadRing[6].toNat % 2 ^ 16
    ∧ ((staged true).stage 0).getLsbD 63 = true ∧ ((staged true).stage 1).getLsbD 63 = true
    ∧ ((staged true).stage 1).getLsbD 53 = true ∧ ((staged true).stage 1).getLsbD 54 = true ∧ ((staged true).stage 1).getLsbD 55 = false
    ∧ ((staged false).stage 1).getLsbD 63 = false ∧ s.govChoice ⟨0, 0, 0, 0, []⟩ (staged true) = some (2, 1, 0) := by
  refine ⟨?_, ?_, ?_, ?_, ?_, ?_, ?_, ?_, ?_, ?_, ?_, ?_, ?_, ?_, ?_⟩ <;> decide +kernel

/-- A launch record of one target with header offset 0 at 0x20000, whose address g1 holds. -/
def recorded : State := withData (withG s0 [0x20000]) [(8, 2 ^ 16 + 2 ^ 20 + 2 ^ 24 + 2 ^ 32)]
/-- A job whose queue is full. -/
def crowded : State := withJob recorded (fun j => { j with queue := List.replicate 64 ⟨0x20000, 1, false, none⟩ })
/-- The part is powered and out of reset. -/
def poweredUp (s : State) : State := { s with mg := { s.mg with powered := true, inReset := false, tripped := false, switching := none } }
theorem witness_LaunchRecordsJoinTheirQueue :
    (recorded.guard always && (recorded.slot 0).queue.isEmpty && (crowded.slot 0).queue.length == 64 && recorded.drained
      && (poweredUp recorded).mg.powered && !(poweredUp recorded).mg.inReset && !(poweredUp recorded).mg.tripped
      && (poweredUp recorded).mg.switching == none && ((poweredUp recorded).slot 0).bound && !(poweredUp recorded).queueBusy 0
      && !((poweredUp recorded).slot 5).bound && (BitVec.ofNat 64 (2 ^ 55 + 2 ^ 4) : Word).getLsbD 55) = true
    ∧ recorded.readS (.g 1) = .ok (0x20000, recorded) := by
  refine ⟨?_, ?_⟩ <;> decide +kernel

/-- A launch of serial 1 with messages to send. -/
def launch1 (todo : List Msg) : Launch :=
  { serial := 1, ctr := 0x20040, words := Vector.replicate 8 0, graph := none, ranges := [], todo := todo, members := 0, spilled := 0
    cancelled := false, free := [], phb := false }
/-- A node of a kind that is due. -/
def node1 (kind : Nat) : Node := ⟨#v[BitVec.ofNat 64 (kind + 1 * 2 ^ 8), 0x20000, 0, 0], 0, 1, 0⟩
/-- A graph of serial 1 with that node. -/
def graph1 (kind : Nat) (ended : Bool) : Graph :=
  { serial := 1, ctr := 0x20040
    nodes := [node1 kind], phb := false, ended := ended, cancelled := false
    status := 0 }
/-- The job of `recorded`, out of reset, changed. -/
def runningJ (f : Slot → Slot) : State := withJob (poweredUp recorded) f
/-- A node's page is resident. -/
def resident (s : State) : Bool := s.touch 0 (pagesOf 0x20000 8) == s
/-- A job with that record queued, of a kind and with a counter. -/
def queuedRec (kind : Nat) : State :=
  withData (runningJ (fun j => { j with queue := [⟨0x20000, 1, false, none⟩] })) [(0, kind * 2 ^ 32), (56, 0x20040)]
/-- The record that it reads, resident and of that kind. -/
def readsRec (s : State) (p : Vector Word 8 → Bool) : Bool :=
  s.touch 0 (pagesOf 0x20000 64) == s && (match s.launchRecord 0 0x20000 with
    | some w => p w
    | none => false)
/-- For each kind of `cancel`, a queued level that it names, and for two of them one that it does not. -/
theorem witness_LaunchRecordsJoinTheirQueue_cancels :
    (readsRec (queuedRec 0) (fun w => recKind w == 0 && w[7] == 0x20040 && !recPhb w && w[7] != 0x20050)
      && readsRec (queuedRec 1) (fun w => recKind w == 1 && w[7] == 0x20040)
      && ((queuedRec 0).slot 0).queue == [⟨0x20000, 1, false, none⟩] && ((runningJ id).slot 0).queue == []) = true := by
  decide +kernel
/-- A running launch with messages to send or members, and a graph that goes on. -/
theorem witness_LaunchRecordsJoinTheirQueue_running :
    (let s := (runningJ (fun j => { j with launches := [{ launch1 [request] with members := 1 }], graphs := [graph1 1 false] }))
     let u := s.setMe { s.me with launch := some 1 }
     (u.slot 0).launches.all (fun l => !l.cancelled && !l.todo.isEmpty && l.members == 1)
      && !(u.slot 0).graphCompleted (graph1 1 false) && (u.slot 0).box == [0] && (u.ctx ⟨0, 0, 0⟩).launch == some 1
      && (u.ctx ⟨0, 0, 0⟩).active) = true
    ∧ (((runningJ (fun j => { j with launches := [launch1 [request]], graphs := [graph1 1 false] })).slot 0).launches.map
      (fun l => l.serial)).Nodup := by
  refine ⟨?_, ?_⟩ <;> decide +kernel

theorem witness_LaunchesRunAndComplete :
    (plainState (runningJ id) = true ∧ (0x20040 : Word) ≠ 0)
    ∧ (let s := runningJ (fun j => { j with launches := [launch1 [request]] })
       (s.slot 0).bound = true ∧ (s.slot 0).preempted = none ∧ (s.inject request).isSome = true)
    ∧ (let s := runningJ (fun j => { j with queue := [⟨0x20000, 1, false, none⟩] })
       (s.slot 0).phase = none ∧ s.mg.switching = none ∧ s.readBusy 0 (0x20000, 64) = false
       ∧ (match (s.touch 0 (pagesOf 0x20000 64)).launchRecord 0 0x20000 with
        | some w => (match (s.touch 0 (pagesOf 0x20000 64)).startRecord 0 1 w (recPhb w) none with
          | .started _ => true
          | _ => false) && !recPhb w && !recSer w
        | none => false) = true)
    ∧ (let s := withData (runningJ (fun j => { j with queue := [⟨0x20000, 1, false, none⟩] })) [(8, 0)]
       (match (s.touch 0 (pagesOf 0x20000 64)).launchRecord 0 0x20000 with
        | some w => (match (s.touch 0 (pagesOf 0x20000 64)).startRecord 0 1 w (recPhb w) none with
          | .refused .. => true
          | _ => false)
        | none => false) = true) := by
  refine ⟨⟨?_, ?_⟩, ?_, ?_, ?_⟩ <;> decide +kernel
/-- A graph of two nodes, of which the second is due and of a kind. -/
def graphing (kind : Nat) (rec : List (Nat × Nat)) : State :=
  withData (runningJ (fun j => { j with graphs := [{ graph1 kind false with
    nodes := [{ node1 1 with due := 0 }, node1 kind] }] })) rec
/-- What dispatch answers of the record of a LAUNCH node there. -/
def nodeStart (rec : List (Nat × Nat)) : Reached :=
  let s := (graphing 0 rec).onGraph 0 1 (fun x => { x with nodes := x.nodes.set 1 { node1 0 with due := 0, fired := 1 } })
  match s.launchRecord 0 0x20000 with
  | some r => (s.setSlot 0 { s.slot 0 with serial := 1 }).startRecord 0 1 r false (some (1, 1))
  | none => .wait
theorem witness_LaunchesRunAndComplete_nodes :
    ([0, 1, 2, 3, 4].all (fun k =>
        let s := graphing k []
        resident s && nodeKind (node1 k).w == k && (s.readWord 0 0x20000).isSome && !s.readBusy 0 (0x20000, 64)
          && ((s.slot 0).graphs.find? (fun g => g.serial == 1 && !g.ended && !g.cancelled)).map (fun g => g.nodes.map (fun n => n.due))
            == some [0, 1] && s.mg.switching == none)
      && (match nodeStart [] with
        | .started _ => true
        | _ => false)
      && (match nodeStart [(8, 0)] with
        | .refused .. => true
        | _ => false)) = true := by decide +kernel
theorem witness_LaunchesRunAndComplete_ends :
    ([none, some (1, 0)].all (fun g =>
        let l := { launch1 [] with graph := g }
        let s := runningJ (fun j => { j with launches := [l], graphs := [graph1 0 false] })
        ((s.slot 0).launches.find? (fun l => l.serial == 1)) == some l && !s.ctrBusy 0 0x20040 && s.mg.switching == none)
      && (let s := runningJ (fun j => { j with graphs := [graph1 4 true] })
          ((s.slot 0).graphs.find? (fun g => g.serial == 1 && (g.ended || g.cancelled))) == some (graph1 4 true))
      && (let s := runningJ (fun j => { j with phase := some (some 0) })
          (s.slot 0).phase == some (some 0) && !s.ctrBusy 0 (s.slot 0).bind[7])
      && (let s := runningJ id
          !s.evicted 0 0x20040 && s.ctrReachable 0 0x20040
            && yields (s.locateRmw ⟨0, 0, 0, 0, []⟩ (span 0x20048 8)) (fun l2 =>
              yields ((s.storeNat l2 0).locateRmw ⟨0, 0, 0, 0, []⟩ (span 0x20040 8)) (fun l1 =>
                decide ((s.storeNat l2 0).loadNat l1 < 2 ^ 64 - 1))))) = true := by decide +kernel


/-! The management core, the outside and the events of a tile (spec/15 to spec/17). -/

/-- The part with a mailbox command that runs and words in its buffer. -/
def commanded (s : State) (code : Nat) (buf : List Nat) : State :=
  let u := poweredUp s
  { u with mg := { u.mg with
      running := some ⟨code, 0, 64⟩, wait := .none
      buf := buf.zipIdx.foldl (fun (m : Memory) p => memPut m (8 * p.2) 8 p.1) [] } }
/-- The part up, in order and waiting for no switch. -/
def up (s : State) : Bool := s.mg.powered && !s.mg.inReset && !s.mg.tripped && s.mg.switching == none
/-- The state at a WSTIME. -/
def clockAt (s : State) (w : Nat) : State := { s with ticks := 720720 * w }
/-- The record in a bind request's buffer. -/
def bindWords : List Nat :=
  [2 ^ 41 + 2 ^ 39 + 2 ^ 34 + 7, 0x111 + 0x111 * 2 ^ 32 + 2 ^ 24, 2 ^ 16 + 2 ^ 48, 0, 0, 0, 0x10000, 0, 256]
/-- The record that the buffer holds. -/
def askedJob : Slot := { Slot.reset with bind := #v[BitVec.ofNat 64 (2 ^ 41 + 2 ^ 39 + 2 ^ 34 + 7),
  BitVec.ofNat 64 (0x111 + 0x111 * 2 ^ 32 + 2 ^ 24), BitVec.ofNat 64 (2 ^ 16 + 2 ^ 48), 0, 0, 0, 0x10000, 0] }
theorem witness_JobsAreBoundAndUnbound :
    (up (commanded s0 1 bindWords)
      && (List.range 9).map (fun i => memNat (commanded s0 1 bindWords).mg.buf (8 * i) 8) == bindWords
      && askedJob.bind.toList.map BitVec.toNat == bindWords.take 8
      && bindLegal askedJob && bindWordLegal 256
      && askedJob.box.all (fun d => ((commanded s0 1 bindWords).tile d).stopping.isEmpty
        && !((commanded s0 1 bindWords).tile d).fenced)
      && !bindLegal Slot.reset && !((commanded s0 1 bindWords).candidateBind 0 askedJob).bindBusy 0
      && !(commanded s0 2 [256]).queueBusy 0
      && ((commanded s0 2 [0]).slot 0).bound && ((commanded s0 2 [0]).slot 0).unbind == .none
      && !((commanded s0 2 [5]).slot 5).bound && (commanded s0 2 [256]).mg.running == some ⟨2, 0, 64⟩
      && memNat (commanded s0 2 [256]).mg.buf 0 8 == 256
      && (let s := withJob (commanded s0 2 [256]) (fun j => { j with queue := [⟨0x20000, 1, false, none⟩] })
          ((s.slot 0).queue.filter (fun q => q.gone.isNone)).length == 1 && !s.queueBusy 0)
      && (let s := withJob (commanded s0 2 [256]) (fun j => { j with launches := [launch1 [request]] })
          (s.slot 0).launches.all (fun l => !l.cancelled && !l.completed) && !s.queueBusy 0)) = true := by decide +kernel
/-- The job asked to unbind, with nothing of it left but its tile. -/
def unbinding : State :=
  withCore (withJob (poweredUp s0) (fun j => { j with unbind := .drain })) (fun k => { k with ctxs := [] })
theorem witness_JobsAreReleased :
    ((unbinding.slot 0).bound && (unbinding.slot 0).unbind != .none && unbinding.mg.switching == none
      && (unbinding.slot 0).launches.isEmpty && (unbinding.slot 0).graphs.isEmpty && (unbinding.slot 0).queue.isEmpty
      && (unbinding.slot 0).phase == none && !unbinding.ctrBusy 0 ((unbinding.slot 0).bind[7] + 16) && !unbinding.jobActive 0
      && unbinding.tiles.all (fun p => p.2.stopping.isEmpty)
      && (((unbinding.levelArrive 0 ((unbinding.slot 0).bind[7] + 16) 0).releaseSlot 0).restoreAll 64).isSome
      && ((unbinding.tile 1).holder != some 0)) = true := by decide +kernel

/-- A tile that stops job 0 for itself. -/
def stoppingT : State := withTile s0 (fun t => { t with stopping := [(0, (0, 0))] })
/-- A folded job of two job tiles on one device tile, its quantum over. -/
def folded : State :=
  withJob (clockAt s0 3200) (fun j => { j with
    bind := (j.bind.set 1 (BitVec.ofNat 64 (0x112 + 0x111 * 2 ^ 32 + 2 ^ 48))) })
theorem witness_PreemptionKeepsContexts :
    ((stoppingT.tile 0).stopping == [(0, (0, 0))] && (stoppingT.endStop 0 (0, (0, 0))).isSome
      && (stoppingT.tile 0).holder == some 0 && stoppingT.quiet 0 0 0
      && (let s1 := stoppingT.saveTile 0 0 0
          (s1.setTile 0 { s1.tile 0 with stopping := [], holder := none }).mayLoad 0 0 0)
      && (s0.ctx ⟨0, 0, 0⟩).active && (s0.ctx ⟨0, 0, 0⟩).wait == .none
      && (let s1 := s0.saveTile 0 0 0
          (aget ((aget ((s1.slot 0).image 0).ctxs 0).getD []) 0).isSome && (((s1.slot 0).image 0).ctxs.map Prod.fst) == [0])
      && (folded.tile 0).overlays.isEmpty && (folded.tile 0).stopping.isEmpty && (folded.slot 0).bx != (folded.slot 0).sx
      && decide (2 ≤ ((folded.slot 0).tilesAt 0).length)
      && decide ((folded.tile 0).since + 1600 * ((folded.slot 0).bind[1].toNat / 2 ^ 48) ≤ folded.wstime)) = true := by
  decide +kernel
/-- A context that has written g2 since its last image, and one whose last image the slot holds. -/
theorem witness_PreemptionKeepsContexts_images :
    (let s := s0.saveTile 0 0 0
     let j := s.slot 0
     (aget ((aget (j.image 0).area 0).getD []) 0).isSome && (aget ((aget ((s0.slot 0).image 0).area 0).getD []) 0).isNone
      && ((aget ((aget (j.image 0).area 0).getD []) 0).map (fun v => v.gen)) == some (s0.ctx ⟨0, 0, 0⟩).gen
      && (s0.setMe { s0.me with dirty := { s0.me.dirty with g := 4 } }).me.dirty.g == 4
      && (aget ((aget (j.image 0).ctxs 0).getD []) 0).isSome && s.tiles.all (fun p => p.2.cores.all (fun q => q.2.ctxs.all
        (fun z => match z.2.wait with
          | .align .. => false
          | _ => true)))) = true
    ∧ (((s0.saveTile 0 0 0).slot 0).image 0).ctxs.map Prod.fst = [0] := by
  refine ⟨?_, ?_⟩ <;> decide +kernel
/-- A request to map one page at 0x30000 writable, its frame of the page's colour. -/
def mapping1 : MapReq := ⟨BitVec.ofNat 64 (2 ^ 18 + 2 ^ 19), 0x30000⟩
/-- One page mapped at 0x70000. -/
def mapped1 : State :=
  let s := commanded s0 4 [0]
  { s with mg := { s.mg with maps := [⟨0, 0x70000, false, 0x50000, true, true, false, none, []⟩] } }
/-- That page in a spill heap. -/
def heaped : State := withCore mapped1 (fun k => { k with jobs := [(0, { JobCore.reset with mbspb := 0x70000, mbcfg := 0x10C1000 })] })
theorem witness_PagesAreMappedAndJobsHalted :
    (up (commanded s0 3 [2 ^ 18 + 2 ^ 19, 0x30000, 0x60000]) && up (commanded s0 5 [0]) && ((commanded s0 5 [0]).slot 0).bound
      && (({ mapping1 with va := 0x30001 } : MapReq).malformed 0 0) && ({ mapping1 with va := 7 * 2 ^ 52 } : MapReq).untranslated 0
      && !({ mapping1 with va := 7 * 2 ^ 52 } : MapReq).malformed 0 0
      && !mapping1.malformed 0 0x60000 && !mapping1.untranslated 0 && !mapping1.pick && !mapping1.host
      && ((List.range 64).any (fun f => frameColour (65536 * f) != pageColour (mapping1.pageVa 0)))
      && (match (s0.mapPage mapping1 0 0x30000).1 with
        | .ok f => f == 0x30000
        | _ => (List.range 64).any (fun n => match (s0.mapPage mapping1 0 (65536 * n)).1 with
          | .ok f => f == 65536 * n
          | _ => false))
      && !mapped1.bitternAt 0 0x70000 65536 && (mapped1.mapsIn 0 0x70000 65536).length == 1
      && (mapped1.mapsIn 0 0x70000 65536).all (fun m => !mapped1.heapPage m)
      && (heaped.mapsIn 0 0x70000 65536).length == 1 && (heaped.mapsIn 0 0x70000 65536).all heaped.heapPage) = true := by
  decide +kernel

theorem witness_MailboxCommandsAnswer :
    ([6, 7, 8, 9, 10, 11, 12, 13, 14].all (fun c => up (commanded s0 c [0]) && (commanded s0 c [0]).mg.running == some ⟨c, 0, 64⟩)
      && decide ((commanded s0 10 [0]).mg.leaf < 32768)
      && (let s := withJob (commanded s0 13 [2 * 2 ^ 16]) (fun j => { j with tensors := [(2, spadRing)] })
          (s.slot 0).ringAt 2 && (s.port 0).egress == none)
      && ({ s0.mg with wait := .response 2 0 8, running := some ⟨6, 0, 0⟩ } : Mgmt).wait == .response 2 0 8
      && ({ s0.mg with switching := some 0 } : Mgmt).switching == some 0) = true
    ∧ ({ s0.mg with fuseVersion := 1 } : Mgmt).verifies 0 0 = false
    ∧ ({ s0.mg with fuseVersion := 1, runB := false, versionB := 0 } : Mgmt).otherOk = false :=
  ⟨by decide +kernel, by simp [Mgmt.verifies], by simp [Mgmt.otherOk, Mgmt.verifies]⟩
/-- No leaf is left; egress from a slot that holds no ring; a switch within its 5 ms and after them. -/
theorem witness_MailboxCommandsAnswer_others :
    (!(32768 < ({ s0.mg with leaf := 32768 } : Mgmt).leaf) && !((commanded s0 13 [2 * 2 ^ 16]).slot 0).ringAt 2
      && (let s := clockAt { s0 with mg := { s0.mg with switching := some 0 } } 7999999
          s.mg.switching == some 0 && decide (s.wstime < 8000000))
      && (let s := clockAt { s0 with mg := { s0.mg with switching := some 0 } } 8000000
          s.mg.switching == some 0 && decide (8000000 ≤ s.wstime))
      && (commanded s0 0 [0]).mg.running == some ⟨0, 0, 64⟩ && ({ s0.mg with runB := true } : Mgmt).runB
      && ({ s0.mg with wait := .none } : Mgmt).wait == .none) = true := by decide +kernel
/-- Where some image verifies, a part that holds it boots and may switch to it. -/
theorem witness_ImagesThatVerify (m : Mgmt) (i : BitVec 256) (v : Nat) (h : m.verifies i v = true) :
    ({ m with imageA := i, versionA := v, inReset := true, tripped := false } : Mgmt).verifies i v = true := h

/-- A frame of 60 bytes, and a rule that takes every frame. -/
def frame60 : List Byte := List.replicate 60 1
/-- The rule: it is valid on every port, and takes frames to ring 2 of slot 0. -/
def takeAll : Vector Word 8 := #v[BitVec.ofNat 64 (31 + 2 * 2 ^ 30), 0, 0, 0, 0, 0, 0, 0]
/-- A ring whose slots hold frames: two slots of 1,024 bytes, objects at the scratchpad's byte 16384. -/
def frameRing : Tensor := #v[0x483, own + 16384, 2 + 1024 * 2 ^ 32, own + 20480, own + 20736, own + 20752, 2 ^ 16, 0]
/-- The Sluice with that rule and a frame to deliver, slot 0 bound with the ring. -/
def sluiced (frames : List Frame) : State :=
  let s := withJob (poweredUp s0) (fun j => { j with tensors := [(2, frameRing)] })
  { s with sluice := { s.sluice with rules := [(0, takeAll)], frames := frames } }
/-- The frame as it waits. -/
def waitingFrame : Frame := ⟨0, 0, 0, 0, frame60⟩
/-- A ring of device memory: its slots and objects in the page of data. -/
def devRing : Tensor := #v[0x493, 0x20000, 2 + 1024 * 2 ^ 32, 0x20C00, 0x20C10, 0x20C20, 2 ^ 16, 0]
/-- A port that sends from it, with a frame of 60 bytes in slot 0. -/
def egressing (n tag : Nat) : State :=
  let s := withData (withJob (poweredUp s0) (fun j => { j with tensors := [(2, devRing)] })) [(0, n), (0xC00, tag)]
  s.setPort 0 { s.port 0 with egress := some (0, 2) }
theorem witness_OutsideAccessesAndFrames :
    (up (poweredUp s0) && (poweredUp s0).mg.running == none && (commanded s0 6 []).mg.running != none
      && (List.range 4).all (fun i => !(poweredUp s0).blockBusy ((0x50000 + i) / 4096) && (poweredUp s0).outsideWritable (0x50000 + i))
      && decide (0x50000 + 4 ≤ 0x9000000000) && ([1, 2, 3, 4] : List Byte).length == 4
      && decide (64 ≤ frame60.length + 4) && ruleMatches takeAll 0 frame60 (Config.freeWord (sluiced []).pick)
      && (sluiced [waitingFrame]).sluice.frames == [waitingFrame] && !((sluiced []).slot 9).bound) = true ∧ plainState (poweredUp s0) = true := by
  refine ⟨?_, ?_⟩ <;> decide +kernel
theorem witness_FramesTravel :
    ((let s := sluiced [waitingFrame]
      let ag : Agent := ⟨0, 0, 1536, 0, []⟩
      let t := (s.slot 0).tensor 2
      (s.slot 0).bound && (s.slot 0).ringAt 2 && (s.slot 0).inShape 0 && decide (60 ≤ tf t 2 32 32) && tHome t == 0
        && regionOf (t[3]).toNat == 7 && ag.target (t[3]).toNat != 1 && ringTogether ag t
        && yields (({ s with sluice := { s.sluice with frames := [] } } : State).touch 0 (ringPages t) |>.produceFrame ag t frame60) (fun r =>
          match r with
          | some (k, u) => (u.letSluiceIn (frameMsg takeAll waitingFrame 0 k u.allSeen)).isSome
          | none => false))
      && (let s := egressing 60 2
          let ag : Agent := ⟨0, 0, 1536, 0, []⟩
          let t := (s.slot 0).tensor 2
          (s.port 0).egress == some (0, 2) && (s.slot 0).ringAt 2 && ringTogether ag t && s.touch 0 (ringPages t) == s
            && yields (s.ringValue ag (t[4])) (fun p => p.1 == 0
              && yields (s.tagLoc ag t 0) (fun tl => s.readTag tl 0 == .full)
              && yields (s.partLocs ag false (ringDst t 0 0) 8) (fun wl => s.loadNat wl == 60)
              && yields (s.partLocs ag false (ringDst t 0 32) 60) (fun _ => true)))) = true := by decide +kernel
/-- A message waits for its inbox, and a frame's message for a full one; a frame is longer than its slot; two frames are too short and too
long to be sent. -/
theorem witness_FramesTravel_waits :
    (let m := frameMsg takeAll waitingFrame 0 0 []
     (hCls m.h0 == 0 && ((sluiced []).letSluiceIn m).isSome
      && ((withCore (sluiced []) (fun k => { k with inbox := fullBox })).letSluiceIn m).isNone
      && decide (tf ((sluiced []).slot 0 |>.tensor 2) 2 32 32 < (List.replicate 2000 (1 : Byte)).length)
      && [59, 9213].all (fun n =>
          let s := egressing n 2
          let ag : Agent := ⟨0, 0, 1536, 0, []⟩
          yields (s.partLocs ag false (ringDst ((s.slot 0).tensor 2) 0 0) 8) (fun wl => s.loadNat wl == n)
            && yields (s.partLocs ag false (ringDst ((s.slot 0).tensor 2) 0 32) 59) (fun _ => true)))) = true := by decide +kernel
/-- The part with a tile's temperature. -/
def heated (q : Nat) : State := withTile (poweredUp s0) (fun t => { t with temp := q })
theorem witness_HeatAndResetsFollowTheirRules :
    (up (heated 380) && (heated 380).tiles.any (fun t => decide (380 ≤ t.2.temp)) && (heated 380).mg.hotSince == none
      && (let s := clockAt (heated 120) 16000000
          ({ s.mg with coolSince := some 0, clock := 800 } : Mgmt).coolSince == some 0 && s.tiles.all (fun t => decide (t.2.temp ≤ 360)))
      && (heated 420).tiles.any (fun t => decide (420 ≤ t.2.temp))
      && ({ (heated 300).mg with tripped := true } : Mgmt).tripped && (heated 300).tiles.any (fun t => decide (280 < t.2.temp))
      && (heated 280).tiles.all (fun t => decide (t.2.temp ≤ 280))
      && ((withTile (clockAt (poweredUp s0) 1600000) (fun t => { t with voltSince := some 0 })).tile 0).voltSince == some 0) = true
    ∧ (let m : Mgmt := { s0.mg with inReset := true, tripped := false, fuseVersion := 1, versionA := 0, versionB := 0 }
      m.verifies m.imageA m.versionA = false ∧ m.verifies m.imageB m.versionB = false) :=
  ⟨by decide +kernel, by simp [Mgmt.verifies]⟩

/-- The part with a self-test in progress. -/
def testing (u : ErrUnit) (loc : Nat) (b : Bool) : State :=
  let s := poweredUp s0
  { s with mg := { s.mg with selfTests := [(u, 0, loc, b)] } }
theorem witness_ErrorsAreLoggedTestedAndFenced :
    (up (poweredUp s0) && (s0.home 0).swap == none && !(s0.home 0).noSwap && (s0.home 0).retired.isEmpty && (s0.home 0).stacked 5 != 3
      && (({ s0.home 0 with swap := some (5, 3) } : Home).swap == some (5, 3))
      && (testing .plate 0 false).mg.selfTests[0]? == some (.plate, 0, 0, false)
      && (aget ((testing .plate 0 false).tile 0).rowsUsed 0).getD 0 == 0
      && ((withTile (testing .plate 0 false) (fun t => { t with bad := [0] })).tile 0).bad == [0]
      && (testing .bondGroup 0 true).mg.selfTests[0]? == some (.bondGroup, 0, 0, true)
      && (aget ((testing .bondGroup 0 true).home 0).lanesUsed 0).getD 0 == 0
      && !((s0.tile 1).fenced) && s0.slots.all (fun p => !p.2.box.contains 1)
      && (testing .logic 0 false).mg.selfTests[0]? == some (.logic, 0, 0, false)) = true := by decide +kernel

/-- Context 0 asks for a block of its code. -/
def fetchingB (l : List IBlock) : State :=
  withTile (s0.setMe { s0.me with r := { s0.me.r with pc := 0x10000 }, wanted := [(0x10000, 0)] }) (fun t => { t with icache := l })
/-- A posted update of context 0. -/
def postedOf (u : Update) : Posted :=
  { owner := s0.cur, gen := 1, slot := 0, jtile := 0, ord := .plain, scope := 0, group := 1, seen := [], fences := [], pub := [], waited := [], upd := u }
/-- A tile with a posted update, and one with it in the side log. -/
def posting (u : Update) : State := withTile s0 (fun t => { t with posted := [postedOf u] })
/-- The side log. -/
def logging (u : Update) : State := withTile s0 (fun t => { t with sideLog := [postedOf u] })
/-- A posted update may perform. -/
def performs (u : Update) : Bool :=
  let s := posting u
  let p := postedOf u
  (s.tile 0).runs 0 0 && (s.tile 0).posted[0]? == some p && !(s.tile 0).earlier p && (s.tile 0).wide.isEmpty && !s.hostFirst p
    && (!p.isArrival || !(s.tile 0).groupLeft p)
    && yields (({ (s.setTile 0 { s.tile 0 with posted := [] }) with cur := p.owner, inProg := false } : State).perform p)
      (fun _ => true)
theorem witness_FetchPortsAndPostedUpdatesServeTheirTile :
    (((fetchingB [⟨0, 0x10000, none, 0, 0⟩]).fetchReqs 0).length == 1 && (((fetchingB [⟨0, 0x10000, none, 0, 0⟩]).tile 0).iblock 0 0x10000).isSome
      && ((fetchingB []).fetchReqs 0).any (fun r => r.asid == 0 && r.block == 0x10000) && (((fetchingB []).tile 0).iblock 0 0x10000).isNone
      && ((fetchingB []).execPage 0 0x10000).isSome && ((fetchingB []).evictedAt 0 0x10000).isNone
      && ((fetchingB []).codeBlock 0 0x10000).isSome && (((fetchingB []).tile 0).iroom 0x10000).isSome
      && performs (.store false 4 4 4 ((span own 4).zip (bytesOf 4 1))) && performs (.rmw .add 4 own 1) && performs (.arrive own)
      && (postedOf (.rmw .add 4 own 1)).isRed && (postedOf (.arrive own)).isArrival
      && ((posting (.rmw .add 4 own 1)).faultOf (postedOf (.rmw .add 4 own 1))) == none
      && (match (posting (.store false 1 1 1 [(0x90000, 1)])).perform (postedOf (.store false 1 1 1 [(0x90000, 1)])) with
        | .error (.fault _ _) => true
        | _ => false)
      && (let s := logging (.store false 4 4 4 ((span own 4).zip (bytesOf 4 1)))
          let p := postedOf (.store false 4 4 4 ((span own 4).zip (bytesOf 4 1)))
          (s.tile 0).sideLog[0]? == some p && !s.hostFirst p && yields (s.perform p) (fun _ => true))
      && yields ((posting (.arrive own)).locateRmw ⟨0, 0, 0, 0, []⟩ (span own 8)) (fun l => (posting (.arrive own)).loadNat l == 0)) = true := by
  decide +kernel
/-- What each kind of posted update does when it performs. -/
theorem witness_PostedUpdatesPerformInOrder_effects :
    (let cells := (span own 4).zip (bytesOf 4 1)
     let ag : Agent := ⟨0, 0, 0, 0, []⟩
     let s := posting (.rmw .add 4 own 1)
     (plainState s && (postedOf (.store false 4 4 4 cells)).agent == ag && !s.portBusy ag 0 own.toNat
      && yields (s.locate ag true false 4 (cells.map Prod.fst)) inside && yields (s.locateRmw ag (span own 4)) inside
      && yields (s.locateRmw ag (span own 16)) inside && s.hostWord (postedOf (.store false 4 4 4 cells)) == none
      && !((fetchingB []).unitBusy ((fetchingB []).agentOf s0.cur) 0x10000)
      && (let u := withTile s (fun t => { t with spad := memPut t.spad 0 8 (2 ^ 64 - 1) })
          yields (u.locateRmw ag (span own 8)) (fun l => u.loadNat l == 2 ^ 64 - 1)))) = true := by decide +kernel
/-- A context with a pending trap. -/
def pendingP (code : Nat) : State := s0.setMe { s0.me with pend := [⟨code, 0, 0⟩] }
/-- A page fault of the context. -/
def faulted (va : Word) : State :=
  { s0 with mg := { s0.mg with faults := [⟨.ctx s0.cur, 0, va, false⟩] } }
theorem witness_PendingTrapsAndFaultsReachTheirContexts :
    (!s0.inProg && [0x0E, 0x18, 0x03].all (fun c => (pendingP c).me.active && (pendingP c).myTile.runs 0 0 && (pendingP c).me.wait == .none
        && !(pendingP c).wideBusy && (pendingP c).me.pend == [⟨c, 0, 0⟩] && !(pendingP c).me.csr.tcause.getLsbD 16)
      && (faulted 0x20000).mg.faults[0]? == some ⟨.ctx s0.cur, 0, 0x20000, false⟩ && (faulted 0x20000).mg.switching == none
      && (faulted 0x20000).faultOver ⟨.ctx s0.cur, 0, 0x20000, false⟩
      && !(faulted 0x90000).resolvable ⟨.ctx s0.cur, 0, 0x90000, false⟩) = true := by decide +kernel
/-- The waits in which a pending trap is taken, in a handler and outside one. -/
theorem witness_PendingTrapsAndFaultsReachTheirContexts_waits :
    ([Wait.watch, .reread 0 false, .ring 0 false, .ending false, .align 2 1 0].all (fun w =>
        let s := (pendingP 0x0E).setMe { (pendingP 0x0E).me with wait := w }
        s.me.wait == w && s.me.active && s.myTile.runs 0 0 && !s.wideBusy && !s.inProg)
      && (let c := { s0.me with pend := [⟨0x03, 0, 0⟩, ⟨0x0E, 0, 0⟩] }
          c.pend.find? (fun p => p.code == 0x18) == none && c.pend.find? (fun p => p.code == 0x0E) == some ⟨0x0E, 0, 0⟩)
      && ({ s0.me.csr with tcause := 2 ^ 16 } : Csrs).tcause.getLsbD 16) = true := by decide +kernel
/-- A request to the host. -/
def requestOf (op : HostOp) (posted : Bool) (group : Option Nat) : HostReq := ⟨s0.cur, .self, 1, 0, own, 0, op, posted, none, group, 0⟩
/-- The context waits for it, long enough for a timeout. -/
def hosting (r : HostReq) : State := clockAt { waiting s0 (.host []) with hostReqs := [r] } 80000000
theorem witness_HostRequestsAreAnswered :
    ([requestOf (.write []) true none, requestOf (.amo .add 8 1) true (some 1), requestOf (.read 4) false none].all (fun r =>
        (hosting r).hostReqs[0]? == some r && !(hosting r).inProg && !(hosting r).wideBusy && (hosting r).me.wait == .host []
          && decide (r.since + 80000000 ≤ (hosting r).wstime) && !((hosting r).actAs r.owner).wideBusy)
      && (s0.ctx s0.cur).active && (s0.ctx s0.cur).gen == 1 && ([0, 0, 0, 0] : List Byte).length == 4) = true := by decide +kernel
/-- The same within the 50 ms. -/
theorem witness_HostRequestsAreAnswered_early :
    ([requestOf (.write []) true none, requestOf (.amo .add 8 1) true (some 1), requestOf (.read 4) false none].all (fun r =>
        let s := clockAt { waiting s0 (.host []) with hostReqs := [r] } 79999999
        s.hostReqs[0]? == some r && decide (s.wstime < r.since + 80000000) && r.event == none && r.op != .flush
          && r.via == .self && r.owner == s.cur)) = true := by decide +kernel
/-! The machine. -/

theorem witness_EncodingAndDecodingAgree : (Instr.nop always none).isEvent = false ∧ (Instr.nop always none).wf = true
    ∧ (decode (bytesOf 8 0)).toOption = some (.nop always none, 8) ∧ (([3] : List Byte).headD 0).toNat % 4 = 3 := by decide +kernel
/-- The part with `nop` placed where it fetches its next instruction. -/
def placed : State := State.reset.withFetchWord 64 0
theorem witness_AStepRunsTheDecodedInstruction :
    ((trial exec placed ⟨placed.focus.1, placed.focus.2, 8⟩).isNone
      && (issueOrder (placed.core placed.focus.1 placed.focus.2)).head? == some 0
      && (let x := placed.ctx ⟨placed.focus.1, placed.focus.2, 0⟩
          x.mayIssue (placed.tile placed.focus.1) && !x.cancelDue && x.wait == .none && decide (x.cls < 4)
            && (match fetchedBlock x.fetched x.r.pc with
              | some blk => decide ((decode (bytesOf 16 (blk.toNat / 2 ^ (8 * (x.r.pc.toNat % 32))))).toOption = some (.nop always none, 8))
              | none => false)
            && (match exec (.nop always none) { placed with cur := ⟨placed.focus.1, placed.focus.2, 0⟩, inProg := false, stalled := false } with
              | .next u => !u.stalled
              | _ => false))
      && placed.up && !placed.record.delay && placed.late.isEmpty
      && (placed.core placed.focus.1 placed.focus.2).issued != some placed.time
      && placed.turns.isEmpty && (Instr.boot).isEvent && !placed.needsSlot .boot) = true := by decide +kernel
/-- The same state with its core named by the schedule; with a core that has issued in this clock; in reset; with a late load, beside
which an event may come; and with an event of the schedule. -/
theorem witness_AStepRunsTheDecodedInstruction_turns :
    (let s := { placed with turns := [.issue placed.focus.1 placed.focus.2] }
     let done := s.setCore placed.focus.1 placed.focus.2 { s.core placed.focus.1 placed.focus.2 with issued := some s.time }
     let stopped := { s with mg := { s.mg with inReset := true } }
     (s.up && (trial exec s ⟨placed.focus.1, placed.focus.2, 8⟩).isNone && (done.core placed.focus.1 placed.focus.2).issued == some done.time
      && !stopped.up && Instr.inReset .boot && Instr.besideLate (.accessPerform 0 0) && (Instr.accessPerform 0 0).isEvent
      && !s.needsSlot (.accessPerform 0 0))) = true := by decide +kernel
theorem witness_StepsKeepDeviceMemoryCanonical : Memory.wf State.reset.mem = true ∧ goesOn (step State.reset) = true := by decide +kernel
theorem witness_RegisterInstructionsLeaveTheRestAlone : scalarDst (.mov always (.g 1) (.g 2)) = some (.g 1)
    ∧ vectorDst (.vmov always ⟨0, false⟩ (.v 1) (.v 2)) = some (.v 1)
    ∧ goesOn (exec (.mov always (.g 1) (.g 2)) s0) = true ∧ goesOn (exec (.vmov always ⟨0, false⟩ (.v 1) (.v 2)) s0) = true := by
  decide +kernel
theorem witness_RegisterInstructionsLeaveTheRestAlone_others :
    predDst (.cmp always .s32 .lt 3 (.g 4) (.g 5)) = some 3 ∧ maskDst (.vcmp always false ⟨5, false⟩ .lt 2 (.v 1) (.v 2)) = some 2
    ∧ goesOn (exec (.cmp always .s32 .lt 3 (.g 4) (.g 5)) s0) = true
    ∧ goesOn (exec (.vcmp always false ⟨5, false⟩ .lt 2 (.v 1) (.v 2)) s0) = true
    ∧ goesOn (exec (.vmovToIndex always (.v 1) (.g 2)) s0) = true ∧ s0.readS (.g 2) = .ok (0, s0) := by
  refine ⟨?_, ?_, ?_, ?_, ?_, ?_⟩ <;> decide +kernel

end Sys2Proof.Tests
end

/-! The cube (spec/01): the part after reset, the step of the schedule, heat, resets and monitors. First what each function
that these statements speak of does, then the statements. -/

namespace Sys2Proof.Machine

/-! The state after reset (R19, R75). -/

@[simp] theorem State.reset_slot (n : Nat) : State.reset.slot n = Slot.reset := rfl

@[simp] theorem State.reset_tile (n : Nat) : State.reset.tile n = Tile.reset := rfl

@[simp] theorem State.reset_ctx (id : CtxId) : State.reset.ctx id = Ctx.reset := rfl

theorem Slot.reset_bound : Slot.reset.bound = false := by decide

/-! Issue choice (R91, R92). -/

theorem firstSome_append_cons {α β : Type} {f : α → Option β} {before after : List α} {a : α} {b : β}
    (hbefore : ∀ m ∈ before, f m = none) (ha : f a = some b) :
    firstSome f (before ++ a :: after) = some (a, b) := by
  induction before with
  | nil => simp [firstSome, ha]
  | cons m t ih =>
    have ht : ∀ k ∈ t, f k = none := fun k hk => hbefore k (List.mem_cons_of_mem m hk)
    simp [firstSome, hbefore m List.mem_cons_self, ih ht]

section Trial

variable {ex : Instr → State → Host.Outcome State Fault Refusal} {s u : State} {id : CtxId} {i : Instr}

/-- With no trap to take first, an issue slot goes to the context's own instruction. -/
theorem trial_eq_instrTrial (hflow : ∀ code val, (s.ctx id).wait ≠ .flow code val)
    (hcancel : (s.ctx id).cancelDue = false) : trial ex s id = instrTrial ex s id := by
  unfold trial
  dsimp only
  split
  next code val hw => exact absurd hw (hflow code val)
  next => simp [hcancel]

/-- The instruction that is tried is the one at the program counter in the fetched block (R20). -/
theorem instrTrial_eq_issueInstr {blk : BitVec 256} (hmay : (s.ctx id).mayIssue (s.tile id.tile) = true)
    (hfetched : fetchedBlock (s.ctx id).fetched (s.ctx id).r.pc = some blk)
    (hinstr : instrAt blk (s.ctx id).r.pc = .ok i) : instrTrial ex s id = issueInstr ex s id i := by
  simp [instrTrial, hmay, hfetched, hinstr]

theorem instrAt_of_decode {blk : BitVec 256} {pc : Word} {len : Nat}
    (h : decode (bytesOf 16 (blk.toNat / 2 ^ (8 * (pc.toNat % 32)))) = .ok (i, len)) : instrAt blk pc = .ok i := by
  simp [instrAt, blockBits, h, Except.map]

/-- While no load is late and none may become so, an instruction that does not stall issues with its outcome. -/
theorem issueInstr_inOrder (hdelay : s.record.delay = false) (hlate : s.late = [])
    (hex : ex i { s with cur := id, inProg := false, stalled := false } = .next u) (hstalled : u.stalled = false) :
    issueInstr ex s id i = some (.next u) := by
  have horder : (s.record.delay || !s.late.isEmpty) = false := by simp [hdelay, hlate]
  simp [issueInstr, horder, hex, hstalled]

end Trial

section Issue

variable {ex : Instr → State → Host.Outcome State Fault Refusal} {s u : State} {t c n : Nat}

theorem issueOf_of_issued (h : (s.core t c).issued = some s.time) : issueOf ex s t c = none := by
  simp [issueOf, h]

/-- The first ready context of the issue order issues when the Bittern context is not ready (R92). -/
theorem issueOf_of_firstSome (hissued : (s.core t c).issued ≠ some s.time) (hbittern : trial ex s ⟨t, c, 8⟩ = none)
    (hfirst : firstSome (fun n => trial ex s ⟨t, c, n⟩) (issueOrder (s.core t c)) = some (n, .next u)) :
    issueOf ex s t c = some (.next ((u.pointPast t c n (s.ctx ⟨t, c, n⟩).cls).noteIssue t c false)) := by
  simp [issueOf, hissued, hbittern, hfirst]

theorem State.pointPast_of_class (s : State) (t c n : Nat) {cls : Nat} (h : cls < 4) :
    s.pointPast t c n cls = s.setCore t c { s.core t c with rr := (s.core t c).rr.set cls ((n + 1) % 8) h } := by
  simp [State.pointPast, h]

theorem State.noteIssue_ordinary (s : State) (t c : Nat) :
    s.noteIssue t c false = s.setCore t c { s.core t c with issued := some s.time } := rfl

end Issue

/-! The schedule. -/

section Schedule

variable {s u : State} {t c : Nat} {i : Instr}

theorem landAt_of_no_late {ex : Instr → State → Host.Outcome State Fault Refusal} (h : s.late = []) (n : Nat) :
    landAt ex s n = none := by
  simp [landAt, h]

theorem landAll_of_no_late {ex : Instr → State → Host.Outcome State Fault Refusal} (h : s.late = []) :
    landAll ex s = s := by
  simp [landAll, landSome, h]

/-- A step takes the turn that the schedule names first. -/
theorem step_of_turn {turn : Turn} {rest : List Turn} (h : s.turns = turn :: rest) :
    step s = takeTurn exec { s with turns := rest } turn := by
  simp [step, scheduled, h]

theorem step_of_no_turn (h : s.turns = []) : step s = idleTurn exec s := by
  simp [step, scheduled, h]

theorem takeTurn_issue_of_issueOf (hup : s.up = true) (h : issueOf exec s t c = some (.next u)) :
    takeTurn exec s (.issue t c) = .next u := by
  simp [takeTurn, hup, h]

/-- A core that has issued in this clock, or whose clocks are stopped, issues nothing. -/
theorem takeTurn_issue_of_busy_or_down (h : (s.core t c).issued = some s.time ∨ s.up = false) :
    takeTurn exec s (.issue t c) = .next s := by
  rcases h with hissued | hdown
  · simp [takeTurn, issueOf_of_issued hissued]
  · simp [takeTurn, hdown]

theorem idleTurn_of_issueOf (hup : s.up = true) (hlate : s.late = [])
    (h : issueOf exec s s.focus.1 s.focus.2 = some (.next u)) : idleTurn exec s = .next (u.tick 1) := by
  simp [idleTurn, hup, landAt_of_no_late hlate, h]

/-- An event takes place on the state itself where no late load has to land before it. -/
theorem eventOf_eq_exec (hevent : i.isEvent = true) (hslot : s.needsSlot i = false)
    (hlate : s.late = [] ∨ Instr.besideLate i = true) (hup : s.up = true ∨ Instr.inReset i = true) :
    eventOf exec s i = exec i s := by
  have henabled : (!i.isEvent || s.needsSlot i || (!s.up && !Instr.inReset i)) = false := by
    rcases hup with h | h <;> simp [hevent, hslot, h]
  have hlanded : (if Instr.besideLate i = true then s else landAll exec s) = s := by
    rcases hlate with h | h
    · simp [landAll_of_no_late h]
    · simp [h]
  simp only [eventOf, henabled, hlanded, Bool.false_eq_true, if_false]

end Schedule

/-! Clock and temperature (R19). -/

theorem State.up_of_running {s : State} (hp : s.mg.powered = true) (hr : s.mg.inReset = false)
    (ht : s.mg.tripped = false) : s.up = true := by
  simp [State.up, hp, hr, ht]

/-- Temperatures are in quarters of a degree. -/
theorem State.someAt_iff (s : State) (n : Nat) : s.someAt n = true ↔ ∃ t ∈ s.tiles, 4 * n ≤ t.2.temp := by
  simp [State.someAt]

theorem State.allAt_iff (s : State) (n : Nat) : s.allAt n = true ↔ ∀ t ∈ s.tiles, t.2.temp ≤ 4 * n := by
  simp [State.allAt]

section Clock

variable {s : State} (hup : s.up = true) (hswitch : s.mg.switching = none)
include hup hswitch

theorem exec_thermalThrottle_of_due (hhot : s.someAt 95 = true)
    (hdue : ∀ c, s.mg.hotSince = some c → c + 1600000 ≤ s.wstime) :
    exec .thermalThrottle s
      = .next { s with mg := { s.mg with clock := Nat.max 800 (s.mg.clock - 100), hotSince := some s.wstime } } := by
  change execThermalThrottle s = _
  cases hsince : s.mg.hotSince with
  | none => simp [execThermalThrottle, runEvent, hup, hswitch, hhot, hsince]
  | some c => simp [execThermalThrottle, runEvent, hup, hswitch, hhot, hsince, hdue c hsince]

theorem exec_thermalRaise_of_due {c : Nat} (hsince : s.mg.coolSince = some c) (hcool : s.allAt 90 = true)
    (hslow : s.mg.clock < 1600) (hdue : c + 16000000 ≤ s.wstime) :
    exec .thermalRaise s
      = .next { s with mg := { s.mg with clock := Nat.min 1600 (s.mg.clock + 100), coolSince := some s.wstime } } := by
  change execThermalRaise s = _
  simp [execThermalRaise, runEvent, hup, hswitch, hcool, hsince, Nat.not_le.mpr hslow, Nat.not_lt.mpr hdue]

end Clock

/-! The part in reset. -/

theorem aget_map_snd {α β : Type} (f : α → β) (m : Assoc α) (k : Nat) :
    aget (m.map (fun p => (p.1, f p.2))) k = (aget m k).map f := by
  induction m with
  | nil => rfl
  | cons p t ih => by_cases h : p.1 = k <;> simp [aget, h, ih]

/-- A tile of a part in reset keeps its sensors only. -/
theorem State.held_tile (s : State) (d : Nat) :
    s.held.tile d = { Tile.reset with temp := (s.tile d).temp, volt := (s.tile d).volt } := by
  have h := aget_map_snd (fun t : Tile => { Tile.reset with temp := t.temp, volt := t.volt }) s.tiles d
  simp only [State.tile, State.held, h]
  cases aget s.tiles d <;> rfl

/-- What a reset of `s` leaves in `t`: nothing but what flash, fuses and sensors hold (R19, R400). -/
def State.KeepsFlashFusesSensors (s t : State) : Prop :=
  t.mem = [] ∧ t.slots = [] ∧ t.hostReqs = [] ∧ t.homes = []
    ∧ t.mg.inReset = true ∧ t.mg.maps = [] ∧ t.mg.running = none ∧ t.mg.imageA = s.mg.imageA ∧ t.mg.imageB = s.mg.imageB
    ∧ t.mg.versionA = s.mg.versionA ∧ t.mg.versionB = s.mg.versionB ∧ t.mg.fuseVersion = s.mg.fuseVersion
    ∧ t.mg.keyDigest = s.mg.keyDigest ∧ t.mg.leaf = s.mg.leaf
    ∧ ∀ d, (t.tile d).cores = [] ∧ (t.tile d).slice = [] ∧ (t.tile d).holder = none ∧ (t.tile d).temp = (s.tile d).temp

/-- A part in reset holds no more than that, however its trip, its trip log and its power stand. -/
theorem State.held_keeps (s : State) (tripped tripLog powered : Bool) :
    s.KeepsFlashFusesSensors
      { s.held with mg := { s.held.mg with tripped := tripped, tripLog := tripLog, powered := powered } } := by
  refine ⟨rfl, rfl, rfl, rfl, rfl, rfl, rfl, rfl, rfl, rfl, rfl, rfl, rfl, rfl, fun d => ?_⟩
  change (s.held.tile d).cores = [] ∧ (s.held.tile d).slice = [] ∧ (s.held.tile d).holder = none
    ∧ (s.held.tile d).temp = (s.tile d).temp
  rw [State.held_tile]
  exact ⟨rfl, rfl, rfl, rfl⟩

theorem exec_thermalTrip_of_hot {s : State} (hp : s.mg.powered = true) (ht : s.mg.tripped = false)
    (hhot : s.someAt 105 = true) :
    exec .thermalTrip s = .next { s.held with mg := { s.held.mg with tripped := true, tripLog := true } } := by
  change execThermalTrip s = _
  simp [execThermalTrip, runEvent, hp, ht, hhot]

theorem exec_coldReset_of_cool {s : State} (hp : s.mg.powered = true) (hcool : s.mg.tripped = true → s.allAt 70 = true) :
    exec .coldReset s = .next s.held := by
  change execColdReset s = _
  have hfree : (s.mg.tripped && !s.allAt 70) = false := by
    cases ht : s.mg.tripped with
    | false => rfl
    | true => simp [hcool ht]
  simp [execColdReset, runEvent, hp, hfree]

theorem exec_coldReset_of_hot {s : State} (hp : s.mg.powered = true) (ht : s.mg.tripped = true) (hhot : s.allAt 70 = false) :
    exec .coldReset s = .next { s with mg := { s.mg with coldWanted := true } } := by
  change execColdReset s = _
  simp [execColdReset, runEvent, hp, ht, hhot]

theorem exec_powerLoss (s : State) :
    exec .powerLoss s = .next { s.held with mg := { s.held.mg with powered := false } } := rfl

/-! Boot (R393, R399). -/

/-- An order code as RTORD holds it: one of 6 or 7 becomes 0. -/
def orderCode (w : Word) (i : Nat) : Nat := if hf w (3 * i) 3 < 6 then hf w (3 * i) 3 else 0

theorem orderCode_lt (w : Word) (i : Nat) : orderCode w i < 6 := by
  unfold orderCode
  split <;> omega

/-- RTORD as a number: five order codes of three bits. -/
theorem rtordOf_toNat (w : Word) : (rtordOf w).toNat = orderCode w 0 + 8 * (orderCode w 1 + 8 * (orderCode w 2
    + 8 * (orderCode w 3 + 8 * orderCode w 4))) := by
  have hcodes : rtordOf w = BitVec.ofNat 64 (((List.range 5).map (fun i => orderCode w i * 2 ^ (3 * i))).sum) := rfl
  have hlt := orderCode_lt w
  simp only [hcodes, List.range_succ, List.range_zero, List.nil_append, List.cons_append, List.map_cons, List.map_nil,
    List.sum_cons, List.sum_nil, BitVec.toNat_ofNat]
  have h0 := hlt 0; have h1 := hlt 1; have h2 := hlt 2; have h3 := hlt 3; have h4 := hlt 4
  omega

theorem rtordOf_field_lt (w : Word) {i : Nat} (hi : i < 5) : (rtordOf w).toNat / 2 ^ (3 * i) % 8 < 6 := by
  have hfield : (rtordOf w).toNat / 2 ^ (3 * i) % 8 = orderCode w i := by
    have hlt := orderCode_lt w
    have h0 := hlt 0; have h1 := hlt 1; have h2 := hlt 2; have h3 := hlt 3; have h4 := hlt 4
    rw [rtordOf_toNat]
    interval_cases i <;> norm_num <;> omega
  exact hfield ▸ orderCode_lt w i

section Boot

variable {s : State} (hr : s.mg.inReset = true) (ht : s.mg.tripped = false)
include hr ht

theorem exec_boot_of_verified
    (h : (s.mg.verifies s.mg.imageA s.mg.versionA || s.mg.verifies s.mg.imageB s.mg.versionB) = true) :
    exec .boot s = .next { s.draw.2 with mg := { s.mg with
      powered := true, inReset := false, okA := s.mg.verifies s.mg.imageA s.mg.versionA
      okB := s.mg.verifies s.mg.imageB s.mg.versionB, runB := !s.mg.verifies s.mg.imageA s.mg.versionA, status := 0
      rtord := rtordOf s.draw.1 } } := by
  change execBoot s = _
  simp [execBoot, runEvent, hr, ht, h]

theorem exec_boot_of_unverified (ha : s.mg.verifies s.mg.imageA s.mg.versionA = false)
    (hb : s.mg.verifies s.mg.imageB s.mg.versionB = false) :
    exec .boot s = .next { s with mg := { s.mg with
      powered := true, okA := false, okB := false, status := mgsts 4 0 0xB0 0 } } := by
  change execBoot s = _
  simp [execBoot, runEvent, hr, ht, ha, hb]

end Boot

/-! Monitors (R402). -/

/-- What each element's step keeps, the whole fold keeps. -/
theorem foldl_keeps {α β γ : Type} (g : β → γ) (f : β → α → β) (h : ∀ b a, g (f b a) = g b) (l : List α) (b : β) :
    g (l.foldl f b) = g b :=
  (List.foldl_hom g (g₁ := f) (g₂ := fun c _ => c) (fun x y => (h x y).symm)).symm.trans (List.foldl_fixed l)

/-- The reading of one temperature. -/
def State.readTemp (s : State) (p : Nat × Nat) : State := s.setTile p.1 { s.tile p.1 with temp := p.2 }

/-- The reading of one voltage at a time of WSTIME. -/
def State.readVolt (now : Nat) (s : State) (p : Nat × Nat) : State :=
  s.setTile p.1 { s.tile p.1 with
    volt := p.2, voltSince := if voltOff p.2 then some ((s.tile p.1).voltSince.getD now) else none }

/-- The readings of a sample's tiles, before Tueno looks at them. -/
def State.readings (s : State) (temps volts : List (Nat × Nat)) : State :=
  (volts.filter (fun p => decide (p.1 < 1536))).foldl (State.readVolt s.wstime)
    ((temps.filter (fun p => decide (p.1 < 1536))).foldl State.readTemp s)

section Sample

variable (s : State) (temps volts procs : List (Nat × Nat))

theorem State.readings_mem : (s.readings temps volts).mem = s.mem := by
  unfold State.readings
  rw [foldl_keeps State.mem (State.readVolt s.wstime) (fun _ _ => rfl), foldl_keeps State.mem State.readTemp (fun _ _ => rfl)]

theorem State.readings_mg : (s.readings temps volts).mg = s.mg := by
  unfold State.readings
  rw [foldl_keeps State.mg (State.readVolt s.wstime) (fun _ _ => rfl), foldl_keeps State.mg State.readTemp (fun _ _ => rfl)]

theorem State.sampled_mem : (s.sampled temps volts procs).mem = s.mem := s.readings_mem temps volts

theorem State.sampled_clock : (s.sampled temps volts procs).mg.clock = s.mg.clock := by
  change (s.readings temps volts).mg.clock = _
  rw [State.readings_mg]

theorem State.sampled_tripped : (s.sampled temps volts procs).mg.tripped = s.mg.tripped := by
  change (s.readings temps volts).mg.tripped = _
  rw [State.readings_mg]

/-- Tueno's own readings change no tile. -/
theorem State.sampled_tile (d : Nat) : (s.sampled temps volts procs).tile d = (s.readings temps volts).tile d := rfl

theorem exec_monitorSample_untripped (hp : s.mg.powered = true) (ht : s.mg.tripped = false) :
    exec (.monitorSample temps volts procs) s = .next (s.sampled temps volts procs) := by
  change execMonitorSample temps volts procs s = _
  simp [execMonitorSample, runEvent, hp, State.sampled_tripped, ht]

end Sample

section OneTile

variable (s : State) {d : Nat} (v : Nat) (hd : d < 1536)
include hd

theorem State.readings_one_temp : (s.readings [(d, v)] []).tile d = { s.tile d with temp := v } := by
  simp [State.readings, State.readTemp, hd]

theorem State.readings_one_volt : (s.readings [] [(d, v)]).tile d = { s.tile d with
    volt := v, voltSince := if voltOff v then some ((s.tile d).voltSince.getD s.wstime) else none } := by
  simp [State.readings, State.readVolt, hd]

end OneTile

theorem voltOff_eq_false_iff (v : Nat) :
    voltOff v = false ↔ 20 * (max v Config.nominalMv - min v Config.nominalMv) ≤ Config.nominalMv := by
  simp [voltOff]

/-! Voltage excursions (R402). -/

/-- A tile's execution point logs in its SRAM log. -/
theorem State.logAt_tile (s : State) (d : Nat) : s.logAt (.tile d)
    = s.draw.2.setTile d { s.tile d with sram := (s.tile d).sram.push s.openEntry.1 } := rfl

/-- The state after a voltage excursion of a tile. -/
def State.excursion (s : State) (d : Nat) : State :=
  let u := (s.setTile d { s.tile d with voltSince := none }).logAt (.tile d)
  { u with mg := { u.mg with voltFlags := u.mg.voltFlags ++ [d] } }

theorem exec_voltageExcursion_of_due {s : State} {d c : Nat} (hup : s.up = true) (hsince : (s.tile d).voltSince = some c)
    (hdue : c + 1600000 ≤ s.wstime) : exec (.voltageExcursion d) s = .next (s.excursion d) := by
  change execVoltageExcursion d s = _
  simp [execVoltageExcursion, runEvent, State.excursion, hup, hsince, Nat.not_lt.mpr hdue]

theorem State.excursion_tile (s : State) (d : Nat) : ∃ e, (s.excursion d).tile d
    = { s.tile d with voltSince := none, sram := (s.tile d).sram.push e } := by
  refine ⟨(s.setTile d { s.tile d with voltSince := none }).openEntry.1, ?_⟩
  change (((s.setTile d { s.tile d with voltSince := none }).logAt (.tile d)).tile d) = _
  rw [State.logAt_tile, State.tile_setTile_same, State.tile_setTile_same]

end Sys2Proof.Machine

namespace Sys2Proof.Cube

open Sys2Proof.Machine

/-- Settles O59: every table of the reset state is empty, so a part reads as its own reset value. -/
theorem resetLeavesThePartEmpty : Obligations.ResetLeavesThePartEmpty := by
  unfold Obligations.ResetLeavesThePartEmpty
  refine ⟨reset_mem_wf, fun n => ?bound, fun id => ?active, fun d => ?tile, rfl, rfl, rfl, rfl, rfl, rfl, rfl, ⟨rfl, rfl⟩,
    fun d => ?slice, fun a => rfl⟩
  case bound => rw [State.reset_slot, Slot.reset_bound]
  case active => rw [State.reset_ctx]; rfl
  case tile => rw [State.reset_tile]; exact ⟨rfl, rfl⟩
  case slice => rw [State.reset_tile]; rfl

/-- Settles O57: the ready context's trial is its decoded instruction, which the issue order reaches first; the turns of the
schedule then read off what the core issues. -/
theorem aStepRunsTheDecodedInstruction : Obligations.AStepRunsTheDecodedInstruction := by
  unfold Obligations.AStepRunsTheDecodedInstruction
  intro s u t c n i len blk before after run
  have issues (s0 : State) (done : State → State)
      (hstep : s0.up = true → s0.late = [] → ∀ v, issueOf exec s0 t c = some (.next v) → step s = .next (done v)) :
      run s0 done := by
    intro hup hdelay hlate hissued hbittern horder hbefore hmay hcancel hflow hfetched hdecode hex hstalled hcls
    have hready : trial exec s0 ⟨t, c, n⟩ = some (.next u) := by
      rw [trial_eq_instrTrial hflow hcancel,
        instrTrial_eq_issueInstr hmay hfetched (instrAt_of_decode hdecode),
        issueInstr_inOrder hdelay hlate hex hstalled]
    have hfirst : firstSome (fun m => trial exec s0 ⟨t, c, m⟩) (issueOrder (s0.core t c)) = some (n, .next u) := by
      rw [horder]
      exact firstSome_append_cons hbefore hready
    have hissue := issueOf_of_firstSome hissued hbittern hfirst
    rw [State.pointPast_of_class u t c n hcls, State.noteIssue_ordinary] at hissue
    exact hstep hup hlate _ hissue
  refine ⟨?issue, ?idle, ?idleCore, ?event, ?clock⟩
  case issue =>
    intro rest hturns
    refine issues { s with turns := rest } (fun v => v) fun hup _ v hv => ?_
    rw [step_of_turn hturns]
    exact takeTurn_issue_of_issueOf hup hv
  case idle =>
    intro hturns hfocus
    refine issues s (fun v => v.tick 1) fun hup hlate v hv => ?_
    rw [step_of_no_turn hturns]
    exact idleTurn_of_issueOf hup hlate (by simpa [hfocus] using hv)
  case idleCore =>
    intro rest hturns hbusy
    rw [step_of_turn hturns]
    exact takeTurn_issue_of_busy_or_down hbusy
  case event =>
    intro rest hturns hevent hslot hlate hup
    rw [step_of_turn hturns]
    exact eventOf_eq_exec hevent hslot hlate hup
  case clock =>
    intro rest k hturns
    rw [step_of_turn hturns]
    rfl

/-- Settles O50: each event takes place under its premises, and the state that it leaves is read off; the three ways into
reset leave the same state but for trip, trip log and power. -/
theorem heatAndResetsFollowTheirRules : Obligations.HeatAndResetsFollowTheirRules := by
  unfold Obligations.HeatAndResetsFollowTheirRules
  intro s m
  refine ⟨?throttle, ?raise, ⟨?trip, ?cold, ?coldHeld, ?power⟩, ?boot, ?sample, ?excursion⟩
  case throttle =>
    intro hp hr ht hswitch hhot hdue
    exact exec_thermalThrottle_of_due (State.up_of_running hp hr ht) hswitch ((s.someAt_iff 95).mpr hhot) hdue
  case raise =>
    intro c hp hr ht hswitch hsince hcool hslow hdue
    exact exec_thermalRaise_of_due (State.up_of_running hp hr ht) hswitch hsince ((s.allAt_iff 90).mpr hcool) hslow hdue
  case trip =>
    intro hp ht hhot
    exact ⟨_, exec_thermalTrip_of_hot hp ht ((s.someAt_iff 105).mpr hhot), s.held_keeps true true true, rfl, rfl, rfl⟩
  case cold =>
    intro hp hcool
    exact ⟨_, exec_coldReset_of_cool hp (fun ht => (s.allAt_iff 70).mpr (hcool ht)),
      s.held_keeps false m.tripLog true, rfl, rfl⟩
  case coldHeld =>
    intro hp ht ⟨t, hmem, hhot⟩
    refine exec_coldReset_of_hot hp ht (Bool.eq_false_iff.mpr fun hall => ?_)
    exact absurd ((s.allAt_iff 70).mp hall t hmem) (by omega)
  case power => exact ⟨_, exec_powerLoss s, s.held_keeps false m.tripLog false, rfl⟩
  case boot =>
    intro hr ht
    refine ⟨fun hverified => ?_, fun ha hb => ?_⟩
    · refine ⟨_, exec_boot_of_verified hr ht (Bool.or_eq_true_iff.mpr hverified), rfl, rfl, fun ha => ?_, fun ha => ?_, rfl,
        fun i hi => rtordOf_field_lt _ hi⟩
      · exact congrArg not ha
      · exact congrArg not (Bool.eq_false_iff.mpr ha)
    · exact exec_boot_of_unverified hr ht (Bool.eq_false_iff.mpr ha) (Bool.eq_false_iff.mpr hb)
  case sample =>
    intro temps volts procs hp ht
    refine ⟨_, exec_monitorSample_untripped s temps volts procs hp ht, s.sampled_mem temps volts procs,
      s.sampled_clock temps volts procs, ?_, ?_⟩
    · rintro d v rfl hd rfl
      rw [State.sampled_tile, State.readings_one_temp s v hd]
      exact ⟨rfl, rfl⟩
    · rintro d v rfl hd rfl
      rw [State.sampled_tile, State.readings_one_volt s v hd, ← voltOff_eq_false_iff]
      exact ⟨rfl, by simp⟩
  case excursion =>
    intro d c hp hr ht hsince hdue
    obtain ⟨e, htile⟩ := s.excursion_tile d
    refine ⟨_, exec_voltageExcursion_of_due (State.up_of_running hp hr ht) hsince hdue, rfl, ?_, ⟨e, ?_⟩, rfl⟩ <;> rw [htile]

end Sys2Proof.Cube

/-! The encoding: table words (O56) and false guards (O14). -/

namespace Sys2Proof.Machine

/-- R24: an instruction with a guard and an encoding, whose guard is false, moves past the bytes of its encoding. -/
theorem exec_guard_false {i : Instr} {g : Guard} {e : Enc} (hg : i.guard? = some g) (he : i.enc = some e) (s : State)
    (hs : s.guard g = false) : exec i s = .next (s.advance (lenBytes e.fmt.len)) := by
  have hbranch (body) := runBranch_guard_false g (lenBytes e.fmt.len) s body hs
  have hinstr (body) := runInstr_guard_false g (lenBytes e.fmt.len) s body hs
  cases i <;> cases hg <;> dsimp only [exec]
  case nop.refl hdr => cases hdr <;> cases he <;> exact hinstr _
  case pmov.refl f => cases f <;> cases he <;> exact hinstr _
  case cwait.refl src _ _ | cwaitNb.refl src _ _ | cread.refl src _ => cases src <;> cases he <;> exact hinstr _
  case cancel.refl sel => cases sel <;> cases he <;> exact hinstr _
  case br | brk | jmp | call | jr | callr | ret | iter | done | trap | eret => cases he; exact hbranch _
  all_goals
    cases he
    exact hinstr _

/-- R20, R24: exactly what has a guard has an encoding. -/
theorem guard_isSome_eq_enc_isSome (i : Instr) : i.guard?.isSome = i.enc.isSome := by
  cases i
  case nop hdr => cases hdr <;> rfl
  case pmov f => cases f <;> rfl
  case cwait src _ _ | cwaitNb src _ _ | cread src _ => cases src <;> rfl
  case cancel sel => cases sel <;> rfl
  all_goals rfl

theorem isEvent_eq_enc_isNone (i : Instr) : i.isEvent = i.enc.isNone := by
  rw [Instr.isEvent, ← Option.not_isSome, ← Option.not_isSome, guard_isSome_eq_enc_isSome]

end Sys2Proof.Machine

namespace Sys2Proof.Cube

open Sys2Proof.Machine

/-- Settles O56: the decoder evaluates to the instruction on each word, and to an error on the two refused ones. -/
theorem tableWordsDecode : Obligations.TableWordsDecode := by
  unfold Obligations.TableWordsDecode
  refine ⟨rfl, rfl, rfl, rfl, rfl, rfl, rfl, rfl, rfl, rfl, rfl, rfl, rfl, rfl, rfl, rfl, rfl, fun r h => ?_, fun r h => ?_⟩
  · exact nomatch (show Except.error _ = Except.ok r from h)
  · exact nomatch (show Except.error _ = Except.ok r from h)

/-- Settles O14: each instruction runs under its guard, as long as its encoding. -/
theorem aFalseGuardOnlyMovesOn : Obligations.AFalseGuardOnlyMovesOn := by
  unfold Obligations.AFalseGuardOnlyMovesOn
  exact ⟨fun i g e s hg he hs => exec_guard_false hg he s hs,
    fun i => ⟨guard_isSome_eq_enc_isSome i, isEvent_eq_enc_isNone i⟩⟩

end Sys2Proof.Cube

/-! Transfers of control (O16): what each transfer does, and what a target that R22 or R41 forbids does. -/

namespace Sys2Proof.Machine

section Transfers

variable {g : Guard} {ofs : BitVec 34} {link : BitVec 6} {a : SSrc} {s s1 : State} {t : Word}

theorem relTarget_eq (pc : Word) (ofs : BitVec 34) : relTarget pc ofs = pc + (ofs.signExtend 64 <<< 2) := by
  rw [relTarget, BitVec.shiftLeft_eq_mul_twoPow]
  rfl

/-- The state of a call once its link register and the latch hold the return address (R101). -/
def State.linked (s : State) (link : BitVec 6) (v : Word) : State := s.setMe ((s.me.putG link v).setLat v)

theorem writeS_link (s : State) (link : BitVec 6) (v : Word) : s.writeS (.g link) v = .ok (s.linked link v) := rfl

/-- An aligned target of a register transfer is taken as it was read. -/
theorem regTarget_of_aligned (hr : s.readS a = .ok (t, s1)) (ht : t.toNat % 4 = 0) : s.regTarget a = .ok (t, s1) := by
  simp [State.regTarget, hr, need, ht, bind, Except.bind]

/-- A misaligned target of a register transfer traps ALIGN before any effect (R22). -/
theorem regTarget_of_misaligned (hr : s.readS a = .ok (t, s1)) (ht : t.toNat % 4 ≠ 0) :
    s.regTarget a = .error (.trap .align t) := by
  simp [State.regTarget, hr, need, ht, bind, Except.bind]

/-- ALIGN names the instruction itself as its return address, once no wide update of the context waits (R131). -/
theorem stopped_align (s : State) (len : Nat) (v : Word) (hw : s.wideBusy = false) :
    s.stopped len (.trap .align v) = s.raise .align s.me.r.pc v := by
  simp [State.stopped, hw, TrapCode.resumesNext]

section Guarded

variable (hg : s.guard g = true)

include hg

theorem exec_br (neg : Bool) (p : BitVec 3) : exec (.br g neg p ofs) s
    = .next (if s.readP p != neg then s.transferTo (relTarget s.me.r.pc ofs) else s.advance 8) := by
  dsimp only [exec, execBr]
  cases h : s.readP p != neg <;> simp [runBranch, hg, h]

theorem exec_jmp : exec (.jmp g ofs) s = .next (s.transferTo (relTarget s.me.r.pc ofs)) := by
  dsimp only [exec, execJmp]
  exact runBranch_ok g 8 s _ _ hg rfl

theorem exec_call :
    exec (.call g link ofs) s = .next ((s.linked link (s.me.r.pc + 8)).transferTo (relTarget s.me.r.pc ofs)) := by
  dsimp only [exec, execCall]
  exact runBranch_ok g 8 s _ _ hg rfl

theorem exec_jr_of_target (h : s.regTarget a = .ok (t, s1)) : exec (.jr g a) s = .next (s1.transferTo t) := by
  dsimp only [exec, execJr]
  exact runBranch_ok g 8 s _ _ hg (by simp [h, Except.map])

theorem exec_callr_of_target (h : s.regTarget a = .ok (t, s1)) :
    exec (.callr g link a) s = .next ((s1.linked link (s.me.r.pc + 8)).transferTo t) := by
  dsimp only [exec, execCallr]
  exact runBranch_ok g 8 s _ _ hg (by simp [h, writeS_link, State.linkValue, bind, Except.bind])

theorem exec_jr_of_misaligned (h : s.regTarget a = .error (.trap .align t)) (hw : s.wideBusy = false) :
    exec (.jr g a) s = .next (s.raise .align s.me.r.pc t) := by
  dsimp only [exec, execJr]
  rw [runBranch_error g 8 s _ _ hg (by simp [h, Except.map]; rfl), stopped_align s 8 t hw]

theorem exec_callr_of_misaligned (h : s.regTarget a = .error (.trap .align t)) (hw : s.wideBusy = false) :
    exec (.callr g link a) s = .next (s.raise .align s.me.r.pc t) := by
  dsimp only [exec, execCallr]
  rw [runBranch_error g 8 s _ _ hg (by simp [h, bind, Except.bind]; rfl), stopped_align s 8 t hw]

/-- R106: an iteration that is left goes on with the next index. -/
theorem exec_iter_of_left (ha : s.me.nest.active = true) (hlt : s.me.nest.next.toNat < s.me.nest.stop.toNat) :
    exec (.iter g ofs) s = .next ((s.setMe { s.me with nest := { s.me.nest with
      i := nestUnpack s.me.nest.ext s.me.nest.next.toNat
      next := BitVec.ofNat 64 (s.me.nest.next.toNat + s.me.nest.step.toNat) } }).transferTo (relTarget s.me.r.pc ofs)) := by
  dsimp only [exec, execIter]
  exact runBranch_ok g 8 s _ _ hg (by simp [ha, hlt])

/-- R106: an iteration that is over goes inactive and flows on. -/
theorem exec_iter_of_over (h : s.me.nest.active = true → s.me.nest.stop.toNat ≤ s.me.nest.next.toNat) :
    exec (.iter g ofs) s = .next ((s.setMe { s.me with nest := { s.me.nest with active := false } }).advance 8) := by
  have hover : (s.me.nest.active && decide (s.me.nest.next.toNat < s.me.nest.stop.toNat)) = false := by
    simpa using h
  dsimp only [exec, execIter]
  exact runBranch_ok g 8 s _ _ hg (by simp [hover])

end Guarded

/-- `ret` has the effect of `jr` (R102). -/
theorem exec_ret_eq_jr (g : Guard) (a : SSrc) (s : State) : exec (.ret g a) s = exec (.jr g a) s := by
  dsimp only [exec]
  rfl

/-! What a target breaks (R22, R41). -/

theorem targetBad_of_no_page {slot allot : Nat} {prog : Bool} (h : s.execPage slot t = none) :
    s.targetBad slot allot prog t = some (.perm, t) := by
  simp [State.targetBad, h]

section Mapped

variable {slot allot : Nat} {prog : Bool} {page : ExecPage} {blk : BitVec 256}
  (hpage : s.execPage slot t = some page) (hblk : s.codeBlock slot t = some blk)

include hpage hblk

theorem targetBad_of_no_start (h : isStart blk t = false) : s.targetBad slot allot prog t = some (.addr, t) := by
  simp [State.targetBad, hpage, hblk, h]

theorem targetBad_of_allotment (h : isStart blk t = true) (hlt : allot < page.allot) :
    s.targetBad slot allot false t = some (.vallot, page.va) := by
  simp [State.targetBad, hpage, hblk, h, hlt]

end Mapped

/-- A bad target of a context with no wide update waiting traps after the transfer, with the target as the return address. -/
theorem transferTo_bad {code : TrapCode} {v : Word} (hprog : s.inProg = false) (hwide : s.wideBusy = false)
    (h : s.targetBad s.me.slot s.me.allot false t = some (code, v)) :
    s.transferTo t = (s.setMe { s.me with r := { s.me.r with pc := t } }).raise code t v := by
  simp [State.transferTo, hprog, h, State.badFlow, hwide]

end Transfers

end Sys2Proof.Machine

namespace Sys2Proof.Cube

open Sys2Proof.Machine

/-- Settles O16: each transfer reads its target and goes there; the check of the target decides what the arrival does. -/
theorem transfersGoToTheirTargets : Obligations.TransfersGoToTheirTargets := by
  unfold Obligations.TransfersGoToTheirTargets
  intro g neg p ofs link a s s1 t hg hr pc rel linked f n e i
  have hrel : rel = relTarget pc ofs := (relTarget_eq pc ofs).symm
  rw [hrel]
  refine ⟨exec_br hg neg p, exec_jmp hg, exec_call hg, fun ht => ?aligned, fun ht hw => ?misaligned, exec_iter_of_left hg,
    exec_iter_of_over hg, fun u h => transferTo_legal u t h, fun u hprog hw h => ?noPage,
    fun u page blk hprog hw hpage hblk => ⟨fun h => ?noStart, fun h hlt => ?allotment⟩⟩
  case aligned =>
    have htarget := regTarget_of_aligned hr ht
    exact ⟨exec_jr_of_target hg htarget, (exec_ret_eq_jr g a s).trans (exec_jr_of_target hg htarget),
      exec_callr_of_target hg htarget⟩
  case misaligned =>
    have htarget := regTarget_of_misaligned hr ht
    exact ⟨exec_jr_of_misaligned hg htarget hw, (exec_ret_eq_jr g a s).trans (exec_jr_of_misaligned hg htarget hw),
      exec_callr_of_misaligned hg htarget hw⟩
  case noPage => exact transferTo_bad hprog hw (targetBad_of_no_page h)
  case noStart => exact transferTo_bad hprog hw (targetBad_of_no_start hpage hblk h)
  case allotment => exact transferTo_bad hprog hw (targetBad_of_allotment hpage hblk h hlt)

end Sys2Proof.Cube


/-! SUPPORT. Pages and halts (spec/02 R45, R46; spec/13 R318; spec/17 R389): the commands that Tueno performs, one page of a
MAP, what removing a mapping leaves, and HALT_REQ in the contexts of a job. -/

namespace Sys2Proof.Machine

/-! The mailbox. -/

/-- A part that runs a command and waits for nothing performs the command of that code. -/
theorem State.commanded_of_running (s : State) (c : MgCmd) (hp : s.mg.powered = true) (hr : s.mg.inReset = false)
    (ht : s.mg.tripped = false) (hsw : s.mg.switching = none) (hw : s.mg.wait = .none) (hc : s.mg.running = some c)
    (code : Nat) (h : c.code = code) : s.commanded code = true := by
  simp [State.commanded, State.up, hp, hr, ht, hsw, hw, hc, h]

/-- A refusal with an open code: some code that is not 0, and Tueno's records as they were. -/
theorem State.openRefusal_eq (s : State) (len : Nat) : ∃ (t : State) (e : Nat), e ≠ 0 ∧ t.mg = s.mg
    ∧ s.openRefusal len = { t with mg := { t.mg with wait := .response 4 e len } } := by
  refine ⟨s.draw.2, 1 + s.draw.1.toNat % 255, by omega, rfl, ?_⟩
  dsimp only [State.openRefusal, State.answerCmd]
  rw [if_neg (by omega)]

/-! One page of MAP (R419). -/

section MapPage

variable (s : State) (q : MapReq) (k f : Nat)

theorem mapPage_of_malformed (h : q.malformed k f = true) : (s.mapPage q k f).1 = .failed 1 0 := by
  simp [State.mapPage, h]

theorem mapPage_of_untranslated (hm : q.malformed k f = false) (h : q.untranslated k = true) :
    (s.mapPage q k f).1 = .failed 2 0 := by
  simp [State.mapPage, hm, h]

theorem mapPage_of_other_colour (hm : q.malformed k f = false) (hu : q.untranslated k = false) (hp : q.pick = false)
    (hh : q.host = false) (h : frameColour f ≠ pageColour (q.pageVa k)) : (s.mapPage q k f).1 = .failed 3 0 := by
  simp [State.mapPage, hm, hu, hp, hh, h]

/-- A frame that conflicts with a mapping is not mapped, whatever else is wrong with the page (R46, R316). -/
theorem mapPage_of_conflict (hp : q.pick = false) (h : s.mapConflict (q.mapping k f) = true) :
    ∃ code st, (s.mapPage q k f).1 = .failed code st := by
  cases hm : q.malformed k f with
  | true => exact ⟨_, _, mapPage_of_malformed s q k f hm⟩
  | false =>
    unfold State.mapPage
    simp only [hm, hp, h, Bool.false_eq_true, if_false, if_true]
    split_ifs <;> exact ⟨_, _, rfl⟩

/-- A frame that Tueno cannot use is not mapped, whatever else is wrong with the page. -/
theorem mapPage_of_unusable (hp : q.pick = false) (hh : q.host = false) (h : s.frameUsable f q.size = false) :
    ∃ code st, (s.mapPage q k f).1 = .failed code st := by
  unfold State.mapPage
  simp only [hp, hh, h, Bool.not_false, Bool.and_self, Bool.false_eq_true, if_false, if_true]
  split_ifs <;> exact ⟨_, _, rfl⟩

/-- A page that is mapped to the frame the request names conflicts with no mapping, and lies in a frame that can be used. -/
theorem mapPage_ok (hp : q.pick = false) (h : (s.mapPage q k f).1 = .ok f) :
    s.mapConflict (q.mapping k f) = false ∧ (q.host = false → s.frameUsable f q.size = true) := by
  constructor
  · by_contra hc
    obtain ⟨code, st, e⟩ := mapPage_of_conflict s q k f hp (Bool.eq_true_of_not_eq_false hc)
    simp [e] at h
  · intro hh
    by_contra hu
    obtain ⟨code, st, e⟩ := mapPage_of_unusable s q k f hp hh (Bool.eq_false_of_not_eq_true hu)
    simp [e] at h

/-- A mapping that conflicts with none is not both executable and writable (R46). -/
theorem not_exec_and_writable_of_mapConflict (h : s.mapConflict (q.mapping k f) = false) :
    ¬ (q.x = true ∧ q.w = true) := by
  rintro ⟨hx, hw⟩
  simp [State.mapConflict, MapReq.mapping, hx, hw] at h

end MapPage

/-- MAP answers what mapping its pages came to: code, index, scan status and the frames, with zeros up to its count. -/
theorem execMap_of_mapPages (s u : State) (q : MapReq) (r : MapResult) (code : Nat) (hcmd : s.commanded 3 = true)
    (hq : (⟨s.bufWord 0, s.bufNat 8 8⟩ : MapReq) = q)
    (hpages : s.mapPages q ((List.range q.count).map (fun k => (k, if q.pick then 0 else s.bufNat (16 + 8 * k) 8))) []
      = (r, u)) (hcode : r.code = some code) :
    execMap s = .next ((u.putWords 0 ([code + 256 * r.index, r.status.toNat] ++ r.frames
      ++ List.replicate (q.count - r.frames.length) 0)).answerCmd code (16 + 8 * q.count)) := by
  unfold execMap
  rw [hcmd, hq]
  simp only [Bool.not_true, Bool.false_eq_true, if_false, hpages, hcode, runEvent_enabled, List.cons_append,
    List.nil_append]

/-! Tueno's mappings while tables are written and a page is unmapped (R315, R318). -/

theorem settleAt_mg (s : State) (keys : Nat → Bool) : (s.settleAt keys).mg = s.mg := rfl

theorem draw_mg (s : State) : s.draw.2.mg = s.mg := rfl

theorem takeFrame_maps {s : State} {colour : Option Nat} {n : Nat} {p : Nat × State}
    (h : s.takeFrame colour n = some p) : p.2.mg.maps = s.mg.maps := by
  unfold State.takeFrame at h
  dsimp only at h
  obtain ⟨i, -, rfl⟩ := Option.map_eq_some_iff.mp h
  rw [settleAt_mg, draw_mg]

theorem nextTable_maps {s : State} {entry va : Nat} {p : Nat × State} (h : s.nextTable entry va = some p) :
    p.2.mg.maps = s.mg.maps := by
  unfold State.nextTable at h
  extract_lets at h
  split at h
  · obtain rfl := Option.some.inj h
    rfl
  · split at h
    · exact absurd h (Option.some_ne_none _).symm
    · rename_i f s1 e
      obtain rfl := Option.some.inj h
      exact takeFrame_maps (p := (f, s1)) e

theorem writeLeaf_maps {s u : State} {root va : Nat} {large : Bool} {pte : Nat}
    (h : s.writeLeaf root va large pte = some u) : u.mg.maps = s.mg.maps := by
  unfold State.writeLeaf at h
  split at h
  · exact absurd h (Option.some_ne_none _).symm
  · rename_i t2 s1 e1
    extract_lets at h
    split at h
    · obtain rfl := Option.some.inj h
      exact nextTable_maps (p := (t2, s1)) e1
    · split at h
      · exact absurd h (Option.some_ne_none _).symm
      · rename_i t3 s2 e2
        obtain rfl := Option.some.inj h
        exact (nextTable_maps (p := (t3, s2)) e2).trans (nextTable_maps e1)

theorem writeLeaves_maps (roots : List Nat) {s u : State} {va : Nat} {large : Bool} {pte : Nat}
    (h : s.writeLeaves roots va large pte = some u) : u.mg.maps = s.mg.maps := by
  induction roots generalizing s with
  | nil => cases h; rfl
  | cons r rest ih =>
    unfold State.writeLeaves at h
    split at h
    · cases h
    · rename_i s1 e
      exact (ih h).trans (writeLeaf_maps e)

theorem clearLeaf_maps (s : State) (m : Mapping) : (s.clearLeaf m).mg.maps = s.mg.maps := by
  unfold State.clearLeaf
  cases e : s.writeLeaves (s.rootsOf m.asid.toNat) m.va.toNat m.large (m.pte - 1) with
  | none => rfl
  | some u => exact writeLeaves_maps _ e

theorem forgetLost_maps (s : State) (m : Mapping) : (s.forgetLost m).mg.maps = s.mg.maps := by
  unfold State.forgetLost
  split_ifs <;> rfl

theorem forgetLost_pages (s : State) (m : Mapping) : (s.forgetLost m).mg.pages = s.mg.pages := by
  unfold State.forgetLost
  split_ifs <;> rfl

/-- Removing a mapping takes the mappings of that page out of Tueno's table. -/
theorem unmapPage_maps (s : State) (m : Mapping) :
    (s.unmapPage m).mg.maps = s.mg.maps.filter (fun p => !p.isPage m.asid.toNat m.va.toNat) := by
  rw [← clearLeaf_maps s m]
  exact forgetLost_maps _ _

/-- No executable page stays where a mapping was removed. -/
theorem not_mem_unmapPage_pages (s : State) (m : Mapping) (p : ExecPage) (h : p ∈ (s.unmapPage m).mg.pages)
    (ha : p.asid = m.asid) : p.va ≠ m.va := by
  rw [State.unmapPage, forgetLost_pages] at h
  have hp := (List.mem_filter.mp h).2
  intro hv
  simp [ha, hv] at hp

/-! HALT_REQ (R370, R373). -/

@[simp] theorem postTrap_mem (s : State) (i : CtxId) (p : Pending) : (s.postTrap i p).mem = s.mem := rfl

@[simp] theorem postTrap_regs (s : State) (i k : CtxId) (p : Pending) : ((s.postTrap i p).ctx k).r = (s.ctx k).r := by
  by_cases h : k = i
  · subst h; simp [State.postTrap]
  · simp [State.postTrap, State.ctx_setCtx_other _ _ _ _ h]

/-- A pending trap is added to its context and to no other. -/
theorem postTrap_pend (s : State) (i k : CtxId) (p : Pending) :
    ((s.postTrap i p).ctx k).pend = (s.ctx k).pend ++ (if k = i then [p] else []) := by
  by_cases h : k = i
  · subst h; simp [State.postTrap]
  · simp [State.postTrap, State.ctx_setCtx_other _ _ _ _ h, h]

/-- One pending trap posted to each context of a list, in order. -/
theorem foldl_postTrap (l : List CtxId) (p : Pending) (s : State) :
    let t := l.foldl (fun (u : State) i => u.postTrap i p) s
    t.mem = s.mem ∧ ∀ k, (t.ctx k).r = (s.ctx k).r ∧ (s.ctx k).pend ⊆ (t.ctx k).pend ∧ (k ∈ l → p ∈ (t.ctx k).pend) := by
  induction l generalizing s with
  | nil => simp
  | cons i rest ih =>
    obtain ⟨hm, hk⟩ := ih (s.postTrap i p)
    refine ⟨hm, fun k => ?_⟩
    obtain ⟨hr, hsub, hin⟩ := hk k
    rw [postTrap_pend, List.append_subset] at hsub
    refine ⟨hr.trans (postTrap_regs s i k p), hsub.1, fun h => ?_⟩
    rcases List.mem_cons.mp h with rfl | h
    · exact hsub.2 (by simp)
    · exact hin h

/-- HALT reaches every active context of the job, and changes neither memory nor any register. -/
theorem haltJob_spec (s : State) (slot : Nat) :
    (∀ id ∈ s.contextsIn slot, ∃ p ∈ ((s.haltJob slot).ctx id).pend, p.code = 0x18) ∧ (s.haltJob slot).mem = s.mem
      ∧ ∀ id, ((s.haltJob slot).ctx id).r = (s.ctx id).r := by
  obtain ⟨hm, hk⟩ := foldl_postTrap (s.contextsIn slot) ⟨TrapCode.haltReq.num, 4, 0⟩ s
  exact ⟨fun id h => ⟨_, (hk id).2.2 h, rfl⟩, hm, fun id => (hk id).1⟩

end Sys2Proof.Machine

namespace Sys2Proof.Cube

open Sys2Proof.Machine

/-- Settles O47: each clause by what its command does once Tueno performs it. -/
theorem pagesAreMappedAndJobsHalted : Obligations.PagesAreMappedAndJobsHalted := by
  unfold Obligations.PagesAreMappedAndJobsHalted
  intro s c hp hr ht hsw hw hc answer
  have hcmd := s.commanded_of_running c hp hr ht hsw hw hc
  refine ⟨?map, fun q k f => ⟨mapPage_of_malformed s q k f, mapPage_of_untranslated s q k f,
    mapPage_of_other_colour s q k f, fun h hpick => ?page⟩, fun asid va n h4 hb => ⟨?heap, ?gone⟩, ?halt⟩
  case map =>
    intro h3 q named r u code hpages hcode
    exact execMap_of_mapPages s u q r code (hcmd 3 h3) rfl hpages hcode
  case page =>
    obtain ⟨hconf, husable⟩ := mapPage_ok s q k f hpick h
    exact ⟨not_exec_and_writable_of_mapConflict s q k f hconf, hconf, husable⟩
  case heap =>
    intro m hm hh
    obtain ⟨t, e, he, hmg, heq⟩ := s.openRefusal_eq 0
    refine ⟨t, e, he, by rw [hmg], ?_⟩
    dsimp only [exec, execUnmap]
    simp only [hcmd 4 h4, hb, hm, List.any_cons, hh, Bool.not_true, Bool.false_or, Bool.true_or, if_true, heq]
    rfl
  case gone =>
    intro m hm hh
    refine ⟨s.unmapPage m, ?_, unmapPage_maps s m, not_mem_unmapPage_pages s m⟩
    dsimp only [exec, execUnmap]
    simp only [hcmd 4 h4, hb, hm, List.any_cons, List.any_nil, hh, Bool.not_true, Bool.false_or]
    rfl
  case halt =>
    intro slot h5 hbound
    obtain ⟨hpend, hmem, hregs⟩ := haltJob_spec s slot
    refine ⟨s.haltJob slot, ?_, hpend, hmem, hregs⟩
    dsimp only [exec, execHalt]
    simp only [hcmd 5 h5, hbound, Bool.not_true]
    rfl

end Sys2Proof.Cube


/-! SUPPORT. Outside accesses and frames (spec/17 R389 to R398): what a read, a write and an atomic by device
address come to where no write events are recorded, BAR0 writes, and the ways of a frame through the Sluice and a port. -/

namespace Sys2Proof.Machine

/-! Bytes in a memory. -/

/-- Bytes with the addresses where they lie, one after the other. -/
def cellsFrom (a : Nat) (bs : List Byte) : List (Nat × Byte) := ((List.range bs.length).map (fun i => a + i)).zip bs

/-- A memory after bytes have been written to their addresses. -/
def setCells (m : Memory) (l : List (Nat × Byte)) : Memory := l.foldl (fun q c => memSet q c.1 c.2) m

theorem setCells_append_singleton (m : Memory) (l : List (Nat × Byte)) (c : Nat × Byte) :
    setCells m (l ++ [c]) = memSet (setCells m l) c.1 c.2 := by
  simp [setCells]

theorem cellsFrom_append_singleton (a : Nat) (bs : List Byte) (b : Byte) :
    cellsFrom a (bs ++ [b]) = cellsFrom a bs ++ [(a + bs.length, b)] := by
  simp [cellsFrom, List.range_succ, List.zip_append]

/-- Of bytes written one after the other, those that may be written read as written, and every other byte reads as before. -/
theorem memGet_setCells_cellsFrom (m : Memory) (a x : Nat) (bs : List Byte) (may : Nat → Bool) :
    memGet (setCells m ((cellsFrom a bs).filter (fun c => may c.1))) x
      = if a ≤ x ∧ x < a + bs.length ∧ may x = true then bs.getD (x - a) 0 else memGet m x := by
  induction bs using List.reverseRecOn with
  | nil =>
    rw [if_neg (by simp only [List.length_nil]; omega)]
    rfl
  | append_singleton bs b ih =>
    rw [cellsFrom_append_singleton, List.filter_append]
    by_cases hx : x = a + bs.length
    · subst hx
      cases hm : may (a + bs.length) with
      | false => simpa [hm] using ih
      | true => simp [hm, setCells_append_singleton]
    · have hprev : memGet (setCells m ((cellsFrom a bs).filter (fun c => may c.1)
          ++ [(a + bs.length, b)].filter (fun c => may c.1))) x
            = memGet (setCells m ((cellsFrom a bs).filter (fun c => may c.1))) x := by
        cases hm : may (a + bs.length) with
        | false => simp [hm]
        | true => simp [hm, setCells_append_singleton, memGet_memSet_other _ _ _ _ hx]
      rw [hprev, ih, List.length_append, List.length_singleton]
      by_cases hin : a ≤ x ∧ x < a + bs.length
      · simp [hin, List.getElem?_append_left (show x - a < bs.length by omega), show x < a + (bs.length + 1) by omega]
      · rw [if_neg (fun h => hin ⟨h.1, h.2.1⟩), if_neg (by omega)]

/-! Groups of a list. -/

/-- A list whose keys rise holds the items of its first key first. -/
theorem filter_append_filter_of_rising {α : Type} (key : α → Nat) (k : Nat) (l : List α) (hk : ∀ c ∈ l, k ≤ key c)
    (h : l.Pairwise (fun a b => key a ≤ key b)) :
    l.filter (fun c => key c == k) ++ l.filter (fun c => key c != k) = l := by
  induction l with
  | nil => rfl
  | cons c t ih =>
    rw [List.pairwise_cons] at h
    by_cases hc : key c = k
    · simp only [List.filter_cons, hc, beq_self_eq_true, bne_self_eq_false, if_true, Bool.false_eq_true, if_false,
        List.cons_append]
      rw [ih (fun d hd => hk d (List.mem_cons_of_mem _ hd)) h.2]
    · have hlater : ∀ d ∈ c :: t, key d ≠ k := by
        intro d hd
        have := hk c List.mem_cons_self
        rcases List.mem_cons.mp hd with rfl | hd
        · exact hc
        · have := h.1 d hd
          omega
      rw [List.filter_eq_nil_iff.mpr (fun d hd => by simpa using hlater d hd),
        List.filter_eq_self.mpr (fun d hd => by simpa using hlater d hd), List.nil_append]

/-- The groups of a list by a key, in the order in which the keys appear. -/
def groupsBy {α : Type} (key : α → Nat) (l : List α) : List (List α) :=
  ((l.map key).eraseDups).map (fun b => l.filter (fun c => key c == b))

theorem groupsBy_cons {α : Type} (key : α → Nat) (c : α) (t : List α) :
    groupsBy key (c :: t) = (c :: t).filter (fun d => key d == key c) :: groupsBy key (t.filter (fun d => key d != key c)) := by
  unfold groupsBy
  rw [List.map_cons, List.eraseDups_cons, List.map_cons, List.filter_map]
  congr 1
  apply List.map_congr_left
  intro b hb
  obtain ⟨d, hd, rfl⟩ := List.mem_map.mp (List.mem_eraseDups.mp hb)
  have hne : key d ≠ key c := by simpa using (List.mem_filter.mp hd).2
  rw [List.filter_filter, List.filter_cons_of_neg (by simpa using hne.symm)]
  apply List.filter_congr
  intro e _
  by_cases he : key e = key d <;> simp [he, hne]

/-- The groups of a list whose keys rise, one after the other, are the list. -/
theorem flatten_groupsBy {α : Type} (key : α → Nat) (l : List α) (h : l.Pairwise (fun a b => key a ≤ key b)) :
    (groupsBy key l).flatten = l := by
  induction hn : l.length using Nat.strong_induction_on generalizing l with
  | _ n ih =>
    cases l with
    | nil => rfl
    | cons c t =>
      have hc := List.pairwise_cons.mp h
      have hlen : (t.filter (fun d => key d != key c)).length < n := by
        have := List.length_filter_le (fun d => key d != key c) t
        rw [List.length_cons] at hn
        omega
      rw [groupsBy_cons, List.flatten_cons, ih _ hlen _ (hc.2.filter _) rfl]
      have := filter_append_filter_of_rising key (key c) (c :: t) (by simpa using hc.1) h
      simpa using this

/-- One list in each part, each with its items mapped. -/
theorem flatten_flatten_map_singleton {α β : Type} (f : α → β) (l : List (List α)) :
    (l.map (fun u => [u.map f])).flatten.flatten = l.flatten.map f := by
  induction l with
  | nil => rfl
  | cons u t ih => simp [ih]

/-- The 8-byte units of bytes at rising addresses, one after the other, are the bytes. -/
theorem flatten_outsideUnits {α : Type} (l : List (Nat × α)) (h : l.Pairwise (fun a b => a.1 ≤ b.1)) :
    (outsideUnits l).flatten = l :=
  flatten_groupsBy (fun c : Nat × α => c.1 / 8) l (h.imp (fun hab => Nat.div_le_div_right hab))

/-! Writing and reading by device address (R390). -/

theorem writeLocs_raw (s : State) (l : List (Nat × Byte)) :
    s.writeLocs (l.map (fun c => (Loc.raw c.1, c.2))) = { s with mem := setCells s.mem l } := by
  induction l generalizing s with
  | nil => rfl
  | cons c t ih => exact ih { s with mem := memSet s.mem c.1 c.2 }

/-- Comparing the watches leaves the memory homes alone. -/
@[simp] theorem respond_homes (s : State) : s.respond.homes = s.homes := by
  unfold State.respond
  generalize (s.tiles.flatMap _).filterMap _ = l
  suffices H : ∀ u : State, (l.foldl (fun (t : State) d =>
      t.setCtx d.1 { t.ctx d.1 with wait := .answered d.2.1 d.2.2 }) u).homes = u.homes from H _
  induction l with
  | nil => exact fun _ => rfl
  | cons d t ih => exact fun _ => ih _

@[simp] theorem respond_home (s : State) (d : Nat) : s.respond.home d = s.home d := by
  simp [State.home]

/-- A byte has storage of its own when it is outside the retirement reserve and its block is not lost. -/
theorem outsideHeld_eq (s : State) (a : Nat) :
    s.outsideHeld a = (decide (a < 0xFC0000000 ∨ 0x1000000000 ≤ a) && !s.mg.lost.contains (a / 4096)) := by
  unfold State.outsideHeld overlap blockNum
  congr 1
  rw [Bool.eq_iff_iff]
  simp only [Bool.not_eq_true', Bool.and_eq_false_iff, decide_eq_false_iff_not, decide_eq_true_eq]
  omega

/-- Dropping sectors changes no scratchpad. -/
theorem dropSectors_spad (s : State) (dpa n d : Nat) : ((s.dropSectors dpa n).tile d).spad = (s.tile d).spad := by
  have h := aget_map_snd (fun t : Tile => { t with slice := t.slice.filter (fun f => !s.frameMeets dpa n f) }) s.tiles d
  simp only [State.tile, State.dropSectors, h]
  cases aget s.tiles d <;> rfl

theorem map_fst_cellsFrom (a : Nat) (bs : List Byte) :
    (cellsFrom a bs).map Prod.fst = (List.range bs.length).map (fun i => a + i) :=
  List.map_fst_zip (by simp)

theorem range_add_rising (a n : Nat) : ((List.range n).map (fun i => a + i)).Pairwise (fun x y => x ≤ y) := by
  rw [List.pairwise_map]
  exact List.pairwise_lt_range.imp (fun h => by omega)

theorem cellsFrom_rising (a : Nat) (bs : List Byte) : (cellsFrom a bs).Pairwise (fun c d => c.1 ≤ d.1) := by
  have h := range_add_rising a bs.length
  rwa [← map_fst_cellsFrom, List.pairwise_map] at h

/-- The addresses of the bytes of a write all satisfy what each offset does. -/
theorem all_cellsFrom (a : Nat) (bs : List Byte) (p : Nat → Bool) :
    (cellsFrom a bs).all (fun c => p c.1) = (List.range bs.length).all (fun i => p (a + i)) := by
  have h := congrArg (fun l => l.all p) (map_fst_cellsFrom a bs)
  simpa only [List.all_map, Function.comp_def] using h

/-- A memory after those bytes of a write that may be written from outside. -/
def State.memAfterWrite (s : State) (dpa : Nat) (bs : List Byte) : Memory :=
  setCells s.mem ((cellsFrom dpa bs).filter (fun c => s.outsideWritable c.1))

/-- Where no record is kept, a write from outside leaves its bytes where they may be written, and the home counts it when
some may not. -/
theorem outsideWrite_inOrder (s : State) (ag : Agent) (dpa : Nat) (bs : List Byte) (hk : s.record.keep = false) :
    s.outsideWrite ag dpa bs = if (cellsFrom dpa bs).all (fun c => s.outsideWritable c.1)
      then ({ s with mem := s.memAfterWrite dpa bs } : State).respond
      else (({ s with mem := s.memAfterWrite dpa bs } : State).respond).countDiscard dpa := by
  have hunits := flatten_outsideUnits ((cellsFrom dpa bs).filter (fun c => s.outsideWritable c.1))
    ((cellsFrom_rising dpa bs).filter _)
  have hwrite := writeLocs_raw s ((cellsFrom dpa bs).filter (fun c => s.outsideWritable c.1))
  unfold State.outsideWrite State.memAfterWrite
  dsimp only
  rw [writeAs_inOrder _ _ _ _ _ _ _ hk, State.store, ← cellsFrom, flatten_flatten_map_singleton, hunits, hwrite]

/-- The bytes that are held, put into the places that zeros leave open, are the bytes as they read from outside. -/
theorem weave_outsideByte (s : State) (l : List Nat) :
    weave (l.map (fun a => if s.outsideHeld a then none else some 0)) (((l.filter s.outsideHeld).map Loc.raw).map s.readLoc)
      = l.map s.outsideByte := by
  induction l with
  | nil => rfl
  | cons a t ih =>
    rw [List.map_cons, List.map_cons, ← ih]
    cases h : s.outsideHeld a
    · rw [List.filter_cons_of_neg (by simp [h]), State.outsideByte, h]
      rfl
    · rw [List.filter_cons_of_pos h, State.outsideByte, h]
      rfl

/-- A read by device address passes through no slice. -/
theorem touchReads_raw (s : State) (l : List Nat) : s.touchReads (l.map Loc.raw) = s := by
  have h : ∀ f : Loc → Option (Nat × Nat), (∀ a, f (.raw a) = none) → (l.map Loc.raw).filterMap f = [] := by
    intro f hf
    simp [List.filterMap_map, hf]
  unfold State.touchReads
  dsimp only
  rw [h _ (fun _ => rfl)]
  rfl

/-- Where no record is kept, a read from outside changes nothing, and each byte that has storage of its own goes outside, with
zeros for the others. -/
theorem outsideRead_inOrder (s : State) (ag : Agent) (dpa n : Nat) (hk : s.record.keep = false) :
    s.outsideRead ag dpa n = { s with outsideGot := (List.range n).map (fun i => s.outsideByte (dpa + i)) } := by
  let at_ := (List.range n).map (fun i => dpa + i)
  have hrise : ((at_.filter s.outsideHeld).map (fun a => (a, ()))).Pairwise (fun a b => a.1 ≤ b.1) := by
    rw [List.pairwise_map]
    exact (range_add_rising dpa n).filter _
  have hunits : ((outsideUnits ((at_.filter s.outsideHeld).map (fun a => (a, ())))).map
      (fun u => u.map (fun c => Loc.raw c.1))).flatten = (at_.filter s.outsideHeld).map Loc.raw := by
    rw [← List.map_flatten, flatten_outsideUnits _ hrise, List.map_map]
    rfl
  unfold State.outsideRead
  dsimp only
  rw [readAs_inOrder _ _ _ _ hk]
  dsimp only
  rw [hunits, touchReads_raw, weave_outsideByte, List.map_map]
  rfl

theorem outsideReady_of_free {s : State} {dpa n : Nat} (hup : s.up = true) (hn : 0 < n) (htop : dpa + n ≤ 0x9000000000)
    (hfree : ∀ i < n, s.blockBusy ((dpa + i) / 4096) = false) : s.outsideReady dpa n = true := by
  unfold State.outsideReady
  rw [hup, decide_eq_true hn, decide_eq_true (show dpa + n ≤ devTop from htop), Bool.true_and, Bool.true_and, Bool.true_and,
    List.all_eq_true]
  intro i hi
  rw [blockNum, hfree i (List.mem_range.mp hi)]
  rfl

theorem outsideAccess_read {s : State} {dpa n : Nat} (hk : s.record.keep = false) (hready : s.outsideReady dpa n = true)
    (ag : Agent) : s.outsideAccess ag dpa n none
      = some { s.dropSectors dpa n with outsideGot := (List.range n).map (fun i => s.outsideByte (dpa + i)) } := by
  unfold State.outsideAccess
  rw [hready]
  exact congrArg some (outsideRead_inOrder (s.dropSectors dpa n) ag dpa n hk)

theorem exec_hostMemAccess_of_some {s t : State} {dpa n : Nat} {write : Option (List Byte)}
    (h : s.outsideAccess (outsideAgent false) dpa n write = some t) : exec (.hostMemAccess dpa n write) s = .next t := by
  dsimp only [exec, execHostMemAccess]
  rw [h, runEvent_enabled]

theorem exec_peerAccess_of_some {s t : State} {dpa n : Nat} {write : Option (List Byte)}
    (h : s.outsideAccess (outsideAgent true) dpa n write = some t) : exec (.peerAccess dpa n write) s = .next t := by
  dsimp only [exec, execPeerAccess]
  rw [h, runEvent_enabled]

/-- A write by device address: the agent makes no difference, the bytes that may be written lie where they were written, and the
home of the first has counted the access when one may not. -/
theorem outsideAccess_write {s : State} {dpa n : Nat} {bs : List Byte} (hk : s.record.keep = false)
    (hready : s.outsideReady dpa n = true) (hlen : bs.length = n) : ∃ t : State,
      (∀ ag, s.outsideAccess ag dpa n (some bs) = some t)
      ∧ (∀ a, memGet t.mem a = if dpa ≤ a ∧ a < dpa + n ∧ s.outsideWritable a = true then bs.getD (a - dpa) 0
          else memGet s.mem a)
      ∧ (t.home (blockHome (dpa / 4096))).discarded = (s.home (blockHome (dpa / 4096))).discarded
          + (if (List.range n).all (fun i => s.outsideWritable (dpa + i)) then 0 else 1) := by
  subst hlen
  have hget := fun a => memGet_setCells_cellsFrom s.mem dpa a bs s.outsideWritable
  have hall := all_cellsFrom dpa bs s.outsideWritable
  let u : State := ({ s.dropSectors dpa bs.length with mem := s.memAfterWrite dpa bs } : State).respond
  have humem : u.mem = s.memAfterWrite dpa bs := respond_mem _
  have huhome : ∀ d, u.home d = s.home d := respond_home _
  have hwrite : ∀ ag, s.outsideAccess ag dpa bs.length (some bs)
      = some (if (cellsFrom dpa bs).all (fun c => s.outsideWritable c.1) then u else u.countDiscard dpa) := by
    intro ag
    unfold State.outsideAccess
    simp only [hready, Bool.not_true, Bool.false_eq_true, if_false, if_true]
    exact congrArg some (outsideWrite_inOrder (s.dropSectors dpa bs.length) ag dpa bs hk)
  refine ⟨_, hwrite, fun a => ?_, ?_⟩
  · rw [← hget a]
    split_ifs
    · rw [humem]; rfl
    · change memGet u.mem a = _
      rw [humem]; rfl
  · rw [hall]
    split_ifs with h
    · rw [huhome]; rfl
    · rw [← huhome]
      simp [State.countDiscard, blockNum]

/-! Atomics of peers (R392). -/

theorem leNat_readLoc_raw (s : State) (a n : Nat) :
    leNat ((((List.range n).map (fun i => a + i)).map Loc.raw).map s.readLoc) = memNat s.mem a n := by
  rw [List.map_map, List.map_map]
  induction n generalizing a with
  | zero => rfl
  | succ n ih =>
    rw [List.range_succ_eq_map, List.map_cons, List.map_map, memNat, ← ih]
    have h : ((s.readLoc ∘ Loc.raw) ∘ (fun i => a + i)) ∘ Nat.succ = (s.readLoc ∘ Loc.raw) ∘ (fun i => a + 1 + i) := by
      funext i
      simp [Nat.add_assoc, Nat.add_comm 1]
    rw [h]
    rfl

/-- A byte of the number that memory holds is the byte at its address. -/
theorem ofNat_memNat_div (m : Memory) (a n i : Nat) (h : i < n) :
    BitVec.ofNat 8 (memNat m a n / 2 ^ (8 * i)) = memGet m (a + i) := by
  induction n generalizing a i with
  | zero => omega
  | succ n ih =>
    have hlt := (memGet m a).isLt
    cases i with
    | zero =>
      apply BitVec.eq_of_toNat_eq
      simp only [memNat, BitVec.toNat_ofNat, Nat.mul_zero, pow_zero, Nat.div_one, Nat.add_zero]
      omega
    | succ i =>
      rw [memNat, Nat.mul_succ, Nat.pow_add, Nat.mul_comm (2 ^ (8 * i)), ← Nat.div_div_eq_div_mul,
        show ((memGet m a).toNat + 256 * memNat m (a + 1) n) / 2 ^ 8 = memNat m (a + 1) n by omega, ih _ _ (by omega),
        Nat.add_assoc, Nat.add_comm 1]

theorem getD_bytesOf (n w i : Nat) (h : i < n) : (bytesOf n w).getD i 0 = BitVec.ofNat 8 (w / 2 ^ (8 * i)) := by
  simp [bytesOf, h]

/-- The bytes of a number do not depend on what lies above them. -/
theorem bytesOf_mod (n w : Nat) : bytesOf n (w % 2 ^ (8 * n)) = bytesOf n w := by
  unfold bytesOf
  apply List.map_congr_left
  intro i hi
  have hi := List.mem_range.mp hi
  apply BitVec.eq_of_toNat_eq
  simp only [BitVec.toNat_ofNat]
  apply Nat.eq_of_testBit_eq
  intro j
  simp only [Nat.testBit_mod_two_pow, Nat.testBit_div_two_pow]
  by_cases hj : j < 8
  · simp [hj, show j + 8 * i < 8 * n by omega]
  · simp [hj]

/-- The value that an `amo` or `cas` of a peer leaves, the old one when a `cas` fails (R224, R225). -/
def peerLeaves (op : Option AmoOp) (n : Nat) (x y : BitVec 128) (old : Nat) : Nat :=
  match op with
  | some o => amoNew o (8 * n) old (x.toNat % 2 ^ (8 * n))
  | none => if old = x.toNat % 2 ^ (8 * n) then y.toNat % 2 ^ (8 * n) else old

/-- An atomic writes the bytes of the value that it leaves, or it is a `cas` that fails and leaves the old value. -/
theorem peerNew_cases (op : Option AmoOp) (n : Nat) (x y : BitVec 128) (old : Nat) :
    peerNew op n x y old = some (bytesOf n (peerLeaves op n x y old))
      ∨ peerNew op n x y old = none ∧ peerLeaves op n x y old = old := by
  cases op with
  | some o => exact .inl rfl
  | none =>
    by_cases h : old = x.toNat % 2 ^ (8 * n)
    · exact .inl (by simp only [peerNew, peerLeaves, if_pos h, bytesOf_mod])
    · exact .inr ⟨by simp only [peerNew, if_neg h], by simp only [peerLeaves, if_neg h]⟩

theorem peerNew_of_ne {n old : Nat} {x y : BitVec 128} (h : old ≠ x.toNat % 2 ^ (8 * n)) :
    peerNew none n x y old = none := if_neg h

section Rmw

variable {s : State} (atomic : Bool) (a : Attr) (v : Seen) (pass : Passing) (locs : List Loc) (f : Nat → Option (List Byte))
  (hk : s.record.keep = false)
include hk

/-- Where no record is kept, a read-modify-write reads what lies there. -/
theorem rmwAs_old_inOrder : (s.rmwAs atomic a v pass locs f).old = leNat (locs.map s.readLoc) := by
  simp [State.rmwAs, hk]

theorem rmwAs_after_of_some {bs : List Byte} (hf : f (leNat (locs.map s.readLoc)) = some bs) :
    (s.rmwAs atomic a v pass locs f).after = s.store (locs.zip bs) := by
  simp [State.rmwAs, hk, hf]

theorem rmwAs_after_of_none (hf : f (leNat (locs.map s.readLoc)) = none) :
    (s.rmwAs atomic a v pass locs f).after = s.touchReads locs := by
  simp [State.rmwAs, hk, hf]

end Rmw

/-- A store by device address leaves its bytes in memory. -/
theorem store_raw_mem (s : State) (a : Nat) (bs : List Byte) :
    (s.store ((((List.range bs.length).map (fun i => a + i)).map Loc.raw).zip bs)).mem = setCells s.mem (cellsFrom a bs) := by
  have h := writeLocs_raw s (cellsFrom a bs)
  rw [State.store, respond_mem, List.zip_map_left, ← cellsFrom]
  exact congrArg State.mem h

/-- The read-modify-write of a peer's atomic, as its agent sees the record. -/
def State.peerRmw (s : State) (dpa n : Nat) (op : Option AmoOp) (x y : BitVec 128) : Rmw :=
  s.rmwAs true (plainAttr (outsideAgent true)) (s.outsideSeen (outsideAgent true)) ⟨[], []⟩
    (((List.range n).map (fun i => dpa + i)).map Loc.raw) (peerNew op n x y)

section PeerRmw

variable {s : State} {dpa n : Nat} {op : Option AmoOp} {x y : BitVec 128} (hk : s.record.keep = false)
include hk

theorem peerRmw_old : (s.peerRmw dpa n op x y).old = memNat s.mem dpa n := by
  rw [State.peerRmw, rmwAs_old_inOrder _ _ _ _ _ _ hk, leNat_readLoc_raw]

theorem peerRmw_mem_of_none (h : peerNew op n x y (memNat s.mem dpa n) = none) :
    (s.peerRmw dpa n op x y).after.mem = s.mem := by
  rw [← leNat_readLoc_raw] at h
  rw [State.peerRmw, rmwAs_after_of_none _ _ _ _ _ _ hk h, touchReads_raw]

theorem peerRmw_mem_of_some {bs : List Byte} (hlen : bs.length = n)
    (h : peerNew op n x y (memNat s.mem dpa n) = some bs) :
    (s.peerRmw dpa n op x y).after.mem = setCells s.mem (cellsFrom dpa bs) := by
  subst hlen
  rw [← leNat_readLoc_raw] at h
  rw [State.peerRmw, rmwAs_after_of_some _ _ _ _ _ _ hk h, store_raw_mem]

/-- The bytes of an atomic of a peer read as those of the value that it leaves, and every other byte as before. -/
theorem memGet_peerRmw (a : Nat) : memGet (s.peerRmw dpa n op x y).after.mem a
    = if dpa ≤ a ∧ a < dpa + n
      then BitVec.ofNat 8 (peerLeaves op n x y (memNat s.mem dpa n) / 2 ^ (8 * (a - dpa)))
      else memGet s.mem a := by
  rcases peerNew_cases op n x y (memNat s.mem dpa n) with h | ⟨h, hkeeps⟩
  · have hlen : ∀ w, (bytesOf n w).length = n := fun w => by simp [bytesOf]
    have hget := memGet_setCells_cellsFrom s.mem dpa a (bytesOf n (peerLeaves op n x y (memNat s.mem dpa n))) (fun _ => true)
    rw [List.filter_true, hlen] at hget
    rw [peerRmw_mem_of_some hk (hlen _) h, hget]
    simp only [and_true]
    split_ifs with hin
    · rw [getD_bytesOf _ _ _ (by omega)]
    · rfl
  · rw [peerRmw_mem_of_none hk h, hkeeps]
    split_ifs with hin
    · rw [ofNat_memNat_div _ _ _ _ (by omega), show dpa + (a - dpa) = a by omega]
    · rfl

end PeerRmw

/-- An atomic of a peer whose bytes may all be written performs at once, and its old value goes outside. -/
theorem exec_peerAtomic_of_ready {s : State} {dpa : Nat} {sz : Size} {op : Option AmoOp} {x y : BitVec 128}
    (h4 : 4 ≤ sz.bytes) (h16 : sz.bytes = 16 → op = none) (hop : op ≠ some .fadd) (hal : dpa % sz.bytes = 0)
    (hready : s.outsideReady dpa sz.bytes = true) (hmay : ∀ i < sz.bytes, s.outsideWritable (dpa + i) = true) :
    let r := (s.dropSectors dpa sz.bytes).peerRmw dpa sz.bytes op x y
    exec (.peerAtomic dpa sz op x y) s = .next { r.after with outsideGot := bytesOf sz.bytes r.old } := by
  have hlegal : (decide (4 ≤ sz.bytes) && (sz.bytes != 16 || op.isNone) && dpa % sz.bytes == 0 && op != some .fadd)
      = true := by
    by_cases h : sz.bytes = 16 <;> simp_all
  have hall : ((List.range sz.bytes).map (fun i => dpa + i)).all s.outsideWritable = true := by
    simpa [List.all_eq_true] using hmay
  dsimp only [exec, execPeerAtomic]
  simp only [hlegal, hready, hall, Bool.not_true, Bool.or_self, Bool.false_eq_true, if_false, if_true]
  rfl


/-! BAR0 (R389). -/

section Bar0

variable {s : State} (hup : s.up = true)
include hup

theorem exec_bar0Write_command {val : Word} (hidle : s.mg.running = none) (hzero : val.toNat / 2 ^ 32 % 2 ^ 8 = 0)
    (hlen : val.toNat % 2 ^ 32 ≤ 4096) :
    let tag := BitVec.ofNat 16 (val.toNat / 2 ^ 40 % 2 ^ 16)
    exec (.bar0Write 0x1000 8 val) s = .next { s with mg := { s.mg with
      running := some ⟨val.toNat / 2 ^ 56, tag, val.toNat % 2 ^ 32⟩
      status := BitVec.ofNat 64 (2 ^ 56 + tag.toNat * 2 ^ 40) } } := by
  have hcode : hf val 56 8 = val.toNat / 2 ^ 56 := Nat.mod_eq_of_lt (by omega)
  have hlow : hf val 0 32 = val.toNat % 2 ^ 32 := by simp [hf, bits]
  have hlegal : (hf val 32 8 != 0 || decide (4096 < hf val 0 32)) = false := by
    rw [hlow, hf, bits, hzero, decide_eq_false (Nat.not_lt.mpr hlen)]
    rfl
  have hsts : ∀ tag : BitVec 16, mgsts 1 tag 0 0 = BitVec.ofNat 64 (2 ^ 56 + tag.toNat * 2 ^ 40) := fun tag => by
    simp [mgsts]
  intro tag
  dsimp only [exec, execBar0Write, State.beginCommand]
  rw [hup, hidle, hlegal, hcode, hlow, hsts]
  rfl

theorem exec_bar0Write_busy {val : Word} (hbusy : s.mg.running ≠ none) : exec (.bar0Write 0x1000 8 val) s
    = .next { s with mg := { s.mg with busyWrites := s.mg.busyWrites + 1 } } := by
  dsimp only [exec, execBar0Write]
  simp [hup, Option.isSome_iff_ne_none.mpr hbusy, runEvent_enabled]

theorem exec_bar0Write_status {val : Word} : exec (.bar0Write 0x1008 8 val) s = .next s := by
  dsimp only [exec, execBar0Write]
  simp [hup, runEvent_enabled]

theorem exec_bar0Write_buffer {ofs size : Nat} {val : Word} (hlo : 0x2000 ≤ ofs) (hhi : ofs + size ≤ 0x3000)
    (hsize : size ∈ [1, 2, 4, 8]) : exec (.bar0Write ofs size val) s
    = .next { s with mg := { s.mg with buf := memPut s.mg.buf (ofs - 0x2000) size (val.toNat % 2 ^ (8 * size)) } } := by
  have hsize : size = 1 ∨ size = 2 ∨ size = 4 ∨ size = 8 := by simpa using hsize
  dsimp only [exec, execBar0Write]
  simp [hup, show ofs ≠ 0 by omega, show ofs ≠ 0x1008 by omega, show ofs ≠ 0x1000 by omega, hlo, hhi, hsize,
    runEvent_enabled, State.putBuf]

theorem exec_bar0Write_other {ofs size : Nat} {val : Word} (hport : ¬ (ofs = 0 ∧ size = 8))
    (hbuf : ¬ (0x2000 ≤ ofs ∧ ofs + size ≤ 0x3000 ∧ size ∈ [1, 2, 4, 8])) (hcmd : ¬ (ofs = 0x1000 ∧ size = 8))
    (hsts : ¬ (ofs = 0x1008 ∧ size = 8)) : exec (.bar0Write ofs size val) s
    = .next { s with mg := { s.mg with badAccess := s.mg.badAccess + 1 } } := by
  have hbuf : ¬ (0x2000 ≤ ofs ∧ ofs + size ≤ 0x3000 ∧ (size = 1 ∨ size = 2 ∨ size = 4 ∨ size = 8)) := by simpa using hbuf
  have hport : (ofs == 0 && size == 8) = false := by simpa using hport
  have hsts : (ofs == 0x1008 && size == 8) = false := by simpa using hsts
  dsimp only [exec, execBar0Write]
  rw [hup, hport, hsts, if_neg hcmd, if_neg hbuf]
  rfl

end Bar0

/-! The Sluice (R395, R396, R298). -/

/-- The rule of a frame is the lowest-numbered one that matches. -/
theorem ruleFor_eq_some {x : Sluice} {port r : Nat} {bs : List Byte} {free : Word} {w : Vector Word 8}
    (hmem : (r, w) ∈ x.rules) (hmatch : ruleMatches w port bs free = true)
    (hlow : ∀ q v, (q, v) ∈ x.rules → ruleMatches v port bs free = true → r ≤ q) : x.ruleFor port bs free = some r := by
  rw [Sluice.ruleFor, List.min?_eq_some_iff]
  simp only [List.mem_map, List.mem_filter]
  exact ⟨⟨(r, w), ⟨hmem, hmatch⟩, rfl⟩, by rintro _ ⟨⟨q, v⟩, ⟨hq, hv⟩, rfl⟩; exact hlow q v hq hv⟩

theorem ruleFor_eq_none {x : Sluice} {port : Nat} {bs : List Byte} {free : Word}
    (h : ∀ r w, (r, w) ∈ x.rules → ruleMatches w port bs free = false) : x.ruleFor port bs free = none := by
  rw [Sluice.ruleFor, List.filter_eq_nil_iff.mpr (fun p hp => by simp [h p.1 p.2 hp])]
  rfl

/-- A frame that the Sluice takes into its buffer: its check value is right, its length is a frame's, and there is room. -/
def Sluice.takes (x : Sluice) (ok : Bool) (n : Nat) : Prop := ok = true ∧ 64 ≤ n ∧ n ≤ 9216 ∧ x.held + n ≤ 8388608

/-- The checks of an arriving frame find something wrong exactly when the Sluice does not take it. -/
theorem checks_eq_false_iff (x : Sluice) (ok : Bool) (n : Nat) :
    (!ok || decide (n < 64) || decide (9216 < n) || decide (8388608 < x.held + n)) = false ↔ x.takes ok n := by
  simp only [Sluice.takes, Bool.or_eq_false_iff, Bool.not_eq_false', decide_eq_false_iff_not, not_lt, and_assoc]

section Ingress

variable {s : State} {port : Nat} {ok : Bool} {f : List Byte} (hup : s.up = true) (hport : port < 4)
include hup hport

theorem exec_frameIngress_of_bad (h : ¬ s.sluice.takes ok (f.length + 4)) :
    exec (.frameIngress port ok (s.stampOf port) f) s = .next (s.portDrop port) := by
  have hbad := Bool.eq_true_of_not_eq_false (mt (checks_eq_false_iff s.sluice ok (f.length + 4)).mp h)
  dsimp only [exec, execFrameIngress]
  rw [hup, hbad, decide_eq_false (by omega : ¬ 4 ≤ port)]
  simp [runEvent_enabled]

theorem exec_frameIngress_of_unmatched (h : s.sluice.takes ok (f.length + 4))
    (hrule : s.sluice.ruleFor port f s.draw.1 = none) : exec (.frameIngress port ok (s.stampOf port) f) s
      = .next (s.draw.2.setPort port { s.port port with unmatched := (s.port port).unmatched + 1 }) := by
  dsimp only [exec, execFrameIngress]
  rw [hup, (checks_eq_false_iff _ _ _).mpr h, decide_eq_false (by omega : ¬ 4 ≤ port), hrule]
  simp only [Bool.not_true, Bool.or_self, Bool.false_eq_true, if_false, bne_self_eq_false]
  rfl

theorem exec_frameIngress_of_matched {r : Nat} (h : s.sluice.takes ok (f.length + 4))
    (hrule : s.sluice.ruleFor port f s.draw.1 = some r) : exec (.frameIngress port ok (s.stampOf port) f) s
      = .next { s.draw.2 with sluice := { s.sluice with
          matched := aset s.sluice.matched r ((aget s.sluice.matched r).getD 0 + 1)
          frames := s.sluice.frames ++ [⟨port, s.stampOf port, r, (aget s.sluice.matched r).getD 0, f⟩] } } := by
  dsimp only [exec, execFrameIngress]
  rw [hup, (checks_eq_false_iff _ _ _).mpr h, decide_eq_false (by omega : ¬ 4 ≤ port), hrule]
  simp only [Bool.not_true, Bool.or_self, Bool.false_eq_true, if_false, bne_self_eq_false]
  rfl

end Ingress


theorem map_snd_firstSome_singleton {α β : Type} (f : α → Option β) (a : α) : (firstSome f [a]).map Prod.snd = f a := by
  rw [firstSome]
  cases f a <;> rfl

/-- A message that waits before every other of its rule, and that its inbox admits, goes there. -/
theorem serveMessage_of_admitted {s v : State} {p : (Nat × Msg) × Nat} {l : List ((Nat × Msg) × Nat)}
    (h : ({ s with sluice := { s.sluice with waiting := s.sluice.waiting.eraseIdx p.2 } } : State).letSluiceIn p.1.2 = some v) :
    s.serveMessage (p :: l) = some v := by
  simp [State.serveMessage, firstSome, h]

theorem exec_sluiceDelivery_of_waiting {s v : State} {r : Nat} {m : Msg} {rest : List (Nat × Msg)} (hup : s.up = true)
    (hwait : s.sluice.waiting = (r, m) :: rest) (hcls : hCls m.h0 = 0)
    (hin : ({ s with sluice := { s.sluice with waiting := rest } } : State).letSluiceIn m = some v) :
    exec .sluiceDelivery s = .next v := by
  have hfirst : ∃ l, s.sluice.firstWaiting.filter (fun p => (hCls p.1.2.h0 == 0) == true) = ((r, m), 0) :: l := by
    simp [Sluice.firstWaiting, hwait, List.zipIdx_cons, hcls]
  obtain ⟨l, hl⟩ := hfirst
  have hserve : s.serveClass true = some v := by
    unfold State.serveClass
    dsimp only
    rw [hl, serveMessage_of_admitted (by rwa [hwait])]
  dsimp only [exec, execSluiceDelivery]
  simp [hup, hserve, runEvent_enabled]

/-- The state of a Sluice where no message waits. -/
theorem clear_waiting {s : State} (h : s.sluice.waiting = []) :
    ({ s with sluice := { s.sluice with waiting := [] } } : State) = s := by
  rw [← h]

/-- Where no other message waits, the message of a frame goes to its inbox at once, or it waits in the Sluice. -/
theorem sluiceSends_of_none_waiting {s : State} (rule : Nat) (m : Msg) (h : s.sluice.waiting = []) :
    s.sluiceSends rule m
      = (s.letSluiceIn m).getD { s with sluice := { s.sluice with waiting := [(rule, m)] } } := by
  have hfirst : ({ s.sluice with waiting := [(rule, m)] } : Sluice).firstWaiting.filter
      (fun p => p.1.1 == rule && p.2 + 1 == 1) = [((rule, m), 0)] := by simp [Sluice.firstWaiting]
  have hserve := map_snd_firstSome_singleton (fun p : (Nat × Msg) × Nat =>
    ({ s with sluice := { s.sluice with waiting := [(rule, m)].eraseIdx p.2 } } : State).letSluiceIn p.1.2) ((rule, m), 0)
  unfold State.sluiceSends
  simp only [h, List.nil_append, List.length_singleton, hfirst, State.serveMessage, hserve, List.eraseIdx_zero,
    List.tail_cons, clear_waiting h]

/-- The Sluice serves the one frame that it holds, whatever the class of its rule. -/
theorem exec_sluiceDelivery_of_frame {s : State} {f : Frame} (hup : s.up = true) (hframes : s.sluice.frames = [f])
    (hwait : s.sluice.waiting = []) : exec .sluiceDelivery s = runEvent s (s.deliverFrame f 0) := by
  have hnone : s.serveMessage [] = none := rfl
  have hclass : ∀ zero, s.serveClass zero = if ((s.sluice.cls f == 0) == zero) = true then s.deliverFrame f 0 else none := by
    intro zero
    have hfirst : s.sluice.firstFrames = [(f, 0)] := by simp [Sluice.firstFrames, hframes]
    have hmsg : s.sluice.firstWaiting = [] := by simp [Sluice.firstWaiting, hwait]
    unfold State.serveClass
    dsimp only
    rw [hmsg, List.filter_nil, hnone, hfirst, List.filter_singleton]
    cases (s.sluice.cls f == 0) == zero with
    | true => exact map_snd_firstSome_singleton (fun p : Frame × Nat => s.deliverFrame p.1 p.2) (f, 0)
    | false => rfl
  dsimp only [exec, execSluiceDelivery]
  rw [hup, hclass, hclass]
  cases s.sluice.cls f == 0 <;> cases s.deliverFrame f 0 <;> rfl

/-! A frame into its ring (R396). -/

/-- The words of a frame's rule. -/
def State.ruleOf (s : State) (f : Frame) : Vector Word 8 := (aget s.sluice.rules f.rule).getD (Vector.replicate 8 0)

/-- The slot of the job that a frame is for. -/
def State.frameSlot (s : State) (f : Frame) : Nat := ruleF (s.ruleOf f) 0 8 6

/-- The ring that a frame is for. -/
def State.frameRing (s : State) (f : Frame) : Tensor := (s.slot (s.frameSlot f)).tensor (ruleF (s.ruleOf f) 0 30 8)

/-- The agent as which the Sluice writes a frame into its ring. -/
def State.frameAgent (s : State) (f : Frame) : Agent :=
  ⟨s.frameSlot f, ruleF (s.ruleOf f) 0 14 11, 1536, ruleF (s.ruleOf f) 0 25 5, []⟩

/-- The state without any frame in the buffer. -/
def State.withoutFrames (s : State) : State := { s with sluice := { s.sluice with frames := [] } }

section Deliver

variable {s : State} {f : Frame} (hframes : s.sluice.frames = [f])
include hframes

theorem deliverFrame_of_unfit (h : (s.slot (s.frameSlot f)).bound = false ∨ ringLen (s.frameRing f) < f.bytes.length) :
    s.deliverFrame f 0 = some { s with sluice := { s.sluice with
      frames := [], dropped := aset s.sluice.dropped f.rule ((aget s.sluice.dropped f.rule).getD 0 + 1) } } := by
  unfold State.deliverFrame
  extract_lets x w gone dropped slot rid jt j t ag away
  have hfit : (!j.bound || !j.ringAt rid || !j.inShape jt || decide (ringLen t < f.bytes.length) || away
      || !ringTogether ag t) = true := by
    rcases h with h | h
    · have h : j.bound = false := h
      simp [h]
    · have h : ringLen t < f.bytes.length := h
      simp [h]
  rw [if_pos hfit]
  simp [dropped, x, hframes]

theorem deliverFrame_of_produced {k : Nat} {u : State} (hsw : s.mg.switching = none)
    (hbound : (s.slot (s.frameSlot f)).bound = true)
    (hring : (s.slot (s.frameSlot f)).ringAt (ruleF (s.ruleOf f) 0 30 8) = true)
    (hshape : (s.slot (s.frameSlot f)).inShape (ruleF (s.ruleOf f) 0 14 11) = true)
    (hlen : f.bytes.length ≤ ringLen (s.frameRing f))
    (hnear : tHome (s.frameRing f) = 0 → regionOf ((s.frameRing f)[3]).toNat = 7
      ∧ (s.frameAgent f).target ((s.frameRing f)[3]).toNat = ruleF (s.ruleOf f) 0 14 11)
    (htog : ringTogether (s.frameAgent f) (s.frameRing f) = true)
    (hprod : (s.withoutFrames.touch (s.frameSlot f) (ringPages (s.frameRing f))).produceFrame (s.frameAgent f)
      (s.frameRing f) f.bytes = .ok (some (k, u))) :
    s.deliverFrame f 0 = some (u.sluiceSends f.rule (frameMsg (s.ruleOf f) f (s.frameSlot f) k u.allSeen)) := by
  unfold State.deliverFrame
  extract_lets x w gone dropped slot rid jt j t ag away
  have haway : away = false := by
    by_cases h0 : tHome t = 0
    · obtain ⟨hreg, htarget⟩ := hnear h0
      have hreg : regionOf (t[3]).toNat = 7 := hreg
      have htarget : ag.target (t[3]).toNat = jt := htarget
      simp [away, hreg, htarget]
    · simp [away, h0]
  have hfit : (!j.bound || !j.ringAt rid || !j.inShape jt || decide (ringLen t < f.bytes.length) || away
      || !ringTogether ag t) = false := by
    rw [show j.bound = true from hbound, show j.ringAt rid = true from hring, show j.inShape jt = true from hshape,
      decide_eq_false (show ¬ ringLen t < f.bytes.length from Nat.not_lt.mpr hlen), haway, show ringTogether ag t = true from htog]
    rfl
  have hgone : gone = s.withoutFrames := by simp [gone, x, hframes, State.withoutFrames]
  have hprod : (gone.touch slot (ringPages t)).produceFrame ag t f.bytes = .ok (some (k, u)) := by
    rw [hgone]
    exact hprod
  rw [hfit, hprod, State.unlessAway, hsw]
  rfl

end Deliver

/-- The message of a frame has a payload of six words, of which H0.LEN counts four, and the last two are zero. -/
theorem frameMsg_shape (w : Vector Word 8) (f : Frame) (slot k : Nat) (seen : Seen) :
    (frameMsg w f slot k seen).pay.length = 6 ∧ hLen (frameMsg w f slot k seen).h0 = 4
      ∧ ∀ i ∈ [4, 5], (frameMsg w f slot k seen).pay[i]? = some 0 := by
  refine ⟨rfl, ?_, by simp [frameMsg]⟩
  have h : ∀ i lo n, ruleF w i lo n < 2 ^ n := fun i lo n => Nat.mod_lt _ (Nat.two_pow_pos n)
  have h0 := h 1 0 32
  have h1 := h 0 14 11
  have h2 := h 0 25 5
  have h3 := h 0 7 1
  have h4 := h 0 5 2
  simp only [frameMsg, hLen, hf, bits, BitVec.toNat_ofNat]
  omega

/-! Egress (R398). -/

/-- The length in the first word of a slot. -/
theorem hf_ofNat_low (d : Nat) : hf (BitVec.ofNat 64 d) 0 14 = d % 2 ^ 14 := by
  simp only [hf, bits, BitVec.toNat_ofNat]
  omega

section Egress

variable {s : State} {port : Nat} {stamp : BitVec 96} {ag : Agent} {t : Tensor} {head : Nat} {hl tl wl fl : List Loc}
  (hhead : s.ringValue ag (t[4]) = .ok (head, hl)) (htag : s.tagLoc ag t (head % ringN t) = .ok tl)
  (hfull : s.readTag tl (head % ringN t) = .full)
  (hword : s.partLocs ag false (ringDst t (head % ringN t) 0) 8 = .ok wl)
include hhead htag hfull hword

theorem transmit_of_bad_length (hn : s.loadNat wl % 2 ^ 14 < 60 ∨ 9212 < s.loadNat wl % 2 ^ 14) :
    s.transmit port stamp ag t = .ok (some ((s.setPort port { s.port port with
      badLength := (s.port port).badLength + 1 }).emptySlot ag t tl hl (head % ringN t) head)) := by
  unfold State.transmit
  simp only [hhead, htag, hword, hfull, bind, Except.bind, ne_eq, not_true_eq_false, if_false, hf_ofNat_low, if_pos hn]

theorem transmit_of_frame (hlo : 60 ≤ s.loadNat wl % 2 ^ 14) (hhi : s.loadNat wl % 2 ^ 14 ≤ 9212)
    (hplain : s.loadNat wl / 2 ^ 63 = 0)
    (hframe : s.partLocs ag false (ringDst t (head % ringN t) 32) (s.loadNat wl % 2 ^ 14) = .ok fl) :
    s.transmit port stamp ag t = .ok (some ((s.setPort port { s.port port with
      sent := (s.port port).sent ++ [fl.map s.readLoc] }).emptySlot ag t tl hl (head % ringN t) head)) := by
  have hn : ¬ (s.loadNat wl % 2 ^ 14 < 60 ∨ 9212 < s.loadNat wl % 2 ^ 14) := by omega
  have hbit : ¬ hf (BitVec.ofNat 64 (s.loadNat wl)) 63 1 = 1 := by
    simp only [hf, bits, BitVec.toNat_ofNat]
    omega
  unfold State.transmit
  simp only [hhead, htag, hword, hfull, hframe, bind, Except.bind, ne_eq, not_true_eq_false, if_false, hf_ofNat_low,
    if_neg hn, if_neg hbit]

end Egress

/-- A port whose ring lies in memory does what transmitting its frame comes to. -/
theorem exec_egressTransmit_of_ok {s u : State} {port slot rid : Nat} (hup : s.up = true) (hsw : s.mg.switching = none)
    (hegress : (s.port port).egress = some (slot, rid)) (hbound : (s.slot slot).bound = true)
    (hring : (s.slot slot).ringAt rid = true) :
    let t := (s.slot slot).tensor rid
    let ag : Agent := ⟨slot, if tHome t = 0 then bits (t[3]).toNat 21 11 else 0, 1536, 0, []⟩
    ringTogether ag t = true → s.touch slot (ringPages t) = s → s.transmit port (s.stampOf port) ag t = .ok (some u) →
    exec (.egressTransmit port (s.stampOf port)) s = .next u := by
  intro t ag htog htouch hsend
  dsimp only [exec, execEgressTransmit]
  rw [hup, hegress]
  dsimp only
  rw [hbound, hring, show ringTogether _ _ = true from htog, htouch, hsend, State.unlessAway, hsw, bne_self_eq_false]
  rfl


end Sys2Proof.Machine
namespace Sys2Proof.Cube

open Sys2Proof.Machine

/-- Settles O49: each clause by what its event comes to. -/
theorem outsideAccessesAndFrames : Obligations.OutsideAccessesAndFrames := by
  unfold Obligations.OutsideAccessesAndFrames
  refine ⟨fun s hp hr ht hord => ⟨?bar0, ?access, ?atomic⟩,
    fun s hp hr ht hsw => ⟨?ingress, ?waiting, ?ring, frameMsg_shape, ?egress⟩⟩
  case bar0 =>
    have hup := State.up_of_running hp hr ht
    intro ofs size val hport run buffer
    refine ⟨?_, ?_, fun ⟨hlo, hhi, hsize⟩ => exec_bar0Write_buffer hup hlo hhi hsize, ?_, exec_bar0Write_other hup hport⟩
    · rintro rfl rfl hidle c hzero hlen
      exact exec_bar0Write_command hup hidle hzero hlen
    · rintro rfl rfl hbusy
      exact exec_bar0Write_busy hup hbusy
    · rintro rfl rfl
      exact exec_bar0Write_status hup
  case access =>
    have hup := State.up_of_running hp hr ht
    intro dpa n bs hn htop hlen hfree held may
    have hready := outsideReady_of_free hup hn htop hfree
    have hmay : ∀ a, s.outsideWritable a = may a := fun a => by rw [State.outsideWritable, outsideHeld_eq]
    constructor
    · have hgot : (List.range n).map (fun i => s.outsideByte (dpa + i))
          = (List.range n).map (fun i => if held (dpa + i) then memGet s.mem (dpa + i) else 0) := by
        simp only [State.outsideByte, outsideHeld_eq, held]
      exact ⟨_, exec_hostMemAccess_of_some (outsideAccess_read hord.1 hready _),
        exec_peerAccess_of_some (outsideAccess_read hord.1 hready _), rfl, dropSectors_spad s dpa n, hgot⟩
    · obtain ⟨t, hrun, hmem, hcount⟩ := outsideAccess_write hord.1 hready hlen
      refine ⟨t, exec_hostMemAccess_of_some (hrun _), exec_peerAccess_of_some (hrun _), fun _ a => ?_, ?_⟩
      · rw [hmem, hmay]
      · simpa only [hmay] using hcount
  case atomic =>
    have hup := State.up_of_running hp hr ht
    intro dpa sz op x y n h4 h16 hop hal htop hfree hmay old new
    have hready := outsideReady_of_free hup (by omega : 0 < n) htop hfree
    have hk : (s.dropSectors dpa n).record.keep = false := hord.1
    refine ⟨_, exec_peerAtomic_of_ready h4 h16 hop hal hready hmay, congrArg (bytesOf n) (peerRmw_old hk), ?_,
      fun _ => memGet_peerRmw hk⟩
    rintro rfl hne
    exact peerRmw_mem_of_none hk (peerNew_of_ne hne)
  case ingress =>
    have hup := State.up_of_running hp hr ht
    intro port ok f hport x n good u ptp now stamp run
    exact ⟨fun hbad => exec_frameIngress_of_bad hup hport hbad,
      fun hgood hnone => exec_frameIngress_of_unmatched hup hport hgood (ruleFor_eq_none hnone),
      fun r w hgood hmem hmatch hlow =>
        exec_frameIngress_of_matched hup hport hgood (ruleFor_eq_some hmem hmatch hlow)⟩
  case waiting =>
    intro r m rest v hwait hcls hin
    exact exec_sluiceDelivery_of_waiting (State.up_of_running hp hr ht) hwait hcls hin
  case ring =>
    intro f hframes hwait w slot jt j t ag gone
    have hrun := exec_sluiceDelivery_of_frame (State.up_of_running hp hr ht) hframes hwait
    constructor
    · intro h
      rw [hrun, deliverFrame_of_unfit hframes h]
      rfl
    · intro hbound hring hshape hlen hnear htog k u hprod huwait m
      have hsend : s.deliverFrame f 0
          = some ((u.letSluiceIn m).getD { u with sluice := { u.sluice with waiting := [(f.rule, m)] } }) :=
        (deliverFrame_of_produced hframes hsw hbound hring hshape hlen hnear htog hprod).trans
          (congrArg some (sluiceSends_of_none_waiting f.rule m huwait))
      rw [hrun, hsend]
      exact ⟨fun v hv => by rw [hv]; rfl, fun hnone => by rw [hnone]; rfl⟩
  case egress =>
    intro port slot rid hegress j t jt ag hbound hring htog htouch head hl tl wl fl hhead k htag hfull hword d n hframe p
    have hsend := fun u => exec_egressTransmit_of_ok (u := u) (State.up_of_running hp hr ht) hsw hegress hbound hring
      htog htouch
    exact ⟨fun hlo hhi hplain => hsend _ (transmit_of_frame hhead htag hfull hword hlo hhi hplain hframe),
      fun hbad => hsend _ (transmit_of_bad_length hhead htag hfull hword hbad)⟩

end Sys2Proof.Cube

/-! The encoding and the decoder agree (O55, R20 to R47). The fields of a word are numbers; a table of codes is a bijection
onto the codes that it lists, and FN and word 1 are numbers cut into fields. `readsBack` shows, constructor by constructor,
that the entry of an encoding answers the instruction; `sound_entryOf` shows, entry by entry, that what is answered encodes
to the fields that were read. The last part carries both from fields to words and to bytes. -/

namespace Sys2Proof

open Sys2Proof.Machine

/-! Codes (R29, R34, R38, R63). A code is written as the bit vector of the field that it fills, so that arithmetic over
fields knows
its bound; each table of the decoder answers exactly the operand whose code it is given. -/

/-- The field of an integer type code (R38). -/
def IntTy.field (x : IntTy) : BitVec 3 := BitVec.ofNat 3 x.code

@[simp] theorem IntTy.code_eq (x : IntTy) : x.code = x.field.toNat := by cases x <;> rfl

@[simp] theorem intTy_eq_some_iff {c : Nat} {x : IntTy} : intTy c = some x ↔ c = x.field.toNat := by
  constructor
  · intro h
    unfold intTy at h
    split at h <;> cases h <;> rfl
  · rintro rfl
    cases x <;> rfl

@[simp] theorem intTy_field (x : IntTy) : intTy x.field.toNat = some x := intTy_eq_some_iff.mpr rfl

/-- The field of a floating-point type code (R38). -/
def FpTy.field (x : FpTy) : BitVec 4 := BitVec.ofNat 4 x.code

@[simp] theorem FpTy.code_eq (x : FpTy) : x.code = x.field.toNat := by cases x <;> rfl

@[simp] theorem fpTy_eq_some_iff {c : Nat} {x : FpTy} : fpTy c = some x ↔ c = x.field.toNat := by
  constructor
  · intro h
    unfold fpTy at h
    split at h <;> cases h <;> rfl
  · rintro rfl
    cases x <;> rfl

@[simp] theorem fpTy_field (x : FpTy) : fpTy x.field.toNat = some x := fpTy_eq_some_iff.mpr rfl

/-- The field of a type code of R121. -/
def FTy.field (x : FTy) : BitVec 4 := BitVec.ofNat 4 x.code

@[simp] theorem FTy.code_eq (x : FTy) : x.code = x.field.toNat := by cases x <;> rfl

@[simp] theorem fTy_eq_some_iff {c : Nat} {x : FTy} : fTy c = some x ↔ c = x.field.toNat := by
  constructor
  · intro h
    unfold fTy at h
    split at h <;> cases h <;> rfl
  · rintro rfl
    cases x <;> rfl

@[simp] theorem fTy_field (x : FTy) : fTy x.field.toNat = some x := fTy_eq_some_iff.mpr rfl

/-- The field of a rounding code (R63). -/
def RMode.field (x : RMode) : BitVec 3 := BitVec.ofNat 3 x.code

@[simp] theorem RMode.code_eq (x : RMode) : x.code = x.field.toNat := by cases x <;> rfl

@[simp] theorem rMode_eq_some_iff {c : Nat} {x : RMode} : rMode c = some x ↔ c = x.field.toNat := by
  constructor
  · intro h
    unfold rMode at h
    split at h <;> cases h <;> rfl
  · rintro rfl
    cases x <;> rfl

@[simp] theorem rMode_field (x : RMode) : rMode x.field.toNat = some x := rMode_eq_some_iff.mpr rfl

/-- The field of an integer condition (R118). -/
def ICond.field (x : ICond) : BitVec 3 := BitVec.ofNat 3 x.code

@[simp] theorem ICond.code_eq (x : ICond) : x.code = x.field.toNat := by cases x <;> rfl

@[simp] theorem iCond_eq_some_iff {c : Nat} {x : ICond} : iCond c = some x ↔ c = x.field.toNat := by
  constructor
  · intro h
    unfold iCond at h
    split at h <;> cases h <;> rfl
  · rintro rfl
    cases x <;> rfl

@[simp] theorem iCond_field (x : ICond) : iCond x.field.toNat = some x := iCond_eq_some_iff.mpr rfl

/-- The field of a floating-point condition (R124). -/
def FCond.field (x : FCond) : BitVec 3 := BitVec.ofNat 3 x.code

@[simp] theorem FCond.code_eq (x : FCond) : x.code = x.field.toNat := by cases x <;> rfl

@[simp] theorem fCond_eq_some_iff {c : Nat} {x : FCond} : fCond c = some x ↔ c = x.field.toNat := by
  constructor
  · intro h
    unfold fCond at h
    split at h <;> cases h <;> rfl
  · rintro rfl
    cases x <;> rfl

@[simp] theorem fCond_field (x : FCond) : fCond x.field.toNat = some x := fCond_eq_some_iff.mpr rfl

/-- The field of an ORD code (R29). -/
def MemOrd.field (x : MemOrd) : BitVec 2 := BitVec.ofNat 2 x.code

@[simp] theorem MemOrd.code_eq (x : MemOrd) : x.code = x.field.toNat := by cases x <;> rfl

@[simp] theorem memOrd_eq_some_iff {c : Nat} {x : MemOrd} : memOrd c = some x ↔ c = x.field.toNat := by
  constructor
  · intro h
    unfold memOrd at h
    split at h <;> cases h <;> rfl
  · rintro rfl
    cases x <;> rfl

@[simp] theorem memOrd_field (x : MemOrd) : memOrd x.field.toNat = some x := memOrd_eq_some_iff.mpr rfl

/-- The field of an OPC code (R221). -/
def AmoOp.field (x : AmoOp) : BitVec 4 := BitVec.ofNat 4 x.code

@[simp] theorem AmoOp.code_eq (x : AmoOp) : x.code = x.field.toNat := by cases x <;> rfl

@[simp] theorem amoOp_eq_some_iff {c : Nat} {x : AmoOp} : amoOp c = some x ↔ c = x.field.toNat := by
  constructor
  · intro h
    unfold amoOp at h
    split at h <;> cases h <;> rfl
  · rintro rfl
    cases x <;> rfl

@[simp] theorem amoOp_field (x : AmoOp) : amoOp x.field.toNat = some x := amoOp_eq_some_iff.mpr rfl

/-- The field of a reduction code of `vred` (R134). -/
def RedOp.field (x : RedOp) : BitVec 3 := BitVec.ofNat 3 x.code

@[simp] theorem RedOp.code_eq (x : RedOp) : x.code = x.field.toNat := by cases x <;> rfl

@[simp] theorem redOp_eq_some_iff {c : Nat} {x : RedOp} : redOp c = some x ↔ c = x.field.toNat := by
  constructor
  · intro h
    unfold redOp at h
    split at h <;> cases h <;> rfl
  · rintro rfl
    cases x <;> rfl

@[simp] theorem redOp_field (x : RedOp) : redOp x.field.toNat = some x := redOp_eq_some_iff.mpr rfl

/-- The field of a reduction code of `vfred` (R142). -/
def FRedOp.field (x : FRedOp) : BitVec 2 := BitVec.ofNat 2 x.code

@[simp] theorem FRedOp.code_eq (x : FRedOp) : x.code = x.field.toNat := by cases x <;> rfl

@[simp] theorem fRedOp_eq_some_iff {c : Nat} {x : FRedOp} : fRedOp c = some x ↔ c = x.field.toNat := by
  constructor
  · intro h
    unfold fRedOp at h
    split at h <;> cases h <;> rfl
  · rintro rfl
    cases x <;> rfl

@[simp] theorem fRedOp_field (x : FRedOp) : fRedOp x.field.toNat = some x := fRedOp_eq_some_iff.mpr rfl

/-- The field of a kind of `nmop` (R323). -/
def NmKind.field (x : NmKind) : BitVec 3 := BitVec.ofNat 3 x.code

@[simp] theorem NmKind.code_eq (x : NmKind) : x.code = x.field.toNat := by cases x <;> rfl

@[simp] theorem nmKind_eq_some_iff {c : Nat} {x : NmKind} : nmKind c = some x ↔ c = x.field.toNat := by
  constructor
  · intro h
    unfold nmKind at h
    split at h <;> cases h <;> rfl
  · rintro rfl
    cases x <;> rfl

@[simp] theorem nmKind_field (x : NmKind) : nmKind x.field.toNat = some x := nmKind_eq_some_iff.mpr rfl

/-- The field of a kind of `mtrs` (R259). -/
def SolveKind.field (x : SolveKind) : BitVec 2 := BitVec.ofNat 2 x.code

@[simp] theorem SolveKind.code_eq (x : SolveKind) : x.code = x.field.toNat := by cases x <;> rfl

@[simp] theorem solveKind_eq_some_iff {c : Nat} {x : SolveKind} : solveKind c = some x ↔ c = x.field.toNat := by
  constructor
  · intro h
    unfold solveKind at h
    split at h <;> cases h <;> rfl
  · rintro rfl
    cases x <;> rfl

@[simp] theorem solveKind_field (x : SolveKind) : solveKind x.field.toNat = some x := solveKind_eq_some_iff.mpr rfl

/-- The field of a size code (R29). -/
def Size.field (x : Size) : BitVec 3 := BitVec.ofNat 3 x.log

@[simp] theorem Size.log_eq (x : Size) : x.log = x.field.toNat := by cases x <;> rfl

@[simp] theorem size5_eq_some_iff {c : Nat} {x : Size} : size5 c = some x ↔ c = x.field.toNat := by
  constructor
  · intro h
    unfold size5 at h
    split at h <;> cases h <;> rfl
  · rintro rfl
    cases x <;> rfl

@[simp] theorem size5_field (x : Size) : size5 x.field.toNat = some x := size5_eq_some_iff.mpr rfl

/-- The field of a scalar source. -/
def SSrc.field (x : SSrc) : BitVec 7 := BitVec.ofNat 7 x.code

@[simp] theorem SSrc.code_eq (x : SSrc) : x.code = x.field.toNat := by
  cases x with
  | g n | o n | q n | i n => have := n.isLt; simp [SSrc.field, SSrc.code]; omega
  | lat | zr => rfl

@[simp] theorem sSrc_eq_some_iff {c : Nat} {x : SSrc} : sSrc c = some x ↔ c = x.field.toNat := by
  rw [← SSrc.code_eq]
  unfold sSrc
  cases x with
  | g n | o n | q n | i n =>
    have := n.isLt
    split_ifs <;> simp [SSrc.code, ← BitVec.toNat_inj, -SSrc.code_eq] <;> omega
  | lat | zr => split_ifs <;> simp [SSrc.code, -SSrc.code_eq] <;> omega

/-- The field of a scalar destination. -/
def SDst.field (x : SDst) : BitVec 7 := BitVec.ofNat 7 x.code

@[simp] theorem SDst.code_eq (x : SDst) : x.code = x.field.toNat := by
  cases x with
  | g n | o n | q n => have := n.isLt; simp [SDst.field, SDst.code]; omega
  | zr => rfl

@[simp] theorem sDst_eq_some_iff {c : Nat} {x : SDst} : sDst c = some x ↔ c = x.field.toNat := by
  rw [← SDst.code_eq]
  unfold sDst
  cases x with
  | g n | o n | q n =>
    have := n.isLt
    split_ifs <;> simp [SDst.code, ← BitVec.toNat_inj, -SDst.code_eq] <;> omega
  | zr => split_ifs <;> simp [SDst.code, -SDst.code_eq] <;> omega

/-- The field of a vector source. -/
def VSrc.field (x : VSrc) : BitVec 7 := BitVec.ofNat 7 x.code

@[simp] theorem VSrc.code_eq (x : VSrc) : x.code = x.field.toNat := by
  cases x with
  | v n | o n => have := n.isLt; simp [VSrc.field, VSrc.code]; omega
  | lat | zr => rfl

@[simp] theorem vSrc_eq_some_iff {c : Nat} {x : VSrc} : vSrc c = some x ↔ c = x.field.toNat := by
  rw [← VSrc.code_eq]
  unfold vSrc
  cases x with
  | v n | o n =>
    have := n.isLt
    split_ifs <;> simp [VSrc.code, ← BitVec.toNat_inj, -VSrc.code_eq] <;> omega
  | lat | zr => split_ifs <;> simp [VSrc.code, -VSrc.code_eq] <;> omega

/-- The field of a vector destination. -/
def VDst.field (x : VDst) : BitVec 7 := BitVec.ofNat 7 x.code

@[simp] theorem VDst.code_eq (x : VDst) : x.code = x.field.toNat := by
  cases x with
  | v n | o n => have := n.isLt; simp [VDst.field, VDst.code]; omega
  | zr => rfl

@[simp] theorem vDst_eq_some_iff {c : Nat} {x : VDst} : vDst c = some x ↔ c = x.field.toNat := by
  rw [← VDst.code_eq]
  unfold vDst
  cases x with
  | v n | o n =>
    have := n.isLt
    split_ifs <;> simp [VDst.code, ← BitVec.toNat_inj, -VDst.code_eq] <;> omega
  | zr => split_ifs <;> simp [VDst.code, -VDst.code_eq] <;> omega

@[simp] theorem vRun_eq_some_iff {c : Nat} {x : BitVec 5} : vRun c = some x ↔ c = x.toNat := by
  have := x.isLt
  unfold vRun
  split_ifs <;> simp [← BitVec.toNat_inj] <;> omega

/-- The field of a payload base. -/
def payField (x : Option (BitVec 6)) : BitVec 7 := BitVec.ofNat 7 (payCode x)

@[simp] theorem payCode_eq (x : Option (BitVec 6)) : payCode x = (payField x).toNat := by
  cases x with
  | none => rfl
  | some n => have := n.isLt; simp [payField, payCode]; omega

@[simp] theorem payBase_eq_some_iff {c : Nat} {x : Option (BitVec 6)} : payBase c = some x ↔ c = (payField x).toNat := by
  rw [← payCode_eq]
  unfold payBase
  cases x with
  | none => split_ifs <;> simp [payCode, -payCode_eq] <;> omega
  | some n =>
    have := n.isLt
    split_ifs <;> simp [payCode, ← BitVec.toNat_inj, -payCode_eq] <;> omega

/-- The field of a status destination. -/
def statusField (x : Option (BitVec 2)) : BitVec 7 := BitVec.ofNat 7 (statusCode x)

@[simp] theorem statusCode_eq (x : Option (BitVec 2)) : statusCode x = (statusField x).toNat := by
  cases x with
  | none => rfl
  | some n => have := n.isLt; simp [statusField, statusCode]; omega

@[simp] theorem statusDst_eq_some_iff {c : Nat} {x : Option (BitVec 2)} :
    statusDst c = some x ↔ c = (statusField x).toNat := by
  rw [← statusCode_eq]
  unfold statusDst
  cases x with
  | none => split_ifs <;> simp [statusCode, -statusCode_eq] <;> omega
  | some n =>
    have := n.isLt
    split_ifs <;> simp [statusCode, ← BitVec.toNat_inj, -statusCode_eq] <;> omega

/-- The field of a type code. -/
def ElemTy.field (x : ElemTy) : BitVec 4 := BitVec.ofNat 4 x.code

@[simp] theorem ElemTy.code_eq (x : ElemTy) : x.code = x.field.toNat := by
  cases x with
  | int t | fp t => cases t <;> rfl
  | q3 | q4 => rfl

@[simp] theorem elemTy_eq_some_iff {c : Nat} {x : ElemTy} : elemTy c = some x ↔ c = x.field.toNat := by
  constructor
  · intro h
    unfold elemTy at h
    split_ifs at h with h1 h2 h3 h4
    · obtain ⟨t, ht, rfl⟩ := Option.map_eq_some_iff.mp h
      obtain rfl := intTy_eq_some_iff.mp ht
      cases t <;> rfl
    · obtain ⟨t, ht, rfl⟩ := Option.map_eq_some_iff.mp h
      obtain rfl := fpTy_eq_some_iff.mp ht
      cases t <;> rfl
    · cases h; exact h3
    · cases h; exact h4
  · rintro rfl
    cases x with
    | int t | fp t => cases t <;> rfl
    | q3 | q4 => rfl

/-- The field of one bit. -/
def bitField (x : Bool) : BitVec 1 := BitVec.ofBool x

@[simp] theorem b2n_eq (x : Bool) : b2n x = (bitField x).toNat := by cases x <;> rfl

theorem ordBit_eq_some_iff {one c : Nat} {x : Bool} (h : one ≠ 0) :
    ordBit one c = some x ↔ c = (bitField x).toNat * one := by
  unfold ordBit
  cases x <;> split_ifs <;> simp_all [Ne.symm h, bitField]

@[simp] theorem ordBit_two_eq_some_iff {c : Nat} {x : Bool} : ordBit 2 c = some x ↔ c = (bitField x).toNat * 2 :=
  ordBit_eq_some_iff two_ne_zero

@[simp] theorem flag_eq_some_iff {c : Nat} {x : Bool} : flag c = some x ↔ c = (bitField x).toNat := by
  simpa [flag] using ordBit_eq_some_iff (c := c) (x := x) one_ne_zero

theorem bits_lt (x lo n : Nat) : bits x lo n < 2 ^ n := Nat.mod_lt _ (Nat.two_pow_pos n)

@[simp] theorem bit_beq_one_eq_iff {x lo : Nat} {b : Bool} : (bits x lo 1 == 1) = b ↔ bits x lo 1 = (bitField b).toNat := by
  have := bits_lt x lo 1
  interval_cases bits x lo 1 <;> cases b <;> simp [bitField]

@[simp] theorem sSrc_field (x : SSrc) : sSrc x.field.toNat = some x := sSrc_eq_some_iff.mpr rfl

@[simp] theorem sDst_field (x : SDst) : sDst x.field.toNat = some x := sDst_eq_some_iff.mpr rfl

@[simp] theorem vSrc_field (x : VSrc) : vSrc x.field.toNat = some x := vSrc_eq_some_iff.mpr rfl

@[simp] theorem vDst_field (x : VDst) : vDst x.field.toNat = some x := vDst_eq_some_iff.mpr rfl

@[simp] theorem elemTy_field (x : ElemTy) : elemTy x.field.toNat = some x := elemTy_eq_some_iff.mpr rfl

@[simp] theorem vRun_toNat (x : BitVec 5) : vRun x.toNat = some x := vRun_eq_some_iff.mpr rfl

@[simp] theorem payBase_field (x : Option (BitVec 6)) : payBase (payField x).toNat = some x := payBase_eq_some_iff.mpr rfl

@[simp] theorem statusDst_field (x : Option (BitVec 2)) : statusDst (statusField x).toNat = some x :=
  statusDst_eq_some_iff.mpr rfl

@[simp] theorem flag_field (x : Bool) : flag (bitField x).toNat = some x := flag_eq_some_iff.mpr rfl

@[simp] theorem ordBit_two_field (x : Bool) : ordBit 2 ((bitField x).toNat * 2) = some x := ordBit_two_eq_some_iff.mpr rfl

@[simp] theorem bitField_beq_one (x : Bool) : ((bitField x).toNat == 1) = x := by cases x <;> rfl

theorem bitField_beq {n : Nat} (h : n < 2) : (bitField (n == 1)).toNat = n := by interval_cases n <;> rfl

@[simp] theorem bitField_bits (x lo : Nat) : (bitField (bits x lo 1 == 1)).toNat = bits x lo 1 :=
  bitField_beq (bits_lt x lo 1)

theorem bits_self {x n : Nat} (h : x < 2 ^ n) : bits x 0 n = x := by simp [bits, Nat.mod_eq_of_lt h]

theorem bits_eq_zero {x lo n : Nat} (h : x < 2 ^ lo) : bits x lo n = 0 := by simp [bits, Nat.div_eq_of_lt h]

theorem bits_mul_low {y m lo n : Nat} (h : 2 ^ (lo + n) ∣ m) : bits (y * m) lo n = 0 := by
  obtain ⟨k, rfl⟩ := h
  have : y * (2 ^ (lo + n) * k) = 2 ^ lo * (2 ^ n * (y * k)) := by ring
  simp [bits, this]

theorem bits_add_mul_low {x y m lo n : Nat} (h : 2 ^ (lo + n) ∣ m) : bits (x + y * m) lo n = bits x lo n := by
  obtain ⟨k, rfl⟩ := h
  have : x + y * (2 ^ (lo + n) * k) = x + 2 ^ lo * (2 ^ n * (y * k)) := by ring
  simp [bits, this, Nat.add_mul_div_left]

theorem bits_mul_high {y m lo n : Nat} (h : m = 2 ^ lo) : bits (y * m) lo n = bits y 0 n := by
  simp [bits, h]

theorem bits_add_mul_high {x y m lo n : Nat} (h : m = 2 ^ lo) (hx : x < m) : bits (x + y * m) lo n = bits y 0 n := by
  subst h
  simp [bits, Nat.add_mul_div_right, Nat.div_eq_of_lt hx]

theorem ofNat_add_mul {x y m w : Nat} (h : 2 ^ w ∣ m) : BitVec.ofNat w (x + y * m) = BitVec.ofNat w x := by
  obtain ⟨k, rfl⟩ := h
  apply BitVec.eq_of_toNat_eq
  have : x + y * (2 ^ w * k) = x + 2 ^ w * (y * k) := by ring
  simp [this]

@[simp] theorem bitField_false : (bitField false).toNat = 0 := rfl

@[simp] theorem bitField_true : (bitField true).toNat = 1 := rfl

/-! What the decoder asks of a word's fields (R33, R34). -/

@[simp] theorem accepts_ssrc_field (x : SSrc) : SpecClass.ssrc.accepts x.field.toNat = true := by
  simp [SpecClass.accepts, sSrc_eq_some_iff.mpr rfl]

@[simp] theorem accepts_sdst_field (x : SDst) : SpecClass.sdst.accepts x.field.toNat = true := by
  simp [SpecClass.accepts, sDst_eq_some_iff.mpr rfl]

@[simp] theorem accepts_vsrc_field (x : VSrc) : SpecClass.vsrc.accepts x.field.toNat = true := by
  simp [SpecClass.accepts, vSrc_eq_some_iff.mpr rfl]

@[simp] theorem accepts_vdst_field (x : VDst) : SpecClass.vdst.accepts x.field.toNat = true := by
  simp [SpecClass.accepts, vDst_eq_some_iff.mpr rfl]

/-- A link register is named as a destination (R101). -/
@[simp] theorem accepts_link (x : BitVec 6) : SpecClass.sdst.accepts x.toNat = true := by
  have h := accepts_sdst_field (.g x)
  rwa [← SDst.code_eq] at h

@[simp] theorem accepts_vsrc_run (x : BitVec 5) : SpecClass.vsrc.accepts x.toNat = true := by
  simp [SpecClass.accepts, vSrc, x.isLt]

@[simp] theorem accepts_vdst_run (x : BitVec 5) : SpecClass.vdst.accepts x.toNat = true := by
  simp [SpecClass.accepts, vDst, x.isLt]

@[simp] theorem accepts_status (x : Option (BitVec 2)) : SpecClass.sdst.accepts (statusField x).toNat = true := by
  cases x with
  | none => rfl
  | some n => revert n; decide

@[simp] theorem onlyIf_eq_some_iff {b : Bool} {i j : Instr} : onlyIf b i = some j ↔ b = true ∧ i = j := by
  cases b <;> simp [onlyIf]

@[simp] theorem VCtl.mk_eq_iff {m : BitVec 3} {z : Bool} {v : VCtl} : VCtl.mk m z = v ↔ m = v.mask ∧ z = v.zm := by
  cases v; simp

@[simp] theorem MemOp.mk_eq_iff {a b : SSrc} {s d} {v : MemOp} : MemOp.mk a b s d = v ↔
    a = v.base ∧ b = v.index ∧ s = v.scl ∧ d = v.disp := by
  cases v; simp

@[simp] theorem Enc.raw_len (e : Enc) (g : Guard) : (e.raw g).len = e.fmt.len := rfl

@[simp] theorem Enc.raw_op (e : Enc) (g : Guard) : (e.raw g).op = e.op := rfl

@[simp] theorem Enc.raw_gp (e : Enc) (g : Guard) : (e.raw g).gp = g.pred.toNat := rfl

@[simp] theorem Enc.raw_gn (e : Enc) (g : Guard) : (e.raw g).gn = b2n g.neg := rfl

@[simp] theorem Enc.raw_d (e : Enc) (g : Guard) : (e.raw g).d = e.d := rfl

@[simp] theorem Enc.raw_a (e : Enc) (g : Guard) : (e.raw g).a = e.a := rfl

@[simp] theorem Enc.raw_b (e : Enc) (g : Guard) : (e.raw g).b = e.b := rfl

@[simp] theorem Enc.raw_c (e : Enc) (g : Guard) : (e.raw g).c = e.c := rfl

@[simp] theorem Enc.raw_fn (e : Enc) (g : Guard) : (e.raw g).fn = e.fn := rfl

@[simp] theorem Enc.raw_w1 (e : Enc) (g : Guard) : (e.raw g).w1 = e.w1 := rfl

@[simp] theorem Enc.raw_guard (e : Enc) (g : Guard) : (e.raw g).guard = g := by simp [Raw.guard]

@[simp] theorem encI_fmt (op d a imm : Nat) : (encI op d a imm).fmt = .I := rfl

@[simp] theorem encI_op (op d a imm : Nat) : (encI op d a imm).op = op := rfl

@[simp] theorem encI_d (op d a imm : Nat) : (encI op d a imm).d = d := rfl

@[simp] theorem encI_a (op d a imm : Nat) : (encI op d a imm).a = a := rfl

@[simp] theorem encI_b (op d a imm : Nat) : (encI op d a imm).b = 0 := rfl

@[simp] theorem encB_fmt (op a : Nat) (ofs : BitVec 34) : (encB op a ofs).fmt = .B := rfl

@[simp] theorem encB_op (op a : Nat) (ofs : BitVec 34) : (encB op a ofs).op = op := rfl

@[simp] theorem encB_d (op a : Nat) (ofs : BitVec 34) : (encB op a ofs).d = 0 := rfl

@[simp] theorem encB_a (op a : Nat) (ofs : BitVec 34) : (encB op a ofs).a = a := rfl

@[simp] theorem encB_b_mod (op a : Nat) (ofs : BitVec 34) : (encB op a ofs).b % 2 = 0 := Nat.mul_mod_left _ 2

@[simp] theorem encI_imm28 (op d a imm : Nat) (g : Guard) : ((encI op d a imm).raw g).imm28 = imm :=
  Nat.mod_add_div' imm (2 ^ 7)

@[simp] theorem encB_ofs (op a : Nat) (ofs : BitVec 34) (g : Guard) : ((encB op a ofs).raw g).ofsBv = ofs := by
  apply BitVec.eq_of_toNat_eq
  have := ofs.isLt
  simp only [Raw.ofsBv, Raw.ofs, Enc.raw, encB, BitVec.toNat_ofNat]
  omega

theorem toNat_lt_of_le {n m : Nat} {x : BitVec n} (h : 2 ^ n ≤ m) : x.toNat < m := Nat.lt_of_lt_of_le x.isLt h

section FnM

variable {tw sz ord scope scl hint xf : Nat} {o : Bool}

theorem bits_fnM_tw {lo n : Nat} (h : lo + n ≤ 4) : bits (fnM tw sz o ord scope scl hint xf) lo n = bits tw lo n := by
  have hdvd (k : Nat) (hk : 4 ≤ k) : 2 ^ (lo + n) ∣ 2 ^ k := Nat.pow_dvd_pow 2 (by omega)
  simp [fnM, bits_add_mul_low, hdvd, -Nat.reducePow]

theorem bits_fnM_sz (h : tw < 16) (hsz : sz < 8) : bits (fnM tw sz o ord scope scl hint xf) 4 3 = sz := by
  simp (disch := omega) [fnM, bits_add_mul_low, bits_add_mul_high, bits_self]

theorem bits_fnM_o (h : tw < 16) (hsz : sz < 8) : bits (fnM tw sz o ord scope scl hint xf) 7 1 = b2n o := by
  simp (disch := omega) [fnM, bits_add_mul_low, bits_add_mul_high, bits_self]

theorem bits_fnM_ord (h : tw < 16) (hsz : sz < 8) (hord : ord < 4) :
    bits (fnM tw sz o ord scope scl hint xf) 8 2 = ord := by
  simp (disch := omega) [fnM, bits_add_mul_low, bits_add_mul_high, bits_self]

theorem bits_fnM_scope (h : tw < 16) (hsz : sz < 8) (hord : ord < 4) (hscope : scope < 32) :
    bits (fnM tw sz o ord scope scl hint xf) 10 5 = scope := by
  simp (disch := omega) [fnM, bits_add_mul_low, bits_add_mul_high, bits_self]

theorem bits_fnM_scl (h : tw < 16) (hsz : sz < 8) (hord : ord < 4) (hscope : scope < 32) (hscl : scl < 4) :
    bits (fnM tw sz o ord scope scl hint xf) 15 2 = scl := by
  simp (disch := omega) [fnM, bits_add_mul_low, bits_add_mul_high, bits_self]

theorem bits_fnM_hint (h : tw < 16) (hsz : sz < 8) (hord : ord < 4) (hscope : scope < 32) (hscl : scl < 4)
    (hhint : hint < 4) : bits (fnM tw sz o ord scope scl hint xf) 17 2 = hint := by
  simp (disch := omega) [fnM, bits_add_mul_low, bits_add_mul_high, bits_self]

theorem bits_fnM_xf (h : tw < 16) (hsz : sz < 8) (hord : ord < 4) (hscope : scope < 32) (hscl : scl < 4)
    (hhint : hint < 4) (hxf : xf < 4) : bits (fnM tw sz o ord scope scl hint xf) 19 2 = xf := by
  simp (disch := omega) [fnM, bits_add_mul_high, bits_self]

/-- SIZE, O, ORD and SCOPE together. -/
theorem bits_fnM_attr (h : tw < 16) (hsz : sz < 8) (hord : ord < 4) (hscope : scope < 32) :
    bits (fnM tw sz o ord scope scl hint xf) 4 11 = sz + b2n o * 2 ^ 3 + ord * 2 ^ 4 + scope * 2 ^ 6 := by
  simp only [bits, fnM, b2n_eq]
  omega

end FnM

/-- A word's entry answers an instruction: every check of the runtime decoder but that of the guard passes (R47). -/
def Reads (o : Option Entry) (r : Raw) (i : Instr) : Prop :=
  ∃ e, o = some e ∧ e.fmt.len = r.len ∧ (∀ p ∈ e.specs, p.1.accepts p.2 = true) ∧ (e.twin = true → bits r.fn 1 3 ≠ 0)
    ∧ (∀ x ∈ e.rsv, x = 0) ∧ e.instr = some i

@[simp] theorem reads_some_iff {f : Format} {sp : List (SpecClass × Nat)} {rsv : List Nat} {tw bl : Bool} {o : Option Instr}
    {r : Raw} {i : Instr} : Reads (some ⟨f, sp, rsv, tw, bl, o⟩) r i ↔
      f.len = r.len ∧ (∀ p ∈ sp, p.1.accepts p.2 = true) ∧ (tw = true → bits r.fn 1 3 ≠ 0) ∧ (∀ x ∈ rsv, x = 0)
        ∧ o = some i := by
  simp [Reads]

/-- The entry of an instruction's encoding answers the instruction, under every guard. -/
def ReadsBack (i : Instr) : Prop :=
  ∀ g e, i.guard? = some g → i.enc = some e → i.fieldsOk = true → Reads (entryOf (e.raw g)) (e.raw g) i

theorem readsBack_of {i : Instr} {g : Guard} {e : Enc} (hg : i.guard? = some g) (he : i.enc = some e)
  (h : i.fieldsOk = true → Reads (entryOf (e.raw g)) (e.raw g) i) : ReadsBack i := by
  intro g' e' hg' he' hf
  cases hg.symm.trans hg'
  cases he.symm.trans he'
  exact h hf

theorem header_ok_iff (h : BitVec 6) :
    (h.getLsbD 4 == false || h.extractLsb' 2 2 == 0) = true ↔ bits h.toNat 4 1 * bits h.toNat 2 2 = 0 := by
  revert h; decide

@[simp] theorem dbl_select (b : Bool) :
    (if (bitField b).toNat = 0 then some false else if 2 + (bitField b).toNat = 3 then some true else none) = some b := by
  cases b <;> rfl

@[simp] theorem zr_field : SSrc.zr.field.toNat = 73 := rfl

@[simp] theorem sSrc_zr : sSrc 73 = some .zr := rfl

@[simp] theorem accepts_zr : SpecClass.ssrc.accepts 73 = true := rfl

/-- The reductions of `vscan` are the first three (R134). -/
theorem redOp_scan_eq (op : RedOp) : (op == .add || op == .min || op == .max) = decide (op.field.toNat < 3) := by
  cases op <;> rfl

/-- The opcode groups (R36), the last of them cut in two, and the events, which have no opcode. -/
inductive Group where
  | control | scalarInteger | scalarFp | vectorInteger | vectorFp | memory | engines | atomics | system | event

/-- The group whose table lists the instruction. -/
def Instr.group : Instr → Group
  | .nop .. | .brk .. | .br .. | .jmp .. | .call .. | .jr .. | .callr .. | .ret .. | .plog .. | .pmov .. | .nest ..
  | .iter .. | .align .. | .done .. | .who .. => .control
  | .li .. | .mov .. | .add .. | .addi .. | .sub .. | .mul .. | .muli .. | .mulh .. | .div .. | .rem .. | .and ..
  | .andi .. | .or .. | .ori .. | .xor .. | .xori .. | .andn .. | .shl .. | .shli .. | .shr .. | .shri .. | .sar ..
  | .sari .. | .rol .. | .roli .. | .min .. | .max .. | .abs .. | .neg .. | .sel .. | .cmp .. | .cmpi .. | .clz ..
  | .ctz .. | .popc .. | .brev .. | .bfx .. | .bfi .. | .ext .. | .lea .. => .scalarInteger
  | .fadd .. | .fsub .. | .fmul .. | .fma .. | .fdiv .. | .fsqrt .. | .frcp .. | .frsq .. | .fmin .. | .fmax ..
  | .fabs .. | .fneg .. | .fcmp .. | .fclass .. | .fcvt .. | .faddi .. | .fmuli .. => .scalarFp
  | .vadd .. | .vsub .. | .vmul .. | .vmad .. | .vmin .. | .vmax .. | .vabs .. | .vneg .. | .vand .. | .vor .. | .vxor ..
  | .vshl .. | .vshr .. | .vsar .. | .vcmp .. | .vsel .. | .vaddi .. | .vred .. | .vscan .. | .vperm .. | .vbcast ..
  | .vextr .. | .vins .. | .vmov .. | .vmovFromIndex .. | .vmovToIndex .. | .vmpop .. | .vmlog .. => .vectorInteger
  | .vfadd .. | .vfsub .. | .vfmul .. | .vfma .. | .vfmin .. | .vfmax .. | .vfabs .. | .vfcmp .. | .vfcvt .. | .vexp2 ..
  | .vlog2 .. | .vrcp .. | .vrsq .. | .vfred .. | .wclr .. | .wadd .. | .wrd .. | .rng .. => .vectorFp
  | .ld .. | .st .. | .vld .. | .vst .. | .vldx .. | .vstx .. | .tld .. | .tst .. | .pf .. | .tdef .. | .tget ..
  | .taddr .. | .hgl .. | .hgs .. | .hgw .. | .nmop .. | .cinv .. | .cwb .. => .memory
  | .mwl .. | .mma .. | .mst .. | .mclr .. | .mclrLoad .. | .mfac .. | .mtrs .. | .cpy .. | .cpyk .. | .cfill ..
  | .cring .. | .rclaim .. | .rclaimNb .. | .rfree .. | .fork .. | .rdv .. | .qpush .. | .qpushNb .. | .qpop ..
  | .qpopNb .. => .engines
  | .amo .. | .cas .. | .red .. | .redVector .. | .fenceAcq .. | .fenceRel .. | .fenceSc .. | .cadd .. | .cwait ..
  | .cwaitNb .. | .cread .. | .claim .. => .atomics
  | .send .. | .sendNb .. | .sendTrapping .. | .reply .. | .spawn .. | .spawnNb .. | .mspill .. | .mreplay .. | .mstat ..
  | .launch .. | .cancel .. | .trap .. | .eret .. | .csrr .. | .csrw .. => .system
  | _ => .event

/-! Every instruction's encoding is read back, group by group (R36). -/

theorem readsBack_control {i : Instr} (h : i.group = .control) : ReadsBack i := by
  cases i <;> cases h
  case' nop _ h | pmov _ _ h => cases h
  all_goals refine readsBack_of rfl rfl fun hf => ?_
  case nop.refl.some g h =>
    have hf : (g.pred == 0 && !g.neg && (h.getLsbD 4 == false || h.extractLsb' 2 2 == 0)) = true := hf
    rw [Bool.and_eq_true, header_ok_iff] at hf
    obtain ⟨hg, hh⟩ := hf
    have hbit : bits (h.toNat + 2 ^ 20) 20 1 = 1 := by simp only [bits]; omega
    have hrsv : bits (h.toNat + 2 ^ 20) 6 14 = 0 := by simp only [bits]; omega
    have h4 : bits (h.toNat + 2 ^ 20) 4 1 = bits h.toNat 4 1 := by simp only [bits]; omega
    have h2 : bits (h.toNat + 2 ^ 20) 2 2 = bits h.toNat 2 2 := by simp only [bits]; omega
    have hval : BitVec.ofNat 6 (h.toNat + 2 ^ 20) = h := by
      apply BitVec.eq_of_toNat_eq
      simp only [BitVec.toNat_ofNat]
      omega
    simp only [Bool.and_eq_true, beq_iff_eq, Bool.not_eq_true'] at hg
    simp [entryOf, entry000, encS, Format.len, -Nat.reducePow, hbit, hrsv, h4, h2, hh, hval, hg]
  case br.refl g neg p ofs =>
    have hne : p.toNat + b2n neg * 2 ^ 3 ≠ 8 := by
      cases neg
      · have := p.isLt; simp; omega
      · simpa [Instr.fieldsOk, ← BitVec.toNat_inj] using hf
    simp (disch := omega) [entryOf, entry000, Format.len, bits_self, bits_eq_zero, bits_add_mul_high, ofNat_add_mul] at hne ⊢
    exact hne
  all_goals
    simp [Instr.fieldsOk, ← BitVec.toNat_inj] at hf
    simp (disch := omega) [entryOf, entry000, encS, encT, Format.len, hf, bits_self, bits_eq_zero, bits_mul_low,
      bits_add_mul_low, bits_mul_high, bits_add_mul_high, ofNat_add_mul, toNat_lt_of_le]

theorem readsBack_scalarInteger {i : Instr} (h : i.group = .scalarInteger) : ReadsBack i := by
  cases i <;> cases h
  all_goals refine readsBack_of rfl rfl fun hf => ?_
  case bfx g signed d a pos lm1 =>
    have hw : pos.toNat + lm1.toNat ≤ 63 := by simpa [Instr.fieldsOk] using hf
    cases signed <;>
      simpa (disch := omega) [entryOf, entry040, encS, Format.len, bits_self, bits_eq_zero, bits_add_mul_low,
        bits_add_mul_high] using hw
  all_goals
    simp [Instr.fieldsOk] at hf
    simp (disch := omega) [entryOf, entry040, encS, entRRR, entRR, entRI, Format.len, hf, bits_self, bits_eq_zero,
      bits_mul_low, bits_add_mul_low, bits_mul_high, bits_add_mul_high, ofNat_add_mul]

theorem readsBack_scalarFp {i : Instr} (h : i.group = .scalarFp) : ReadsBack i := by
  cases i <;> cases h
  all_goals refine readsBack_of rfl rfl fun hf => ?_
  all_goals
    simp [Instr.fieldsOk] at hf
    simp (disch := omega) [entryOf, entry080, encS, entFRRR, entFRR, entFMM, entFBit, entFRI, Format.len, hf, bits_self,
      bits_eq_zero, bits_add_mul_low, bits_add_mul_high, ofNat_add_mul]

theorem readsBack_vectorInteger {i : Instr} (h : i.group = .vectorInteger) : ReadsBack i := by
  cases i <;> cases h
  all_goals refine readsBack_of rfl rfl fun hf => ?_
  case vcmp g signed v cc md a b =>
    cases signed <;>
      simp (disch := omega) [entryOf, entry0C0, encS, fnV, Raw.vctl, Raw.vplain, Format.len, bits_self, bits_eq_zero,
        bits_add_mul_low, bits_add_mul_high, ofNat_add_mul]
  case vscan g ty op v d a =>
    simp only [Instr.fieldsOk, redOp_scan_eq, Bool.and_eq_true, decide_eq_true_eq] at hf
    simp (disch := omega) [entryOf, entry0C0, encS, fnV, Raw.vctl, Raw.niTy, Format.len, hf, bits_self, bits_eq_zero,
      bits_add_mul_low, bits_add_mul_high]
  case vmovFromIndex | vmovToIndex =>
    simp [entryOf, entry0C0, encS, Format.len, bits]
  all_goals
    simp [Instr.fieldsOk] at hf
    simp (disch := omega) [entryOf, entry0C0, encS, entVVV, entVV, entVVVV, fnV, Raw.vctl, Raw.vplain, Raw.niTy, Format.len,
      hf, bits_self, bits_eq_zero, bits_mul_low, bits_add_mul_low, bits_mul_high, bits_add_mul_high, ofNat_add_mul]

theorem readsBack_vectorFp {i : Instr} (h : i.group = .vectorFp) : ReadsBack i := by
  cases i <;> cases h
  all_goals refine readsBack_of rfl rfl fun hf => ?_
  case wadd g ty m c =>
    have h32 : FTy.f32.field.toNat = 8 := rfl
    have h64 : FTy.f64.field.toNat = 9 := rfl
    cases ty <;>
      simp (disch := omega) [entryOf, entry100, encM, fnM, Format.len, Raw.mem, Raw.xf, Raw.tw, Raw.sz, Raw.hint, h32, h64,
        bits_self, bits_eq_zero, bits_add_mul_low, bits_add_mul_high] <;>
      simp [bits]
  all_goals
    simp [Instr.fieldsOk] at hf
    simp (disch := omega) [entryOf, entry100, encS, fnV, entVFFF, entVFMM, entVFun, Raw.vctl, Raw.vplain, Format.len, hf,
      bits_self, bits_eq_zero, bits_mul_low, bits_add_mul_low, bits_mul_high, bits_add_mul_high, ofNat_add_mul]

theorem readsBack_memory {i : Instr} (h : i.group = .memory) : ReadsBack i := by
  cases i <;> cases h
  all_goals refine readsBack_of rfl rfl fun hf => ?_
  case tst g o rel id scope mk a b c =>
    have hord : bits (mk.toNat + b2n o * 2 ^ 4 + b2n rel * 2 ^ 6) 5 2 = b2n rel * 2 := by
      simp only [bits, b2n_eq]
      omega
    simp (disch := omega) [entryOf, entry140, encT, w1Id, Raw.scope1, Raw.tid, Format.len, bits_self, bits_eq_zero,
      bits_add_mul_low, bits_add_mul_high, ofNat_add_mul] at hord ⊢
    simp [hord]
  case pf.refl keep sector m =>
    have hs : (bitField sector).toNat < 2 := (bitField sector).isLt
    simp (disch := omega) [entryOf, entry140, encM, Format.len, hs, Raw.mem, Raw.hint, Raw.xf, Raw.tw, bits_self,
      bits_eq_zero, bits_self, bits_eq_zero, bits_fnM_tw, bits_fnM_scl, bits_fnM_hint, bits_fnM_xf, bits_fnM_attr]
  case nmop.refl kind len cnt aval d a b c =>
    simp [Instr.fieldsOk, ← BitVec.toNat_inj] at hf
    have hk : kind.field.toNat < 4 → aval.toNat = 0 := by
      obtain ⟨-, rfl | haval⟩ := hf
      · exact fun h => absurd h (by decide)
      · exact fun _ => haval
    simp (disch := omega) [entryOf, entry140, encT, Format.len, hf, hk, bits_self, bits_eq_zero, bits_add_mul_low,
      bits_add_mul_high, ofNat_add_mul]
  all_goals
    simp [Instr.fieldsOk] at hf
    simp (disch := omega) [entryOf, entry140, encS, encM, encT, twOf, w1Id, Raw.twctl, Raw.scope1, Raw.tid, Raw.mem,
      Raw.scope, Raw.o, Raw.sz, Raw.ord, Raw.hint, Raw.xf, Raw.tw, Format.len, hf, bits_self, bits_eq_zero, bits_add_mul_low,
      bits_add_mul_high, ofNat_add_mul, bits_fnM_tw, bits_fnM_sz, bits_fnM_o, bits_fnM_ord, bits_fnM_scope, bits_fnM_scl,
      bits_fnM_hint, bits_fnM_xf, bits_fnM_attr]

theorem readsBack_engines {i : Instr} (h : i.group = .engines) : ReadsBack i := by
  cases i <;> cases h
  all_goals refine readsBack_of rfl rfl fun hf => ?_
  case mclrLoad.refl g acc o id d a b =>
    have h0 : bits ((bitField acc).toNat + 2) 0 1 = (bitField acc).toNat := by cases acc <;> rfl
    have h1 : bits ((bitField acc).toNat + 2) 1 1 = 1 := by cases acc <;> rfl
    simp [Instr.fieldsOk] at hf
    simp (disch := omega) [entryOf, entry180, encS, Format.len, hf, h0, h1, bits_self, bits_eq_zero, bits_add_mul_low,
      bits_add_mul_high]
  all_goals
    simp [Instr.fieldsOk, ← BitVec.toNat_inj] at hf
    simp (disch := omega) [entryOf, entry180, encS, encT, fnTwin, w1Id, Raw.scope1, Raw.tid, Format.len, hf, bits_self,
      bits_eq_zero, bits_mul_low, bits_add_mul_low, bits_mul_high, bits_add_mul_high, toNat_lt_of_le]

theorem readsBack_atomics {i : Instr} (h : i.group = .atomics) : ReadsBack i := by
  cases i <;> cases h
  case' cwait _ h _ _ | cwaitNb _ _ h _ _ | cread _ _ h _ => cases h
  all_goals refine readsBack_of rfl rfl fun hf => ?_
  case' cwait.refl.copyTl | cwait.refl.matTl | cwaitNb.refl.copyTl | cwaitNb.refl.matTl | cread.refl.copyTl |
      cread.refl.matTl => skip
  all_goals
    simp [Instr.fieldsOk, ← BitVec.toNat_inj] at hf
    simp (disch := omega) [entryOf, entry1C0, encS, encM, fnTwin, Raw.ctrSrc, Raw.tlRsv, Raw.dbl, Raw.mem, Raw.scope, Raw.o,
      Raw.sz, Raw.ord, Raw.hint, Raw.xf, Raw.tw, Format.len, hf, bits_self, bits_eq_zero, bits_add_mul_low,
      bits_add_mul_high, toNat_lt_of_le, bits_fnM_tw, bits_fnM_sz, bits_fnM_o, bits_fnM_ord, bits_fnM_scope, bits_fnM_scl,
      bits_fnM_hint, bits_fnM_xf]

theorem readsBack_system {i : Instr} (h : i.group = .system) : ReadsBack i := by
  cases i <;> cases h
  case' cancel _ h => cases h
  all_goals refine readsBack_of rfl rfl fun hf => ?_
  case sendTrapping.refl g delay a b c =>
    simp (disch := omega) [entryOf, entry1C0, encT, Format.len, show bits 16 0 1 = 0 from rfl, show bits 16 1 3 = 0 from rfl,
      show bits 16 4 1 = 1 from rfl, bits_eq_zero]
  case mstat.refl g k d =>
    have hk : k.toNat < 6 := Nat.lt_succ_iff.mpr (by simpa [Instr.fieldsOk] using hf)
    simp (disch := omega) [entryOf, entry1C0, encS, Format.len, hk, bits_self, bits_eq_zero]
  all_goals
    simp [Instr.fieldsOk, ← BitVec.toNat_inj, CancelSel.ok] at hf
    simp (disch := omega) [entryOf, entry1C0, encS, encT, fnTwin, Format.len, hf, bits_self, bits_eq_zero, bits_mul_low,
      bits_add_mul_low, bits_mul_high, bits_add_mul_high]

/-- An event has no guard, and so nothing to read back. -/
theorem readsBack_event {i : Instr} (h : i.group = .event) : ReadsBack i := by
  intro g e hg
  cases i <;> cases h <;> cases hg

/-- The entry of an encoding answers the instruction (R47). -/
theorem readsBack (i : Instr) : ReadsBack i := by
  cases h : i.group with
  | control => exact readsBack_control h
  | scalarInteger => exact readsBack_scalarInteger h
  | scalarFp => exact readsBack_scalarFp h
  | vectorInteger => exact readsBack_vectorInteger h
  | vectorFp => exact readsBack_vectorFp h
  | memory => exact readsBack_memory h
  | engines => exact readsBack_engines h
  | atomics => exact readsBack_atomics h
  | system => exact readsBack_system h
  | event => exact readsBack_event h

/-- The fields of a word of some length lie within their widths; a word of 8 or 12 bytes has no more of word 1 (R20, R23). -/
structure Raw.Fits (r : Raw) : Prop where
  op : r.op < 512
  gp : r.gp < 8
  gn : r.gn < 2
  d : r.d < 128
  a : r.a < 128
  b : r.b < 128
  c : r.c < 128
  fn : r.fn < 2097152
  w1 : r.w1 < 2 ^ 64
  w1S : r.len = 0 → r.w1 = 0
  w1M : r.len = 1 → r.w1 < 2 ^ 32

/-- A word encodes an instruction: its fields are those that the encoder gives. -/
def Raw.Encodes (r : Raw) (i : Instr) : Prop :=
  i.guard? = some r.guard ∧ i.fieldsOk = true ∧ ∃ e, i.enc = some e ∧ e.raw r.guard = r

theorem Enc.raw_eq_iff {e : Enc} {r : Raw} (hr : r.Fits) : e.raw r.guard = r ↔
    e.fmt.len = r.len ∧ e.op = r.op ∧ e.d = r.d ∧ e.a = r.a ∧ e.b = r.b ∧ e.c = r.c ∧ e.fn = r.fn ∧ e.w1 = r.w1 := by
  obtain ⟨len, op, gp, gn, d, a, b, c, fn, w1⟩ := r
  have h1 : gp % 8 = gp := Nat.mod_eq_of_lt hr.gp
  simp [Enc.raw, Raw.guard, h1, bitField_beq hr.gn]

theorem encodes_of {r : Raw} (hr : r.Fits) {i : Instr} {e : Enc} (hg : i.guard? = some r.guard) (he : i.enc = some e)
    (hf : i.fieldsOk = true) (h : e.fmt.len = r.len ∧ e.op = r.op ∧ e.d = r.d ∧ e.a = r.a ∧ e.b = r.b ∧ e.c = r.c
      ∧ e.fn = r.fn ∧ e.w1 = r.w1) : r.Encodes i :=
  ⟨hg, hf, e, he, (Enc.raw_eq_iff hr).mpr h⟩

/-- An entry is sound for a word when every instruction that it answers is one that the word encodes. -/
def Sound (o : Option Entry) (r : Raw) : Prop := ∀ i, Reads o r i → r.Encodes i

theorem sound_none {r : Raw} : Sound none r := by simp [Sound, Reads]

/-- What an entry's answer is worth once the length, the twin's predicate and the reserved fields have passed. -/
theorem sound_some {f : Format} {sp : List (SpecClass × Nat)} {rsv : List Nat} {tw bl : Bool} {o : Option Instr}
    {r : Raw} (h : r.len = f.len → (tw = true → bits r.fn 1 3 ≠ 0) → (∀ x ∈ rsv, x = 0) →
      ∀ i, o = some i → r.Encodes i) : Sound (some ⟨f, sp, rsv, tw, bl, o⟩) r := by
  intro i hi
  obtain ⟨hlen, -, htwin, hrsv, hi⟩ := reads_some_iff.mp hi
  exact h hlen.symm htwin hrsv i hi

theorem forall_bind_iff {α β : Type} {o : Option α} {f : α → Option β} {P : β → Prop} :
    (∀ i, (o >>= f) = some i → P i) ↔ ∀ x, o = some x → ∀ i, f x = some i → P i := by
  cases o <;> simp

theorem forall_onlyIf_iff {b : Bool} {j : Instr} {P : Instr → Prop} :
    (∀ i, onlyIf b j = some i → P i) ↔ (b = true → P j) := by
  cases b <;> simp [onlyIf]

theorem forall_some_iff {α : Type} {j : α} {P : α → Prop} : (∀ i, some j = some i → P i) ↔ P j := by simp

theorem forall_none_iff {α : Type} {P : α → Prop} : (∀ i, none = some i → P i) ↔ True := by simp

theorem forall_ite_iff {α : Type} {c : Prop} [Decidable c] {x y : Option α} {P : α → Prop} :
    (∀ i, (if c then x else y) = some i → P i) ↔
      (c → ∀ i, x = some i → P i) ∧ (¬c → ∀ i, y = some i → P i) := by
  split_ifs with h <;> simp [h]

theorem niTy_eq_some_iff {r : Raw} {ty : IntTy} : r.niTy = some ty ↔ bits r.fn 0 4 = ty.field.toNat ∧ ty.isNI = true := by
  simp only [Raw.niTy, Option.bind_eq_bind, Option.bind_eq_some_iff, intTy_eq_some_iff, Option.ite_none_right_eq_some,
    Option.some.injEq]
  constructor
  · rintro ⟨_, h, hni, rfl⟩
    exact ⟨h, hni⟩
  · rintro ⟨h, hni⟩
    exact ⟨_, h, hni, rfl⟩

/-- The memory operand that a word of format M names (R29, R30). -/
theorem mem_eq_some_iff {r : Raw} {m : MemOp} : r.mem = some m ↔ r.a = m.base.field.toNat ∧ r.b = m.index.field.toNat
    ∧ bits r.fn 15 2 = m.scl.toNat ∧ bits r.w1 0 32 = m.disp.toNat := by
  obtain ⟨base, index, scl, disp⟩ := m
  simp [Raw.mem, Option.bind_eq_some_iff, ← BitVec.toNat_inj, bits]

theorem dbl_eq_some_iff {r : Raw} {x : Bool} : r.dbl = some x ↔ bits r.fn 4 3 = 2 + (bitField x).toNat := by
  unfold Raw.dbl Raw.sz
  split_ifs with h2 h3 <;> cases x <;> simp [*]

/-! Numbers by their parts. -/

@[simp] theorem ofNat_bits_toNat (x lo n : Nat) : (BitVec.ofNat n (bits x lo n)).toNat = bits x lo n := by
  rw [BitVec.toNat_ofNat, Nat.mod_eq_of_lt (bits_lt x lo n)]

theorem ofNat_toNat_eq_bits (x n : Nat) : (BitVec.ofNat n x).toNat = bits x 0 n := by simp [bits]

theorem bitField_mod (x : Nat) : (bitField (x % 2 == 1)).toNat = x % 2 := bitField_beq (Nat.mod_lt x two_pos)

section EncodesFormat

variable {r : Raw} (hr : r.Fits) {i : Instr} (hg : i.guard? = some r.guard) (hf : i.fieldsOk = true)
  {op d a b c fn : Nat}

include hr hg hf

theorem encodes_encS (he : i.enc = some (encS op d a b c fn))
    (h : r.len = 0 ∧ op = r.op ∧ d = r.d ∧ a = r.a ∧ b = r.b ∧ c = r.c ∧ fn = r.fn) : r.Encodes i := by
  obtain ⟨hlen, hop, hd, ha, hb, hc, hfn⟩ := h
  exact encodes_of hr hg he hf ⟨hlen.symm, hop, hd, ha, hb, hc, hfn, (hr.w1S hlen).symm⟩

theorem encodes_encT {w1 : Nat} (he : i.enc = some (encT op d a b c fn w1))
    (h : r.len = 2 ∧ op = r.op ∧ d = r.d ∧ a = r.a ∧ b = r.b ∧ c = r.c ∧ fn = r.fn ∧ w1 = r.w1) : r.Encodes i := by
  obtain ⟨hlen, hop, hd, ha, hb, hc, hfn, hw1⟩ := h
  exact encodes_of hr hg he hf ⟨hlen.symm, hop, hd, ha, hb, hc, hfn, hw1⟩

theorem encodes_encI {imm : Nat} (he : i.enc = some (encI op d a imm))
    (h : r.len = 0 ∧ op = r.op ∧ d = r.d ∧ a = r.a ∧ r.b = 0 ∧ imm = r.imm28) : r.Encodes i := by
  obtain ⟨hlen, hop, hd, ha, hb, rfl⟩ := h
  have := hr.c
  have hlow : r.imm28 % 2 ^ 7 = r.c := by simp only [Raw.imm28]; omega
  have hhigh : r.imm28 / 2 ^ 7 = r.fn := by simp only [Raw.imm28]; omega
  exact encodes_of hr hg he hf ⟨hlen.symm, hop, hd, ha, hb.symm, hlow, hhigh, (hr.w1S hlen).symm⟩

theorem encodes_encB {ofs : BitVec 34} (he : i.enc = some (encB op a ofs))
    (hofs : ofs = r.ofsBv) (h : r.len = 0 ∧ op = r.op ∧ r.d = 0 ∧ a = r.a ∧ r.b % 2 = 0) : r.Encodes i := by
  obtain ⟨hlen, hop, hd, ha, hb⟩ := h
  subst hofs
  have := hr.b
  have := hr.c
  have := hr.fn
  have hofs : r.ofsBv.toNat = r.b / 2 + r.c * 2 ^ 6 + r.fn * 2 ^ 13 := by
    simp only [Raw.ofsBv, Raw.ofs, BitVec.toNat_ofNat]
    omega
  refine encodes_of hr hg he hf ⟨hlen.symm, hop, hd.symm, ha, ?_, ?_, ?_, (hr.w1S hlen).symm⟩ <;>
    simp only [encB, hofs] <;> omega

/-- A vector form whose FN holds type, rounding, mask and two more fields (R132). -/
theorem encodes_fnV {ty rm x1 x2 : Nat} {v : VCtl} (he : i.enc = some (encS op d a b c (fnV ty rm v x1 x2)))
    (hv : v = r.vctl) (h : r.len = 0 ∧ op = r.op ∧ d = r.d ∧ a = r.a ∧ b = r.b ∧ c = r.c ∧ bits r.fn 19 2 = 0
      ∧ ty = bits r.fn 0 4 ∧ rm = bits r.fn 4 3 ∧ x1 = bits r.fn 11 4 ∧ x2 = bits r.fn 15 4) : r.Encodes i := by
  obtain ⟨hlen, hop, hd, ha, hb, hc, h19, rfl, rfl, rfl, rfl⟩ := h
  subst hv
  refine encodes_encS hr hg hf he ⟨hlen, hop, hd, ha, hb, hc, ?_⟩
  have := hr.fn
  simp only [bits, Nat.reducePow] at h19
  simp only [fnV, Raw.vctl, b2n_eq, bitField_mod, bits, BitVec.toNat_ofNat, Nat.reducePow, Nat.div_one]
  omega

/-- A form whose FN holds the fields of format M (R29). -/
theorem encodes_fnM {tw sz ord scope scl hint xf w1 : Nat} {o : Bool}
    (he : i.enc = some ⟨.M, op, d, a, b, c, fnM tw sz o ord scope scl hint xf, w1⟩)
    (h : r.len = 1 ∧ op = r.op ∧ d = r.d ∧ a = r.a ∧ b = r.b ∧ c = r.c ∧ w1 = bits r.w1 0 32
      ∧ tw = bits r.fn 0 4 ∧ sz = bits r.fn 4 3 ∧ b2n o = bits r.fn 7 1 ∧ ord = bits r.fn 8 2
      ∧ scope = bits r.fn 10 5 ∧ scl = bits r.fn 15 2 ∧ hint = bits r.fn 17 2 ∧ xf = bits r.fn 19 2) :
    r.Encodes i := by
  obtain ⟨hlen, hop, hd, ha, hb, hc, hw, rfl, rfl, ho, rfl, rfl, rfl, rfl, rfl⟩ := h
  have hw1 : bits r.w1 0 32 = r.w1 := bits_self (hr.w1M hlen)
  refine encodes_of hr hg he hf ⟨hlen.symm, hop, hd, ha, hb, hc, ?_, hw.trans hw1⟩
  have := hr.fn
  simp only [fnM, ho, bits, Nat.reducePow, Nat.div_one]
  omega

/-- A form with the memory operand of format M (R29, R30). -/
theorem encodes_encM {tw sz ord hint xf : Nat} {m : MemOp} {o : Bool} {scope : BitVec 5}
    (he : i.enc = some (encM op d c m tw sz o ord scope hint xf))
    (h : r.len = 1 ∧ op = r.op ∧ d = r.d ∧ m.base.code = r.a ∧ m.index.code = r.b ∧ c = r.c ∧ m.disp.toNat = bits r.w1 0 32
      ∧ tw = bits r.fn 0 4 ∧ sz = bits r.fn 4 3 ∧ b2n o = bits r.fn 7 1 ∧ ord = bits r.fn 8 2
      ∧ scope.toNat = bits r.fn 10 5 ∧ m.scl.toNat = bits r.fn 15 2 ∧ hint = bits r.fn 17 2 ∧ xf = bits r.fn 19 2) :
    r.Encodes i :=
  encodes_fnM hr hg hf he h

end EncodesFormat

theorem ofNat_bits_beq_zero (x lo n : Nat) : (BitVec.ofNat n (bits x lo n) == 0) = (bits x lo n == 0) := by
  rw [Bool.eq_iff_iff, beq_iff_eq, beq_iff_eq, ← BitVec.toNat_inj, ofNat_bits_toNat]
  rfl

theorem ofNat_bits_bne_zero (x lo n : Nat) : (BitVec.ofNat n (bits x lo n) != 0) = (bits x lo n != 0) := by
  rw [bne, bne, ofNat_bits_beq_zero]

theorem f32_field : FTy.f32.field.toNat = 8 := rfl

theorem f64_field : FTy.f64.field.toNat = 9 := rfl

/-- The last code of a field of two bits, where the others are excluded. -/
theorem bits_two_eq_three {x lo : Nat} (h0 : bits x lo 2 ≠ 0) (h1 : bits x lo 2 ≠ 1) (h2 : bits x lo 2 ≠ 2) :
    bits x lo 2 = 3 := by
  have := bits_lt x lo 2
  omega

/-- A header's checks on its word are those on its field (R39). -/
theorem header_fieldsOk {r : Raw} (hgp : r.gp = 0) (hgn : r.gn = 0) (h : bits r.fn 4 1 * bits r.fn 2 2 = 0) :
    (Instr.nop r.guard (some (BitVec.ofNat 6 r.fn))).fieldsOk = true := by
  have h4 : bits (BitVec.ofNat 6 r.fn).toNat 4 1 = bits r.fn 4 1 := by
    simp only [bits, BitVec.toNat_ofNat]
    omega
  have h2 : bits (BitVec.ofNat 6 r.fn).toNat 2 2 = bits r.fn 2 2 := by
    simp only [bits, BitVec.toNat_ofNat]
    omega
  have hheader := (header_ok_iff (BitVec.ofNat 6 r.fn)).mpr (by rw [h4, h2, h])
  simp only [Instr.fieldsOk, Raw.guard, hgp, hgn, hheader]
  rfl

/-! The source of a `cwait` or `cread` (R221). -/

theorem ctrSrc_mem_iff {r : Raw} {m : MemOp} {scope : BitVec 5} :
    r.ctrSrc = some (.mem m scope) ↔ r.xf = 0 ∧ r.mem = some m ∧ r.scope = scope := by
  unfold Raw.ctrSrc
  split
  case h_1 h => simp [h, Option.bind_eq_some_iff]
  case h_2 h | h_3 h => simp [h]
  case h_4 h _ _ => simp [show r.xf ≠ 0 from h]

theorem ctrSrc_copyTl_iff {r : Raw} :
    r.ctrSrc = some .copyTl ↔ r.xf = 1 ∧ r.a = 0x49 ∧ r.b = 0x49 ∧ bits r.fn 10 5 = 2 := by
  unfold Raw.ctrSrc
  split
  case h_1 h => simp [h, Option.bind_eq_some_iff]
  case h_2 h | h_3 h => simp [h, and_assoc]
  case h_4 _ h _ => simp [show r.xf ≠ 1 from h]

theorem ctrSrc_matTl_iff {r : Raw} :
    r.ctrSrc = some .matTl ↔ r.xf = 2 ∧ r.a = 0x49 ∧ r.b = 0x49 ∧ bits r.fn 10 5 = 2 := by
  unfold Raw.ctrSrc
  split
  case h_1 h => simp [h, Option.bind_eq_some_iff]
  case h_2 h | h_3 h => simp [h, and_assoc]
  case h_4 _ _ h => simp [show r.xf ≠ 2 from h]

theorem tlRsv_zero_iff {r : Raw} : (∀ x ∈ r.tlRsv, x = 0) ↔ (r.xf = 1 ∨ r.xf = 2 → r.w1 = 0 ∧ bits r.fn 15 2 = 0) := by
  unfold Raw.tlRsv
  split_ifs with h <;> simp [h]

/-! The shapes that many forms share (R114, R121, R134, R142). -/

/-- The two fields of four bits that a vector word reserves together (R132). -/
theorem bits_x1_x2 {x : Nat} (h : bits x 11 8 = 0) : bits x 11 4 = 0 ∧ bits x 15 4 = 0 := by
  simp only [bits] at *
  omega

section Shapes

variable {r : Raw} (hr : r.Fits) {op : Nat} (hop : op = r.op)

include hr hop

theorem sound_entRRR {i : IntTy → SDst → SSrc → SSrc → Instr} (hg : ∀ ty d a b, (i ty d a b).guard? = some r.guard)
    (hf : ∀ ty d a b, (i ty d a b).fieldsOk = true)
    (he : ∀ ty d a b, (i ty d a b).enc = some (encS op d.code a.code b.code 0 ty.code)) : Sound (entRRR r i) r := by
  rw [entRRR]
  refine sound_some ?_
  simp only [List.forall_mem_cons, forall_bind_iff, forall_some_iff, intTy_eq_some_iff, sDst_eq_some_iff, sSrc_eq_some_iff,
    and_imp]
  intro hlen _ hc hrsv _ ty hty d hd a ha b hb
  refine encodes_encS hr (hg ..) (hf ..) (he ..) ⟨hlen, hop, ?_⟩
  have := hr.fn
  simp only [IntTy.code_eq, SDst.code_eq, SSrc.code_eq, bits, Nat.pow_zero, Nat.div_one] at *
  omega

theorem sound_entRR {i : IntTy → SDst → SSrc → Instr} (hg : ∀ ty d a, (i ty d a).guard? = some r.guard)
    (hf : ∀ ty d a, (i ty d a).fieldsOk = true)
    (he : ∀ ty d a, (i ty d a).enc = some (encS op d.code a.code 0 0 ty.code)) : Sound (entRR r i) r := by
  rw [entRR]
  refine sound_some ?_
  simp only [List.forall_mem_cons, forall_bind_iff, forall_some_iff, intTy_eq_some_iff, sDst_eq_some_iff, sSrc_eq_some_iff,
    and_imp]
  intro hlen _ hb hc hrsv _ ty hty d hd a ha
  refine encodes_encS hr (hg ..) (hf ..) (he ..) ⟨hlen, hop, ?_⟩
  have := hr.fn
  simp only [IntTy.code_eq, SDst.code_eq, SSrc.code_eq, bits, Nat.pow_zero, Nat.div_one] at *
  omega

theorem sound_entRI {i : SDst → SSrc → BitVec 28 → Instr} (hg : ∀ d a imm, (i d a imm).guard? = some r.guard)
    (hf : ∀ d a imm, (i d a imm).fieldsOk = true)
    (he : ∀ d a imm, (i d a imm).enc = some (encI op d.code a.code imm.toNat)) : Sound (entRI r i) r := by
  rw [entRI]
  refine sound_some ?_
  simp only [List.forall_mem_cons, forall_bind_iff, forall_some_iff, sDst_eq_some_iff, sSrc_eq_some_iff, and_imp]
  intro hlen _ hb _ d hd a ha
  refine encodes_encI hr (hg ..) (hf ..) (he ..) ⟨hlen, hop, ?_⟩
  have hc := hr.c
  have hfn := hr.fn
  simp only [SDst.code_eq, SSrc.code_eq, Raw.imm28, BitVec.toNat_ofNat]
  omega

theorem sound_entFRRR {i : FTy → RMode → SDst → SSrc → SSrc → Instr} (hg : ∀ ty rm d a b, (i ty rm d a b).guard? = some
    r.guard)
    (hf : ∀ ty rm d a b, (i ty rm d a b).fieldsOk = d.notQ)
    (he : ∀ ty rm d a b, (i ty rm d a b).enc = some (encS op d.code a.code b.code 0 (ty.code + rm.code * 2 ^ 4))) : Sound
        (entFRRR r i) r := by
  rw [entFRRR]
  refine sound_some ?_
  simp only [List.forall_mem_cons, forall_bind_iff, forall_onlyIf_iff, fTy_eq_some_iff, rMode_eq_some_iff, sDst_eq_some_iff,
    sSrc_eq_some_iff, and_imp]
  intro hlen _ hc hrsv _ d hd ty hty rm hrm a ha b hb hq
  refine encodes_encS hr (hg ..) ((hf ..).trans hq) (he ..) ⟨hlen, hop, ?_⟩
  have := hr.fn
  simp only [FTy.code_eq, RMode.code_eq, SDst.code_eq, SSrc.code_eq, bits, Nat.pow_zero, Nat.div_one] at *
  omega

theorem sound_entFRR {i : FTy → RMode → SDst → SSrc → Instr} (hg : ∀ ty rm d a, (i ty rm d a).guard? = some r.guard)
    (hf : ∀ ty rm d a, (i ty rm d a).fieldsOk = d.notQ)
    (he : ∀ ty rm d a, (i ty rm d a).enc = some (encS op d.code a.code 0 0 (ty.code + rm.code * 2 ^ 4))) : Sound (entFRR r i)
        r := by
  rw [entFRR]
  refine sound_some ?_
  simp only [List.forall_mem_cons, forall_bind_iff, forall_onlyIf_iff, fTy_eq_some_iff, rMode_eq_some_iff, sDst_eq_some_iff,
    sSrc_eq_some_iff, and_imp]
  intro hlen _ hb hc hrsv _ d hd ty hty rm hrm a ha hq
  refine encodes_encS hr (hg ..) ((hf ..).trans hq) (he ..) ⟨hlen, hop, ?_⟩
  have := hr.fn
  simp only [FTy.code_eq, RMode.code_eq, SDst.code_eq, SSrc.code_eq, bits, Nat.pow_zero, Nat.div_one] at *
  omega

theorem sound_entFMM {i : FTy → SDst → SSrc → SSrc → Instr} (hg : ∀ ty d a b, (i ty d a b).guard? = some r.guard)
    (hf : ∀ ty d a b, (i ty d a b).fieldsOk = d.notQ)
    (he : ∀ ty d a b, (i ty d a b).enc = some (encS op d.code a.code b.code 0 ty.code)) : Sound (entFMM r i) r := by
  rw [entFMM]
  refine sound_some ?_
  simp only [List.forall_mem_cons, forall_bind_iff, forall_onlyIf_iff, fTy_eq_some_iff, sDst_eq_some_iff, sSrc_eq_some_iff,
    Bool.and_eq_true, beq_iff_eq, and_imp]
  intro hlen _ hc hrsv _ d hd ty hty a ha b hb hq hrm
  refine encodes_encS hr (hg ..) ((hf ..).trans hq) (he ..) ⟨hlen, hop, ?_⟩
  have := hr.fn
  simp only [FTy.code_eq, SDst.code_eq, SSrc.code_eq, bits, Nat.pow_zero, Nat.div_one] at *
  omega

theorem sound_entFBit {i : FpTy → SDst → SSrc → Instr} (hg : ∀ ty d a, (i ty d a).guard? = some r.guard)
    (hf : ∀ ty d a, (i ty d a).fieldsOk = true)
    (he : ∀ ty d a, (i ty d a).enc = some (encS op d.code a.code 0 0 ty.code)) : Sound (entFBit r i) r := by
  rw [entFBit]
  refine sound_some ?_
  simp only [List.forall_mem_cons, forall_bind_iff, forall_onlyIf_iff, fpTy_eq_some_iff, sDst_eq_some_iff, sSrc_eq_some_iff,
    beq_iff_eq, and_imp]
  intro hlen _ hb hc hrsv _ ty hty d hd a ha hrm
  refine encodes_encS hr (hg ..) (hf ..) (he ..) ⟨hlen, hop, ?_⟩
  have := hr.fn
  simp only [FpTy.code_eq, SDst.code_eq, SSrc.code_eq, bits, Nat.pow_zero, Nat.div_one] at *
  omega

theorem sound_entFRI {i : SDst → SSrc → BitVec 16 → Instr} (hg : ∀ d a imm, (i d a imm).guard? = some r.guard)
    (hf : ∀ d a imm, (i d a imm).fieldsOk = d.notQ)
    (he : ∀ d a imm, (i d a imm).enc = some (encI op d.code a.code imm.toNat)) : Sound (entFRI r i) r := by
  rw [entFRI]
  refine sound_some ?_
  simp only [List.forall_mem_cons, forall_bind_iff, forall_onlyIf_iff, sDst_eq_some_iff, sSrc_eq_some_iff, and_imp]
  intro hlen _ hb hrsv _ d hd a ha hq
  refine encodes_encI hr (hg ..) ((hf ..).trans hq) (he ..) ⟨hlen, hop, ?_⟩
  have hc := hr.c
  have hfn := hr.fn
  simp only [SDst.code_eq, SSrc.code_eq, Raw.imm28, BitVec.toNat_ofNat, bits] at *
  omega

theorem sound_entVVV {i : IntTy → VCtl → VDst → VSrc → VSrc → Instr} (hg : ∀ ty v d a b, (i ty v d a b).guard? = some
    r.guard)
    (hf : ∀ ty v d a b, (i ty v d a b).fieldsOk = ty.isNI)
    (he : ∀ ty v d a b, (i ty v d a b).enc = some (encS op d.code a.code b.code 0 (fnV ty.code 0 v 0 0))) : Sound (entVVV r
        i) r := by
  rw [entVVV]
  refine sound_some ?_
  simp only [List.forall_mem_cons, forall_bind_iff, forall_onlyIf_iff, niTy_eq_some_iff, vDst_eq_some_iff, vSrc_eq_some_iff,
    Raw.vplain, Bool.and_eq_true, beq_iff_eq, and_imp]
  intro hlen _ hc hrsv _ ty hty hni d hd a ha b hb hrm hx
  refine encodes_fnV hr (hg ..) ((hf ..).trans hni) (he ..) rfl ⟨hlen, hop, ?_⟩
  obtain ⟨hx1, hx2⟩ := bits_x1_x2 hx
  simp only [IntTy.code_eq, VDst.code_eq, VSrc.code_eq, and_true, *]

theorem sound_entVV {i : IntTy → VCtl → VDst → VSrc → Instr} (hg : ∀ ty v d a, (i ty v d a).guard? = some r.guard)
    (hf : ∀ ty v d a, (i ty v d a).fieldsOk = ty.isNI)
    (he : ∀ ty v d a, (i ty v d a).enc = some (encS op d.code a.code 0 0 (fnV ty.code 0 v 0 0))) : Sound (entVV r i) r := by
  rw [entVV]
  refine sound_some ?_
  simp only [List.forall_mem_cons, forall_bind_iff, forall_onlyIf_iff, niTy_eq_some_iff, vDst_eq_some_iff, vSrc_eq_some_iff,
    Raw.vplain, Bool.and_eq_true, beq_iff_eq, and_imp]
  intro hlen _ hb hc hrsv _ ty hty hni d hd a ha hrm hx
  refine encodes_fnV hr (hg ..) ((hf ..).trans hni) (he ..) rfl ⟨hlen, hop, ?_⟩
  obtain ⟨hx1, hx2⟩ := bits_x1_x2 hx
  simp only [IntTy.code_eq, VDst.code_eq, VSrc.code_eq, and_true, *]

theorem sound_entVVVV {i : IntTy → VCtl → VDst → VSrc → VSrc → VSrc → Instr} (hg : ∀ ty v d a b c, (i ty v d a b c).guard? =
    some r.guard)
    (hf : ∀ ty v d a b c, (i ty v d a b c).fieldsOk = ty.isNI)
    (he : ∀ ty v d a b c, (i ty v d a b c).enc = some (encS op d.code a.code b.code c.code (fnV ty.code 0 v 0 0))) : Sound
        (entVVVV r i) r := by
  rw [entVVVV]
  refine sound_some ?_
  simp only [List.forall_mem_cons, forall_bind_iff, forall_onlyIf_iff, niTy_eq_some_iff, vDst_eq_some_iff, vSrc_eq_some_iff,
    Raw.vplain, Bool.and_eq_true, beq_iff_eq, and_imp]
  intro hlen _ hrsv _ ty hty hni d hd a ha b hb c hc hrm hx
  refine encodes_fnV hr (hg ..) ((hf ..).trans hni) (he ..) rfl ⟨hlen, hop, ?_⟩
  obtain ⟨hx1, hx2⟩ := bits_x1_x2 hx
  simp only [IntTy.code_eq, VDst.code_eq, VSrc.code_eq, and_true, *]

theorem sound_entVFFF {i : FTy → RMode → VCtl → VDst → VSrc → VSrc → Instr} (hg : ∀ ty rm v d a b, (i ty rm v d a b).guard? =
    some r.guard)
    (hf : ∀ ty rm v d a b, (i ty rm v d a b).fieldsOk = true)
    (he : ∀ ty rm v d a b, (i ty rm v d a b).enc = some (encS op d.code a.code b.code 0 (fnV ty.code rm.code v 0 0))) : Sound
        (entVFFF r i) r := by
  rw [entVFFF]
  refine sound_some ?_
  simp only [List.forall_mem_cons, forall_bind_iff, forall_onlyIf_iff, fTy_eq_some_iff, rMode_eq_some_iff, vDst_eq_some_iff,
    vSrc_eq_some_iff, beq_iff_eq, and_imp]
  intro hlen _ hc hrsv _ ty hty rm hrm d hd a ha b hb hx
  refine encodes_fnV hr (hg ..) (hf ..) (he ..) rfl ⟨hlen, hop, ?_⟩
  obtain ⟨hx1, hx2⟩ := bits_x1_x2 hx
  simp only [FTy.code_eq, RMode.code_eq, VDst.code_eq, VSrc.code_eq, and_true, *]

theorem sound_entVFMM {i : FTy → VCtl → VDst → VSrc → VSrc → Instr} (hg : ∀ ty v d a b, (i ty v d a b).guard? = some r.guard)
    (hf : ∀ ty v d a b, (i ty v d a b).fieldsOk = true)
    (he : ∀ ty v d a b, (i ty v d a b).enc = some (encS op d.code a.code b.code 0 (fnV ty.code 0 v 0 0))) : Sound (entVFMM r
        i) r := by
  rw [entVFMM]
  refine sound_some ?_
  simp only [List.forall_mem_cons, forall_bind_iff, forall_onlyIf_iff, fTy_eq_some_iff, vDst_eq_some_iff, vSrc_eq_some_iff,
    Raw.vplain, Bool.and_eq_true, beq_iff_eq, and_imp]
  intro hlen _ hc hrsv _ ty hty d hd a ha b hb hrm hx
  refine encodes_fnV hr (hg ..) (hf ..) (he ..) rfl ⟨hlen, hop, ?_⟩
  obtain ⟨hx1, hx2⟩ := bits_x1_x2 hx
  simp only [FTy.code_eq, VDst.code_eq, VSrc.code_eq, and_true, *]

theorem sound_entVFun {i : RMode → VCtl → VDst → VSrc → Instr} (hg : ∀ rm v d a, (i rm v d a).guard? = some r.guard)
    (hf : ∀ rm v d a, (i rm v d a).fieldsOk = true)
    (he : ∀ rm v d a, (i rm v d a).enc = some (encS op d.code a.code 0 0 (fnV 8 rm.code v 0 0))) : Sound (entVFun r i) r :=
        by
  rw [entVFun]
  refine sound_some ?_
  simp only [List.forall_mem_cons, forall_bind_iff, forall_onlyIf_iff, rMode_eq_some_iff, vDst_eq_some_iff, vSrc_eq_some_iff,
    Bool.and_eq_true, beq_iff_eq, and_imp]
  intro hlen _ hb hc hrsv _ rm hrm d hd a ha hx hty
  refine encodes_fnV hr (hg ..) (hf ..) (he ..) rfl ⟨hlen, hop, ?_⟩
  obtain ⟨hx1, hx2⟩ := bits_x1_x2 hx
  simp only [RMode.code_eq, VDst.code_eq, VSrc.code_eq, and_true, *]

end Shapes

/-! Group 0x000: control. -/

theorem sound_pmov {r : Raw} (hr : r.Fits) (hop : r.op = 0x009) : Sound (entry000 r 0x09) r := by
  obtain ⟨-, -, -, hd, ha, hb, hc, hfn, hw1, -, -⟩ := id hr
  simp only [entry000]
  split
  case' h_4 h0 h1 h2 =>
    have h3 := bits_two_eq_three h0 h1 h2
  all_goals
    refine sound_some ?_
    simp only [Format.len, List.forall_mem_cons, List.not_mem_nil, true_imp_iff, Bool.false_eq_true, false_imp_iff,
      implies_true, forall_bind_iff, forall_some_iff, sSrc_eq_some_iff, sDst_eq_some_iff, and_imp]
    intros
    refine encodes_encS hr rfl rfl rfl ?_
    simp only [SSrc.code_eq, SDst.code_eq, bits, BitVec.toNat_ofNat, Nat.reducePow, Nat.div_one, ] at *
    omega

theorem sound_nop {r : Raw} (hr : r.Fits) (hop : r.op = 0x000) : Sound (entry000 r 0x00) r := by
  obtain ⟨-, -, -, hd, ha, hb, hc, hfn, hw1, -, -⟩ := id hr
  simp only [entry000]
  split
  case isTrue hh =>
    refine sound_some ?_
    simp only [Format.len, List.forall_mem_cons, List.not_mem_nil, true_imp_iff, Bool.false_eq_true, false_imp_iff,
      implies_true, forall_onlyIf_iff, Bool.and_eq_true, beq_iff_eq, and_imp]
    intro hlen hd' ha' hb' hc' hrsv hhdr hgp hgn
    refine encodes_encS hr rfl (header_fieldsOk hgp hgn hhdr) rfl ?_
    simp only [bits, BitVec.toNat_ofNat, Nat.reducePow, ] at *
    omega
  case isFalse =>
    refine sound_some ?_
    simp only [Format.len, List.forall_mem_cons, List.not_mem_nil, true_imp_iff, Bool.false_eq_true, false_imp_iff,
      implies_true, forall_some_iff, and_imp]
    intros
    refine encodes_encS hr rfl rfl rfl ?_
    simp only [bits, Nat.reducePow, ] at *
    omega

theorem sound_entry000 {r : Raw} (hr : r.Fits) (h : r.op / 64 = 0) : Sound (entry000 r (r.op % 64)) r := by
  obtain ⟨-, -, -, hd, ha, hb, hc, hfn, hw1, -, -⟩ := id hr
  unfold entry000
  dsimp only
  split
  case h_1 => exact sound_nop hr (by omega)
  case h_10 => exact sound_pmov hr (by omega)
  case h_16 => exact sound_none
  all_goals
    refine sound_some ?_
    simp only [Format.len, List.forall_mem_cons, List.not_mem_nil, true_imp_iff, Bool.false_eq_true, false_imp_iff,
      implies_true, forall_bind_iff, forall_some_iff, forall_onlyIf_iff, sSrc_eq_some_iff, sDst_eq_some_iff,
      decide_eq_true_eq, and_imp]
    intros
  case' h_2 | h_6 | h_7 | h_8 | h_9 | h_14 | h_15 =>
    refine encodes_encS hr rfl (by simp only [Instr.fieldsOk, *]) rfl ?_
  case' h_3 =>
    refine encodes_encB hr rfl (by
      simp only [Instr.fieldsOk, Bool.not_eq_true', Bool.and_eq_false_iff, beq_eq_false_iff_ne, bne_iff_ne, ne_eq, ←
        BitVec.toNat_inj, BitVec.ofNat_eq_ofNat, BitVec.toNat_ofNat, bits, Nat.reducePow] at *
      omega) rfl rfl ?_
  case' h_4 | h_5 | h_12 =>
    refine encodes_encB hr rfl (by simp only [Instr.fieldsOk, *]) rfl rfl ?_
  case' h_11 =>
    refine encodes_encT hr rfl (by
      simp only [Instr.fieldsOk, bne_iff_ne, ne_eq, ← BitVec.toNat_inj, BitVec.ofNat_eq_ofNat, BitVec.toNat_ofNat, bits,
        Nat.reducePow, Nat.div_one] at *
      omega) rfl ?_
  case' h_13 =>
    refine encodes_encI hr rfl (by simp only [Instr.fieldsOk, *]) rfl ?_
  all_goals
    simp only [Raw.imm28, SSrc.code_eq, SDst.code_eq, b2n_eq, bitField_mod, bits, BitVec.toNat_ofNat, Nat.reducePow,
      Nat.div_one, bne_iff_ne, ] at *
    omega

/-! Group 0x040: scalar integer. -/

theorem sound_li {r : Raw} (hr : r.Fits) (hop : r.op = 0x040) : Sound (entry040 r 0x00) r := by
  obtain ⟨-, -, -, hd, ha, hb, hc, hfn, hw1, -, -⟩ := id hr
  refine sound_some ?_
  simp only [Format.len, List.forall_mem_cons, List.not_mem_nil, true_imp_iff, Bool.false_eq_true, false_imp_iff,
    implies_true, forall_bind_iff, forall_some_iff, sDst_eq_some_iff, and_imp]
  intro hlen ha hb hc hfn d hd
  refine encodes_of hr rfl rfl rfl ?_
  simp only [Format.len, SDst.code_eq, BitVec.toNat_ofNat]
  omega

theorem sound_bfx {r : Raw} (hr : r.Fits) (hop : r.op = 0x064) : Sound (entry040 r 0x24) r := by
  obtain ⟨-, -, -, hd, ha, hb, hc, hfn, hw1, -, -⟩ := id hr
  refine sound_some ?_
  simp only [Format.len, List.forall_mem_cons, List.not_mem_nil, true_imp_iff, Bool.false_eq_true, false_imp_iff,
    implies_true, forall_bind_iff, forall_some_iff, forall_onlyIf_iff, sSrc_eq_some_iff, sDst_eq_some_iff, forall_ite_iff,
    forall_none_iff, decide_eq_true_eq, and_imp]
  intro hlen hb hc hrsv
  refine ⟨fun hty d hd a ha hpos => ?_, fun _ => ⟨fun hty d hd a ha hpos => ?_, trivial⟩⟩
  all_goals
    refine encodes_encS hr rfl (by simp only [Instr.fieldsOk, ofNat_bits_toNat, decide_true, *]) rfl ?_
    simp only [SSrc.code_eq, SDst.code_eq, Bool.false_eq_true, ↓reduceIte, bits, BitVec.toNat_ofNat, Nat.reducePow,
      Nat.div_one] at *
    omega

theorem sound_entry040 {r : Raw} (hr : r.Fits) (h : r.op / 64 = 1) : Sound (entry040 r (r.op % 64)) r := by
  obtain ⟨-, -, -, hd, ha, hb, hc, hfn, hw1, -, -⟩ := id hr
  unfold entry040
  dsimp only
  split
  case h_1 => exact sound_li hr (by omega)
  case h_37 => exact sound_bfx hr (by omega)
  case h_3 | h_5 | h_6 | h_8 | h_9 | h_10 | h_11 | h_13 | h_15 | h_17 | h_18 | h_20 | h_22 | h_24 | h_26 | h_27 =>
    exact sound_entRRR hr (by omega) (fun _ _ _ _ => rfl) (fun _ _ _ _ => rfl) fun _ _ _ _ => rfl
  case h_4 | h_7 | h_12 | h_14 | h_16 | h_19 | h_21 | h_23 | h_25 =>
    exact sound_entRI hr (by omega) (fun _ _ _ => rfl) (fun _ _ _ => rfl) fun _ _ _ => rfl
  case h_29 | h_33 | h_34 | h_35 | h_36 | h_39 =>
    exact sound_entRR hr (by omega) (fun _ _ _ => rfl) (fun _ _ _ => rfl) fun _ _ _ => rfl
  case h_41 => exact sound_none
  all_goals
    refine sound_some ?_
    simp only [Format.len, List.forall_mem_cons, List.not_mem_nil, true_imp_iff, Bool.false_eq_true, false_imp_iff,
      implies_true, forall_bind_iff, forall_some_iff, forall_onlyIf_iff, intTy_eq_some_iff, iCond_eq_some_iff,
      sSrc_eq_some_iff, sDst_eq_some_iff, Bool.and_eq_true, beq_iff_eq, decide_eq_true_eq, and_imp]
    intros
  case' h_2 | h_28 | h_30 | h_31 | h_40 =>
    refine encodes_encS hr rfl (by simp only [Instr.fieldsOk, *]) rfl ?_
  case' h_38 =>
    refine encodes_encS hr rfl (by simp only [Instr.fieldsOk, ofNat_bits_toNat, decide_true, *]) rfl ?_
  case' h_32 =>
    refine encodes_encI hr rfl (by simp only [Instr.fieldsOk, *]) rfl ?_
  all_goals
    simp only [Raw.imm28, IntTy.code_eq, ICond.code_eq, SSrc.code_eq, SDst.code_eq, bits, BitVec.toNat_ofNat, Nat.reducePow,
      Nat.div_one, ] at *
    omega

/-! Group 0x080: scalar floating-point. -/

theorem sound_entry080 {r : Raw} (hr : r.Fits) (h : r.op / 64 = 2) : Sound (entry080 r (r.op % 64)) r := by
  obtain ⟨-, -, -, hd, ha, hb, hc, hfn, hw1, -, -⟩ := id hr
  unfold entry080
  dsimp only
  split
  case h_1 | h_2 | h_3 | h_5 =>
    exact sound_entFRRR hr (by omega) (fun _ _ _ _ _ => rfl) (fun _ _ _ _ _ => rfl) fun _ _ _ _ _ => rfl
  case h_6 | h_14 | h_15 =>
    exact sound_entFRR hr (by omega) (fun _ _ _ _ => rfl) (fun _ _ _ _ => rfl) fun _ _ _ _ => rfl
  case h_7 | h_8 =>
    exact sound_entFMM hr (by omega) (fun _ _ _ _ => rfl) (fun _ _ _ _ => rfl) fun _ _ _ _ => rfl
  case h_9 | h_10 | h_12 =>
    exact sound_entFBit hr (by omega) (fun _ _ _ => rfl) (fun _ _ _ => rfl) fun _ _ _ => rfl
  case h_16 | h_17 =>
    exact sound_entFRI hr (by omega) (fun _ _ _ => rfl) (fun _ _ _ => rfl) fun _ _ _ => rfl
  case h_18 => exact sound_none
  all_goals
    refine sound_some ?_
    simp only [Format.len, List.forall_mem_cons, List.not_mem_nil, true_imp_iff, Bool.false_eq_true, false_imp_iff,
      implies_true, forall_bind_iff, forall_onlyIf_iff, fTy_eq_some_iff, elemTy_eq_some_iff, rMode_eq_some_iff,
      fCond_eq_some_iff, sSrc_eq_some_iff, sDst_eq_some_iff, Bool.and_eq_true, beq_iff_eq, and_imp]
    intros
  case' h_4 | h_11 | h_13 =>
    refine encodes_encS hr rfl (by simp only [Instr.fieldsOk, Bool.and_self, *]) rfl ?_
  all_goals
    simp only [FTy.code_eq, ElemTy.code_eq, RMode.code_eq, FCond.code_eq, SSrc.code_eq, SDst.code_eq, bits,
      BitVec.toNat_ofNat, Nat.reducePow, Nat.div_one, ] at *
    omega

/-! Group 0x0C0: vector integer. -/

theorem sound_vcmp {r : Raw} (hr : r.Fits) (hop : r.op = 0x0CE) : Sound (entry0C0 r 0x0E) r := by
  obtain ⟨-, -, -, hd, ha, hb, hc, hfn, hw1, -, -⟩ := id hr
  refine sound_some ?_
  simp only [Format.len, List.forall_mem_cons, List.not_mem_nil, true_imp_iff, Bool.false_eq_true, false_imp_iff,
    implies_true, forall_bind_iff, forall_some_iff, forall_onlyIf_iff, iCond_eq_some_iff, vSrc_eq_some_iff, Raw.vplain,
    forall_ite_iff, forall_none_iff, Bool.and_eq_true, beq_iff_eq, and_imp]
  intro hlen hc hrsv
  refine ⟨fun hty cc hcc a ha b hb hrm hx => ?_, fun _ => ⟨fun hty cc hcc a ha b hb hrm hx => ?_, trivial⟩⟩
  all_goals
    refine encodes_fnV hr rfl rfl rfl rfl ?_
    simp only [ICond.code_eq, VSrc.code_eq, Bool.false_eq_true, ↓reduceIte, bits, BitVec.toNat_ofNat, Nat.reducePow,
      Nat.div_one, ] at *
    omega

theorem sound_vmov {r : Raw} (hr : r.Fits) (hop : r.op = 0x0D7) : Sound (entry0C0 r 0x17) r := by
  obtain ⟨-, -, -, hd, ha, hb, hc, hfn, hw1, -, -⟩ := id hr
  simp only [entry0C0]
  split
  case h_4 => simp [Sound, Reads]
  all_goals
    refine sound_some ?_
    simp only [Format.len, List.forall_mem_cons, List.not_mem_nil, true_imp_iff, Bool.false_eq_true, false_imp_iff,
      implies_true, forall_bind_iff, forall_onlyIf_iff, sSrc_eq_some_iff, vSrc_eq_some_iff, vDst_eq_some_iff,
      Bool.and_eq_true, beq_iff_eq, and_imp]
    intros
  case' h_1 => refine encodes_fnV hr rfl rfl rfl rfl ?_
  case' h_2 | h_3 => refine encodes_encS hr rfl rfl rfl ?_
  all_goals
    simp only [SSrc.code_eq, VSrc.code_eq, VDst.code_eq, bits, Nat.reducePow, Nat.div_one] at *
    omega

theorem sound_entry0C0 {r : Raw} (hr : r.Fits) (h : r.op / 64 = 3) : Sound (entry0C0 r (r.op % 64)) r := by
  obtain ⟨-, -, -, hd, ha, hb, hc, hfn, hw1, -, -⟩ := id hr
  unfold entry0C0
  dsimp only
  split
  case h_15 => exact sound_vcmp hr (by omega)
  case h_24 => exact sound_vmov hr (by omega)
  case h_1 | h_2 | h_3 | h_5 | h_6 | h_9 | h_10 | h_11 | h_12 | h_13 | h_14 =>
    exact sound_entVVV hr (by omega) (fun _ _ _ _ _ => rfl) (fun _ _ _ _ _ => rfl) fun _ _ _ _ _ => rfl
  case h_8 =>
    exact sound_entVV hr (by omega) (fun _ _ _ _ => rfl) (fun _ _ _ _ => rfl) fun _ _ _ _ => rfl
  case h_4 | h_20 =>
    exact sound_entVVVV hr (by omega) (fun _ _ _ _ _ _ => rfl) (fun _ _ _ _ _ _ => rfl) fun _ _ _ _ _ _ => rfl
  case h_27 => exact sound_none
  all_goals
    refine sound_some ?_
    simp only [Format.len, List.forall_mem_cons, List.not_mem_nil, true_imp_iff, Bool.false_eq_true, false_imp_iff,
      implies_true, forall_bind_iff, forall_some_iff, forall_onlyIf_iff, niTy_eq_some_iff, redOp_eq_some_iff,
      sSrc_eq_some_iff, sDst_eq_some_iff, vSrc_eq_some_iff, vDst_eq_some_iff, Raw.vplain, Bool.and_eq_true, beq_iff_eq,
      decide_eq_true_eq, and_imp]
    intros
  case' h_7 | h_18 | h_21 =>
    refine encodes_fnV hr rfl (by simp only [Instr.fieldsOk, Bool.and_self, *]) rfl rfl ?_
  case' h_19 =>
    refine encodes_fnV hr rfl (by simp_all [Instr.fieldsOk, redOp_scan_eq]) rfl rfl ?_
  case' h_16 | h_22 | h_23 | h_25 | h_26 =>
    refine encodes_encS hr rfl (by simp only [Instr.fieldsOk, *]) rfl ?_
  case' h_17 =>
    refine encodes_encI hr rfl (by simp only [Instr.fieldsOk, *]) rfl ?_
  all_goals
    simp only [Raw.imm28, IntTy.code_eq, RedOp.code_eq, SSrc.code_eq, SDst.code_eq, VSrc.code_eq, VDst.code_eq, b2n_eq,
      bitField_mod, bits, BitVec.toNat_ofNat, Nat.reducePow, Nat.div_one] at *
    omega

/-! Group 0x100: vector floating-point. -/

theorem sound_wadd {r : Raw} (hr : r.Fits) (hop : r.op = 0x10F) : Sound (entry100 r 0x0F) r := by
  obtain ⟨-, -, -, hd, ha, hb, hc, hfn, hw1, -, -⟩ := id hr
  refine sound_some ?_
  simp only [forall_ite_iff, forall_bind_iff, forall_some_iff, forall_none_iff]
  simp only [Format.len, List.forall_mem_cons, List.not_mem_nil, true_imp_iff, Bool.false_eq_true, false_imp_iff,
    implies_true, forall_onlyIf_iff, mem_eq_some_iff, sSrc_eq_some_iff, Bool.and_eq_true, beq_iff_eq, and_imp]
  intro hlen hd' hxf htw
  refine ⟨fun hsz m hma hmb hms hmd c hc h7 hh => ?_, fun _ => ⟨fun hsz m hma hmb hms hmd c hc h7 hh => ?_, trivial⟩⟩
  all_goals
    refine encodes_encM hr rfl rfl rfl ?_
    simp only [Raw.hint, Raw.xf, Raw.tw, Raw.sz, FTy.code_eq, SSrc.code_eq, f32_field, f64_field, b2n_eq, bitField_false,
      bits, BitVec.ofNat_eq_ofNat, BitVec.toNat_ofNat, Nat.reducePow, Nat.div_one, ] at *
    omega

theorem sound_entry100 {r : Raw} (hr : r.Fits) (h : r.op / 64 = 4) : Sound (entry100 r (r.op % 64)) r := by
  obtain ⟨-, -, -, hd, ha, hb, hc, hfn, hw1, -, -⟩ := id hr
  unfold entry100
  dsimp only
  split
  case h_16 => exact sound_wadd hr (by omega)
  case h_1 | h_2 | h_3 =>
    exact sound_entVFFF hr (by omega) (fun _ _ _ _ _ _ => rfl) (fun _ _ _ _ _ _ => rfl) fun _ _ _ _ _ _ => rfl
  case h_5 | h_6 =>
    exact sound_entVFMM hr (by omega) (fun _ _ _ _ _ => rfl) (fun _ _ _ _ _ => rfl) fun _ _ _ _ _ => rfl
  case h_10 | h_11 | h_12 | h_13 =>
    exact sound_entVFun hr (by omega) (fun _ _ _ _ => rfl) (fun _ _ _ _ => rfl) fun _ _ _ _ => rfl
  case h_19 => exact sound_none
  all_goals
    refine sound_some ?_
    simp only [Format.len, List.forall_mem_cons, List.not_mem_nil, true_imp_iff, Bool.false_eq_true, false_imp_iff,
      implies_true, forall_bind_iff, forall_onlyIf_iff, fTy_eq_some_iff, fpTy_eq_some_iff, elemTy_eq_some_iff,
      rMode_eq_some_iff, fCond_eq_some_iff, fRedOp_eq_some_iff, flag_eq_some_iff, sSrc_eq_some_iff, sDst_eq_some_iff,
      vSrc_eq_some_iff, vDst_eq_some_iff, Raw.vplain, Bool.and_eq_true, beq_iff_eq, and_imp]
    intros
  case' h_4 | h_7 | h_8 | h_9 | h_14 | h_18 =>
    refine encodes_fnV hr rfl (by simp only [Instr.fieldsOk, Bool.and_self, *]) rfl rfl ?_
  case' h_15 | h_17 =>
    refine encodes_encS hr rfl (by simp only [Instr.fieldsOk, *]) rfl ?_
  all_goals
    simp only [FTy.code_eq, FpTy.code_eq, ElemTy.code_eq, RMode.code_eq, FCond.code_eq, FRedOp.code_eq, SSrc.code_eq,
      SDst.code_eq, VSrc.code_eq, VDst.code_eq, b2n_eq, bits, BitVec.toNat_ofNat, Nat.reducePow, Nat.div_one, ] at *
    omega

/-! Group 0x140: memory. -/

theorem sound_entry140 {r : Raw} (hr : r.Fits) (h : r.op / 64 = 5) : Sound (entry140 r (r.op % 64)) r := by
  obtain ⟨-, -, -, hd, ha, hb, hc, hfn, hw1, -, -⟩ := id hr
  unfold entry140
  dsimp only
  split
  case h_19 => exact sound_none
  all_goals
    refine sound_some ?_
    simp only [Format.len, List.forall_mem_cons, List.not_mem_nil, true_imp_iff, Bool.false_eq_true, false_imp_iff,
      implies_true, forall_bind_iff, forall_some_iff, forall_onlyIf_iff, size5_eq_some_iff, memOrd_eq_some_iff,
      flag_eq_some_iff, ordBit_two_eq_some_iff, nmKind_eq_some_iff, vRun_eq_some_iff, mem_eq_some_iff, sSrc_eq_some_iff,
      sDst_eq_some_iff, vSrc_eq_some_iff, vDst_eq_some_iff, Bool.and_eq_true, beq_iff_eq, decide_eq_true_eq, and_imp]
    intros
  case' h_1 | h_2 | h_3 | h_4 | h_9 | h_17 | h_18 =>
    refine encodes_encM hr rfl (by simp only [Instr.fieldsOk, Bool.and_self, *]) rfl ?_
  case' h_5 | h_6 =>
    refine encodes_fnM hr rfl (by simp only [Instr.fieldsOk, *]) rfl ?_
  case' h_7 | h_8 | h_10 | h_12 | h_13 | h_14 | h_15 =>
    refine encodes_encT hr rfl (by simp only [Instr.fieldsOk, *]) rfl ?_
  case' h_16 =>
    refine encodes_encT hr rfl (by simp only [Instr.fieldsOk, ofNat_bits_beq_zero, Bool.and_self, *]) rfl ?_
  case' h_11 =>
    refine encodes_encS hr rfl (by simp only [Instr.fieldsOk, *]) rfl ?_
  all_goals
    simp only [Raw.twctl, Raw.scope, Raw.scope1, Raw.tid, Raw.o, Raw.sz, Raw.ord, Raw.hint, Raw.xf, Raw.tw, twOf, w1Id,
      Size.log_eq, MemOrd.code_eq, NmKind.code_eq, SSrc.code_eq, SDst.code_eq, VSrc.code_eq, VDst.code_eq, b2n_eq,
      bitField_mod, bitField_false, bits, BitVec.ofNat_eq_ofNat, BitVec.toNat_ofNat, Nat.reducePow, Nat.div_one, bne_iff_ne,
      Bool.not_eq_true', true_and] at *
    omega

/-! Group 0x180: engines. -/

theorem sound_mclr {r : Raw} (hr : r.Fits) (hop : r.op = 0x183) : Sound (entry180 r 0x03) r := by
  obtain ⟨-, -, -, hd, ha, hb, hc, hfn, hw1, -, -⟩ := id hr
  simp only [entry180]
  split
  all_goals
    refine sound_some ?_
    simp only [Format.len, List.forall_mem_cons, List.not_mem_nil, true_imp_iff, Bool.false_eq_true, false_imp_iff,
      implies_true, forall_bind_iff, forall_onlyIf_iff, sSrc_eq_some_iff, sDst_eq_some_iff, and_imp]
    intros
  case' isTrue => refine encodes_encS hr rfl (by simp only [Instr.fieldsOk, *]) rfl ?_
  case' isFalse => refine encodes_encS hr rfl (by simp only [Instr.fieldsOk, *]) rfl ?_
  all_goals
    simp only [SSrc.code_eq, SDst.code_eq, b2n_eq, bitField_mod, bits, BitVec.toNat_ofNat, Nat.reducePow, Nat.div_one] at *
    omega

theorem sound_rclaim {r : Raw} (hr : r.Fits) (hop : r.op = 0x18A) : Sound (entry180 r 0x0A) r := by
  obtain ⟨-, -, -, hd, ha, hb, hc, hfn, hw1, -, -⟩ := id hr
  simp only [entry180]
  split
  all_goals
    refine sound_some ?_
    simp only [Format.len, List.forall_mem_cons, List.not_mem_nil, true_imp_iff, Bool.false_eq_true, false_imp_iff,
      implies_true, forall_bind_iff, forall_some_iff, sDst_eq_some_iff, and_imp]
    intros
  case' isTrue => refine encodes_encT hr rfl (by simp only [Instr.fieldsOk, *]) rfl ?_
  case' isFalse => refine encodes_encT hr rfl (by simp only [Instr.fieldsOk, ofNat_bits_bne_zero, bne_iff_ne, ne_eq,
    not_false_eq_true, *]) rfl ?_
  all_goals
    simp only [Raw.scope1, Raw.tid, w1Id, fnTwin, SDst.code_eq, b2n_eq, bitField_mod, bits, BitVec.toNat_ofNat,
      Nat.reducePow, Nat.div_one] at *
    omega

theorem sound_qpush {r : Raw} (hr : r.Fits) (hop : r.op = 0x18E) : Sound (entry180 r 0x0E) r := by
  obtain ⟨-, -, -, hd, ha, hb, hc, hfn, hw1, -, -⟩ := id hr
  simp only [entry180]
  split
  all_goals
    refine sound_some ?_
    simp only [Format.len, List.forall_mem_cons, List.not_mem_nil, true_imp_iff, Bool.false_eq_true, false_imp_iff,
      implies_true, forall_bind_iff, forall_some_iff, sSrc_eq_some_iff, and_imp]
    intros
  case' isTrue => refine encodes_encS hr rfl (by simp only [Instr.fieldsOk, *]) rfl ?_
  case' isFalse => refine encodes_encS hr rfl (by simp only [Instr.fieldsOk, ofNat_bits_bne_zero, bne_iff_ne, ne_eq,
    not_false_eq_true, *]) rfl ?_
  all_goals
    simp only [fnTwin, SSrc.code_eq, bits, BitVec.toNat_ofNat, Nat.reducePow, Nat.div_one] at *
    omega

theorem sound_qpop {r : Raw} (hr : r.Fits) (hop : r.op = 0x18F) : Sound (entry180 r 0x0F) r := by
  obtain ⟨-, -, -, hd, ha, hb, hc, hfn, hw1, -, -⟩ := id hr
  simp only [entry180]
  split
  all_goals
    refine sound_some ?_
    simp only [Format.len, List.forall_mem_cons, List.not_mem_nil, true_imp_iff, Bool.false_eq_true, false_imp_iff,
      implies_true, forall_bind_iff, forall_some_iff, sDst_eq_some_iff, and_imp]
    intros
  case' isTrue => refine encodes_encS hr rfl (by simp only [Instr.fieldsOk, *]) rfl ?_
  case' isFalse => refine encodes_encS hr rfl (by simp only [Instr.fieldsOk, ofNat_bits_bne_zero, bne_iff_ne, ne_eq,
    not_false_eq_true, *]) rfl ?_
  all_goals
    simp only [fnTwin, SDst.code_eq, bits, BitVec.toNat_ofNat, Nat.reducePow, Nat.div_one] at *
    omega

theorem sound_cpy {r : Raw} (hr : r.Fits) (hop : r.op = 0x186) : Sound (entry180 r 0x06) r := by
  obtain ⟨-, -, -, hd, ha, hb, hc, hfn, hw1, -, -⟩ := id hr
  refine sound_some ?_
  simp only [Format.len, List.forall_mem_cons, List.not_mem_nil, true_imp_iff, Bool.false_eq_true, false_imp_iff,
    implies_true, forall_bind_iff, forall_onlyIf_iff, sSrc_eq_some_iff, sDst_eq_some_iff, Bool.and_eq_true,
    decide_eq_true_eq, and_imp]
  intro hlen h3 h19 h56 hcmap d hd a ha b hb c hc hq hcax
  have hok : (BitVec.ofNat 2 (bits r.w1 16 2) != 0 || BitVec.ofNat 24 (bits r.w1 32 24) == 0) = true := by
    have hlow : bits r.w1 16 2 = bits r.w1 16 3 := by
      simp only [bits] at hcax ⊢
      omega
    rw [ofNat_bits_bne_zero, ofNat_bits_beq_zero, hlow]
    by_cases hz : bits r.w1 16 3 = 0
    · simpa [hz] using hcmap
    · simp [hz]
  refine encodes_encT hr rfl (by simp only [Instr.fieldsOk, Bool.and_self, *]) rfl ?_
  simp only [Raw.tid, SSrc.code_eq, SDst.code_eq, b2n_eq, bitField_mod, bits, BitVec.ofNat_eq_ofNat, BitVec.toNat_ofNat,
    Nat.reducePow, Nat.div_one] at *
  omega

theorem sound_entry180 {r : Raw} (hr : r.Fits) (h : r.op / 64 = 6) : Sound (entry180 r (r.op % 64)) r := by
  obtain ⟨-, -, -, hd, ha, hb, hc, hfn, hw1, -, -⟩ := id hr
  unfold entry180
  dsimp only
  split
  case h_4 => exact sound_mclr hr (by omega)
  case h_7 => exact sound_cpy hr (by omega)
  case h_11 => exact sound_rclaim hr (by omega)
  case h_15 => exact sound_qpush hr (by omega)
  case h_16 => exact sound_qpop hr (by omega)
  case h_17 => exact sound_none
  all_goals
    refine sound_some ?_
    simp only [Format.len, List.forall_mem_cons, List.not_mem_nil, true_imp_iff, Bool.false_eq_true, false_imp_iff,
      implies_true, forall_bind_iff, forall_some_iff, forall_onlyIf_iff, rMode_eq_some_iff, solveKind_eq_some_iff,
      statusDst_eq_some_iff, sSrc_eq_some_iff, sDst_eq_some_iff, Bool.and_eq_true, and_imp]
    intros
  case' h_1 | h_2 | h_3 | h_5 | h_6 | h_8 | h_9 | h_10 | h_12 =>
    refine encodes_encT hr rfl (by simp only [Instr.fieldsOk, Bool.and_self, *]) rfl ?_
  case' h_13 =>
    refine encodes_encB hr rfl (by simp only [Instr.fieldsOk, *]) rfl rfl ?_
  case' h_14 =>
    refine encodes_encS hr rfl (by simp only [Instr.fieldsOk, *]) rfl ?_
  all_goals
    simp only [Raw.scope1, Raw.tid, w1Id, RMode.code_eq, SolveKind.code_eq, statusCode_eq, SSrc.code_eq, SDst.code_eq,
      b2n_eq, bitField_mod, bits, BitVec.toNat_ofNat, Nat.reducePow, Nat.div_one, bne_iff_ne] at *
    omega

/-! Group 0x1C0: atomics and system. -/

theorem sound_red {r : Raw} (hr : r.Fits) (hop : r.op = 0x1C2) : Sound (entry1C0 r 0x02) r := by
  obtain ⟨-, -, -, hd, ha, hb, hc, hfn, hw1, -, -⟩ := id hr
  simp only [entry1C0]
  split
  all_goals
    refine sound_some ?_
    simp only [Format.len, List.forall_mem_cons, List.not_mem_nil, true_imp_iff, Bool.false_eq_true, false_imp_iff,
      implies_true, forall_bind_iff, forall_onlyIf_iff, amoOp_eq_some_iff, dbl_eq_some_iff, ordBit_two_eq_some_iff,
      mem_eq_some_iff, sSrc_eq_some_iff, vSrc_eq_some_iff, Bool.and_eq_true, beq_iff_eq, and_imp]
    intros
  case' isTrue => refine encodes_encM hr rfl (by simp only [Instr.fieldsOk, *]) rfl ?_
  case' isFalse => refine encodes_encM hr rfl (by simp only [Instr.fieldsOk, *]) rfl ?_
  all_goals
    simp only [Raw.scope, Raw.o, Raw.sz, Raw.ord, Raw.hint, Raw.xf, Raw.tw, AmoOp.code_eq, SSrc.code_eq, VSrc.code_eq,
      b2n_eq, bitField_false, bits, BitVec.toNat_ofNat, Nat.reducePow, Nat.div_one, bne_iff_ne, Bool.not_eq_true',
      beq_eq_false_iff_ne] at *
    omega

theorem sound_fence {r : Raw} (hr : r.Fits) (hop : r.op = 0x1C3) : Sound (entry1C0 r 0x03) r := by
  obtain ⟨-, -, -, hd, ha, hb, hc, hfn, hw1, -, -⟩ := id hr
  refine sound_some ?_
  simp only [Format.len, List.forall_mem_cons, List.not_mem_nil, true_imp_iff, Bool.false_eq_true, false_imp_iff,
    implies_true, and_imp]
  intro hlen hd' ha' hb' hc' hrsv
  split
  case h_4 => exact forall_none_iff.mpr trivial
  all_goals
    refine forall_some_iff.mpr (encodes_encS hr rfl rfl rfl ?_)
    simp only [ bits, BitVec.toNat_ofNat, Nat.reducePow, Nat.div_one, ] at *
    omega

theorem sound_cwait {r : Raw} (hr : r.Fits) (hop : r.op = 0x1C5) : Sound (entry1C0 r 0x05) r := by
  obtain ⟨-, -, -, hd, ha, hb, hc, hfn, hw1, -, -⟩ := id hr
  simp only [entry1C0]
  split
  all_goals
    refine sound_some ?_
    simp only [Format.len, List.forall_mem_cons, true_imp_iff, Bool.false_eq_true, false_imp_iff, forall_bind_iff,
      forall_onlyIf_iff, sSrc_eq_some_iff, sDst_eq_some_iff, tlRsv_zero_iff, Bool.and_eq_true, beq_iff_eq, and_imp]
  case' isTrue => intro hlen htw htl src hsrc d hd c hc ho hhint hsz hord
  case' isFalse => intro hlen hps htl src hsrc d hd c hc ho hhint hsz hord
  all_goals cases src
  all_goals
    simp only [ctrSrc_mem_iff, ctrSrc_copyTl_iff, ctrSrc_matTl_iff, mem_eq_some_iff, Raw.xf, Raw.scope] at hsrc
    refine encodes_encM hr rfl (by simp only [Instr.fieldsOk, ofNat_bits_bne_zero, bne_iff_ne, ne_eq, not_false_eq_true, *])
      rfl ?_
    simp only [Raw.o, Raw.sz, Raw.ord, Raw.hint, Raw.xf, Raw.tw, fnTwin, SSrc.code_eq, SDst.code_eq, zr_field, ←
      BitVec.toNat_inj, b2n_eq, bitField_false, bits, BitVec.ofNat_eq_ofNat, BitVec.toNat_ofNat, Nat.reducePow, Nat.div_one,
      Bool.not_eq_true', beq_eq_false_iff_ne] at *
    omega

theorem sound_cread {r : Raw} (hr : r.Fits) (hop : r.op = 0x1C6) : Sound (entry1C0 r 0x06) r := by
  obtain ⟨-, -, -, hd, ha, hb, hc, hfn, hw1, -, -⟩ := id hr
  refine sound_some ?_
  simp only [Format.len, List.forall_mem_cons, true_imp_iff, Bool.false_eq_true, false_imp_iff, forall_bind_iff,
    forall_onlyIf_iff, flag_eq_some_iff, sDst_eq_some_iff, tlRsv_zero_iff, List.cons_append, List.nil_append,
    Bool.and_eq_true, beq_iff_eq, and_imp]
  intro hlen hc htw htl acq hacq src hsrc d hd ho hhint hsz
  cases src
  all_goals
    simp only [ctrSrc_mem_iff, ctrSrc_copyTl_iff, ctrSrc_matTl_iff, mem_eq_some_iff, Raw.xf, Raw.scope] at hsrc
    refine encodes_encM hr rfl (by simp only [Instr.fieldsOk, *]) rfl ?_
    simp only [Raw.o, Raw.sz, Raw.ord, Raw.hint, Raw.xf, Raw.tw, SSrc.code_eq, SDst.code_eq, zr_field, ← BitVec.toNat_inj,
      b2n_eq, bitField_false, bits, BitVec.ofNat_eq_ofNat, BitVec.toNat_ofNat, Nat.reducePow, Nat.div_one, Bool.not_eq_true',
      beq_eq_false_iff_ne] at *
    omega

theorem sound_send {r : Raw} (hr : r.Fits) (hop : r.op = 0x1C8) : Sound (entry1C0 r 0x08) r := by
  obtain ⟨-, -, -, hd, ha, hb, hc, hfn, hw1, -, -⟩ := id hr
  simp only [entry1C0]
  split
  all_goals
    refine sound_some ?_
    simp only [Format.len, List.forall_mem_cons, List.not_mem_nil, true_imp_iff, Bool.false_eq_true, false_imp_iff,
      implies_true, forall_bind_iff, forall_some_iff, forall_onlyIf_iff, payBase_eq_some_iff, sSrc_eq_some_iff,
      forall_ite_iff, beq_iff_eq, and_imp]
  case' isTrue =>
    intro hlen hd' h1 h5 hw
    refine ⟨fun htrap a ha b hb c hc => ?_, fun hplain a ha b hb c hc => ?_⟩
  case' isFalse => intros
  all_goals
    refine encodes_encT hr rfl (by simp only [Instr.fieldsOk, ofNat_bits_bne_zero, bne_iff_ne, ne_eq, not_false_eq_true, *])
      rfl ?_
    simp only [fnTwin, payCode_eq, SSrc.code_eq, bits, BitVec.toNat_ofNat, Nat.reducePow, Nat.div_one, Bool.not_eq_true',
      beq_eq_false_iff_ne] at *
    omega

theorem sound_spawn {r : Raw} (hr : r.Fits) (hop : r.op = 0x1CA) : Sound (entry1C0 r 0x0A) r := by
  obtain ⟨-, -, -, hd, ha, hb, hc, hfn, hw1, -, -⟩ := id hr
  simp only [entry1C0]
  split
  all_goals
    refine sound_some ?_
    simp only [Format.len, List.forall_mem_cons, List.not_mem_nil, true_imp_iff, Bool.false_eq_true, false_imp_iff,
      implies_true, forall_bind_iff, forall_some_iff, payBase_eq_some_iff, sSrc_eq_some_iff, and_imp]
    intros
  case' isTrue => refine encodes_encT hr rfl (by simp only [Instr.fieldsOk, *]) rfl ?_
  case' isFalse => refine encodes_encT hr rfl (by simp only [Instr.fieldsOk, ofNat_bits_bne_zero, bne_iff_ne, ne_eq,
    not_false_eq_true, *]) rfl ?_
  all_goals
    simp only [fnTwin, payCode_eq, SSrc.code_eq, b2n_eq, bitField_mod, bits, BitVec.toNat_ofNat, Nat.reducePow, Nat.div_one,
      ] at *
    omega

theorem sound_cancel {r : Raw} (hr : r.Fits) (hop : r.op = 0x1CF) : Sound (entry1C0 r 0x0F) r := by
  obtain ⟨-, -, -, hd, ha, hb, hc, hfn, hw1, -, -⟩ := id hr
  refine sound_some ?_
  simp only [Format.len, List.forall_mem_cons, List.not_mem_nil, true_imp_iff, Bool.false_eq_true, false_imp_iff,
    implies_true, forall_bind_iff, sSrc_eq_some_iff, and_imp]
  intro hlen hd' hb' hc' hrsv a ha'
  split <;> refine forall_onlyIf_iff.mpr fun hz => ?_
  case' h_4 h0 h1 h2 =>
    have h3 := bits_two_eq_three h0 h1 h2
    obtain rfl : a = .zr := by simpa using hz
  all_goals
    refine encodes_encS hr rfl (by simp only [Instr.fieldsOk, CancelSel.ok, *]) rfl ?_
    simp only [ SSrc.code_eq, zr_field, bits, Nat.reducePow, Nat.div_one, bne_iff_ne ] at *
    omega

theorem sound_entry1C0 {r : Raw} (hr : r.Fits) (h : r.op / 64 = 7) : Sound (entry1C0 r (r.op % 64)) r := by
  obtain ⟨-, -, -, hd, ha, hb, hc, hfn, hw1, -, -⟩ := id hr
  unfold entry1C0
  dsimp only
  split
  case h_3 => exact sound_red hr (by omega)
  case h_4 => exact sound_fence hr (by omega)
  case h_6 => exact sound_cwait hr (by omega)
  case h_7 => exact sound_cread hr (by omega)
  case h_9 => exact sound_send hr (by omega)
  case h_11 => exact sound_spawn hr (by omega)
  case h_16 => exact sound_cancel hr (by omega)
  case h_21 => exact sound_none
  all_goals
    refine sound_some ?_
    simp only [Format.len, List.forall_mem_cons, List.not_mem_nil, true_imp_iff, Bool.false_eq_true, false_imp_iff,
      implies_true, forall_bind_iff, forall_some_iff, forall_onlyIf_iff, size5_eq_some_iff, memOrd_eq_some_iff,
      amoOp_eq_some_iff, dbl_eq_some_iff, payBase_eq_some_iff, mem_eq_some_iff, sSrc_eq_some_iff, sDst_eq_some_iff,
      Bool.and_eq_true, beq_iff_eq, decide_eq_true_eq, and_imp]
    intros
  case' h_1 | h_2 | h_5 =>
    refine encodes_encM hr rfl (by simp only [Instr.fieldsOk, Bool.and_self, *]) rfl ?_
  case' h_8 =>
    refine encodes_encM hr rfl (by
      simp only [Instr.fieldsOk, beq_iff_eq, BitVec.toNat_ofNat, bits, Nat.reducePow, Nat.div_one] at *
      omega) rfl ?_
  case' h_10 | h_15 =>
    refine encodes_encT hr rfl (by simp only [Instr.fieldsOk, *]) rfl ?_
  case' h_12 | h_13 | h_18 =>
    refine encodes_encS hr rfl (by simp only [Instr.fieldsOk, *]) rfl ?_
  case' h_14 =>
    refine encodes_encS hr rfl (by
      simp only [Instr.fieldsOk, decide_eq_true_eq, BitVec.toNat_ofNat, bits, Nat.reducePow, Nat.div_one] at *
      omega) rfl ?_
  case' h_19 | h_20 =>
    refine encodes_encS hr rfl (by simp only [Instr.fieldsOk, ofNat_toNat_eq_bits, Bool.and_self, *]) rfl ?_
  case' h_17 =>
    refine encodes_encI hr rfl (by simp only [Instr.fieldsOk, *]) rfl ?_
  all_goals
    simp only [Raw.imm28, Raw.scope, Raw.o, Raw.sz, Raw.ord, Raw.hint, Raw.xf, Raw.tw, Size.log_eq, MemOrd.code_eq,
      AmoOp.code_eq, payCode_eq, SSrc.code_eq, SDst.code_eq, b2n_eq, bitField_false, bits, BitVec.toNat_ofNat, Nat.reducePow,
      Nat.div_one, bne_iff_ne, Bool.not_eq_true', beq_eq_false_iff_ne] at *
    omega

/-- Whatever an entry answers, the word encodes (R36). -/
theorem sound_entryOf {r : Raw} (hr : r.Fits) : Sound (entryOf r) r := by
  have hop := hr.op
  have hgroup : r.op / 64 < 8 := by omega
  unfold entryOf
  dsimp only
  interval_cases hk : r.op / 64
  · exact sound_entry000 hr hk
  · exact sound_entry040 hr hk
  · exact sound_entry080 hr hk
  · exact sound_entry0C0 hr hk
  · exact sound_entry100 hr hk
  · exact sound_entry140 hr hk
  · exact sound_entry180 hr hk
  · exact sound_entry1C0 hr hk

/-! Numbers and their bytes, least significant first (R3). -/

theorem bytesOf_succ (n w : Nat) : bytesOf (n + 1) w = BitVec.ofNat 8 w :: bytesOf n (w / 256) := by
  have hdiv (k : Nat) : w / 2 ^ (8 * (k + 1)) = w / 256 / 2 ^ (8 * k) := by
    rw [Nat.div_div_eq_div_mul, Nat.mul_succ, Nat.add_comm, Nat.pow_add]
  simp [bytesOf, List.range_succ_eq_map, Function.comp_def, hdiv]

theorem length_bytesOf (n w : Nat) : (bytesOf n w).length = n := by simp [bytesOf]

theorem leNat_bytesOf_append (n w : Nat) (rest : List Byte) :
    leNat (bytesOf n w ++ rest) = w % 256 ^ n + 256 ^ n * leNat rest := by
  induction n generalizing w with
  | zero => simp [bytesOf, Nat.mod_one]
  | succ n ih =>
    have hlow : w % 256 ^ (n + 1) = w % 256 + 256 * (w / 256 % 256 ^ n) := by rw [Nat.pow_succ', Nat.mod_mul]
    rw [bytesOf_succ, List.cons_append, leNat, ih, BitVec.toNat_ofNat, hlow, Nat.pow_succ']
    ring

theorem leNat_take (n : Nat) (bs : List Byte) : leNat (bs.take n) = leNat bs % 256 ^ n := by
  induction n generalizing bs with
  | zero => simp [leNat, Nat.mod_one]
  | succ n ih =>
    cases bs with
    | nil => simp [leNat]
    | cons b bs =>
      have hb := b.isLt
      rw [List.take_succ_cons, leNat, leNat, ih, Nat.pow_succ', Nat.mod_mul, Nat.add_mul_mod_self_left,
        Nat.add_mul_div_left _ _ (by decide), Nat.div_eq_of_lt hb, Nat.mod_eq_of_lt hb, Nat.zero_add]

theorem leNat_mod_four (bs : List Byte) : leNat bs % 4 = (bs.headD 0).toNat % 4 := by
  cases bs with
  | nil => rfl
  | cons b bs => simp only [leNat, List.headD_cons]; omega

theorem foldr_eq_leNat (bs : List Byte) : bs.foldr (fun b acc => b.toNat + 256 * acc) 0 = leNat bs := by
  induction bs with
  | nil => rfl
  | cons b bs ih => rw [List.foldr_cons, ih, leNat]

theorem two_pow_eight_mul (n : Nat) : 2 ^ (8 * n) = 256 ^ n := by rw [Nat.pow_mul]

/-! Fields and words (R20, R23). -/

theorem unpack_pack {r : Raw} (hr : r.Fits) (hlen : r.len < 4) : Raw.unpack r.pack = r := by
  obtain ⟨hop, hgp, hgn, hd, ha, hb, hc, hfn, hw1, -, -⟩ := hr
  obtain ⟨len, op, gp, gn, d, a, b, c, fn, w1⟩ := r
  simp only at *
  simp only [Raw.unpack, Raw.pack, bits, Raw.mk.injEq]
  refine ⟨?_, ?_, ?_, ?_, ?_, ?_, ?_, ?_, ?_, ?_⟩ <;> omega

theorem pack_unpack {w : Nat} (h : w < 2 ^ 128) : (Raw.unpack w).pack = w := by
  simp only [Raw.unpack, Raw.pack, bits]
  omega

theorem pack_mod_four {r : Raw} (hlen : r.len < 4) : r.pack % 4 = r.len := by
  simp only [Raw.pack]
  omega

theorem lenBytes_cases (k : Nat) : k % 4 = 3 ∧ lenBytes (k % 4) = 0 ∨ k % 4 = 0 ∧ lenBytes (k % 4) = 8
    ∨ k % 4 = 1 ∧ lenBytes (k % 4) = 12 ∨ k % 4 = 2 ∧ lenBytes (k % 4) = 16 := by
  have := Nat.mod_lt k (show 4 > 0 by decide)
  interval_cases k % 4 <;> simp [lenBytes]

/-- A word as long as its length code says is one whose fields fit. -/
theorem fits_unpack {w : Nat} (h : w < 256 ^ lenBytes (w % 4)) : (Raw.unpack w).Fits := by
  have hw : w < 2 ^ 128 ∧ (w % 4 = 0 → w < 2 ^ 64) ∧ (w % 4 = 1 → w < 2 ^ 96) := by
    obtain ⟨hm, hn⟩ | ⟨hm, hn⟩ | ⟨hm, hn⟩ | ⟨hm, hn⟩ := lenBytes_cases w <;> rw [hn] at h <;>
      refine ⟨?_, ?_, ?_⟩ <;> omega
  obtain ⟨h128, h64, h96⟩ := hw
  refine ⟨bits_lt .., bits_lt .., bits_lt .., bits_lt .., bits_lt .., bits_lt .., bits_lt .., bits_lt .., bits_lt .., ?_, ?_⟩
  · intro hlen
    exact bits_eq_zero (h64 hlen)
  · intro hlen
    have := h96 hlen
    simp only [Raw.unpack, bits]
    omega

/-- A word whose fields fit is as long as its length code says. -/
theorem pack_lt {r : Raw} (hr : r.Fits) (hlen : r.len < 3) : r.pack < 256 ^ lenBytes r.len := by
  obtain ⟨hop, hgp, hgn, hd, ha, hb, hc, hfn, hw1, h0, h1⟩ := hr
  obtain ⟨len, op, gp, gn, d, a, b, c, fn, w1⟩ := r
  simp only [Raw.pack] at *
  interval_cases len <;> simp only [lenBytes, true_implies] at h0 h1 ⊢ <;> omega

/-! The decoder of words and bytes (R20, R47). -/

theorem guard_ok_iff {r : Raw} (hr : r.Fits) : r.guard.ok = true ↔ ¬(r.gp = 0 ∧ r.gn = 1) := by
  have hgp : (BitVec.ofNat 3 r.gp == 0) = (r.gp == 0) := by
    rw [Bool.eq_iff_iff, beq_iff_eq, beq_iff_eq, ← BitVec.toNat_inj, BitVec.toNat_ofNat, Nat.mod_eq_of_lt hr.gp]
    rfl
  rw [Guard.ok, show (r.guard.pred == 0) = (BitVec.ofNat 3 r.gp == 0) from rfl, hgp]
  simp [Raw.guard, imp_iff_not_or]

theorem decodeWord_eq_some_iff {w : Nat} {i : Instr} (hw : (Raw.unpack w).Fits) : decodeWord w = some i ↔
    Reads (entryOf (Raw.unpack w)) (Raw.unpack w) i ∧ (Raw.unpack w).guard.ok = true := by
  rw [guard_ok_iff hw, decodeWord, Reads]
  cases entryOf (Raw.unpack w) with
  | none => simp
  | some e =>
    simp only [Option.some.injEq, exists_eq_left']
    split_ifs with hlen hspec hguard htwin hrsv
    case neg =>
      simp_all
      exact fun _ => hrsv
    all_goals simp_all

/-- A word and its bytes: the decoder reads as many as the length code says, whatever follows. -/
theorem decode_eq_ok_iff {bs : List Byte} {i : Instr} {len : Nat} : decode bs = .ok (i, len) ↔
    len = lenBytes (leNat bs % 4) ∧ len ≠ 0 ∧ len ≤ bs.length ∧ decodeWord (leNat bs % 256 ^ len) = some i := by
  simp only [decode, foldr_eq_leNat, two_pow_eight_mul]
  split_ifs with h0 hlen
  · simp; omega
  · simp; omega
  · cases hd : decodeWord (leNat bs % 256 ^ lenBytes (leNat bs % 4)) with
    | none => simp; rintro rfl _ _; simp [hd]
    | some j =>
      simp only [Except.ok.injEq, Prod.mk.injEq]
      constructor
      · rintro ⟨rfl, rfl⟩
        exact ⟨rfl, h0, by omega, hd⟩
      · rintro ⟨rfl, -, -, hi⟩
        exact ⟨Option.some.inj (hd.symm.trans hi), rfl⟩

/-- An encoding's fields lie within their widths. -/
def Enc.Fits (e : Enc) : Prop :=
  e.op < 512 ∧ e.d < 128 ∧ e.a < 128 ∧ e.b < 128 ∧ e.c < 128 ∧ e.fn < 2097152 ∧ e.w1 < 2 ^ 64
    ∧ (e.fmt.len = 0 → e.w1 = 0) ∧ (e.fmt.len = 1 → e.w1 < 2 ^ 32)

theorem Enc.Fits.raw {e : Enc} (h : e.Fits) (g : Guard) : (e.raw g).Fits := by
  obtain ⟨hop, hd, ha, hb, hc, hfn, hw1, hS, hM⟩ := h
  exact ⟨hop, g.pred.isLt, by simpa using (bitField g.neg).isLt, hd, ha, hb, hc, hfn, hw1, hS, hM⟩

theorem encS_fits_iff {op d a b c fn : Nat} : (encS op d a b c fn).Fits ↔
    op < 512 ∧ d < 128 ∧ a < 128 ∧ b < 128 ∧ c < 128 ∧ fn < 2097152 := by
  simp [Enc.Fits, encS]

theorem encT_fits_iff {op d a b c fn w1 : Nat} : (encT op d a b c fn w1).Fits ↔
    op < 512 ∧ d < 128 ∧ a < 128 ∧ b < 128 ∧ c < 128 ∧ fn < 2097152 ∧ w1 < 2 ^ 64 := by
  simp [Enc.Fits, encT, Format.len]

theorem encI_fits_iff {op d a imm : Nat} : (encI op d a imm).Fits ↔ op < 512 ∧ d < 128 ∧ a < 128 ∧ imm < 2 ^ 28 := by
  simp [Enc.Fits, encI, Format.len]
  omega

theorem encB_fits_iff {op a : Nat} {ofs : BitVec 34} : (encB op a ofs).Fits ↔ op < 512 ∧ a < 128 := by
  have := ofs.isLt
  simp [Enc.Fits, encB, Format.len]
  omega

theorem encM_fits_iff {op d c tw sz ord hint xf : Nat} {m : MemOp} {o : Bool} {scope : BitVec 5} :
    (encM op d c m tw sz o ord scope hint xf).Fits ↔
      op < 512 ∧ d < 128 ∧ c < 128 ∧ fnM tw sz o ord scope.toNat m.scl.toNat hint xf < 2097152 := by
  simp only [Enc.Fits, encM, Format.len, SSrc.code_eq]
  omega

theorem fnM_format_fits_iff {op d a b c fn w1 : Nat} : Enc.Fits ⟨.M, op, d, a, b, c, fn, w1⟩ ↔
    op < 512 ∧ d < 128 ∧ a < 128 ∧ b < 128 ∧ c < 128 ∧ fn < 2097152 ∧ w1 < 2 ^ 32 := by
  simp [Enc.Fits, Format.len]
  omega

theorem enc_fits {i : Instr} {e : Enc} (he : i.enc = some e) : e.Fits := by
  cases i
  case' nop hdr => cases hdr
  case' pmov f => cases f
  case' cwait src _ _ | cwaitNb src _ _ | cread src _ => cases src
  case' cancel sel => cases sel
  case' bfx signed _ _ _ _ | vcmp signed _ _ _ _ _ => cases signed
  case li d imm =>
    cases he
    simpa [Enc.Fits, Format.len] using And.intro d.field.isLt imm.isLt
  all_goals
    cases he <;>
    simp only [encS_fits_iff, encT_fits_iff, encI_fits_iff, encB_fits_iff, encM_fits_iff, fnM_format_fits_iff, fnM, fnV,
      twOf, w1Id, fnTwin, b2n_eq, Bool.false_eq_true, ↓reduceIte, IntTy.code_eq, FpTy.code_eq, FTy.code_eq, ElemTy.code_eq,
      RMode.code_eq, ICond.code_eq, FCond.code_eq, MemOrd.code_eq, AmoOp.code_eq, RedOp.code_eq, FRedOp.code_eq,
      NmKind.code_eq, SolveKind.code_eq, Size.log_eq, SSrc.code_eq, SDst.code_eq, VSrc.code_eq, VDst.code_eq, payCode_eq,
      statusCode_eq] <;>
    omega

theorem format_len_lt (f : Format) : f.len < 3 := by cases f <;> decide

/-- The word of an encoding has its fields. -/
theorem unpack_pack_raw {i : Instr} {e : Enc} (he : i.enc = some e) (g : Guard) :
    Raw.unpack (e.raw g).pack = e.raw g :=
  unpack_pack ((enc_fits he).raw g) (Nat.lt_succ_of_lt (format_len_lt e.fmt))

theorem pack_raw_mod_four (e : Enc) (g : Guard) : (e.raw g).pack % 4 = e.fmt.len :=
  pack_mod_four (Nat.lt_succ_of_lt (format_len_lt e.fmt))

theorem lenBytes_format (f : Format) : lenBytes f.len = 8 ∨ lenBytes f.len = 12 ∨ lenBytes f.len = 16 := by
  cases f <;> decide

/-- R20 to R39: the word decoder reads an encoding back. -/
theorem decodeWord_pack {i : Instr} {g : Guard} {e : Enc} (hg : i.guard? = some g) (he : i.enc = some e)
    (hok : g.ok = true) (hf : i.fieldsOk = true) : decodeWord (e.raw g).pack = some i := by
  have hfits := (enc_fits he).raw g
  have hunpack := unpack_pack_raw he g
  rw [decodeWord_eq_some_iff (by rwa [hunpack]), hunpack, Enc.raw_guard]
  exact ⟨readsBack i g e hg he hf, hok⟩

/-- R20, R47: an instruction that the word decoder answers is well-formed and encodes to the word. -/
theorem encode_of_decodeWord {w : Nat} {i : Instr} (hw : w < 256 ^ lenBytes (w % 4)) (h : decodeWord w = some i) :
    i.isEvent = false ∧ i.wf = true ∧ encode i = some w := by
  have hfits := fits_unpack hw
  obtain ⟨hreads, hok⟩ := (decodeWord_eq_some_iff hfits).mp h
  obtain ⟨hg, hf, e, he, hraw⟩ := sound_entryOf hfits i hreads
  have h128 : w < 2 ^ 128 := by
    obtain ⟨-, hn⟩ | ⟨-, hn⟩ | ⟨-, hn⟩ | ⟨-, hn⟩ := lenBytes_cases w <;> rw [hn] at hw <;> omega
  refine ⟨?_, ?_, ?_⟩
  · simp [Instr.isEvent, hg]
  · simp [Instr.wf, hg, hok, hf]
  · simp [encode, hg, he, hraw, pack_unpack h128]

/-- R3, R20: the decoder reads an encoding back from its bytes, whatever follows them. -/
theorem decode_bytesOf_append {i : Instr} {g : Guard} {e : Enc} (hg : i.guard? = some g) (he : i.enc = some e)
    (hok : g.ok = true) (hf : i.fieldsOk = true) (rest : List Byte) :
    decode (bytesOf (lenBytes e.fmt.len) (e.raw g).pack ++ rest) = .ok (i, lenBytes e.fmt.len) := by
  have hlt : (e.raw g).pack < 256 ^ lenBytes e.fmt.len := pack_lt ((enc_fits he).raw g) (format_len_lt e.fmt)
  have hval : leNat (bytesOf (lenBytes e.fmt.len) (e.raw g).pack ++ rest)
      = (e.raw g).pack + 256 ^ lenBytes e.fmt.len * leNat rest := by
    rw [leNat_bytesOf_append, Nat.mod_eq_of_lt hlt]
  have hmod : leNat (bytesOf (lenBytes e.fmt.len) (e.raw g).pack ++ rest) % 4 = e.fmt.len := by
    have hdvd : 4 ∣ 256 ^ lenBytes e.fmt.len := by cases e.fmt <;> decide
    rw [hval, Nat.add_mod, Nat.mod_eq_zero_of_dvd (hdvd.mul_right _), Nat.add_zero, Nat.mod_mod, pack_raw_mod_four]
  rw [decode_eq_ok_iff, hmod, hval, Nat.add_mul_mod_self_left, Nat.mod_eq_of_lt hlt]
  refine ⟨rfl, ?_, ?_, decodeWord_pack hg he hok hf⟩
  · obtain h | h | h := lenBytes_format e.fmt <;> omega
  · simp [length_bytesOf]

/-- What the decoder answers is a well-formed instruction, and its encoding is the bytes that were read. -/
theorem encode_of_decode {bs : List Byte} {i : Instr} {len : Nat} (h : decode bs = .ok (i, len)) :
    i.isEvent = false ∧ i.wf = true ∧ (len = 8 ∨ len = 12 ∨ len = 16) ∧ encode i = some (leNat (bs.take len)) := by
  obtain ⟨rfl, hne, -, hword⟩ := decode_eq_ok_iff.mp h
  have hlen : lenBytes (leNat bs % 4) = 8 ∨ lenBytes (leNat bs % 4) = 12 ∨ lenBytes (leNat bs % 4) = 16 := by
    obtain ⟨-, hn⟩ | ⟨-, hn⟩ | ⟨-, hn⟩ | ⟨-, hn⟩ := lenBytes_cases (leNat bs) <;> omega
  have hmod : leNat bs % 256 ^ lenBytes (leNat bs % 4) % 4 = leNat bs % 4 := by
    apply Nat.mod_mod_of_dvd
    obtain hn | hn | hn := hlen <;> rw [hn] <;> decide
  have hlt : leNat bs % 256 ^ lenBytes (leNat bs % 4)
      < 256 ^ lenBytes (leNat bs % 256 ^ lenBytes (leNat bs % 4) % 4) := by
    rw [hmod]
    exact Nat.mod_lt _ (Nat.pow_pos (by decide))
  obtain ⟨hevent, hwf, hencode⟩ := encode_of_decodeWord hlt hword
  exact ⟨hevent, hwf, hlen, by rw [leNat_take, hencode]⟩

/-- R20: the reserved length code is refused. -/
theorem decode_ne_ok_of_length_three {bs : List Byte} (h : (bs.headD 0).toNat % 4 = 3) (r : Instr × Nat) :
    decode bs ≠ .ok r := by
  intro hr
  obtain ⟨hlen, hne, -⟩ := decode_eq_ok_iff.mp hr
  rw [leNat_mod_four, h] at hlen
  exact hne hlen

end Sys2Proof

namespace Sys2Proof.Cube

open Sys2Proof.Machine

/-- Settles O55: the fields of an encoding are read back entry by entry, and an entry answers only what encodes to the fields
that it was given; words and bytes are their fields. -/
theorem encodingAndDecodingAgree : Obligations.EncodingAndDecodingAgree := by
  unfold Obligations.EncodingAndDecodingAgree
  refine ⟨fun i hevent hwf => ?_, fun bs i len h => encode_of_decode h, fun bs h r => decode_ne_ok_of_length_three h r⟩
  obtain ⟨g, hg⟩ : ∃ g, i.guard? = some g := by
    cases hg : i.guard? with
    | none => simp [Instr.isEvent, hg] at hevent
    | some g => exact ⟨g, rfl⟩
  obtain ⟨e, he⟩ : ∃ e, i.enc = some e := by
    rw [← Option.isSome_iff_exists, ← guard_isSome_eq_enc_isSome, hg, Option.isSome_some]
  obtain ⟨hok, hf⟩ : g.ok = true ∧ i.fieldsOk = true := by simpa [Instr.wf, hg] using hwf
  refine ⟨(e.raw g).pack, lenBytes e.fmt.len, by simp [encode, hg, he], by rw [pack_raw_mod_four], fun rest => ?_⟩
  exact decode_bytesOf_append hg he hok hf rest

end Sys2Proof.Cube

/-! Rounding (O6, R63): the values of a format, counted in the unit in which it holds a number, and the whole number of units
that each mode takes. -/

namespace Sys2Proof.Machine

/-! Values of a format (R56, R57). -/

theorem fmtOf_mb_pos (ty : FpTy) : 0 < (fmtOf ty).mb := by cases ty <;> decide

theorem fmtOf_eb_pos (ty : FpTy) : 0 < (fmtOf ty).eb := by cases ty <;> decide

section Values

variable {f : Fmt}

/-- A finite value is a significand of `mb + 1` bits at an exponent that is not below the smallest subnormal's (R57). -/
theorem Fmt.val_fin_bounds {y k : Nat} {n : Bool} {e : Int} (h : f.val y = .fin n k e) :
    k < 2 ^ (f.mb + 1) ∧ f.qmin ≤ e := by
  have hfrac : y % 2 ^ f.mb < 2 ^ f.mb := Nat.mod_lt _ (Nat.two_pow_pos _)
  simp only [Fmt.val] at h
  rw [Nat.pow_succ]
  split_ifs at h
  · injection h with _ hk he
    omega
  · injection h with _ hk he
    omega

/-- The fields of a signed encoding: sign, exponent and fraction are read back (R56). -/
theorem Fmt.signed_fields {E : Nat} (n : Bool) (h : E < 2 ^ (f.eb + f.mb)) :
    f.sign (f.signed n E) = n ∧ f.signed n E % 2 ^ f.mb = E % 2 ^ f.mb
      ∧ f.signed n E / 2 ^ f.mb % 2 ^ f.eb = E / 2 ^ f.mb := by
  have hlt : E / 2 ^ f.mb < 2 ^ f.eb := Nat.div_lt_of_lt_mul (by rwa [← Nat.pow_add, Nat.add_comm])
  cases n with
  | false => simp [Fmt.sign, Fmt.signed, Nat.div_eq_of_lt h, Nat.mod_eq_of_lt hlt]
  | true =>
    refine ⟨?_, ?_, ?_⟩
    · simp [Fmt.sign, Fmt.signed, Nat.add_div_right _ (Nat.two_pow_pos _), Nat.div_eq_of_lt h]
    · simp [Fmt.signed, Nat.pow_add]
    · simp [Fmt.signed, Nat.pow_add, Nat.add_mul_div_right _ _ (Nat.two_pow_pos _), Nat.mod_eq_of_lt hlt]

theorem Fmt.signed_mod_two (n : Bool) (E : Nat) (hmb : 0 < f.mb) : f.signed n E % 2 = E % 2 := by
  have heven : 2 ∣ 2 ^ (f.eb + f.mb) := dvd_pow_self 2 (by omega)
  cases n <;> simp only [Fmt.signed] <;> grind

theorem Fmt.maxEnc_lt (f : Fmt) : f.maxEnc < 2 ^ (f.eb + f.mb) := by
  have hle : (2 ^ f.eb - 1) * 2 ^ f.mb ≤ 2 ^ (f.eb + f.mb) := by
    rw [Nat.pow_add]
    exact Nat.mul_le_mul_right _ (Nat.sub_le _ _)
  have hpos := Nat.two_pow_pos (f.eb + f.mb)
  unfold Fmt.maxEnc
  split <;> omega

/-- An encoding up to the largest finite one is finite: its significand and exponent by its fields (R56, R57). -/
theorem Fmt.val_signed {E : Nat} (n : Bool) (hmb : 0 < f.mb) (heb : 0 < f.eb) (h : E ≤ f.maxEnc) :
    f.val (f.signed n E) = if E / 2 ^ f.mb = 0 then .fin n (E % 2 ^ f.mb) f.qmin
      else .fin n (E % 2 ^ f.mb + 2 ^ f.mb) (f.qmin + (E / 2 ^ f.mb - 1 : Nat)) := by
  have hP : 2 ≤ 2 ^ f.mb := Nat.le_self_pow (by omega) 2
  have hQ : 2 ≤ 2 ^ f.eb := Nat.le_self_pow (by omega) 2
  obtain ⟨hsign, hfrac, hex⟩ := f.signed_fields n (h.trans_lt f.maxEnc_lt)
  have hsplit := Nat.div_add_mod E (2 ^ f.mb)
  have hinf : (f.hasInf && E / 2 ^ f.mb == 2 ^ f.eb - 1) = false := by
    rw [Bool.and_eq_false_imp, beq_eq_false_iff_ne]
    intro hi hex
    rw [Fmt.maxEnc, if_pos hi, Nat.mul_comm] at h
    rw [hex] at hsplit
    have : 0 < 2 ^ f.mb * (2 ^ f.eb - 1) := Nat.mul_pos (by omega) (by omega)
    omega
  have hnan : (!f.hasInf && E / 2 ^ f.mb == 2 ^ f.eb - 1 && E % 2 ^ f.mb == 2 ^ f.mb - 1) = false := by
    rw [Bool.and_eq_false_imp, beq_eq_false_iff_ne]
    intro hi hfr
    obtain ⟨hi, hex⟩ : f.hasInf = false ∧ E / 2 ^ f.mb = 2 ^ f.eb - 1 := by simpa using hi
    rw [Fmt.maxEnc, hi, if_neg Bool.false_ne_true, Nat.pow_add, Nat.mul_comm] at h
    rw [hex, hfr, Nat.mul_sub, Nat.mul_one] at hsplit
    have : 2 ^ f.mb ≤ 2 ^ f.mb * 2 ^ f.eb := Nat.le_mul_of_pos_right _ (by omega)
    omega
  simp only [Fmt.val, hsign, hfrac, hex, hinf, hnan, Bool.false_eq_true, if_false]

/-- The encoding that counts a number's units from the smallest subnormal's binade upward. -/
def Fmt.unitsEnc (f : Fmt) (q : Int) (K : Nat) : Nat := (q - f.qmin).toNat * 2 ^ f.mb + K

/-- The value of an encoding built from a unit `2 ^ q` and a count `K` of it, with a carry into the next binade when the
count is `2 ^ (mb + 1)`. -/
theorem Fmt.val_of_units {q : Int} {K : Nat} (n : Bool) (hmb : 0 < f.mb) (heb : 0 < f.eb) (hq : f.qmin ≤ q)
    (hK : K ≤ 2 ^ (f.mb + 1)) (hnormal : q = f.qmin ∨ 2 ^ f.mb ≤ K) (h : f.unitsEnc q K ≤ f.maxEnc) :
    ∃ (k : Nat) (e : Int), f.val (f.signed n (f.unitsEnc q K)) = .fin n k e ∧ realOf n k e = realOf n K q := by
  obtain ⟨d, rfl⟩ : ∃ d : Nat, q = f.qmin + d := ⟨(q - f.qmin).toNat, by omega⟩
  have hd : (f.qmin + d - f.qmin).toNat = d := by omega
  rw [f.val_signed n hmb heb h, Fmt.unitsEnc, hd]
  have hP : 0 < 2 ^ f.mb := Nat.two_pow_pos _
  have hpow : 2 ^ (f.mb + 1) = 2 ^ f.mb * 2 := Nat.pow_succ ..
  obtain hlow | ⟨r, rfl, hr⟩ | rfl :
      K < 2 ^ f.mb ∨ (∃ r, K = r + 2 ^ f.mb ∧ r < 2 ^ f.mb) ∨ K = 2 ^ f.mb * 2 := by
    by_cases h1 : K < 2 ^ f.mb
    · exact .inl h1
    · by_cases h2 : K = 2 ^ f.mb * 2
      · exact .inr (.inr h2)
      · exact .inr (.inl ⟨K - 2 ^ f.mb, by omega, by omega⟩)
  · obtain rfl : d = 0 := by omega
    rw [Nat.zero_mul, Nat.zero_add, Nat.div_eq_of_lt hlow, Nat.mod_eq_of_lt hlow]
    exact ⟨K, f.qmin, by simp, by simp⟩
  · rw [show d * 2 ^ f.mb + (r + 2 ^ f.mb) = r + (d + 1) * 2 ^ f.mb by ring, Nat.add_mul_div_right _ _ hP,
      Nat.add_mul_mod_self_right, Nat.div_eq_of_lt hr, Nat.mod_eq_of_lt hr]
    exact ⟨r + 2 ^ f.mb, f.qmin + d, by simp, rfl⟩
  · rw [show d * 2 ^ f.mb + 2 ^ f.mb * 2 = (d + 2) * 2 ^ f.mb by ring, Nat.mul_div_cancel _ hP, Nat.mul_mod_left]
    refine ⟨2 ^ f.mb, f.qmin + d + 1, by simp [Int.add_assoc], ?_⟩
    rw [realOf, realOf, zpow_add_one₀ two_ne_zero]
    push_cast
    ring

end Values

/-! Rounding to a whole number of units (R63). -/

/-- The mode as it acts on a magnitude: upward and downward change places below zero. -/
def magnitudeMode (m : RMode) (neg : Bool) : RMode :=
  match m, neg with
  | .rup, true => .rdn
  | .rdn, true => .rup
  | m, _ => m

/-- A whole number `K` that the mode may take for a number `a`, not negative. -/
structure RoundsTo (m : RMode) (a : Rat) (K : Nat) : Prop where
  lt_add_one : (K : Rat) < a + 1
  lt_succ : a < K + 1
  down : m = .rtz ∨ m = .rdn → (K : Rat) ≤ a
  up : m = .rup → a ≤ K
  even : m = .rne → |K - a| ≤ 1 / 2 ∧ (|K - a| = 1 / 2 → K % 2 = 0)

theorem roundsTo_self (m : RMode) (K : Nat) : RoundsTo m K K where
  lt_add_one := lt_add_one _
  lt_succ := lt_add_one _
  down _ := le_rfl
  up _ := le_rfl
  even _ := by norm_num

theorem roundKeep_magnitudeMode (m : RMode) (t : Nat) (n : Bool) (k : Nat) (st : Bool) (sh : Nat) :
    roundKeep m t n k st sh = roundKeep (magnitudeMode m n) t false k st sh := by
  cases m <;> cases n <;> simp [roundKeep, magnitudeMode]

section RoundKeep

variable (m : RMode) (t k sh : Nat)

/-- The flag of an exact magnitude says whether a dropped bit was set. -/
theorem roundKeep_snd : (roundKeep m t false k false sh).2 = (k % 2 ^ sh != 0) := by simp [roundKeep]

/-- The kept integer of an exact magnitude is the floor, or the one above it where a dropped bit is set; which of them, the
mode says (R63). -/
theorem roundKeep_fst_cases :
    ((roundKeep m t false k false sh).1 = k / 2 ^ sh ∧ (m = .rup → k % 2 ^ sh = 0)
      ∧ (m = .rne → 2 * (k % 2 ^ sh) ≤ 2 ^ sh ∧ (2 * (k % 2 ^ sh) = 2 ^ sh → k / 2 ^ sh % 2 = 0)))
    ∨ ((roundKeep m t false k false sh).1 = k / 2 ^ sh + 1 ∧ k % 2 ^ sh ≠ 0 ∧ m ≠ .rtz ∧ m ≠ .rdn
      ∧ (m = .rne → 2 ^ sh ≤ 2 * (k % 2 ^ sh) ∧ (2 * (k % 2 ^ sh) = 2 ^ sh → k / 2 ^ sh % 2 = 1))) := by
  have hr : k % 2 ^ sh < 2 ^ sh := Nat.mod_lt _ (Nat.two_pow_pos _)
  have hsh : 2 * (k % 2 ^ sh) = 2 ^ sh → sh ≠ 0 := by rintro h rfl; omega
  generalize hK : k / 2 ^ sh = K at *
  generalize hR : k % 2 ^ sh = R at *
  cases m <;> simp only [roundKeep, hK, hR] <;> grind

/-- A number by its floor and the fraction that a shift drops. -/
theorem cast_div_two_pow_eq : (k : Rat) / 2 ^ sh = (k / 2 ^ sh : Nat) + (k % 2 ^ sh : Nat) / 2 ^ sh := by
  have hsplit : (k : Rat) = 2 ^ sh * (k / 2 ^ sh : Nat) + (k % 2 ^ sh : Nat) := by
    exact_mod_cast (Nat.div_add_mod k (2 ^ sh)).symm
  field_simp
  exact hsplit

/-- An exact magnitude loses its low bits by the mode, and the flag says whether its number changed. -/
theorem roundKeep_roundsTo : RoundsTo m ((k : Rat) / 2 ^ sh) (roundKeep m t false k false sh).1
    ∧ ((roundKeep m t false k false sh).2 = true ↔ ((roundKeep m t false k false sh).1 : Rat) ≠ k / 2 ^ sh) := by
  have hcases := roundKeep_fst_cases m t k sh
  rw [roundKeep_snd, cast_div_two_pow_eq, bne_iff_ne]
  have hpow : (0 : Rat) < 2 ^ sh := by positivity
  generalize (roundKeep m t false k false sh).1 = p at *
  generalize k / 2 ^ sh = K at *
  have hlt : k % 2 ^ sh < 2 ^ sh := Nat.mod_lt _ (Nat.two_pow_pos _)
  generalize k % 2 ^ sh = r at *
  obtain ⟨ρ, hρ⟩ : ∃ ρ : Rat, ρ = r / 2 ^ sh := ⟨_, rfl⟩
  have hzero : r = 0 ↔ ρ = 0 := by simp [hρ]
  have hnonneg : 0 ≤ ρ := by rw [hρ]; positivity
  have hone : ρ < 1 := by rw [hρ, div_lt_one hpow]; exact_mod_cast hlt
  have hle : 2 * r ≤ 2 ^ sh ↔ ρ ≤ 1 / 2 := by
    rw [hρ, div_le_div_iff₀ hpow two_pos, mul_comm, one_mul]
    exact_mod_cast Iff.rfl
  have hge : 2 ^ sh ≤ 2 * r ↔ 1 / 2 ≤ ρ := by
    rw [hρ, div_le_div_iff₀ two_pos hpow, mul_comm (r : Rat), one_mul]
    exact_mod_cast Iff.rfl
  rw [← hρ]
  simp only [le_antisymm_iff (a := 2 * r), hle, hge, hzero, ne_eq] at hcases ⊢
  clear hpow hlt hρ hzero hle hge
  obtain ⟨rfl, hup, heven⟩ | ⟨rfl, hne, hrtz, hrdn, heven⟩ := hcases
  · have habs : |(p : Rat) - (p + ρ)| = ρ := by rw [sub_add_cancel_left, abs_neg, abs_of_nonneg hnonneg]
    refine ⟨⟨by linarith, by linarith, fun _ => by linarith, fun h => by linarith [hup h], fun h => ?_⟩, by simp⟩
    rw [habs]
    exact ⟨(heven h).1, fun hhalf => (heven h).2 ⟨hhalf.le, hhalf.ge⟩⟩
  · have habs : |((K + 1 : Nat) : Rat) - (K + ρ)| = 1 - ρ := by
      push_cast
      rw [add_sub_add_left_eq_sub, abs_of_nonneg (by linarith)]
    have hpos : 0 < ρ := lt_of_le_of_ne hnonneg (Ne.symm hne)
    refine ⟨⟨?_, ?_, fun h => ?_, fun _ => ?_, fun h => ?_⟩, ?_⟩
    · push_cast; linarith
    · push_cast; linarith
    · exact absurd h (not_or.mpr ⟨hrtz, hrdn⟩)
    · push_cast; linarith
    · rw [habs]
      obtain ⟨hge, htie⟩ := heven h
      refine ⟨by linarith, fun hhalf => ?_⟩
      have := htie ⟨by linarith, hge⟩
      omega
    · refine iff_of_true hne fun h => ?_
      push_cast at h
      linarith

end RoundKeep


/-! Signed numbers and their units. -/

/-- A number in the units of another's sign and of a power of two. -/
theorem realOf_eq_unit_mul (n n2 : Bool) (k : Nat) (e q : Int) :
    realOf n2 k e = (if n then -1 else 1) * ((2 : Rat) ^ q * realOf (n != n2) k (e - q)) := by
  have hpow : (2 : Rat) ^ e = 2 ^ q * 2 ^ (e - q) := by rw [← zpow_add₀ two_ne_zero]; congr 1; omega
  cases n <;> cases n2 <;> simp only [realOf, hpow] <;> grind

theorem realOf_false (k : Nat) (e : Int) : realOf false k e = k * (2 : Rat) ^ e := by simp [realOf]

theorem abs_realOf (n : Bool) (k : Nat) (e : Int) : |realOf n k e| = k * (2 : Rat) ^ e := by
  have hpos : (0 : Rat) < 2 ^ e := by positivity
  cases n <;> simp [realOf, abs_mul, abs_of_pos hpos]

/-- `c` is whole, or so small against `a` that a whole number lies between. -/
def OnGrid (a c : Rat) : Prop := (∃ j : Int, c = j) ∨ ∃ j : Nat, |c| < j ∧ (j : Rat) ≤ a

/-- A value of a format, counted in the units of a number's rounding, is a multiple of the unit or is smaller than all
numbers of the unit's binade. -/
theorem Fmt.onGrid_of_bounds {f : Fmt} {n : Bool} {k : Nat} {e q : Int} {a : Rat} (hk : k < 2 ^ (f.mb + 1))
    (he : f.qmin ≤ e) (hq : q = f.qmin ∨ 2 ^ f.mb ≤ a) : OnGrid a (realOf n k (e - q)) := by
  by_cases hle : q ≤ e
  · obtain ⟨d, hd⟩ : ∃ d : Nat, e - q = d := ⟨(e - q).toNat, by omega⟩
    left
    rw [hd]
    cases n
    · exact ⟨k * 2 ^ d, by simp [realOf]⟩
    · exact ⟨-(k * 2 ^ d), by simp [realOf]⟩
  · obtain rfl | ha := hq
    · omega
    · refine .inr ⟨2 ^ f.mb, ?_, by exact_mod_cast ha⟩
      have hhalf : (2 : Rat) ^ (e - q) ≤ 2 ^ (-1 : Int) := zpow_le_zpow_right₀ one_le_two (by omega)
      have hk' : (k : Rat) < 2 ^ f.mb * 2 := by rw [Nat.pow_succ] at hk; exact_mod_cast hk
      rw [abs_realOf]
      push_cast
      calc (k : Rat) * 2 ^ (e - q) ≤ k * 2 ^ (-1 : Int) := by gcongr
        _ < 2 ^ f.mb := by rw [zpow_neg_one]; linarith

section Grid

variable {a c : Rat} {K : Nat}

theorem OnGrid.abs (h : OnGrid a c) : OnGrid a |c| := by
  obtain ⟨j, rfl⟩ | ⟨j, hc, ha⟩ := h
  · exact .inl ⟨|j|, by simp⟩
  · exact .inr ⟨j, by rwa [abs_abs], ha⟩

theorem OnGrid.le_of_le (h : OnGrid a c) (hK : a < K + 1) (hc : c ≤ a) : c ≤ K := by
  obtain ⟨j, rfl⟩ | ⟨j, hj, ha⟩ := h
  · have : (j : Rat) < (K : Int) + 1 := by push_cast; linarith
    exact_mod_cast Int.lt_add_one_iff.mp (by exact_mod_cast this)
  · have : j ≤ K := Nat.lt_succ_iff.mp (by exact_mod_cast ha.trans_lt hK)
    calc c ≤ |c| := le_abs_self c
      _ ≤ j := hj.le
      _ ≤ K := by exact_mod_cast this

theorem OnGrid.ge_of_ge (h : OnGrid a c) (hK : (K : Rat) < a + 1) (hc : a ≤ c) : K ≤ c := by
  obtain ⟨j, rfl⟩ | ⟨j, hj, ha⟩ := h
  · have : ((K : Int) : Rat) < j + 1 := by push_cast; linarith
    exact_mod_cast Int.lt_add_one_iff.mp (by exact_mod_cast this)
  · linarith [le_abs_self c]

/-- No whole number is nearer than one within half a unit. -/
theorem abs_sub_le_of_half (hK : |(K : Rat) - a| ≤ 1 / 2) (j : Int) :
    |(K : Rat) - a| ≤ |j - a| ∧ ((j : Rat) ≠ K → 1 / 2 ≤ |j - a|) := by
  have hfar : (j : Rat) ≠ K → 1 / 2 ≤ |j - a| := by
    intro hne
    have hone : (1 : Rat) ≤ |(j : Rat) - K| := by
      have : (1 : Int) ≤ |j - K| := Int.one_le_abs (sub_ne_zero.mpr (by exact_mod_cast hne))
      exact_mod_cast this
    have := abs_sub_le (j : Rat) a K
    rw [abs_sub_comm a] at this
    linarith
  refine ⟨?_, hfar⟩
  by_cases h : (j : Rat) = K
  · rw [h]
  · exact hK.trans (hfar h)

/-- A number within half a unit is a nearest one, and a whole number as near lies as far as half a unit. -/
theorem OnGrid.abs_sub_le (h : OnGrid a c) (hK : |(K : Rat) - a| ≤ 1 / 2) :
    |(K : Rat) - a| ≤ |c - a| ∧ (c ≠ K → |(K : Rat) - a| = |c - a| → |(K : Rat) - a| = 1 / 2) := by
  obtain ⟨j, rfl⟩ | ⟨j, hj, ha⟩ := h
  · obtain ⟨hle, hfar⟩ := abs_sub_le_of_half hK j
    exact ⟨hle, fun hne heq => le_antisymm hK (heq ▸ hfar hne)⟩
  · have hlt : |(K : Rat) - a| < |c - a| := by
      calc |(K : Rat) - a| ≤ |((j : Int) : Rat) - a| := (abs_sub_le_of_half hK j).1
        _ = a - j := by rw [abs_sub_comm, abs_of_nonneg] <;> push_cast <;> linarith
        _ < a - c := by linarith [le_abs_self c]
        _ ≤ |c - a| := by rw [abs_sub_comm]; exact le_abs_self _
    exact ⟨hlt.le, fun _ heq => absurd heq hlt.ne⟩

end Grid

/-! The neighbour that a mode asks for (R63). -/

/-- Against the value `w`, `v` is what the mode asks for in place of `x`; `even` decides a tie. -/
structure Picks (m : RMode) (x v w : Rat) (even : Prop) : Prop where
  rtz : m = .rtz → |v| ≤ |x| ∧ (|w| ≤ |x| → |w| ≤ |v|)
  rup : m = .rup → x ≤ v ∧ (x ≤ w → v ≤ w)
  rdn : m = .rdn → v ≤ x ∧ (w ≤ x → w ≤ v)
  rne : m = .rne → |v - x| ≤ |w - x| ∧ (w ≠ v → |v - x| = |w - x| → even)

theorem RoundsTo.picks {m : RMode} {a c : Rat} {K : Nat} (h : RoundsTo m a K) (ha : 0 ≤ a) (hc : OnGrid a c) :
    Picks m a K c (K % 2 = 0) where
  rtz hm := by
    rw [Nat.abs_cast, abs_of_nonneg ha]
    exact ⟨h.down (.inl hm), hc.abs.le_of_le h.lt_succ⟩
  rup hm := ⟨h.up hm, hc.ge_of_ge h.lt_add_one⟩
  rdn hm := ⟨h.down (.inr hm), hc.le_of_le h.lt_succ⟩
  rne hm := by
    obtain ⟨hhalf, heven⟩ := h.even hm
    obtain ⟨hle, htie⟩ := hc.abs_sub_le hhalf
    exact ⟨hle, fun hne heq => heven (htie hne heq)⟩

section Picks

variable {m : RMode} {x v w : Rat} {even : Prop}

theorem Picks.mul_pos {u : Rat} (hu : 0 < u) (h : Picks m x v w even) : Picks m (u * x) (u * v) (u * w) even where
  rtz hm := by simpa only [abs_mul, mul_le_mul_iff_right₀ (abs_pos.mpr hu.ne')] using h.rtz hm
  rup hm := by simpa only [mul_le_mul_iff_right₀ hu] using h.rup hm
  rdn hm := by simpa only [mul_le_mul_iff_right₀ hu] using h.rdn hm
  rne hm := by
    have hu' := abs_pos.mpr hu.ne'
    simpa only [← mul_sub, abs_mul, mul_le_mul_iff_right₀ hu', mul_right_inj' hu'.ne', mul_right_inj' hu.ne', ne_eq]
      using h.rne hm

/-- Below zero, the modes upward and downward change places. -/
theorem Picks.neg (h : Picks (magnitudeMode m true) x v w even) : Picks m (-x) (-v) (-w) even where
  rtz hm := by subst hm; simpa only [abs_neg] using h.rtz rfl
  rup hm := by subst hm; simpa only [neg_le_neg_iff] using h.rdn rfl
  rdn hm := by subst hm; simpa only [neg_le_neg_iff] using h.rup rfl
  rne hm := by
    subst hm
    simpa only [neg_sub_neg, abs_sub_comm x, neg_inj, ne_eq] using h.rne rfl

theorem Picks.signed {n : Bool} {u : Rat} (hu : 0 < u) (h : Picks (magnitudeMode m n) x v w even) :
    Picks m ((if n then -1 else 1) * (u * x)) ((if n then -1 else 1) * (u * v)) ((if n then -1 else 1) * (u * w)) even := by
  have hscaled := h.mul_pos hu
  cases n with
  | false => cases m <;> simpa [magnitudeMode] using hscaled
  | true => simpa using hscaled.neg

end Picks

/-! The rounding of a format (R63, R64, R66). -/

/-- The exponent of the unit in which a format holds a number: that of its binade, or that of the subnormals (R57). -/
def Fmt.unitOf (f : Fmt) (k : Nat) (e : Int) : Int := max ((Nat.log2 k : Int) + e - f.mb) f.qmin

/-- A magnitude in whole units `2 ^ q`, and whether that changed it. -/
def keepUnits (m : RMode) (t : Nat) (n : Bool) (k : Nat) (e q : Int) : Nat × Bool :=
  if e ≤ q then roundKeep m t n k false (q - e).toNat else (k * 2 ^ (e - q).toNat, false)

theorem keepUnits_roundsTo (m : RMode) (t : Nat) (n : Bool) (k : Nat) (e q : Int) :
    RoundsTo (magnitudeMode m n) (realOf false k (e - q)) (keepUnits m t n k e q).1
      ∧ ((keepUnits m t n k e q).2 = true ↔ ((keepUnits m t n k e q).1 : Rat) ≠ realOf false k (e - q)) := by
  by_cases h : e ≤ q
  · have hreal : realOf false k (e - q) = (k : Rat) / 2 ^ (q - e).toNat := by
      rw [realOf_false, div_eq_mul_inv, ← zpow_natCast, ← zpow_neg]
      congr 2
      omega
    rw [keepUnits, if_pos h, hreal, roundKeep_magnitudeMode]
    exact roundKeep_roundsTo _ t k _
  · have hreal : realOf false k (e - q) = ((k * 2 ^ (e - q).toNat : Nat) : Rat) := by
      rw [realOf_false]
      push_cast
      rw [← zpow_natCast]
      congr 2
      omega
    rw [keepUnits, if_neg h, hreal]
    exact ⟨roundsTo_self _ _, by simp⟩

/-- The two results of rounding a number that is not zero: overflow, or the encoding of its units, with NX where they are
not exact. -/
theorem Fmt.round_eq (f : Fmt) (m : RMode) (t : Nat) (n : Bool) {k : Nat} (e : Int) (hk : k ≠ 0) :
    ∃ past tiny : Bool,
      (past = false → f.unitsEnc (f.unitOf k e) (keepUnits m t n k e (f.unitOf k e)).1 ≤ f.maxEnc)
      ∧ f.round m t false n k e false = if past then (f.ovf m n, fOF ||| fNX)
        else (f.signed n (f.unitsEnc (f.unitOf k e) (keepUnits m t n k e (f.unitOf k e)).1),
          if (keepUnits m t n k e (f.unitOf k e)).2 then (if tiny then fUF ||| fNX else fNX) else 0) := by
  refine ⟨?past, ?tiny, ?le, ?eq⟩
  case eq =>
    rw [Fmt.round, if_neg (by simp [hk])]
    simp only [Bool.false_and, Bool.false_eq_true, if_false]
    rfl
  case le =>
    intro h
    rw [Bool.or_eq_false_iff, decide_eq_false_iff_not, not_lt] at h
    exact h.1

section Round

variable {f : Fmt} {m : RMode} {t : Nat} {n : Bool} {k : Nat} {e : Int}

/-- Short of overflow the encoding counts the units of the number, and NX says whether they are exact. -/
theorem Fmt.round_of_no_overflow (hk : k ≠ 0) (h : (f.round m t false n k e false).2 &&& fOF = 0) :
    (f.round m t false n k e false).1
        = f.signed n (f.unitsEnc (f.unitOf k e) (keepUnits m t n k e (f.unitOf k e)).1)
      ∧ f.unitsEnc (f.unitOf k e) (keepUnits m t n k e (f.unitOf k e)).1 ≤ f.maxEnc
      ∧ (f.round m t false n k e false).2.getLsbD 0 = (keepUnits m t n k e (f.unitOf k e)).2 := by
  obtain ⟨past, tiny, hmax, hround⟩ := f.round_eq m t n e hk
  rw [hround] at h ⊢
  cases past with
  | true =>
    rw [if_pos rfl] at h
    exact absurd h (by decide : (fOF ||| fNX) &&& fOF ≠ 0)
  | false =>
    refine ⟨rfl, hmax rfl, ?_⟩
    simp only [Bool.false_eq_true, if_false]
    cases (keepUnits m t n k e (f.unitOf k e)).2 <;> cases tiny <;> rfl

/-- A number that is not zero reaches the unit's binade, unless the unit is that of the subnormals, and not the next one. -/
theorem Fmt.unitOf_bounds (hk : k ≠ 0) :
    (f.unitOf k e = f.qmin ∨ 2 ^ f.mb ≤ realOf false k (e - f.unitOf k e))
      ∧ realOf false k (e - f.unitOf k e) < 2 ^ (f.mb + 1) := by
  have hlow : (2 : Rat) ^ ((Nat.log2 k : Nat) : Int) ≤ k := by
    rw [zpow_natCast]
    exact_mod_cast Nat.log2_self_le hk
  have hhigh : (k : Rat) < 2 ^ ((Nat.log2 k + 1 : Nat) : Int) := by
    rw [zpow_natCast]
    exact_mod_cast Nat.lt_log2_self
  have hpos : (0 : Rat) < 2 ^ (e - f.unitOf k e) := by positivity
  rw [realOf_false]
  constructor
  · by_cases hq : f.unitOf k e = f.qmin
    · exact .inl hq
    · have hunit : f.unitOf k e = (Nat.log2 k : Int) + e - f.mb := by unfold Fmt.unitOf at hq ⊢; omega
      right
      calc (2 : Rat) ^ f.mb = 2 ^ ((Nat.log2 k : Nat) : Int) * 2 ^ (e - f.unitOf k e) := by
            rw [← zpow_natCast, ← zpow_add₀ two_ne_zero, hunit]
            congr 1
            omega
        _ ≤ k * 2 ^ (e - f.unitOf k e) := by gcongr
  · have hunit : (Nat.log2 k : Int) + e - f.mb ≤ f.unitOf k e := le_max_left _ _
    calc (k : Rat) * 2 ^ (e - f.unitOf k e)
        < 2 ^ ((Nat.log2 k + 1 : Nat) : Int) * 2 ^ (e - f.unitOf k e) := by gcongr
      _ ≤ 2 ^ ((f.mb + 1 : Nat) : Int) := by
        rw [← zpow_add₀ two_ne_zero]
        exact zpow_le_zpow_right₀ one_le_two (by push_cast; omega)
      _ = 2 ^ (f.mb + 1) := zpow_natCast _ _

/-- Short of overflow the encoding stands for the whole number of units that the mode takes, and NX says whether it is the
exact number. -/
theorem Fmt.round_units (h : (f.round m t false n k e false).2 &&& fOF = 0) :
    ∃ (q : Int) (K : Nat), f.qmin ≤ q ∧ (q = f.qmin ∨ 2 ^ f.mb ≤ realOf false k (e - q))
      ∧ realOf false k (e - q) < 2 ^ (f.mb + 1) ∧ RoundsTo (magnitudeMode m n) (realOf false k (e - q)) K
      ∧ (f.round m t false n k e false).1 = f.signed n (f.unitsEnc q K) ∧ f.unitsEnc q K ≤ f.maxEnc
      ∧ ((f.round m t false n k e false).2.getLsbD 0 = true ↔ (K : Rat) ≠ realOf false k (e - q)) := by
  by_cases hk : k = 0
  · have hround : f.round m t false n k e false = (f.signed n (f.unitsEnc f.qmin 0), 0) := by
      simp [Fmt.round, hk, Fmt.unitsEnc]
    have hzero : realOf false k (e - f.qmin) = (0 : Nat) := by simp [realOf, hk]
    rw [hround]
    refine ⟨f.qmin, 0, le_rfl, .inl rfl, ?_⟩
    rw [hzero]
    exact ⟨by simp, roundsTo_self _ 0, rfl, by simp [Fmt.unitsEnc], by simp⟩
  · obtain ⟨henc, hmax, hnx⟩ := Fmt.round_of_no_overflow hk h
    obtain ⟨hlow, hhigh⟩ := Fmt.unitOf_bounds (f := f) (e := e) hk
    obtain ⟨hrounds, hexact⟩ := keepUnits_roundsTo m t n k e (f.unitOf k e)
    exact ⟨f.unitOf k e, _, le_max_right _ _, hlow, hhigh, hrounds, henc, hmax, hnx ▸ hexact⟩

/-- Short of overflow, a number is delivered as the neighbour that its mode asks for among the values of the format. -/
theorem Fmt.round_picks (hmb : 0 < f.mb) (heb : 0 < f.eb) (h : (f.round m t false n k e false).2 &&& fOF = 0) :
    ∃ (n1 : Bool) (k1 : Nat) (e1 : Int), f.val (f.round m t false n k e false).1 = .fin n1 k1 e1
      ∧ ((f.round m t false n k e false).2.getLsbD 0 = true ↔ realOf n1 k1 e1 ≠ realOf n k e)
      ∧ ∀ (y : Nat) (n2 : Bool) (k2 : Nat) (e2 : Int), f.val y = .fin n2 k2 e2 →
        Picks m (realOf n k e) (realOf n1 k1 e1) (realOf n2 k2 e2) ((f.round m t false n k e false).1 % 2 = 0) := by
  obtain ⟨q, K, hq, hnormal, hhigh, hrounds, henc, hmax, hnx⟩ := Fmt.round_units h
  have ha : 0 ≤ realOf false k (e - q) := by rw [realOf_false]; positivity
  have hK : K ≤ 2 ^ (f.mb + 1) := by
    have : (K : Rat) < (2 ^ (f.mb + 1) : Nat) + 1 := by push_cast; linarith [hrounds.lt_add_one]
    exact Nat.lt_succ_iff.mp (by exact_mod_cast this)
  have hKnormal : q = f.qmin ∨ 2 ^ f.mb ≤ K := hnormal.imp_right fun hlow => by
    have : ((2 ^ f.mb : Nat) : Rat) < K + 1 := by push_cast; linarith [hrounds.lt_succ]
    exact Nat.lt_succ_iff.mp (by exact_mod_cast this)
  obtain ⟨k1, e1, hval, hreal⟩ := f.val_of_units n hmb heb hq hK hKnormal hmax
  have hunit : (0 : Rat) < 2 ^ q := by positivity
  have hx := realOf_eq_unit_mul n n k e q
  have hv : realOf n K q = (if n then -1 else 1) * ((2 : Rat) ^ q * K) := by
    rw [realOf_eq_unit_mul n n K q q, bne_self_eq_false, realOf_false, sub_self, zpow_zero, mul_one]
  rw [bne_self_eq_false] at hx
  refine ⟨n, k1, e1, henc ▸ hval, ?_, fun y n2 k2 e2 hy => ?_⟩
  · rw [hnx, hreal, hx, hv, ne_eq, ne_eq, mul_right_inj' (by cases n <;> norm_num), mul_right_inj' hunit.ne']
  · obtain ⟨hk2, he2⟩ := Fmt.val_fin_bounds hy
    have heven : f.signed n (f.unitsEnc q K) % 2 = 0 ↔ K % 2 = 0 := by
      have hdvd : 2 ∣ (q - f.qmin).toNat * 2 ^ f.mb := Dvd.dvd.mul_left (dvd_pow_self 2 hmb.ne') _
      rw [f.signed_mod_two n _ hmb, Fmt.unitsEnc]
      omega
    rw [henc, hreal, hx, hv, realOf_eq_unit_mul n n2 k2 e2 q, heven]
    exact (hrounds.picks ha (Fmt.onGrid_of_bounds hk2 he2 hnormal)).signed hunit

end Round

end Sys2Proof.Machine

namespace Sys2Proof.Cube

open Sys2Proof.Machine

/-- Settles O6: the delivered encoding is the whole number of units that the mode takes, and every value of the format is a
whole number of units or lies below them all. -/
theorem roundingPicksTheNeighbourOfItsMode : Obligations.RoundingPicksTheNeighbourOfItsMode := by
  unfold Obligations.RoundingPicksTheNeighbourOfItsMode
  intro ty m n k e f r x h
  obtain ⟨n1, k1, e1, hval, hnx, hpicks⟩ := Fmt.round_picks (fmtOf_mb_pos ty) (fmtOf_eb_pos ty) h
  refine ⟨n1, k1, e1, hval, hnx, fun y n2 k2 e2 hy => ?_⟩
  obtain ⟨hrtz, hrup, hrdn, hrne⟩ := hpicks y n2 k2 e2 hy
  exact ⟨hrtz, hrup, hrdn, hrne⟩

end Sys2Proof.Cube

/-! Enabled floating-point flags (O7, R66): a form whose raised flags are enabled to trap ends before its destination. -/

namespace Sys2Proof.Machine

@[simp] theorem State.orFlags_inProg (s : State) (fl : Flags) : (s.orFlags fl).inProg = s.inProg := rfl

theorem State.orFlags_fpcs (s : State) (fl : Flags) :
    (s.orFlags fl).me.csr.fpcs = s.me.csr.fpcs ||| fl.setWidth 64 := by
  simp [State.orFlags]

@[simp] theorem State.popItem_inProg (s : State) (n : BitVec 3) (rest : List Word) :
    (s.popItem n rest).inProg = s.inProg := by
  simp only [State.popItem]
  split <;> rfl

/-- Reading a source does not change who runs. -/
theorem readS_inProg {s s1 : State} {a : SSrc} {v : Word} (h : s.readS a = .ok (v, s1)) : s1.inProg = s.inProg := by
  by_cases hq : ∃ n, a = .q n
  · obtain ⟨n, rfl⟩ := hq
    obtain ⟨rest, -, rfl⟩ := popQ_ok s s1 n v h
    exact State.popItem_inProg s n rest
  · rw [readS_keeps_state s s1 a v (not_exists.mp hq) h]

/-- What a form does whose flags `fl`, raised in the state `u`, are enabled to trap: it stops with the flags ORed (R66). -/
def FpStops (u : State) (fl : Flags) (x : Except Stop State) : Prop :=
  u.fpTraps fl = true → x = .error (.trapIn (u.orFlags fl) .fp (fl.setWidth 64))

theorem fpDone_stops {u : State} {r fl : Flags} {write : State → Except Stop State} (hfl : r = fl) :
    FpStops u fl (u.fpDone r write) := by
  subst hfl
  exact fun h => if_pos h

section Scalar

variable {s s1 s2 s3 : State} {d : SDst} {a b c : SSrc} {x y z : Word} {fl : Flags}

theorem fop1_stops {op : Word → Word × Flags} (hd : s.dstReady d = .ok ()) (ha : s.readS a = .ok (x, s1))
    (hfl : (op x).2 = fl) : FpStops s1 fl (s.fop1 d a op) := by
  simp only [State.fop1, hd, ha, bind, Except.bind]
  exact fpDone_stops hfl

theorem fop2_stops {op : Word → Word → Word × Flags} (hd : s.dstReady d = .ok ()) (ha : s.readS a = .ok (x, s1))
    (hb : s1.readS b = .ok (y, s2)) (hfl : (op x y).2 = fl) : FpStops s2 fl (s.fop2 d a b op) := by
  simp only [State.fop2, hd, ha, hb, bind, Except.bind]
  exact fpDone_stops hfl

theorem fop3_stops {op : Word → Word → Word → Word × Flags} (hd : s.dstReady d = .ok ())
    (ha : s.readS a = .ok (x, s1)) (hb : s1.readS b = .ok (y, s2)) (hc : s2.readS c = .ok (z, s3))
    (hfl : (op x y z).2 = fl) : FpStops s3 fl (s.fop3 d a b c op) := by
  simp only [State.fop3, hd, ha, hb, hc, bind, Except.bind]
  exact fpDone_stops hfl

end Scalar

/-! Flags of vector forms (R133). -/

theorem toNat_vecElem (v : VWord) (w j : Nat) : (vecElem v w j).toNat = elem v w j := by
  rw [vecElem, BitVec.extractLsb'_toNat, Nat.shiftRight_eq_div_pow, elem, bits]

/-- Flags ORed over all elements, where only active ones raise any, are those of the active elements. -/
theorem foldl_flags_eq_activeFlags {w : Nat} {m : BitVec 32} {f : Nat → Nat × Flags} {r : Nat → Flags}
    (hr : ∀ j, r j = if activeElem m w j then (f j).2 else 0) :
    ((List.range (1024 / w)).map r).foldl (· ||| ·) 0 = activeFlags w m f := by
  rw [activeFlags, List.foldl_map, List.foldl_filter]
  congr 1
  funext z j
  rw [hr, activeElem]
  split <;> simp

theorem fmasked_flags (w : Nat) (m : BitVec 32) (zm : Bool) (old : VWord) (f : Nat → Nat × Flags) :
    (fmasked w m zm old f).2 = activeFlags w m f := by
  simp only [fmasked, List.map_map]
  exact foldl_flags_eq_activeFlags fun j => apply_ite Prod.snd _ _ _

theorem vfDone_stops {s : State} {d : VDst} {w : Nat} {m : BitVec 32} {zm : Bool} {old : VWord} {f : Nat → Nat × Flags} :
    FpStops s (activeFlags w m f) (s.vfDone d (fmasked w m zm old f)) :=
  fpDone_stops (fmasked_flags w m zm old f)

section Form

variable {g : Guard} {s u : State} {fl : Flags} {body : State → Except Stop State}

/-- R66, R370: a form that stops with its flags traps FP at its own address, with the flags in TVAL. -/
theorem runInstr_of_fpStops {len : Nat} (hg : s.guard g = true) (hwide : s.wideBusy = false) (hprog : u.inProg = false)
    (h : FpStops u fl (body s)) (ht : u.fpTraps fl = true) :
    runInstr g len s body = .next ((u.orFlags fl).takeTrap .fp 0 s.me.r.pc (fl.setWidth 64)) := by
  rw [runInstr_error g len s _ body hg (h ht)]
  simp [State.stopped, hwide, State.raise, hprog, TrapCode.resumesNext]

end Form

end Sys2Proof.Machine

namespace Sys2Proof.Cube

open Sys2Proof.Machine

/-- Settles O7: each form stops once its flags are known, before it writes. -/
theorem enabledFlagsTrapBeforeTheDestination : Obligations.EnabledFlagsTrapBeforeTheDestination := by
  unfold Obligations.EnabledFlagsTrapBeforeTheDestination
  intro g ty ety dty cc rop pd md part rm d a b c imm vc vd va vb ve s s1 s2 s3 x y z hg ha hb hc hd hwide hprog
  have hprog1 : s1.inProg = false := (readS_inProg ha).trans hprog
  have hprog2 : s2.inProg = false := (readS_inProg hb).trans hprog1
  have hprog3 : s3.inProg = false := (readS_inProg hc).trans hprog2
  have trap {u : State} {fl : Flags} {body : State → Except Stop State} (hu : u.inProg = false)
      (h : FpStops u fl (body s)) := runInstr_of_fpStops (len := 8) hg hwide hu h
  have one {op : Word → Word × Flags} {fl : Flags} (h : (op x).2 = fl) := fop1_stops hd ha h
  have two {op : Word → Word → Word × Flags} {fl : Flags} (h : (op x y).2 = fl) := fop2_stops hd ha hb h
  simp only [toNat_vecElem, exec]
  refine ⟨trap hprog2 (two rfl), trap hprog2 (two rfl), trap hprog2 (two rfl), trap hprog3 (fop3_stops hd ha hb hc rfl),
    trap hprog2 (two rfl), trap hprog1 (one rfl), trap hprog1 (one rfl), trap hprog1 (one rfl), trap hprog2 (two rfl),
    trap hprog2 (two rfl), trap hprog2 ?fcmp, trap hprog1 (one rfl), trap hprog1 (one rfl), trap hprog1 (one rfl),
    trap hprog vfDone_stops, trap hprog vfDone_stops, trap hprog vfDone_stops, trap hprog vfDone_stops,
    trap hprog vfDone_stops, trap hprog vfDone_stops, trap hprog ?vfcmp, trap hprog vfDone_stops,
    trap hprog vfDone_stops, trap hprog vfDone_stops, trap hprog vfDone_stops, trap hprog1 ?vfcvt, trap hprog ?vfred,
    State.orFlags_fpcs⟩
  case fcmp =>
    simp only [ha, hb, bind, Except.bind]
    exact fpDone_stops rfl
  case vfcmp => exact fpDone_stops (foldl_flags_eq_activeFlags fun j => rfl)
  case vfcvt =>
    simp only [ha, bind, Except.bind]
    exact fpDone_stops (by rw [bits, pow_zero, Nat.div_one]; rfl)
  case vfred =>
    simp only [hd, bind, Except.bind]
    exact fpDone_stops rfl

end Sys2Proof.Cube

/-! Control instructions, `align` and `done` (O15; R80, R99 to R109). -/

namespace Sys2Proof.Machine

section Forms

variable {g : Guard} {len : Nat} {s u : State} {body : State → Except Stop State}

theorem runInstr_flow (hg : s.guard g = true) (hb : body s = .ok u) : runInstr g len s body = .next (u.flow len) :=
  runInstr_ok g len s u body hg hb

/-- A body that is a write of a scalar destination delivers its value. -/
theorem runInstr_delivers {d : SDst} {v : Word} (hg : s.guard g = true) (hb : body s = u.writeS d v) (t : State)
    (ht : u.writeS d v = .ok t) : runInstr g len s body = .next (t.flow len) :=
  runInstr_flow hg (hb.trans ht)

end Forms

/-! `who` (R109). -/

theorem whoWord_eq (tile core hi : Nat) : whoWord tile core hi
    = BitVec.ofNat 64 (tile % 8 + tile / 8 % 8 * 2 ^ 8 + tile / 64 * 2 ^ 16) + BitVec.ofNat 64 (core * 2 ^ 24 + hi) := by
  rw [← BitVec.ofNat_add, whoWord, tileX, tileY, tileZ, ← Nat.add_assoc]

/-- `who 0`: the context's own identifier, with its coordinates in the job. -/
theorem State.whoValue_zero (s : State) : s.whoValue 0 = BitVec.ofNat 64 (s.me.jtile % 8 + s.me.jtile / 8 % 8 * 2 ^ 8
      + s.me.jtile / 64 * 2 ^ 16)
    + BitVec.ofNat 64 (s.cur.core * 2 ^ 24 + s.cur.ctx * 2 ^ 32 + s.me.gen.toNat * 2 ^ 48) := by
  rw [Nat.add_assoc (s.cur.core * 2 ^ 24), ← whoWord_eq]
  rfl

/-- `who 3`: the core's place in the cube. -/
theorem State.whoValue_three (s : State) : s.whoValue 3 = BitVec.ofNat 64 (s.cur.tile % 8 + s.cur.tile / 8 % 8 * 2 ^ 8
      + s.cur.tile / 64 * 2 ^ 16) + BitVec.ofNat 64 (s.cur.core * 2 ^ 24) := by
  change whoWord s.cur.tile s.cur.core 0 = _
  rw [whoWord_eq, Nat.add_zero]

theorem bne_zero_eq_decide (x : Word) : (x != 0) = decide (x ≠ 0) := by
  rw [bne, decide_not, beq_eq_decide]

/-- The bit of a truth table that two predicates pick (R103). -/
theorem truth_eq_getLsbD (tt : BitVec 4) (a b : Bool) : truth tt a b = tt.getLsbD (2 * a.toNat + b.toNat) := by
  cases a <;> cases b <;> rfl

/-! The iteration fetcher (R105). -/

section Load

variable (f : Nest) (e st en : Word) (step : BitVec 32)

theorem Nest.load_ext : (f.load e st en step).ext = e := by
  simp only [Nest.load]
  split <;> rfl

theorem Nest.load_stop : (f.load e st en step).stop = BitVec.ofNat 64 (Nat.min en.toNat (nestTotal e)) := by
  simp only [Nest.load]
  split <;> rfl

theorem Nest.load_step : (f.load e st en step).step = step := by
  simp only [Nest.load]
  split <;> rfl

/-- A load is active exactly when its range is not empty. -/
theorem Nest.load_active : (f.load e st en step).active = decide (st.toNat < Nat.min en.toNat (nestTotal e)) := by
  simp only [Nest.load]
  split
  next h => exact (decide_eq_true h).symm
  next h => exact (decide_eq_false h).symm

/-- A load of a range that is not empty stands at its first iteration. -/
theorem Nest.load_first (h : st.toNat < Nat.min en.toNat (nestTotal e)) :
    (f.load e st en step).next = BitVec.ofNat 64 (st.toNat + step.toNat)
      ∧ (f.load e st en step).i = nestUnpack e st.toNat := by
  simp only [Nest.load, if_pos h, and_self]

end Load

/-! `align` (R107). -/

theorem mem_of_aget {α : Type} {m : Assoc α} {k : Nat} {v : α} (h : aget m k = some v) : (k, v) ∈ m := by
  induction m with
  | nil => cases h
  | cons p t ih =>
    obtain ⟨n, w⟩ := p
    simp only [aget] at h
    split at h
    next e => cases h; exact e ▸ List.mem_cons_self
    next => exact List.mem_cons_of_mem _ (ih h)

/-- A context that a core lists is listed by the tile. -/
theorem Tile.listed_of_mem_core {t : Tile} {n : Nat} {q : Nat × Ctx} (h : q ∈ (t.core n).ctxs) :
    ∃ k, (n, k) ∈ t.cores ∧ q ∈ k.ctxs := by
  unfold Tile.core at h
  cases hk : aget t.cores n with
  | none => rw [hk] at h; cases h
  | some k => exact ⟨k, mem_of_aget hk, by simpa [hk] using h⟩

/-- Whether the others of a launch have counted as often does not depend on the context that asks. -/
theorem Tile.alignMet_setCtx {t : Tile} {id : CtxId} {c x : Ctx} {k : BitVec 4} {n : Nat}
    (h : t.alignMet id c k n = true) :
    (t.setCore id.core ((t.core id.core).setCtx id.ctx x)).alignMet id c k n = true := by
  simp only [Tile.alignMet, List.all_eq_true] at h ⊢
  intro p hp q hq
  rcases mem_aset _ _ _ _ hp with rfl | hp
  · rcases mem_aset _ _ _ _ hq with rfl | hq
    · simp
    · obtain ⟨k', hk', hq'⟩ := Tile.listed_of_mem_core hq
      exact h _ hk' q hq'
  · exact h p hp q hq

/-- The state in which the executing context has counted one more `align k`. -/
def State.counted (s : State) (k : BitVec 4) : State :=
  s.setMe { s.me with aligns := s.me.aligns.set k.toNat (s.me.alignCount k + 1) k.isLt }

section Align

variable {g : Guard} {k : BitVec 4} {s : State}

theorem alignOver_counted_of_no_launch (h : s.me.launch = none) (n since : Nat) :
    (s.counted k).alignOver k n since = true := by
  simp [State.alignOver, State.counted, h]

theorem alignOver_counted_of_met {n : Nat} (h : s.myTile.alignMet s.cur s.me k n = true) (since : Nat) :
    (s.counted k).alignOver k n since = true := by
  have hme : (s.counted k).me = { s.me with aligns := s.me.aligns.set k.toNat (s.me.alignCount k + 1) k.isLt } :=
    State.me_setMe s _
  have htile : (s.counted k).myTile = s.myTile.setCore s.cur.core ((s.myTile.core s.cur.core).setCtx s.cur.ctx
      { s.me with aligns := s.me.aligns.set k.toNat (s.me.alignCount k + 1) k.isLt }) := State.tile_setTile_same _ _ _
  have hmet : (s.counted k).myTile.alignMet s.cur (s.counted k).me k n = true := by
    rw [htile, hme]
    exact Tile.alignMet_setCtx (c := s.me) h
  simp only [State.alignOver, Bool.or_eq_true]
  exact .inl (.inr hmet)

/-- An `align` that is over once it has counted completes at its issue. -/
theorem completes_align (hg : s.guard g = true) (hw : s.me.wait = .none)
    (h : (s.counted k).alignOver k (s.me.alignCount k + 1) s.time = true) :
    Completes (.align g k) s (s.counted k) 8 := by
  change execAlign g k s = _
  refine runInstr_flow hg ?_
  dsimp only
  split
  next e => exact nomatch hw.symm.trans e
  next => exact if_pos h

/-- A state in which a context executes acts for that context. -/
theorem State.actAs_cur (h : s.inProg = false) : s.actAs s.cur = s := by
  rw [State.actAs, ← h]

theorem exec_alignTimeout_of_due {j n since : Nat} (hw : s.me.wait = .align j n since) (ha : s.me.active = true)
    (hdue : since + 256 ≤ s.time) (hp : s.inProg = false) :
    exec (.alignTimeout s.cur.tile s.cur.core s.cur.ctx) s = .next ((s.setMe { s.me with wait := .none }).advance 8) := by
  change execAlignTimeout s.cur.tile s.cur.core s.cur.ctx s = _
  have hs : { s with cur := ⟨s.cur.tile, s.cur.core, s.cur.ctx⟩, inProg := false } = s := State.actAs_cur hp
  simp only [execAlignTimeout, hs, hw, ha, if_pos hdue]
  rfl

end Align

/-! `done` (R80). -/

section Done

variable {s : State} {b : Bool}

@[simp] theorem State.ctx_memberDown (s : State) (slot : Nat) (serial : Option Nat) (id : CtxId) :
    (s.memberDown slot serial).ctx id = s.ctx id := by
  cases serial <;> rfl

/-- The context that ends is free and keeps its generation and its registers. -/
theorem State.ctx_freeContext (s : State) : s.freeContext.ctx s.cur = s.me.freed := by
  simp only [State.freeContext, State.ctx_memberDown]
  exact State.me_setMe _ _

/-- What DONE_COMPLETE does once nothing is left in the context's engines (R80 step 2). -/
theorem exec_doneComplete_of_idle (hw : s.me.wait = .ending b) (ha : s.me.active = true) (hp : s.inProg = false)
    (hr : s.myTile.runs s.me.slot s.me.jtile = true) (he : s.engineBusy = false) (hprog : s.programBusy = false)
    (hd : s.drained = true) :
    exec (.doneComplete s.cur.tile s.cur.core s.cur.ctx) s = runEvent s (
      if s.me.hostWrote then if s.asking then none else some (s.hostRequest 0 0 .flush false)
      else if s.hostPending then none else some s.freeContext) := by
  change execDoneComplete s.cur.tile s.cur.core s.cur.ctx s = _
  have hs : s.actAs ⟨s.cur.tile, s.cur.core, s.cur.ctx⟩ = s := State.actAs_cur hp
  have hrt : (s.tile s.cur.tile).runs s.me.slot s.me.jtile = true := hr
  simp [execDoneComplete, hs, hw, ha, hrt, he, hprog, hd]

end Done

end Sys2Proof.Machine

namespace Sys2Proof.Cube

open Sys2Proof.Machine

/-- Settles O15: each control instruction by the body that it runs, `align` by whether it is over once it has counted, and
DONE_COMPLETE by what is left of its context. -/
theorem controlInstructionsAlignAndDone : Obligations.ControlInstructionsAlignAndDone := by
  unfold Obligations.ControlInstructionsAlignAndDone
  refine ⟨fun g hdr pd pa pb ps n tt d a b c stp s s1 s2 s3 x y z hg ha hb hc => ?registers, fun g k s hg => ?waits⟩
  case registers =>
    intro m xyz ext stop ok
    dsimp only [Completes, Delivers, exec]
    refine ⟨runInstr_flow hg rfl, runInstr_flow hg ?table, runInstr_flow hg ?toPred,
      runInstr_delivers hg ?fromPred, runInstr_flow hg ?toMask, runInstr_delivers hg rfl,
      runInstr_delivers hg ?who0, runInstr_delivers hg rfl, runInstr_delivers hg ?who3,
      ⟨_, runInstr_delivers hg rfl⟩, s3.me.nest.load x y z stp, runInstr_flow hg ?nest, Nest.load_ext _ _ _ _ _,
      Nest.load_stop _ _ _ _ _, Nest.load_step _ _ _ _ _, Nest.load_active _ _ _ _ _, fun hok => ?first⟩
    case table => rw [truth_eq_getLsbD]
    case toPred =>
      simp only [State.pmov, ha, Except.map]
      rw [bne_zero_eq_decide]
    case fromPred =>
      simp only [State.pmov]
      congr 1
      cases s.readP n <;> rfl
    case toMask => simp only [State.pmov, ha, Except.map]
    case who0 => exact congrArg (s.writeS d) s.whoValue_zero
    case who3 => exact congrArg (s.writeS d) s.whoValue_three
    case nest =>
      simp only [ha, hb, hc, bind, Except.bind, Nest.load_active]
      rfl
    case first =>
      obtain ⟨hnext, hi⟩ := Nest.load_first s3.me.nest x y z stp (of_decide_eq_true hok)
      rw [hi]
      exact ⟨hnext, rfl, rfl, rfl, rfl⟩
  case waits =>
    intro m n counted met
    refine ⟨fun hw hl => completes_align hg hw (alignOver_counted_of_no_launch hl _ _),
      fun hw hmet => completes_align hg hw (alignOver_counted_of_met hmet _),
      fun j n' since hw ha hdue hp => exec_alignTimeout_of_due hw ha hdue hp, ?done,
      fun b hw ha hp hr he hprog hd hhost hpend => ?free, fun b hw ha hp hr he hprog hd hhost hask => ?flush⟩
    case done =>
      change execDone g s = _
      exact runBranch_ok g 8 s _ _ hg rfl
    case free =>
      have hhost' : s.me.hostWrote = false := hhost
      refine ⟨s.freeContext, ?_, ?_⟩
      · simp [exec_doneComplete_of_idle hw ha hp hr he hprog hd, hhost', hpend, runEvent]
      · rw [State.ctx_freeContext]
        exact ⟨rfl, rfl, rfl, rfl⟩
    case flush =>
      have hhost' : s.me.hostWrote = true := hhost
      simp [exec_doneComplete_of_idle hw ha hp hr he hprog hd, hhost', hask, runEvent]

end Sys2Proof.Cube

/-! Starts of activations (O41; R75, R78, R89, R301, R303). -/

namespace Sys2Proof.Machine

/-- Generations run from 1 and pass over 0 (R75). -/
theorem nextGen_eq (g : BitVec 16) : nextGen g = if g = 0xFFFF then 1 else g + 1 := by
  have h : g + 1 = 0 ↔ g = 0xFFFF := by constructor <;> intro h <;> bv_omega
  simp only [nextGen, h]

/-- What R75, R78 and R89 say of the context `c` that an activation of the message `m` has started in. -/
def StartedAs (c : Ctx) (g : BitVec 16) (det : Bool) (n slot jt : Nat) (pc : Word) (cls allot : Nat) (m : Msg) : Prop :=
  let pay := (List.range 6).map (fun i => if i < m.h0.toNat / 2 ^ 56 % 8 then m.pay.getD i 0 else 0)
  c.active = true ∧ c.gen = (if g = 0xFFFF then 1 else g + 1) ∧ c.slot = slot ∧ c.jtile = jt ∧ c.cls = cls
    ∧ c.allot = allot ∧ c.r.pc = pc ∧ c.handler = true ∧ c.wait = .none ∧ c.src = m.h1 ∧ c.launch = m.launch
    ∧ (∀ i : Fin 64, c.r.g[i] = if i.val < 8 then ([m.h0] ++ pay ++ [m.h1]).getD i.val 0 else 0)
    ∧ (∀ i : Fin 32, c.r.v[i] = 0) ∧ (∀ i : Fin 8, c.r.o[i] = 0) ∧ c.r.lat = 0 ∧ c.r.vlat = 0 ∧ c.r.p = 1
    ∧ c.r.m[0] = 0xFFFFFFFF ∧ (∀ i : Fin 8, i ≠ 0 → c.r.m[i] = 0) ∧ (∀ i : Fin 8, c.q[i] = ⟨[], 0, []⟩)
    ∧ c.dirty.g = 0xFF ∧ c.dirty.v = 0 ∧ c.pend = [] ∧ c.prog = none
    ∧ c.csr.rngs = (if det then 0 else BitVec.ofNat 64 n)

/-- The masks at a start: m0 is full, the others are empty. -/
theorem Regs.start_m (i : Fin 8) (h : i ≠ 0) : Regs.start.m[i] = 0 := by
  revert i
  decide

theorem Start.ctx_startedAs (a : Start) (old : Ctx) (det : Bool) (n jt time : Nat) :
    StartedAs (a.ctx old det n jt time) old.gen det n a.msg.slot jt a.pc a.cls a.allot a.msg := by
  refine ⟨rfl, nextGen_eq _, rfl, rfl, rfl, rfl, rfl, rfl, rfl, rfl, rfl, fun i => ?g, fun i => ?v, fun i => ?o, rfl, rfl, rfl,
    rfl, Regs.start_m, fun i => ?q, rfl, rfl, rfl, rfl, rfl⟩
  case g => simp [Start.ctx, Start.regs, hLen, hf, bits]
  case v => simp [Start.ctx, Start.regs, Regs.start]
  case o => simp [Start.ctx, Start.regs, Regs.start]
  case q => simp [Start.ctx, Queue.empty]

/-- The words of a message's payload below its length lie in g1 and on. -/
theorem Start.regs_payload (a : Start) {j : Nat} (hj : j < hLen a.msg.h0) (h6 : j < 6) :
    a.regs.g[1 + j]? = some (a.msg.pay.getD j 0) := by
  have hlt : j + 1 < 64 := by omega
  have h8 : j + 1 < 8 := by omega
  rw [Nat.add_comm 1 j, Vector.getElem?_eq_getElem hlt]
  simp only [Start.regs, Vector.getElem_ofFn, if_pos h8, List.cons_append, List.getD_cons_succ]
  rw [List.getD_append _ _ _ _ (by simpa using h6)]
  simp [h6, hj]

/-! The state after a start. -/

section Start

variable (s : State) (tile core n jt : Nat) (a : Start)

theorem State.ctx_start_same : (s.start tile core n jt a).ctx ⟨tile, core, n⟩
    = a.ctx ((s.core tile core).ctx n) (s.slot a.msg.slot).det n jt s.time := by
  simp only [State.start, State.ctx, State.core_setCore_same]
  exact Core.ctx_setCtx_same _ _ _

theorem State.ctx_start_other {q : Nat} (h : q ≠ n) :
    (s.start tile core n jt a).ctx ⟨tile, core, q⟩ = s.ctx ⟨tile, core, q⟩ := by
  simp only [State.start, State.ctx, State.core_setCore_same]
  exact Core.ctx_setCtx_other _ _ _ _ h

theorem State.inbox_start : ((s.start tile core n jt a).core tile core).inbox = (s.core tile core).inbox := by
  simp only [State.start, State.core_setCore_same]
  rfl

end Start

/-! Which message starts (R301). -/

section Considered

variable {s u : State} {tile core i : Nat} {m : Msg}

/-- The first class that considers a message which can start, or is malformed, decides. -/
theorem startFirst_of_considered {before after : List Nat} {c : Nat} (hb : ∀ d ∈ before, s.considered tile core d = none)
    (hc : s.considered tile core c = some (m, i)) (ht : s.tryStart tile core m i = some u) :
    s.startFirst tile core (before ++ c :: after) = some u := by
  induction before with
  | nil => simp [State.startFirst, hc, ht]
  | cons d rest ih =>
    have hd := hb d List.mem_cons_self
    simp [State.startFirst, hd, ih fun e he => hb e (List.mem_cons_of_mem d he)]

theorem exec_activationStart_of_considered {cls : Nat} (hcls : cls < 4) (hb : ∀ c < cls, s.considered tile core c = none)
    (hc : s.considered tile core cls = some (m, i)) (ht : s.tryStart tile core m i = some u) :
    exec (.activationStart tile core) s = .next u := by
  have hlist : ∃ after, [0, 1, 2, 3] = List.range cls ++ cls :: after := by
    interval_cases cls <;> exact ⟨_, rfl⟩
  obtain ⟨after, hafter⟩ := hlist
  have hfirst := startFirst_of_considered (after := after) (fun d hd => hb d (List.mem_range.mp hd)) hc ht
  rw [← hafter] at hfirst
  change execActivationStart tile core s = _
  rw [execActivationStart, hfirst, runEvent_enabled]

/-- A header lies in the code of its job, and gives one of the four allotments. -/
theorem headerOf_some {pc : Word} {allot : Nat} (h : s.headerOf m = some (pc, allot)) :
    pc = (s.slot m.slot).code + BitVec.ofNat 64 (4 * hOfs m.h0) ∧ allot ∈ [0, 8, 16, 32] := by
  have hval : ∀ k, valAllot k ∈ [0, 8, 16, 32] := by
    intro k
    unfold valAllot
    split <;> simp
  unfold State.headerOf at h
  extract_lets at h
  split at h
  · cases h
  split at h
  · cases h
  split at h
  · cases h
  split at h
  · split at h
    · cases h
    · obtain ⟨hpc, hallot⟩ := Prod.mk.inj (Option.some.inj h)
      exact ⟨hpc.symm, hallot ▸ hval _⟩
  · cases h

end Considered

/-! The Bittern context (R303). -/

section Bittern

variable {s u : State} {tile core slot jt code : Nat} {l : List Word}

/-- Taking the reason changes no context and no slot. -/
theorem bitternReason_keeps (h : s.bitternReason tile core slot jt = some (code, l, u)) :
    u.slots = s.slots ∧ ∀ q, (u.core tile core).ctx q = (s.core tile core).ctx q := by
  have htake : ∀ hs, (s.setCore tile core { s.core tile core with held := hs }).slots = s.slots
      ∧ ∀ q, ((s.setCore tile core { s.core tile core with held := hs }).core tile core).ctx q = (s.core tile core).ctx q := by
    intro hs
    rw [State.core_setCore_same]
    exact ⟨rfl, fun q => rfl⟩
  unfold State.bitternReason at h
  extract_lets at h
  split at h
  · cases h
    exact htake _
  · cases h
    exact htake _
  · split at h
    · cases h
      exact ⟨rfl, fun q => rfl⟩
    · split at h
      · cases h
        exact ⟨rfl, fun q => rfl⟩
      · cases h

/-- What the Bittern context starts with (notes/assumptions/23.md). -/
def bitternMsg (core slot jt bh code : Nat) (l : List Word) (seen : Seen) : Msg where
  slot := slot
  h0 := BitVec.ofNat 64 (6 * 2 ^ 56 + core * 2 ^ 43 + jt * 2 ^ 32 + bh)
  h1 := BitVec.ofNat 64 (srcFields 8 core jt)
  pay := BitVec.ofNat 64 code :: l
  launch := none
  sluice := false
  dispatch := false
  waiter := none
  notice := false
  num := 0
  seen := seen
  behind := none
  nest := none

theorem hLen_bitternMsg {bh : Nat} (seen : Seen) (hc : core < 32) (hj : jt < 1536) (hb : bh < 2 ^ 32) :
    hLen (bitternMsg core slot jt bh code l seen).h0 = 6 := by
  simp only [hLen, hf, bits, bitternMsg, BitVec.toNat_ofNat]
  omega

theorem exec_bitternStart_of_reason {bh : Nat} (hh : (s.tile tile).holder = some slot) (hjt : (s.tile tile).jtile = jt)
    (hbh : ((s.core tile core).job (jobKey slot jt)).mbbh.toNat % 2 ^ 32 = bh) (ha : (s.ctx ⟨tile, core, 8⟩).active = false)
    (hst : aget (s.tile tile).stopping slot = none) (hb0 : bh ≠ 0) (hr : s.bitternReason tile core slot jt = some (code, l, u)) :
    exec (.bitternStart tile core) s = .next (u.start tile core 8 jt
      ⟨bitternMsg core slot jt bh code l s.allSeen, (s.slot slot).code + BitVec.ofNat 64 (4 * bh), 0, 0, 0, false, none⟩) := by
  subst hjt
  have hbits : hf ((s.core tile core).job (jobKey slot (s.tile tile).jtile)).mbbh 0 32 = bh := by
    rw [← hbh, hf, bits, pow_zero, Nat.div_one]
  change execBitternStart tile core s = _
  simp only [execBitternStart, hh, hbits, ha, hst, hr, beq_eq_false_iff_ne.mpr hb0]
  rfl

end Bittern

end Sys2Proof.Machine

namespace Sys2Proof.Cube

open Sys2Proof.Machine

/-- Settles O41: the message of the first class that may start fills its context, and so does the Bittern context's. -/
theorem activationsStartAsTheirMessageSays : Obligations.ActivationsStartAsTheirMessageSays := by
  unfold Obligations.ActivationsStartAsTheirMessageSays
  intro tile core s k started
  refine ⟨fun cls m i n w pc allot hcls hb hc hh hp => ?starts, fun cls m i hcls hb hc hh => ?malformed,
    fun slot code l u hh ha hst hb0 hr hl hcore hjt => ?bittern, fun m pc allot h => ?header⟩
  case starts =>
    let a : Start := ⟨m, pc, hCls m.h0, allot, w, ownsReply m, if hStage m.h0 then some (hStageNum m.h0) else none⟩
    let gone := s.setCore tile core { k with inbox := k.inbox.eraseIdx i }
    have hgone : gone.core tile core = { k with inbox := k.inbox.eraseIdx i } := State.core_setCore_same _ _ _ _
    have htry : s.tryStart tile core m i = some (gone.start tile core n (hTile m.h0) a) := by
      simp only [State.tryStart, hh, hp, Option.map_some]
      rfl
    refine ⟨_, exec_activationStart_of_considered hcls hb hc htry, ?_, ?_, fun q hq => ?_, rfl⟩
    · have h := a.ctx_startedAs (k.ctx n) (s.slot m.slot).det n (hTile m.h0) s.time
      have hctx : (gone.start tile core n (hTile m.h0) a).ctx ⟨tile, core, n⟩
          = a.ctx (k.ctx n) (s.slot m.slot).det n (hTile m.h0) s.time := by
        rw [State.ctx_start_same, hgone]
        rfl
      rw [← hctx] at h
      exact h
    · rw [State.inbox_start, hgone]
    · rw [State.ctx_start_other _ _ _ _ _ _ hq, State.ctx, hgone]
      rfl
  case header => simpa [hOfs, hf, bits] using headerOf_some h
  case malformed =>
    refine exec_activationStart_of_considered hcls hb hc ?_
    simp only [State.tryStart, hh]
    rfl
  case bittern =>
    obtain ⟨hslots, hctxs⟩ := bitternReason_keeps hr
    let jt := (s.tile tile).jtile
    let bh := (k.job (jobKey slot jt)).mbbh.toNat % 2 ^ 32
    let m := bitternMsg core slot jt bh code l s.allSeen
    let a : Start := ⟨m, (s.slot slot).code + BitVec.ofNat 64 (4 * bh), 0, 0, 0, false, none⟩
    have hlen : hLen m.h0 = 6 := hLen_bitternMsg _ hcore hjt (Nat.mod_lt _ (by norm_num))
    have hctx : (u.start tile core 8 jt a).ctx ⟨tile, core, 8⟩ = a.ctx (k.ctx 8) (s.slot slot).det 8 jt u.time := by
      rw [State.ctx_start_same, hctxs]
      simp only [State.slot, hslots]
      rfl
    refine ⟨_, m, exec_bitternStart_of_reason hh rfl rfl ha hst hb0 hr, ?_, ?_, fun i hi => ?_⟩
    · have h := a.ctx_startedAs (k.ctx 8) (s.slot slot).det 8 jt u.time
      rw [← hctx] at h
      exact h
    · rw [hctx]
      have h := a.regs_payload (j := 0) (by rw [hlen]; omega) (by omega)
      exact Option.some.inj h
    · rw [hctx]
      have h := a.regs_payload (j := i + 1) (by rw [hlen]; omega) (by omega)
      rw [show 2 + i = 1 + (i + 1) by omega]
      refine h.trans ?_
      rw [List.getElem?_eq_getElem (by omega)]
      change some ((BitVec.ofNat 64 code :: l).getD (i + 1) 0) = _
      simp [hl, hi]

end Sys2Proof.Cube

/-! Fetch ports and posted updates (O52; R95, R96, R208 to R227, R319, R344, R378). -/

namespace Sys2Proof.Machine

/-! The fetch port (R95, R96). -/

/-- Contexts do not depend on what else a tile holds. -/
theorem State.ctx_setTile_of_cores (s : State) (n : Nat) (t : Tile) (h : t.cores = (s.tile n).cores) (id : CtxId) :
    (s.setTile n t).ctx id = s.ctx id := by
  have htile : ((s.setTile n t).tile id.tile).cores = (s.tile id.tile).cores := by
    by_cases e : id.tile = n
    · rw [e, State.tile_setTile_same, h]
    · rw [State.tile_setTile_other _ _ _ _ e]
  simp only [State.ctx, State.core, Tile.core, htile]

/-- A request of a tile is one of its own contexts. -/
theorem fetchReqs_tile {s : State} {tile : Nat} {r : FetchReq} (h : r ∈ s.fetchReqs tile) : r.id.tile = tile := by
  simp only [State.fetchReqs, List.mem_flatMap] at h
  obtain ⟨k, -, p, -, h⟩ := h
  split at h
  · rcases List.mem_append.mp h with h | h
    · obtain ⟨w, -, rfl⟩ := List.mem_map.mp h
      rfl
    · split at h
      · obtain ⟨w, -, rfl⟩ := List.mem_map.mp h
        rfl
      · cases h
  · cases h

/-- With one request that hits, the port serves that one. -/
theorem nextGroup_of_one_hit {t : Tile} {r : FetchReq} {rest : List FetchReq} (hr : (t.iblock r.asid r.block).isSome = true)
    (hrest : ∀ q ∈ rest, (t.iblock q.asid q.block).isNone = true) : nextGroup t (r :: rest) = some [r] := by
  have hhits : (r :: rest).filter (fun q => (t.iblock q.asid q.block).isSome) = [r] := by
    have hnone : rest.filter (fun q => (t.iblock q.asid q.block).isSome) = [] :=
      List.filter_eq_nil_iff.mpr fun q hq => by simpa using hrest q hq
    rw [List.filter_cons_of_pos (p := fun q : FetchReq => (t.iblock q.asid q.block).isSome) hr, hnone]
  simp only [nextGroup, hhits]
  simp [FetchReq.group]

section Deliver

variable (s : State) {r : FetchReq} (data : BitVec 256)

theorem State.ctx_deliver_same (h : r.prog = false) : (s.deliver r data).ctx r.id = { s.ctx r.id with
    fetched := (s.ctx r.id).fetched.filter (fun p => p.1 != r.block) ++ [(r.block, data)]
    wanted := (s.ctx r.id).wanted.filter (fun p => p.1 != r.block) } := by
  simp [State.deliver, h]

theorem State.ctx_deliver_other {q : CtxId} (h : q ≠ r.id) : (s.deliver r data).ctx q = s.ctx q :=
  State.ctx_setCtx_other _ _ _ _ h

end Deliver

/-- A tile whose instruction cache has noted the use of a block. -/
def Tile.usedBlock (t : Tile) (b : IBlock) (now : Nat) : Tile :=
  { t with icache := t.icache.map (fun x => if x.asid = b.asid ∧ x.va = b.va then { x with used := now } else x) }

theorem exec_fetchDelivery_of_one_hit {s : State} {tile : Nat} {r : FetchReq} {rest : List FetchReq} {b : IBlock}
    (hreqs : s.fetchReqs tile = r :: rest) (hb : (s.tile tile).iblock r.asid r.block = some b)
    (hrest : ∀ q ∈ rest, ((s.tile tile).iblock q.asid q.block).isNone = true) :
    exec (.fetchDelivery tile) s
      = .next ((s.setTile tile ((s.tile tile).usedBlock b s.time)).deliver r b.data) := by
  have hgroup := nextGroup_of_one_hit (t := s.tile tile) (r := r) (rest := rest) (by rw [hb]; rfl) hrest
  change execFetchDelivery tile s = _
  simp only [execFetchDelivery, hreqs, hgroup, hb]
  rfl

theorem exec_icacheFill_of_missing {s : State} {tile : Nat} {asid : BitVec 16} {block : BitVec 64} {r : FetchReq}
    {data : BitVec 256} {l : List IBlock}
    (hfind : (s.fetchReqs tile).find? (fun r => r.asid == asid.toNat && r.block == block) = some r)
    (hmiss : (s.tile tile).iblock asid.toNat block = none) (hpage : (s.execPage (s.ctx r.id).slot block).isSome = true)
    (hthere : s.evictedAt asid.toNat block.toNat = none) (hcode : s.codeBlock (s.ctx r.id).slot block = some data)
    (hroom : (s.tile tile).iroom block = some l) (hbusy : s.unitBusy (s.agentOf r.id) block.toNat = false) :
    let u := s.setTile tile { s.tile tile with icache := l ++ [⟨asid, block, none, s.time, data⟩] }
    exec (.icacheFill tile asid block) s
      = .next (if regionOf block.toNat ≤ 3 then u.touchSector asid.toNat block.toNat 0 else u) := by
  have htile := fetchReqs_tile (List.mem_of_find?_eq_some hfind)
  have hkey := List.find?_some hfind
  simp only [Bool.and_eq_true, beq_iff_eq] at hkey
  obtain ⟨hasid, hblock⟩ := hkey
  have hpage' : (s.execPage (s.ctx r.id).slot block).isNone = false := by
    rw [Option.isNone_eq_false_iff]
    exact hpage
  change execIcacheFill tile asid block s = _
  simp only [execIcacheFill, hfind, hmiss, hpage', hthere, State.fillBlock, State.ifill, hasid, hblock, htile, hcode, hroom,
    hbusy, BitVec.ofNat_toNat, BitVec.setWidth_eq]
  rfl

/-- The less recently used of two blocks, the first on a tie. -/
def olderBlock (m : Option IBlock) (b : IBlock) : Option IBlock :=
  match m with
  | none => some b
  | some x => if b.used < x.used then some b else some x

/-- Going through blocks keeps one of them, and none of them was used earlier. -/
theorem foldl_olderBlock (l : List IBlock) (x : IBlock) : ∃ v, l.foldl olderBlock (some x) = some v
    ∧ (v = x ∨ v ∈ l) ∧ v.used ≤ x.used ∧ ∀ b ∈ l, v.used ≤ b.used := by
  induction l generalizing x with
  | nil => exact ⟨x, rfl, .inl rfl, le_rfl, fun b hb => by cases hb⟩
  | cons b t ih =>
    simp only [List.foldl_cons, olderBlock]
    by_cases h : b.used < x.used
    · obtain ⟨v, hv, hmem, hle, hall⟩ := ih b
      refine ⟨v, by rw [if_pos h, hv], .inr ?_, by omega, ?_⟩
      · rcases hmem with rfl | hmem
        · exact List.mem_cons_self
        · exact List.mem_cons_of_mem _ hmem
      · simpa using ⟨hle, hall⟩
    · obtain ⟨v, hv, hmem, hle, hall⟩ := ih x
      refine ⟨v, by rw [if_neg h, hv], hmem.imp_right (List.mem_cons_of_mem _), hle, ?_⟩
      simpa using ⟨by omega, hall⟩

/-- Room in a set: nothing goes while it holds fewer than eight blocks, and then the least recently used unpinned one (R95). -/
theorem iroom_some {t : Tile} {va : Word} {l : List IBlock} (h : t.iroom va = some l) :
    let mine := t.icache.filter (fun b => iset b.va == iset va)
    (mine.length < 8 → l = t.icache)
    ∧ (8 ≤ mine.length → ∃ v ∈ mine, v.pinned = none ∧ (∀ b ∈ mine, b.pinned = none → v.used ≤ b.used)
      ∧ l = t.icache.filter (fun b => b != v)) := by
  intro mine
  unfold Tile.iroom at h
  dsimp only at h
  split at h
  next hlen =>
    cases h
    exact ⟨fun _ => rfl, fun h8 => absurd hlen (Nat.not_lt.mpr h8)⟩
  next hlen =>
    refine ⟨fun h8 => absurd h8 hlen, fun _ => ?_⟩
    split at h
    · cases h
    next v hv =>
      cases h
      have hfold : (mine.filter (fun b => b.pinned.isNone)).foldl olderBlock none = some v := hv
      cases hfree : mine.filter (fun b => b.pinned.isNone) with
      | nil => rw [hfree] at hfold; cases hfold
      | cons x rest =>
        obtain ⟨v', hv', hmem, hle, hall⟩ := foldl_olderBlock rest x
        rw [hfree] at hfold
        obtain rfl : v' = v := Option.some.inj (hv'.symm.trans hfold)
        have hin : v' ∈ mine.filter (fun b => b.pinned.isNone) := by
          rw [hfree]
          exact List.mem_cons.mpr hmem
        obtain ⟨hmine, hpin⟩ := List.mem_filter.mp hin
        refine ⟨v', hmine, Option.isNone_iff_eq_none.mp hpin, fun b hb hbp => ?_, rfl⟩
        have hb' : b ∈ x :: rest := hfree ▸ List.mem_filter.mpr ⟨hb, Option.isNone_iff_eq_none.mpr hbp⟩
        rcases List.mem_cons.mp hb' with rfl | hb'
        · exact hle
        · exact hall b hb'

/-! Which posted update performs (R208, R210, R227). -/

theorem firstSome_eq_none {α β : Type} {f : α → Option β} {l : List α} (h : ∀ a ∈ l, f a = none) : firstSome f l = none := by
  induction l with
  | nil => rfl
  | cons a t ih => simp [firstSome, h a List.mem_cons_self, ih fun b hb => h b (List.mem_cons_of_mem a hb)]

theorem isArrival_of_isRed {p : Posted} (h : p.isRed = true) : p.isArrival = false := by
  unfold Posted.isRed at h
  unfold Posted.isArrival
  split at h
  next e => simp [e]
  next => cases h

theorem isRed_of_isArrival {p : Posted} (h : p.isArrival = true) : p.isRed = false := by
  by_contra hr
  rw [isArrival_of_isRed (Bool.eq_true_of_not_eq_false hr)] at h
  cases h

section PerformOne

variable {s : State} {tile : Nat} {p : Posted}

theorem performOne_of_not_red (h : p.isRed = false) : s.performOne tile p = s.perform p := by
  simp [State.performOne, h]

/-- A `red` performs once none of its targets faults (R223). -/
theorem performOne_of_no_fault (hp : s.faultOf p = none)
    (hall : ∀ q ∈ (s.tile tile).posted ++ (s.tile tile).sideLog, p.sameGroup q = true → s.faultOf q = none) :
    s.performOne tile p = s.perform p := by
  have hnone : firstSome s.faultOf (p :: ((s.tile tile).posted ++ (s.tile tile).sideLog).filter p.sameGroup) = none := by
    refine firstSome_eq_none fun q hq => ?_
    rcases List.mem_cons.mp hq with rfl | hq
    · exact hp
    · obtain ⟨hmem, hsame⟩ := List.mem_filter.mp hq
      exact hall q hmem hsame
  simp only [State.performOne, hnone, Option.map_none]
  cases p.isRed <;> rfl

end PerformOne

section Posted

variable {s u : State} {tile k : Nat} {p : Posted} {arrival : Bool}

/-- The state in which the k-th posted update of a tile has left the others and its context acts. -/
def State.unposted (s : State) (tile k : Nat) (p : Posted) : State :=
  (s.setTile tile { s.tile tile with posted := (s.tile tile).posted.eraseIdx k }).actAs p.owner

/-- Nothing that comes before a posted update is left. -/
structure IsNext (s : State) (tile k : Nat) (p : Posted) : Prop where
  runs : (s.tile tile).runs p.slot p.jtile = true
  posted : (s.tile tile).posted[k]? = some p
  earlier : (s.tile tile).earlier p = false
  wide : ∀ w ∈ (s.tile tile).wide, w.owner ≠ p.owner
  host : s.hostFirst p = false

theorem IsNext.wide_any (h : IsNext s tile k p) : (s.tile tile).wide.any (fun w => w.owner == p.owner) = false := by
  rw [List.any_eq_false]
  intro w hw
  simpa using h.wide w hw

theorem performPosted_of_ok (h : IsNext s tile k p) (ha : p.isArrival = arrival)
    (hg : arrival = true → (s.tile tile).groupLeft p = false) (hp : (s.unposted tile k p).performOne tile p = .ok u) :
    s.performPosted tile k arrival = some u := by
  have hleft : (arrival && (s.tile tile).groupLeft p) = false := by cases arrival <;> simp_all
  unfold State.unposted at hp
  simp only [State.performPosted, h.posted, ha, h.runs, hleft, h.host, h.earlier, h.wide_any, bne_self_eq_false, Bool.not_true,
    Bool.or_self, Bool.false_eq_true, if_false, hp]

theorem performPosted_of_fault {va : Word} {w : Bool} (h : IsNext s tile k p) (ha : p.isArrival = false)
    (hp : (s.unposted tile k p).performOne tile p = .error (.fault va w)) :
    s.performPosted tile k false = (s.unposted tile k p).postedStop tile p (.fault va w) := by
  unfold State.unposted at hp ⊢
  simp only [State.performPosted, h.posted, ha, h.runs, h.host, h.earlier, h.wide_any, bne_self_eq_false, Bool.not_true,
    Bool.or_self, Bool.false_and, Bool.false_eq_true, if_false, hp]

/-- A side log with an entry more has it before the first that comes later in its context's program order (R214). -/
theorem logInsert_splits (l : List Posted) (p : Posted) :
    let later (q : Posted) : Prop := q.sameOwner p = true ∧ p.group < q.group
    ∃ a b, l = a ++ b ∧ logInsert l p = a ++ p :: b ∧ (∀ q ∈ a, ¬ later q) ∧ ∀ q, b.head? = some q → later q := by
  intro later
  let isLater (q : Posted) : Bool := q.sameOwner p && decide (p.group < q.group)
  have hiff : ∀ q, isLater q = true ↔ later q := fun q => by simp [isLater, later]
  refine ⟨l.takeWhile (fun q => !isLater q), l.dropWhile (fun q => !isLater q), List.takeWhile_append_dropWhile.symm, rfl,
    fun q hq => ?_, fun q hq => ?_⟩
  · have h := List.mem_takeWhile_imp hq
    rw [← hiff]
    simpa using h
  · rw [← List.find?_eq_head?_dropWhile_not] at hq
    exact (hiff q).mp (List.find?_some hq)

/-- The state in which the acting context's side log has taken an update and its fault is reported. -/
def State.logged (s : State) (p : Posted) (va : Word) : State :=
  let s1 := s.setTile s.cur.tile { s.myTile with sideLog := logInsert s.myTile.sideLog p }
  { s1 with nextId := s.nextId + 1, mg := { s.mg with faults := s.mg.faults ++ [⟨.sideLog s.cur.tile, s.me.slot, va, true⟩] } }

theorem State.tile_logged (s : State) (p : Posted) (va : Word) :
    (s.logged p va).tile s.cur.tile = { s.myTile with sideLog := logInsert s.myTile.sideLog p } :=
  State.tile_setTile_same _ _ _

theorem logUpdates_of_room {va : Word} (h : s.myTile.sideLog.length < 128) :
    s.logUpdates [p] (some va) = .ok (s.logged p va) := by
  simp only [State.logUpdates, List.length_singleton, if_neg (by omega : ¬ 128 < s.myTile.sideLog.length + 1)]
  rfl

/-- An update that meets a page fault alone goes into a side log with a free entry, and the fault is reported (R214, R378). -/
theorem postedStop_fault_of_room {va : Word} {w : Bool} (hcur : s.cur.tile = tile) (hroom : (s.tile tile).sideLog.length < 128)
    (hno : ∀ q ∈ (s.tile tile).posted, p.takes q = false) : ∃ u, s.postedStop tile p (.fault va w) = some u
      ∧ (u.tile tile).sideLog = logInsert (s.tile tile).sideLog p ∧ (u.tile tile).posted = (s.tile tile).posted
      ∧ ∃ f : PageFault, u.mg.faults = s.mg.faults ++ [f] ∧ f.va = va ∧ f.write = true ∧ f.who = .sideLog tile := by
  subst hcur
  let x := s.setTile s.cur.tile { s.myTile with posted := s.myTile.posted }
  have hgroup : s.myTile.posted.filter p.takes = [] := List.filter_eq_nil_iff.mpr fun q hq => by simp [hno q hq]
  have hrest : s.myTile.posted.filter (fun q => !p.takes q) = s.myTile.posted :=
    List.filter_eq_self.mpr fun q hq => by simp [hno q hq]
  have htile : x.myTile = s.myTile := State.tile_setTile_same _ _ _
  have hlog : (x.logged p va).tile s.cur.tile = { s.myTile with sideLog := logInsert s.myTile.sideLog p } := by
    rw [← htile]
    exact x.tile_logged p va
  refine ⟨x.logged p va, ?_, congrArg Tile.sideLog hlog, (congrArg Tile.posted hlog).trans rfl, _, rfl, rfl, rfl, rfl⟩
  change (match (s.setTile s.cur.tile { s.myTile with posted := s.myTile.posted.filter (fun q => !p.takes q) }).logUpdates
      (p :: s.myTile.posted.filter p.takes) (some va) with | .ok u => some u | .error _ => none) = _
  rw [hgroup, hrest, logUpdates_of_room (htile ▸ hroom : x.myTile.sideLog.length < 128)]

end Posted

/-! Performing while no record is kept (R208, R221, R226, R227, R344). -/

theorem bind_ok_inv {ε α β : Type} {x : Except ε α} {f : α → Except ε β} {b : β} (h : (x >>= f) = .ok b) :
    ∃ a, x = .ok a ∧ f a = .ok b := by
  cases x with
  | error e => cases h
  | ok a => exact ⟨a, rfl, h⟩

/-- Located bytes are one location for each byte. -/
theorem length_of_locate {s : State} {ag : Agent} {write o : Bool} {e : Nat} {l : List Nat} {locs : List Loc}
    (h : s.locate ag write o e l = .ok locs) : locs.length = l.length := by
  unfold State.locate at h
  obtain ⟨-, -, h⟩ := bind_ok_inv h
  obtain ⟨-, -, h⟩ := bind_ok_inv h
  obtain ⟨-, -, h⟩ := bind_ok_inv h
  obtain ⟨-, -, h⟩ := bind_ok_inv h
  split at h
  · cases h
  · obtain ⟨-, -, h⟩ := bind_ok_inv h
    obtain ⟨-, -, h⟩ := bind_ok_inv h
    cases h
    exact List.length_map _

theorem length_of_locateRmw {s : State} {ag : Agent} {l : List Nat} {locs : List Loc} (h : s.locateRmw ag l = .ok locs) :
    locs.length = l.length := by
  obtain ⟨-, -, h⟩ := bind_ok_inv h
  exact length_of_locate h

theorem writeLocs_record (s : State) (l : List (Loc × Byte)) : (s.writeLocs l).record = s.record := by
  induction l generalizing s with
  | nil => rfl
  | cons c t ih =>
    have hone : (s.writeLoc c.1 c.2).record = s.record := by
      unfold State.writeLoc
      split <;> rfl
    exact (ih _).trans hone

theorem respond_record (s : State) : s.respond.record = s.record := by
  unfold State.respond
  refine foldl_keeps State.record _ ?_ _ _
  exact fun _ _ => rfl

theorem store_record (s : State) (l : List (Loc × Byte)) : (s.store l).record = s.record :=
  (respond_record _).trans (writeLocs_record s l)

theorem touchReads_record (s : State) (l : List Loc) : (s.touchReads l).record = s.record := by
  unfold State.touchReads
  refine foldl_keeps State.record _ ?_ _ _
  exact fun _ _ => rfl

theorem touchReads_mem (s : State) (l : List Loc) : (s.touchReads l).mem = s.mem := by
  unfold State.touchReads
  refine foldl_keeps State.mem _ ?_ _ _
  exact fun _ _ => rfl

/-- A tile that differs in no byte of its scratchpad. -/
theorem setTile_spad (s : State) (n d : Nat) (t : Tile) (h : t.spad = (s.tile n).spad) :
    ((s.setTile n t).tile d).spad = (s.tile d).spad := by
  by_cases e : d = n
  · rw [e, State.tile_setTile_same, h]
  · rw [State.tile_setTile_other _ _ _ _ e]

theorem touchReads_spad (s : State) (l : List Loc) (d : Nat) : ((s.touchReads l).tile d).spad = (s.tile d).spad := by
  unfold State.touchReads
  refine foldl_keeps (fun u : State => (u.tile d).spad) _ ?_ _ _
  exact fun _ _ => setTile_spad _ _ _ _ rfl

theorem logAt_mem (s : State) (p : Point) : (s.logAt p).mem = s.mem := by
  unfold State.logAt
  cases p <;> rfl

theorem logAt_spad (s : State) (p : Point) (d : Nat) : ((s.logAt p).tile d).spad = (s.tile d).spad := by
  unfold State.logAt
  cases p
  case port | hostPort => rfl
  all_goals exact setTile_spad _ _ _ _ rfl

/-! The units of an access are its bytes (R196, R197). -/

theorem flatten_chunksOf {α : Type} {n : Nat} (hn : 0 < n) {k : Nat} {l : List α} (h : l.length ≤ k) :
    (chunksOf n k l).flatten = l := by
  induction k generalizing l with
  | zero =>
    obtain rfl := List.length_eq_zero_iff.mp (Nat.le_zero.mp h)
    rfl
  | succ k ih =>
    cases l with
    | nil => rfl
    | cons a t =>
      rw [chunksOf, List.flatten_cons, ih, List.take_append_drop]
      · simp only [List.length_drop, List.length_cons] at h ⊢
        omega
      · simp

theorem flatten_chunks {α : Type} (n : Nat) (l : List α) : (chunks n l).flatten = l :=
  flatten_chunksOf (Nat.le_max_left 1 n) le_rfl

theorem flatten_flatMap_of_flatten {α : Type} {f : List α → List (List α)} (hf : ∀ u, (f u).flatten = u)
    (l : List (List α)) : (l.flatMap f).flatten = l.flatten := by
  induction l with
  | nil => rfl
  | cons u t ih => rw [List.flatMap_cons, List.flatten_append, hf, ih, List.flatten_cons]

theorem flatten_unitsOf {α : Type} (n : Nat) (l : List (Nat × α)) : (unitsOf n l).flatten = l := by
  unfold unitsOf
  rw [flatten_flatMap_of_flatten, flatten_chunks]
  intro u
  cases u with
  | nil => rfl
  | cons c t =>
    dsimp only
    split
    · simp
    · rw [← List.flatMap_def, List.flatMap_singleton']

theorem flatten_accessUnits (acc unit : Nat) (l : List (Nat × Loc × Byte)) :
    (accessUnits acc unit l).flatten.flatten = l.map Prod.snd := by
  have h : ∀ cs : List (List (Nat × Loc × Byte)),
      (cs.map (fun x => (unitsOf unit x).map (fun u => u.map Prod.snd))).flatten.flatten = cs.flatten.map Prod.snd := by
    intro cs
    induction cs with
    | nil => rfl
    | cons x t ih =>
      rw [List.map_cons, List.flatten_cons, List.flatten_append, ih, ← List.map_flatten, flatten_unitsOf, List.flatten_cons,
        List.map_append]
  rw [accessUnits, h, flatten_chunks]

/-- A gradient sum is kept modulo 2^96, with its sign extended (R344). -/
theorem gridAfter_eq (old : Nat) (n : BitVec 96) : gridAfter old n = ((BitVec.ofNat 96 old + n).signExtend 128).toNat := by
  have hint : ∀ x : BitVec 96, intVal true 96 x.toNat = x.toInt := by
    intro x
    have hlt := x.isLt
    rw [intVal, BitVec.toInt_eq_toNat_cond, Nat.mod_eq_of_lt hlt]
    simp only [Bool.true_and, decide_eq_true_eq]
    split_ifs <;> omega
  have hsum : (old + n.toNat) % 2 ^ 96 = (BitVec.ofNat 96 old + n).toNat := by
    rw [BitVec.toNat_add, BitVec.toNat_ofNat, Nat.mod_add_mod]
  rw [gridAfter, hsum, hint, BitVec.signExtend, BitVec.toNat_ofInt]

section InOrder

variable {s : State} {p : Posted} (hk : s.record.keep = false)

theorem told_inOrder {u : State} (h : u.record.keep = false) (locs : List Loc) (got made : Seen) :
    u.told p locs got made = u := by
  simp [State.told, h]

include hk

/-- A posted store writes its bytes where they lie, and sends those of host memory there. -/
theorem perform_store_inOrder {o : Bool} {e unit acc : Nat} {cells : List Host.Cell} {l : List Loc}
    (hu : p.upd = .store o e unit acc cells) (hl : s.locate p.agent true o e (cells.map Prod.fst) = .ok l) :
    s.perform p = .ok ((s.store (l.zip (cells.map Prod.snd))).hostStores (some (p.attr, p.passing))
      (((cells.map Prod.fst).zip l).zip (cells.map Prod.snd))) := by
  have hbytes : ((cells.map Prod.fst).zip (l.zip (cells.map Prod.snd))).map Prod.snd = l.zip (cells.map Prod.snd) :=
    List.map_snd_zip (by simp)
  have hkeep : (s.store (l.zip (cells.map Prod.snd))).record.keep = false := by rw [store_record, hk]
  simp only [State.perform, hu, hl, bind, Except.bind, writeAs_inOrder _ _ _ _ _ _ _ hk, flatten_accessUnits, hbytes,
    told_inOrder hkeep]

theorem rmwFor_of_some {pass : Passing} {locs : List Loc} {f : Nat → Option (List Byte)} {bs : List Byte}
    (hf : f (s.loadNat locs) = some bs) : s.rmwFor p pass locs f = (s.loadNat locs, s.store (locs.zip bs)) := by
  have hkeep : (s.store (locs.zip bs)).record.keep = false := by rw [store_record, hk]
  simp only [State.rmwFor, rmwAs_old_inOrder _ _ _ _ _ _ hk, rmwAs_after_of_some _ _ _ _ _ _ hk hf, told_inOrder hkeep]
  rfl

theorem rmwFor_of_none {pass : Passing} {locs : List Loc} {f : Nat → Option (List Byte)}
    (hf : f (s.loadNat locs) = none) : s.rmwFor p pass locs f = (s.loadNat locs, s.touchReads locs) := by
  have hkeep : (s.touchReads locs).record.keep = false := by rw [touchReads_record, hk]
  simp only [State.rmwFor, rmwAs_old_inOrder _ _ _ _ _ _ hk, rmwAs_after_of_none _ _ _ _ _ _ hk hf, told_inOrder hkeep]
  rfl

/-- A posted read-modify-write outside host memory leaves the result of its operation. -/
theorem perform_rmw_inOrder {op : AmoOp} {n : Nat} {va y : Word} {l : List Loc} (hu : p.upd = .rmw op n va y)
    (hl : s.locateRmw p.agent (span va n) = .ok l) (hport : s.portBusy p.agent p.scope va.toNat = false)
    (hhost : ∀ h, Loc.host h ∉ l) :
    s.perform p = .ok (s.store (l.zip (bytesOf n (amoNew op (8 * n) (s.loadNat l) y.toNat)))) := by
  have hrmw := rmwFor_of_some (p := p) hk (pass := p.passing) (locs := l)
    (f := fun x => some (bytesOf n (amoNew op (8 * n) x y.toNat))) rfl
  simp only [State.perform, hu, hl, hport, ready, bind, Except.bind, Bool.not_false, if_true]
  split
  next h t => exact absurd List.mem_cons_self (hhost h)
  next => rw [hrmw]

theorem perform_grid_inOrder {va : Word} {n : BitVec 96} {l : List Loc} (hu : p.upd = .grid va n)
    (hl : s.locateRmw p.agent (span va 16) = .ok l) : s.perform p
      = .ok (s.store (l.zip (bytesOf 16 ((BitVec.ofNat 96 (s.loadNat l) + n).signExtend 128).toNat))) := by
  have hrmw := rmwFor_of_some (p := p) hk (pass := p.passing) (locs := l)
    (f := fun x => some (bytesOf 16 (gridAfter x n))) rfl
  rw [← gridAfter_eq]
  simp only [State.perform, hu, hl, bind, Except.bind, hrmw]

section Arrive

variable {va : Word} {l : List Loc} (hu : p.upd = .arrive va)
  (hport : s.portBusy p.agent p.scope va.toNat = false) (hl : s.locateRmw p.agent (span va 8) = .ok l)
include hu hport hl

/-- An arrival that does not pass 2^64 - 1 adds one. -/
theorem perform_arrive_inOrder (hlt : s.loadNat l < 2 ^ 64 - 1) : s.perform p = .ok (s.storeNat l (s.loadNat l + 1)) := by
  have hne : s.loadNat l ≠ 2 ^ 64 - 1 := by omega
  have hlen : l.length = 8 := by rw [length_of_locateRmw hl]; simp [span]
  have hrmw := rmwFor_of_some (p := p) hk (pass := ⟨p.fences, p.seen⟩) (locs := l)
    (f := fun v => if v = 2 ^ 64 - 1 then none else some (bytesOf 8 (v + 1))) (if_neg hne)
  simp only [State.perform, hu, State.arriveFor, hl, hport, ready, bind, Except.bind, Bool.not_false, if_true, hrmw, if_neg hne,
    State.storeNat, hlen]

/-- An arrival that finds 2^64 - 1 is logged and writes nothing. -/
theorem perform_arrive_full (hfull : s.loadNat l = 2 ^ 64 - 1) : ∃ u, s.perform p = .ok u ∧ u.mem = s.mem
    ∧ ∀ d, (u.tile d).spad = (s.tile d).spad := by
  have hrmw := rmwFor_of_none (p := p) hk (pass := ⟨p.fences, p.seen⟩) (locs := l)
    (f := fun v => if v = 2 ^ 64 - 1 then none else some (bytesOf 8 (v + 1))) (if_pos hfull)
  refine ⟨(s.touchReads l).logAt (s.rmwPoint p.scope l), ?_, ?_, fun d => ?_⟩
  · simp only [State.perform, hu, State.arriveFor, hl, hport, ready, bind, Except.bind, Bool.not_false, if_true, hrmw,
      if_pos hfull]
  · rw [logAt_mem, touchReads_mem]
  · rw [logAt_spad, touchReads_spad]

end Arrive

end InOrder

/-- An entry of a side log that nothing comes before replays and leaves the log (R214). -/
theorem replay_of_ok {s u : State} {tile k : Nat} {p : Posted} (hr : (s.tile tile).runs p.slot p.jtile = true)
    (hk : (s.tile tile).sideLog[k]? = some p) (hfirst : ∀ q ∈ (s.tile tile).sideLog.take k, q.sameOwner p = false)
    (hposted : ∀ q ∈ (s.tile tile).posted, q.sameOwner p = true → p.group ≤ q.group) (ha : p.isArrival = false)
    (hh : s.hostFirst p = false) (hword : (s.actAs p.owner).hostWord p = none)
    (hp : (s.actAs p.owner).performOne tile p = .ok u) : s.replay tile k
      = some (u.setTile tile { u.tile tile with sideLog := (u.tile tile).sideLog.eraseIdx k }) := by
  have hlog : ((s.tile tile).sideLog.take k).any (fun q => q.sameOwner p && !(p.sameGroup q && q.isArrival)) = false := by
    rw [List.any_eq_false]
    intro q hq
    simp [hfirst q hq]
  have hold : (s.tile tile).posted.any (fun q => q.sameOwner p && decide (q.group < p.group)) = false := by
    rw [List.any_eq_false]
    intro q hq
    simpa using fun h => hposted q hq h
  simp only [State.replay, hk, hr, hlog, hold, ha, hh, hp, hword, Bool.not_true, Bool.or_self, Bool.false_and,
    Bool.false_eq_true, if_false]

end Sys2Proof.Machine

namespace Sys2Proof.Cube

open Sys2Proof.Machine

/-- Settles O52: the fetch port by its one request that hits, each posted update by what it performs once nothing comes before
it. -/
theorem fetchPortsAndPostedUpdatesServeTheirTile : Obligations.FetchPortsAndPostedUpdatesServeTheirTile := by
  unfold Obligations.FetchPortsAndPostedUpdatesServeTheirTile
  refine ⟨fun tile s => ?fetch, fun tile k s p => ?posted⟩
  case fetch =>
    intro t
    refine ⟨fun r rest b hreqs hrest hprog hb htile => ?deliver, fun asid block r data l hfind hmiss hpage hev hcode hroom hbusy =>
      exec_icacheFill_of_missing hfind hmiss hpage hev hcode hroom hbusy, fun va l hroom => iroom_some hroom⟩
    case deliver =>
      have hctx : ∀ q, (s.setTile tile (t.usedBlock b s.time)).ctx q = s.ctx q :=
        State.ctx_setTile_of_cores s tile (t.usedBlock b s.time) rfl
      refine ⟨_, exec_fetchDelivery_of_one_hit hreqs hb hrest, ?_, ?_, ?_, rfl, fun q hq => ?_⟩
      · rw [State.ctx_deliver_same _ _ hprog, hctx]
      · rw [State.ctx_deliver_same _ _ hprog, hctx]
      · rw [State.ctx_deliver_same _ _ hprog, hctx]
      · have hne : q ≠ r.id := fun e => hq (by rw [e])
        rw [State.ctx_deliver_other _ _ hne, hctx]
  case posted =>
    intro t hruns
    refine ⟨fun hk hearlier hwide => ?leaves, fun hk hfirst hposted ha hred hh u hword hu => ?replays,
      fun o e n acc cells l hin hu hl => perform_store_inOrder hin.1 hu hl,
      fun op n va y l hin hu hl hport hhost => perform_rmw_inOrder hin.1 hu hl hport hhost,
      fun va n l hin hu hl => perform_grid_inOrder hin.1 hu hl,
      fun va l hin hu hport hl => ⟨perform_arrive_inOrder hin.1 hu hport hl, perform_arrive_full hin.1 hu hport hl⟩⟩
    case leaves =>
      intro s1
      have hnext (hh : s.hostFirst p = false) : IsNext s tile k p := ⟨hruns, hk, hearlier, hwide, hh⟩
      refine ⟨fun ha hred hh u hu => ?access, fun hred hh hfault hgroup u hu => ?red, fun ha hleft hh u hu => ?arrival,
        fun o e n acc cells va w hupd hh hu howner hroom hno => ?fault⟩
      case access =>
        exact congrArg (runEvent s) (performPosted_of_ok (hnext hh) ha (by simp) ((performOne_of_not_red hred).trans hu))
      case red =>
        exact congrArg (runEvent s) (performPosted_of_ok (hnext hh) (isArrival_of_isRed hred) (by simp)
          ((performOne_of_no_fault hfault hgroup).trans hu))
      case arrival =>
        exact congrArg (runEvent s) (performPosted_of_ok (hnext hh) ha (fun _ => hleft)
          ((performOne_of_not_red (isRed_of_isArrival ha)).trans hu))
      case fault =>
        have ha : p.isArrival = false := by simp only [Posted.isArrival, hupd]
        have hred : p.isRed = false := by simp only [Posted.isRed, hupd]
        have hstop := performPosted_of_fault (hnext hh) ha ((performOne_of_not_red hred).trans hu)
        have htile : (s.unposted tile k p).tile tile = { t with posted := t.posted.eraseIdx k } :=
          State.tile_setTile_same _ _ _
        obtain ⟨u, hu', hlog, hposted, hfaults⟩ := postedStop_fault_of_room (s := s.unposted tile k p) (p := p) (va := va) (w := w)
          (tile := tile) howner (by rw [htile]; exact hroom) (by
            rw [htile]
            intro q hq
            have hq' := List.mem_of_mem_eraseIdx hq
            cases hg : p.sameGroup q with
            | false => simp [Posted.takes, hg]
            | true => simp [Posted.takes, hred, hno q hq' hg])
        rw [htile] at hlog hposted
        obtain ⟨a, b, hab, hins, hbefore, hafter⟩ := logInsert_splits t.sideLog p
        exact ⟨u, congrArg (runEvent s) (hstop.trans hu'), ⟨a, b, hab, hlog.trans hins, hbefore, hafter⟩, hposted, hfaults⟩
    case replays =>
      exact congrArg (runEvent s) (replay_of_ok hruns hk hfirst hposted ha hh hword ((performOne_of_not_red hred).trans hu))

end Sys2Proof.Cube

/-! The frame of instructions that compute on registers (O60; R81, R82, R110, R129). -/

namespace Sys2Proof.Machine

/-! What a step keeps of everything but the registers of the executing context. -/

/-- What such an instruction keeps beside registers: all that `State.sameBut` names, and of its own context the system
registers but those of flags and traps, the fetcher, the generation and the launch. -/
def State.keepsOwn (s t : State) : Prop :=
  s.sameBut t ∧ t.me.csr = { s.me.csr with
      fpcs := t.me.csr.fpcs, tcause := t.me.csr.tcause, tepc := t.me.csr.tepc, tval := t.me.csr.tval }
    ∧ t.me.nest = s.me.nest ∧ t.me.gen = s.me.gen ∧ t.me.launch = s.me.launch

/-- A context with other registers, flags and trap registers keeps the rest. -/
def Ctx.keeps (c x : Ctx) : Prop :=
  x.csr = { c.csr with fpcs := x.csr.fpcs, tcause := x.csr.tcause, tepc := x.csr.tepc, tval := x.csr.tval }
    ∧ x.nest = c.nest ∧ x.gen = c.gen ∧ x.launch = c.launch

theorem Ctx.keeps_of_csr_eq {c x : Ctx} (hcsr : x.csr = c.csr) (hnest : x.nest = c.nest) (hgen : x.gen = c.gen)
    (hlaunch : x.launch = c.launch) : c.keeps x :=
  ⟨by rw [hcsr], hnest, hgen, hlaunch⟩

theorem Ctx.keeps_of_csr {c x : Ctx} {f a b v : Word} (hcsr : x.csr = { c.csr with fpcs := f, tcause := a, tepc := b, tval := v })
    (hnest : x.nest = c.nest) (hgen : x.gen = c.gen) (hlaunch : x.launch = c.launch) : c.keeps x :=
  ⟨by rw [hcsr], hnest, hgen, hlaunch⟩

/-- `t` comes from `s` with the same context executing, and of its registers those that the view `π` shows are as they were. -/
structure Leaves (π : Regs → Regs) (s t : State) : Prop where
  cur : t.cur = s.cur
  own : s.keepsOwn t
  regs : π t.me.r = π s.me.r

theorem State.sameBut_refl (s : State) : s.sameBut s :=
  ⟨rfl, rfl, rfl, rfl, rfl, fun _ => ⟨rfl, rfl, rfl, rfl, rfl, rfl, rfl, rfl, rfl, fun _ => rfl⟩, fun _ _ => rfl⟩

theorem State.sameBut_trans {s t u : State} (hcur : t.cur = s.cur) (h : s.sameBut t) (h' : t.sameBut u) : s.sameBut u := by
  obtain ⟨hm, hr, hl, hq, hh, ht, hc⟩ := h
  obtain ⟨hm', hr', hl', hq', hh', ht', hc'⟩ := h'
  refine ⟨hm'.trans hm, hr'.trans hr, hl'.trans hl, hq'.trans hq, hh'.trans hh, fun d => ?_,
    fun id hid => (hc' id (hcur ▸ hid)).trans (hc id hid)⟩
  obtain ⟨h1, h2, h3, h4, h5, h6, h7, h8, h9, h10⟩ := ht d
  obtain ⟨g1, g2, g3, g4, g5, g6, g7, g8, g9, g10⟩ := ht' d
  exact ⟨g1.trans h1, g2.trans h2, g3.trans h3, g4.trans h4, g5.trans h5, g6.trans h6, g7.trans h7, g8.trans h8,
    g9.trans h9, fun c => (g10 c).trans (h10 c)⟩

/-- A core of the executing context's tile with the same copy commands and the same other contexts is no change to the rest. -/
theorem State.sameBut_setCore (s : State) (k : Core) (hcopies : k.copies = s.myCore.copies)
    (hctx : ∀ n, n ≠ s.cur.ctx → k.ctx n = s.myCore.ctx n) : s.sameBut (s.setCore s.cur.tile s.cur.core k) := by
  refine ⟨rfl, rfl, rfl, rfl, rfl, fun d => ?_, fun id hid => ?_⟩
  · have hcore : ∀ c, ((s.setCore s.cur.tile s.cur.core k).core d c).copies = (s.core d c).copies := by
      intro c
      by_cases h : (d, c) = (s.cur.tile, s.cur.core)
      · obtain ⟨rfl, rfl⟩ := Prod.mk.inj h
        rw [State.core_setCore_same]
        exact hcopies
      · rw [State.core_setCore_other _ _ _ _ _ _ h]
    by_cases h : d = s.cur.tile
    · subst h
      have htile : (s.setCore s.cur.tile s.cur.core k).tile s.cur.tile = (s.tile s.cur.tile).setCore s.cur.core k :=
        State.tile_setTile_same _ _ _
      rw [htile]
      exact ⟨rfl, rfl, rfl, rfl, rfl, rfl, rfl, rfl, rfl, hcore⟩
    · have htile : (s.setCore s.cur.tile s.cur.core k).tile d = s.tile d := State.tile_setTile_other _ _ _ _ h
      rw [htile]
      exact ⟨rfl, rfl, rfl, rfl, rfl, rfl, rfl, rfl, rfl, hcore⟩
  · unfold State.ctx
    by_cases h : (id.tile, id.core) = (s.cur.tile, s.cur.core)
    · obtain ⟨ht, hc⟩ := Prod.mk.inj h
      have hn : id.ctx ≠ s.cur.ctx := fun e => hid (by cases id; cases hs : s.cur; simp_all)
      rw [ht, hc, State.core_setCore_same]
      exact hctx _ hn
    · rw [State.core_setCore_other _ _ _ _ _ _ h]

section Leaves

variable {π : Regs → Regs} {s t u : State}

theorem Leaves.refl (s : State) : Leaves π s s := ⟨rfl, ⟨s.sameBut_refl, rfl, rfl, rfl, rfl⟩, rfl⟩

theorem Leaves.trans (h : Leaves π s t) (h' : Leaves π t u) : Leaves π s u := by
  obtain ⟨hcur, ⟨hsame, hcsr, hnest, hgen, hlaunch⟩, hregs⟩ := h
  obtain ⟨hcur', ⟨hsame', hcsr', hnest', hgen', hlaunch'⟩, hregs'⟩ := h'
  exact ⟨hcur'.trans hcur, ⟨State.sameBut_trans hcur hsame hsame', by rw [hcsr', hcsr], hnest'.trans hnest,
    hgen'.trans hgen, hlaunch'.trans hlaunch⟩, hregs'.trans hregs⟩

/-- Replacing the executing context leaves what the new one keeps. -/
theorem Leaves.setMe {x : Ctx} (h : Leaves π s t) (hx : t.me.keeps x) (hr : π x.r = π t.me.r) :
    Leaves π s (t.setMe x) := by
  have hme : (t.setMe x).me = x := State.me_setMe t x
  refine h.trans ⟨rfl, ⟨t.sameBut_setCore _ rfl fun n hn => Core.ctx_setCtx_other _ _ _ _ hn, ?_⟩, ?_⟩
  · rw [hme]
    exact hx
  · rw [hme, hr]

/-- What reads alike through the view reads as before. -/
theorem Leaves.reads {α : Type} (h : Leaves π s t) {f : Regs → α} (hf : ∀ r, f (π r) = f r) : f t.me.r = f s.me.r := by
  rw [← hf, h.regs, hf]

/-- A state that differs only beside contexts, tiles and memory. -/
theorem Leaves.of_eq {u : State} (h : Leaves π s t) (hcur : u.cur = t.cur) (htiles : u.tiles = t.tiles) (hmem : u.mem = t.mem)
    (hrecord : u.record = t.record) (hlate : u.late = t.late) (hreqs : u.hostReqs = t.hostReqs) (hhomes : u.homes = t.homes) :
    Leaves π s u := by
  have htile : ∀ d, u.tile d = t.tile d := fun d => by rw [State.tile, State.tile, htiles]
  have hcore : ∀ d c, u.core d c = t.core d c := fun d c => by rw [State.core, State.core, htile]
  have hctx : ∀ id, u.ctx id = t.ctx id := fun id => by rw [State.ctx, State.ctx, hcore]
  have hme : u.me = t.me := by rw [State.me, State.me, hcur, hctx]
  refine h.trans ⟨hcur, ⟨⟨hmem, hrecord, hlate, hreqs, hhomes, fun d => ?_, fun id _ => hctx id⟩, ?_⟩, ?_⟩
  · simp only [htile, hcore, implies_true, and_self]
  · simp only [hme, and_self]
  · rw [hme]

theorem Leaves.setSlot (h : Leaves π s t) (n : Nat) (j : Slot) : Leaves π s (t.setSlot n j) :=
  h.of_eq rfl rfl rfl rfl rfl rfl rfl

theorem Leaves.stall (h : Leaves π s t) : Leaves π s { t with stalled := true } :=
  h.of_eq rfl rfl rfl rfl rfl rfl rfl

theorem State.me_setMyJob (s : State) (j : JobCore) : (s.setMyJob j).me = s.me := by
  change ((s.setMyJob j).core s.cur.tile s.cur.core).ctx s.cur.ctx = _
  rw [State.setMyJob, State.core_setCore_same]
  rfl

theorem Leaves.setMyJob (h : Leaves π s t) (j : JobCore) : Leaves π s (t.setMyJob j) := by
  have hme := State.me_setMyJob t j
  refine h.trans ⟨rfl, ⟨t.sameBut_setCore _ rfl fun n _ => rfl, ?_⟩, ?_⟩
  all_goals simp only [hme, and_self]

/-! Flow and traps. -/

theorem Leaves.trapEnding (h : Leaves π s t) (code src : Nat) (resume val : Word) :
    Leaves π s (t.trapEnding code src resume val) :=
  (h.setSlot _ _).setMe (Ctx.keeps_of_csr_eq rfl rfl rfl rfl) rfl

theorem Leaves.failProgram (h : Leaves π s t) (code : TrapCode) : Leaves π s (t.failProgram code) := by
  refine (h.setMyJob _).setMe ?_ ?_
  all_goals rw [State.me_setMyJob]
  exact (Ctx.keeps_of_csr_eq rfl rfl rfl rfl)

section Flow

variable (hpc : ∀ r p, π { r with pc := p } = π r)
include hpc

theorem Leaves.takeTrap (h : Leaves π s t) (code : TrapCode) (src : Nat) (resume val : Word) :
    Leaves π s (t.takeTrap code src resume val) := by
  rcases takeTrap_cases t code src resume val with e | ⟨-, -, -, -, -, e⟩
  · rw [e]
    exact h.trapEnding _ _ _ _
  · rw [e]
    exact h.setMe (Ctx.keeps_of_csr rfl rfl rfl rfl) (hpc _ _)

theorem Leaves.raise (h : Leaves π s t) (code : TrapCode) (resume val : Word) : Leaves π s (t.raise code resume val) := by
  unfold State.raise
  split
  · exact h.failProgram code
  · exact h.takeTrap hpc code 0 resume val

theorem Leaves.badFlow (h : Leaves π s t) (p : Word) (b : TrapCode × Word) : Leaves π s (t.badFlow p b) := by
  unfold State.badFlow
  dsimp only
  split
  · exact h.setMe (Ctx.keeps_of_csr_eq rfl rfl rfl rfl) (hpc _ _)
  · have hjump : Leaves π s (t.setMe { t.me with r := { t.me.r with pc := p } }) :=
      h.setMe (Ctx.keeps_of_csr_eq rfl rfl rfl rfl) (hpc _ _)
    exact hjump.raise hpc _ _ _

theorem Leaves.flowTo (h : Leaves π s t) (time : Nat) (p : Word) : Leaves π s (t.setMe (t.me.flowTo time p)) := by
  unfold Ctx.flowTo
  split
  · exact h.setMe (Ctx.keeps_of_csr_eq rfl rfl rfl rfl) (hpc _ _)
  · exact h.setMe (Ctx.keeps_of_csr_eq rfl rfl rfl rfl) (hpc _ _)

theorem Leaves.advance (h : Leaves π s t) (len : Nat) : Leaves π s (t.advance len) := by
  unfold State.advance
  dsimp only
  split
  · exact h.flowTo hpc _ _
  · split
    · exact h.flowTo hpc _ _
    · exact h.badFlow hpc _ _

end Flow

end Leaves

/-! Bodies: how an instruction that touches nothing but registers ends. -/

/-- A trap, at the state as it was or at one that satisfies `Q`, or a stall: no page fault, no request to the host and no
other wait. -/
def Stop.Within (Q : State → Prop) : Stop → Prop
  | .trap .. | .stall => True
  | .trapIn t .. => Q t
  | _ => False

/-- A result that satisfies `P`, or a stop within `Q`. -/
def Ends {α : Type} (Q : State → Prop) (P : α → Prop) : Except Stop α → Prop
  | .ok a => P a
  | .error e => e.Within Q

section Ends

variable {α β : Type} {Q : State → Prop} {P : α → Prop} {R : β → Prop} {x : Except Stop α}

theorem Ends.bind {f : α → Except Stop β} (h : Ends Q P x) (hf : ∀ a, P a → Ends Q R (f a)) : Ends Q R (x >>= f) := by
  cases x with
  | ok a => exact hf a h
  | error e => exact h

theorem Ends.and_eq (h : Ends Q P x) : Ends Q (fun a => P a ∧ x = .ok a) x := by
  cases x with
  | ok a => exact ⟨h, rfl⟩
  | error e => exact h

theorem Ends.map {f : α → β} (h : Ends Q P x) (hf : ∀ a, P a → R (f a)) : Ends Q R (x.map f) := by
  cases x with
  | ok a => exact hf a h
  | error e => exact h

end Ends

/-- A body leaves what the view shows, whichever way it ends. -/
def BodyLeaves (π : Regs → Regs) (s : State) (x : Except Stop State) : Prop := Ends (Leaves π s) (Leaves π s) x

section Body

variable {π : Regs → Regs} {s t u : State}

theorem stopped_leaves {e : Stop} (hpc : ∀ r p, π { r with pc := p } = π r) (len : Nat) (h : e.Within (Leaves π s)) :
    Leaves π s (s.stopped len e) := by
  cases e with
  | stall => exact (Leaves.refl s).stall
  | trap code val =>
    dsimp only [State.stopped]
    split
    · exact (Leaves.refl s).stall
    · exact (Leaves.refl s).raise hpc _ _ _
  | trapIn v code val =>
    dsimp only [State.stopped]
    split
    · exact (Leaves.refl s).stall
    · exact Leaves.raise hpc h _ _ _
  | _ => exact h.elim

/-- An instruction leaves what its body leaves. -/
theorem leaves_of_runInstr {g : Guard} {len : Nat} {body : State → Except Stop State}
    (ht : runInstr g len s body = .next t) (hpc : ∀ r p, π { r with pc := p } = π r) (h : BodyLeaves π s (body s)) :
    Leaves π s t := by
  cases hg : s.guard g with
  | false =>
    rw [runInstr_guard_false g len s body hg] at ht
    cases ht
    exact (Leaves.refl s).advance hpc len
  | true =>
    cases hb : body s with
    | ok u =>
      rw [runInstr_ok g len s u body hg hb] at ht
      cases ht
      rw [hb] at h
      have hdone : Leaves π s (u.setMe { u.me with wait := .none, kept := none, waited := [] }) :=
        h.setMe (Ctx.keeps_of_csr_eq rfl rfl rfl rfl) rfl
      exact hdone.advance hpc len
    | error e =>
      rw [runInstr_error g len s e body hg hb] at ht
      cases ht
      rw [hb] at h
      exact stopped_leaves hpc len h

/-! Sources and flags change no register. -/

theorem Leaves.popItem (h : Leaves π s t) (n : BitVec 3) (rest : List Word) : Leaves π s (t.popItem n rest) := by
  unfold State.popItem
  dsimp only
  split
  · exact h.setMe (Ctx.keeps_of_csr_eq rfl rfl rfl rfl) rfl
  · exact h.setMe (Ctx.keeps_of_csr_eq rfl rfl rfl rfl) rfl

theorem Leaves.readS (h : Leaves π s t) (a : SSrc) : Ends (Leaves π s) (fun p => Leaves π s p.2) (t.readS a) := by
  cases a with
  | q n =>
    simp only [State.readS, State.popQ]
    split
    · trivial
    · split
      · trivial
      · exact h.popItem n _
  | _ => exact h

theorem Leaves.orFlags (h : Leaves π s t) (fl : Flags) : Leaves π s (t.orFlags fl) :=
  h.setMe (Ctx.keeps_of_csr rfl rfl rfl rfl) rfl

theorem Leaves.fpDone (h : Leaves π s t) {fl : Flags} {write : State → Except Stop State}
    (hw : ∀ v, Leaves π s v → BodyLeaves π s (write v)) : BodyLeaves π s (t.fpDone fl write) := by
  unfold State.fpDone
  split
  · exact h.orFlags fl
  · exact hw _ (h.orFlags fl)

theorem dstReady_ends (d : SDst) : Ends (Leaves π s) (fun _ => True) (t.dstReady d) := by
  cases d with
  | q n =>
    simp only [State.dstReady, ready]
    split
    · trivial
    · split <;> trivial
  | _ => trivial

end Body

/-! Scalar destinations. -/

/-- The registers but pc, the latch and a scalar destination. -/
def Regs.besideS (d : SDst) (r : Regs) : Regs :=
  match d with
  | .g n => { r.setG n 0 with pc := 0, lat := 0 }
  | .o n => { r.setO n 0 with pc := 0, lat := 0 }
  | _ => { r with pc := 0, lat := 0 }

theorem Regs.besideS_pc (d : SDst) (r : Regs) (p : Word) : ({ r with pc := p } : Regs).besideS d = r.besideS d := by
  cases d <;> rfl

section Scalar

variable {d : SDst} {s t : State}

theorem Leaves.writeS (h : Leaves (Regs.besideS d) s t) (v : Word) : BodyLeaves (Regs.besideS d) s (t.writeS d v) := by
  cases d with
  | g n => exact h.setMe (Ctx.keeps_of_csr_eq rfl rfl rfl rfl) (by simp [Regs.besideS, Ctx.setLat, Ctx.putG, Regs.setG])
  | o n => exact h.setMe (Ctx.keeps_of_csr_eq rfl rfl rfl rfl) (by simp [Regs.besideS, Ctx.setLat, Ctx.putO, Regs.setO])
  | zr => exact h.setMe (Ctx.keeps_of_csr_eq rfl rfl rfl rfl) rfl
  | q n =>
    refine Ends.map (P := Leaves (Regs.besideS (.q n)) s) ?_ fun u hu => hu.setMe (Ctx.keeps_of_csr_eq rfl rfl rfl rfl) rfl
    exact (dstReady_ends (.q n)).bind fun _ _ => h.setMe (Ctx.keeps_of_csr_eq rfl rfl rfl rfl) rfl

theorem op1_leaves (a : SSrc) (f : Word → Word) : BodyLeaves (Regs.besideS d) s (s.op1 d a f) :=
  ((Leaves.refl s).readS a).bind fun _ h => h.writeS _

theorem op2_leaves (a b : SSrc) (f : Word → Word → Word) : BodyLeaves (Regs.besideS d) s (s.op2 d a b f) :=
  ((Leaves.refl s).readS a).bind fun _ h1 => (h1.readS b).bind fun _ h2 => h2.writeS _

theorem fop1_leaves (a : SSrc) (f : Word → Word × Flags) : BodyLeaves (Regs.besideS d) s (s.fop1 d a f) :=
  (dstReady_ends d).bind fun _ _ => ((Leaves.refl s).readS a).bind fun _ h => h.fpDone fun _ hv => hv.writeS _

theorem fop2_leaves (a b : SSrc) (f : Word → Word → Word × Flags) : BodyLeaves (Regs.besideS d) s (s.fop2 d a b f) :=
  (dstReady_ends d).bind fun _ _ => ((Leaves.refl s).readS a).bind fun _ h1 => (h1.readS b).bind fun _ h2 =>
    h2.fpDone fun _ hv => hv.writeS _

theorem fop3_leaves (a b c : SSrc) (f : Word → Word → Word → Word × Flags) :
    BodyLeaves (Regs.besideS d) s (s.fop3 d a b c f) :=
  (dstReady_ends d).bind fun _ _ => ((Leaves.refl s).readS a).bind fun _ h1 => (h1.readS b).bind fun _ h2 =>
    (h2.readS c).bind fun _ h3 => h3.fpDone fun _ hv => hv.writeS _

/-- An instruction with one scalar destination leaves every other register but the latch. -/
theorem leaves_of_scalarDst {i : Instr} (h : scalarDst i = some d) (ht : exec i s = .next t) :
    Leaves (Regs.besideS d) s t := by
  cases i
  case pmov g n f =>
    cases f <;> cases h
    all_goals dsimp only [exec] at ht
    all_goals exact leaves_of_runInstr ht (Regs.besideS_pc d) ((Leaves.refl s).writeS _)
  all_goals cases h
  all_goals dsimp only [exec] at ht
  all_goals refine leaves_of_runInstr ht (Regs.besideS_pc _) ?_
  case li | vred | vmpop => exact (Leaves.refl s).writeS _
  case vextr => exact ((Leaves.refl s).readS _).bind fun _ h => h.writeS _
  case vfred => exact (dstReady_ends d).bind fun _ _ => (Leaves.refl s).fpDone fun _ hv => hv.writeS _
  all_goals simp only [op1_leaves, op2_leaves, fop1_leaves, fop2_leaves, fop3_leaves]

end Scalar

/-! Vector destinations. -/

/-- The registers but pc, the vector latch and a vector destination. -/
def Regs.besideV (d : VDst) (r : Regs) : Regs :=
  match d with
  | .v n => { r.setV n 0 with pc := 0, vlat := 0 }
  | .o n => { r.setVO n 0 with pc := 0, vlat := 0 }
  | .zr => { r with pc := 0, vlat := 0 }

theorem Regs.besideV_pc (d : VDst) (r : Regs) (p : Word) : ({ r with pc := p } : Regs).besideV d = r.besideV d := by
  cases d <;> rfl

section Vector

variable {d : VDst} {s t : State}

theorem Leaves.writeV (h : Leaves (Regs.besideV d) s t) (v : VWord) : Leaves (Regs.besideV d) s (t.writeV d v) := by
  cases d with
  | v n => exact h.setMe (Ctx.keeps_of_csr_eq rfl rfl rfl rfl) (by simp [Regs.besideV, Ctx.setVLat, Ctx.putV, Regs.setV])
  | o n => exact h.setMe (Ctx.keeps_of_csr_eq rfl rfl rfl rfl) (by simp [Regs.besideV, Ctx.setVLat, Ctx.putVO, Regs.setVO])
  | zr => exact h.setMe (Ctx.keeps_of_csr_eq rfl rfl rfl rfl) rfl

theorem writeV_leaves (v : VWord) : Leaves (Regs.besideV d) s (s.writeV d v) := (Leaves.refl s).writeV v

theorem vfDone_leaves (h : Leaves (Regs.besideV d) s t) (r : VWord × Flags) : BodyLeaves (Regs.besideV d) s (t.vfDone d r) :=
  h.fpDone fun _ hv => hv.writeV _

/-- An instruction with one vector destination leaves every other register but the vector latch. -/
theorem leaves_of_vectorDst {i : Instr} (h : vectorDst i = some d) (ht : exec i s = .next t) :
    Leaves (Regs.besideV d) s t := by
  cases i <;> cases h
  all_goals dsimp only [exec] at ht
  all_goals refine leaves_of_runInstr ht (Regs.besideV_pc _) ?_
  case vbcast => exact ((Leaves.refl s).readS _).map fun _ h => h.writeV _
  case vins => exact ((Leaves.refl s).readS _).bind fun _ h1 => (h1.readS _).bind fun _ h2 => h2.writeV _
  case vmovFromIndex =>
    refine Ends.map (P := fun p => Leaves (Regs.besideV d) s p.2)
      (((Leaves.refl s).readS _).bind fun _ h => ?_) fun _ h => h.writeV _
    dsimp only
    split <;> exact h
  case vfcvt => exact ((Leaves.refl s).readS _).bind fun _ h => vfDone_leaves h _
  case vfadd | vfsub | vfmul | vfma | vfmin | vfmax | vexp2 | vlog2 | vrcp | vrsq => exact vfDone_leaves (Leaves.refl s) _
  all_goals exact writeV_leaves _

end Vector

/-! Predicates and masks. -/

/-- The registers but pc and a predicate. -/
def Regs.besideP (n : BitVec 3) (r : Regs) : Regs := { r with pc := 0, p := bitPut r.p n.toNat false }

/-- The registers but pc and a mask. -/
def Regs.besideM (n : BitVec 3) (r : Regs) : Regs := { r.setM n 0 with pc := 0 }

theorem getLsbD_bitPut {w : Nat} (x : BitVec w) (n : Nat) (b : Bool) (i : Nat) (hi : i < w) :
    (bitPut x n b).getLsbD i = if n = i then b else x.getLsbD i := by
  have hone : (BitVec.ofNat w (2 ^ n)).getLsbD i = decide (n = i) := by
    rw [BitVec.getLsbD_ofNat, Nat.testBit_two_pow, decide_eq_true hi, Bool.true_and]
  cases b
  · simp only [bitPut, Bool.false_eq_true, if_false, BitVec.getLsbD_and, BitVec.getLsbD_not, hone, hi]
    by_cases h : n = i <;> simp [h]
  · simp only [bitPut, bitSet, if_true, BitVec.getLsbD_or, hone]
    by_cases h : n = i <;> simp [h]

theorem bitPut_bitPut {w : Nat} (x : BitVec w) (n : Nat) (b c : Bool) : bitPut (bitPut x n b) n c = bitPut x n c := by
  apply BitVec.eq_of_getLsbD_eq
  intro i hi
  simp only [getLsbD_bitPut _ _ _ _ hi]
  split <;> rfl

section Marks

variable {n : BitVec 3} {s t : State}

theorem Leaves.writeP (h : Leaves (Regs.besideP n) s t) (b : Bool) : Leaves (Regs.besideP n) s (t.writeP n b) := by
  unfold State.writeP
  split
  · exact h
  · exact h.setMe (Ctx.keeps_of_csr_eq rfl rfl rfl rfl) (by simp [Regs.besideP, bitPut_bitPut])

theorem Leaves.writeM (h : Leaves (Regs.besideM n) s t) (v : BitVec 32) : Leaves (Regs.besideM n) s (t.writeM n v) :=
  h.setMe (Ctx.keeps_of_csr_eq rfl rfl rfl rfl) (by simp [Regs.besideM, Regs.setM])

/-- An instruction that writes a predicate leaves every register but that predicate. -/
theorem leaves_of_predDst {i : Instr} (h : predDst i = some n) (ht : exec i s = .next t) : Leaves (Regs.besideP n) s t := by
  cases i
  case pmov g n' f =>
    cases f <;> cases h
    dsimp only [exec] at ht
    exact leaves_of_runInstr ht (fun _ _ => rfl) (((Leaves.refl s).readS _).map fun _ h => h.writeP _)
  all_goals cases h
  all_goals dsimp only [exec] at ht
  all_goals refine leaves_of_runInstr ht (fun _ _ => rfl) ?_
  case cmp => exact ((Leaves.refl s).readS _).bind fun _ h1 => (h1.readS _).bind fun _ h2 => h2.writeP _
  case cmpi => exact ((Leaves.refl s).readS _).map fun _ h => h.writeP _
  case fcmp =>
    exact ((Leaves.refl s).readS _).bind fun _ h1 => (h1.readS _).bind fun _ h2 => h2.fpDone fun _ hv => hv.writeP _
  case plog => exact (Leaves.refl s).writeP _

/-- An instruction that writes a mask leaves every register but that mask. -/
theorem leaves_of_maskDst {i : Instr} (h : maskDst i = some n) (ht : exec i s = .next t) : Leaves (Regs.besideM n) s t := by
  cases i
  case pmov g n' f =>
    cases f <;> cases h
    dsimp only [exec] at ht
    exact leaves_of_runInstr ht (fun _ _ => rfl) (((Leaves.refl s).readS _).map fun _ h => h.writeM _)
  all_goals cases h
  all_goals dsimp only [exec] at ht
  all_goals refine leaves_of_runInstr ht (fun _ _ => rfl) ?_
  case vcmp | vmlog => exact (Leaves.refl s).writeM _
  case vfcmp => exact (Leaves.refl s).fpDone fun _ hv => hv.writeM _

end Marks

/-! `vmov v[gB], vA` (R139). -/

section Indexed

variable {s t : State} {b : SSrc}

/-- The register that `vmov v[gB], vA` writes: the one that B names, or none. -/
def State.indexedDst (s : State) (b : SSrc) : VDst :=
  match s.readS b with
  | .ok (k, _) => if k.toNat < 32 then .v (BitVec.ofNat 5 k.toNat) else .zr
  | .error _ => .zr

theorem indexedDst_ne_o (n : BitVec 2) : s.indexedDst b ≠ .o n := by
  unfold State.indexedDst
  split
  · split <;> nofun
  · nofun

theorem indexedDst_eq_v {n : BitVec 5} (h : s.indexedDst b = .v n) :
    ∃ x u, s.readS b = .ok (x, u) ∧ x.toNat = n.toNat := by
  unfold State.indexedDst at h
  split at h
  next k u e =>
    split at h
    next hk =>
      cases h
      exact ⟨k, u, e, by rw [BitVec.toNat_ofNat, Nat.mod_eq_of_lt hk]⟩
    next => cases h
  next => cases h

theorem leaves_of_vmovToIndex {g : Guard} {a : VSrc} (ht : exec (.vmovToIndex g a b) s = .next t) :
    Leaves (Regs.besideV (s.indexedDst b)) s t := by
  dsimp only [exec] at ht
  refine leaves_of_runInstr ht (Regs.besideV_pc _) ?_
  have hindex : Ends (Leaves (Regs.besideV (s.indexedDst b)) s)
      (fun p => Leaves (Regs.besideV (s.indexedDst b)) s p.2 ∧ s.indexedDst b = .v p.1) (s.vIndex b) := by
    refine ((Leaves.refl s).readS b).and_eq.bind fun q hq => ?_
    obtain ⟨hleaves, hread⟩ := hq
    dsimp only
    split
    next hk => exact ⟨hleaves, by simp only [State.indexedDst, hread, if_pos (lt_of_lt_of_le hk (Nat.min_le_left _ _))]⟩
    next => exact hleaves
  refine hindex.map fun p hp => ?_
  obtain ⟨hleaves, hdst⟩ := hp
  rw [← hdst]
  exact hleaves.writeV _

end Indexed

/-! What the views show. -/

section Views

variable (r : Regs)

theorem Regs.getG_besideS {d : SDst} {n : BitVec 6} (h : d ≠ .g n) : (r.besideS d).getG n = r.getG n := by
  cases d with
  | g k => exact Regs.getG_setG_other r k n 0 fun e => h (e ▸ rfl)
  | _ => rfl

theorem Regs.getO_besideS {d : SDst} {n : BitVec 3} (h : d ≠ .o n) : (r.besideS d).getO n = r.getO n := by
  cases d with
  | o k => exact Regs.getO_setO_other r k n 0 fun e => h (e ▸ rfl)
  | _ => rfl

theorem Regs.getV_besideV {d : VDst} {n : BitVec 5} (h : d ≠ .v n) : (r.besideV d).getV n = r.getV n := by
  cases d with
  | v k => exact Regs.getV_setV_other r k n 0 fun e => h (e ▸ rfl)
  | _ => rfl

theorem Regs.getVO_besideV {d : VDst} {n : BitVec 2} (h : d ≠ .o n) : (r.besideV d).getVO n = r.getVO n := by
  cases d with
  | o k =>
    have hne : k.toNat ≠ n.toNat := fun e => h (by rw [BitVec.eq_of_toNat_eq e])
    simp [Regs.besideV, Regs.setVO, Regs.getVO, hne]
  | _ => rfl

theorem Regs.vo_besideV {d : VDst} (h : ∀ n, d ≠ .o n) : (r.besideV d).vo = r.vo := by
  cases d with
  | o k => exact absurd rfl (h k)
  | _ => rfl

theorem Regs.getM_besideM {n k : BitVec 3} (h : k ≠ n) : (r.besideM n).getM k = r.getM k := by
  have hne : n.toNat ≠ k.toNat := fun e => h (BitVec.eq_of_toNat_eq e).symm
  simp [Regs.besideM, Regs.setM, Regs.getM, hne]

/-- A predicate as a guard reads it (R84). -/
def Regs.reading (n : BitVec 3) (r : Regs) : Bool := n == 0 || r.p.getLsbD n.toNat

theorem Regs.reading_besideP {n k : BitVec 3} (h : k ≠ n ∨ k = 0) : (r.besideP n).reading k = r.reading k := by
  rcases h with h | rfl
  · have hne : n.toNat ≠ k.toNat := fun e => h (BitVec.eq_of_toNat_eq e).symm
    rw [Regs.reading, Regs.reading, Regs.besideP, getLsbD_bitPut _ _ _ _ k.isLt, if_neg hne]
  · rfl

end Views

/-- What a scalar destination leaves of the other registers. -/
theorem Leaves.beside_scalar {d : SDst} {s t : State} (h : Leaves (Regs.besideS d) s t) :
    (s.keepsOwn t ∧ t.me.r.p = s.me.r.p ∧ t.me.r.m = s.me.r.m) ∧ t.me.r.v = s.me.r.v ∧ t.me.r.vo = s.me.r.vo
      ∧ t.me.r.vlat = s.me.r.vlat ∧ (∀ n, d ≠ .g n → t.me.r.getG n = s.me.r.getG n)
      ∧ (∀ n, d ≠ .o n → t.me.r.getO n = s.me.r.getO n) :=
  ⟨⟨h.own, h.reads (f := Regs.p) fun r => by cases d <;> rfl, h.reads (f := Regs.m) fun r => by cases d <;> rfl⟩,
    h.reads (f := Regs.v) fun r => by cases d <;> rfl, h.reads (f := Regs.vo) fun r => by cases d <;> rfl,
    h.reads (f := Regs.vlat) fun r => by cases d <;> rfl,
    fun n hn => h.reads (f := fun r => r.getG n) fun r => r.getG_besideS hn,
    fun n hn => h.reads (f := fun r => r.getO n) fun r => r.getO_besideS hn⟩

/-- What a vector destination leaves of the other registers. -/
theorem Leaves.beside_vector {d : VDst} {s t : State} (h : Leaves (Regs.besideV d) s t) :
    (s.keepsOwn t ∧ t.me.r.p = s.me.r.p ∧ t.me.r.m = s.me.r.m) ∧ t.me.r.g = s.me.r.g ∧ t.me.r.o = s.me.r.o
      ∧ t.me.r.lat = s.me.r.lat ∧ (∀ n, d ≠ .v n → t.me.r.getV n = s.me.r.getV n)
      ∧ (∀ n, d ≠ .o n → t.me.r.getVO n = s.me.r.getVO n) :=
  ⟨⟨h.own, h.reads (f := Regs.p) fun r => by cases d <;> rfl, h.reads (f := Regs.m) fun r => by cases d <;> rfl⟩,
    h.reads (f := Regs.g) fun r => by cases d <;> rfl, h.reads (f := Regs.o) fun r => by cases d <;> rfl,
    h.reads (f := Regs.lat) fun r => by cases d <;> rfl,
    fun n hn => h.reads (f := fun r => r.getV n) fun r => r.getV_besideV hn,
    fun n hn => h.reads (f := fun r => r.getVO n) fun r => r.getVO_besideV hn⟩

/-- What a view that shows every general, own and vector register and both latches leaves of them. -/
theorem Leaves.latched {π : Regs → Regs} {s t : State} (h : Leaves π s t) (hg : ∀ r, (π r).g = r.g) (ho : ∀ r, (π r).o = r.o)
    (hlat : ∀ r, (π r).lat = r.lat) (hv : ∀ r, (π r).v = r.v) (hvo : ∀ r, (π r).vo = r.vo)
    (hvlat : ∀ r, (π r).vlat = r.vlat) : s.keepsOwn t ∧ t.me.r.g = s.me.r.g ∧ t.me.r.o = s.me.r.o ∧ t.me.r.lat = s.me.r.lat
      ∧ t.me.r.v = s.me.r.v ∧ t.me.r.vo = s.me.r.vo ∧ t.me.r.vlat = s.me.r.vlat :=
  ⟨h.own, h.reads hg, h.reads ho, h.reads hlat, h.reads hv, h.reads hvo, h.reads hvlat⟩

end Sys2Proof.Machine

namespace Sys2Proof.Cube

open Sys2Proof.Machine

/-- Settles O60: an instruction's body writes through one destination, and nothing but flags and traps beside it. -/
theorem registerInstructionsLeaveTheRestAlone : Obligations.RegisterInstructionsLeaveTheRestAlone := by
  unfold Obligations.RegisterInstructionsLeaveTheRestAlone
  intro i s t ht own kept latched
  refine ⟨fun d hd => (leaves_of_scalarDst hd ht).beside_scalar, fun d hd => (leaves_of_vectorDst hd ht).beside_vector,
    fun d hd => ?pred, fun d hd => ?mask, fun g a b hi => ?index⟩
  case pred =>
    have h := leaves_of_predDst hd ht
    exact ⟨h.latched (fun _ => rfl) (fun _ => rfl) (fun _ => rfl) (fun _ => rfl) (fun _ => rfl) fun _ => rfl,
      h.reads (f := Regs.m) fun _ => rfl, fun n hn => h.reads (f := Regs.reading n) fun r => r.reading_besideP hn⟩
  case mask =>
    have h := leaves_of_maskDst hd ht
    exact ⟨h.latched (fun _ => rfl) (fun _ => rfl) (fun _ => rfl) (fun _ => rfl) (fun _ => rfl) fun _ => rfl,
      h.reads (f := Regs.p) fun _ => rfl, fun n hn => h.reads (f := fun r => r.getM n) fun r => r.getM_besideM hn⟩
  case index =>
    subst hi
    have h := leaves_of_vmovToIndex ht
    obtain ⟨hkept, hg, ho, hlat, hv, -⟩ := h.beside_vector
    refine ⟨hkept, hg, ho, h.reads (f := Regs.vo) fun r => r.vo_besideV indexedDst_ne_o, hlat, fun n hn => hv n fun e => ?_⟩
    obtain ⟨x, u, hread, hx⟩ := indexedDst_eq_v e
    exact hn x u hread hx

end Sys2Proof.Cube

/-! Scalar integer instructions (O1, O2; R70, R110 to R120): what each operation makes of its operands' patterns. First the
integer of a pattern and Put, then the operations on patterns of any width. -/

namespace Sys2Proof.Machine

/-! The integer of a pattern (R60). -/

/-- The integer that a pattern stands for. -/
def intOf (signed : Bool) {w : Nat} (X : BitVec w) : Int := if signed then X.toInt else X.toNat

section Patterns

variable {w : Nat} (sg : Bool) (X Y : BitVec w)

theorem intVal_eq_intOf (x : Nat) : intVal sg w x = intOf sg (BitVec.ofNat w x) := by
  rw [intVal, intOf, BitVec.toInt_eq_toNat_cond, BitVec.toNat_ofNat]
  cases sg with
  | false => rfl
  | true =>
    simp only [Bool.true_and, decide_eq_true_eq, if_true, ← not_lt, ite_not]

theorem intVal_toNat : intVal sg w X.toNat = intOf sg X := by
  rw [intVal_eq_intOf, BitVec.ofNat_toNat, BitVec.setWidth_eq]

@[simp] theorem ofInt_intOf : BitVec.ofInt w (intOf sg X) = X := by
  cases sg
  · simp [intOf]
  · exact BitVec.ofInt_toInt

/-- Reducing an integer modulo `2 ^ w` keeps its pattern. -/
theorem ofNat_toNat_emod (v : Int) : BitVec.ofNat w (v % (2 ^ w : Nat)).toNat = BitVec.ofInt w v :=
  BitVec.eq_of_toNat_eq (by
    rw [BitVec.toNat_ofNat, BitVec.toNat_ofInt, Nat.mod_eq_of_lt]
    have := Int.emod_lt_of_pos v (b := (2 ^ w : Nat)) (by positivity)
    have := Nat.two_pow_pos w
    omega)

theorem ofInt_intOf_extended (v : Nat) :
    BitVec.ofInt v (intOf sg X) = if sg then X.signExtend v else X.setWidth v := by
  cases sg
  · exact (BitVec.ofInt_natCast v _).trans (BitVec.ofNat_toNat v X)
  · rfl

/-- An integer wrapped to a width and extended by its sign. -/
theorem ofInt_intVal_emod (u : Int) (v : Nat) : BitVec.ofInt v (intVal sg w (u % (2 ^ w : Nat)).toNat)
    = if sg then (BitVec.ofInt w u).signExtend v else (BitVec.ofInt w u).setWidth v := by
  rw [intVal_eq_intOf, ofNat_toNat_emod, ofInt_intOf_extended]

theorem intOf_inj : intOf sg X = intOf sg Y ↔ X = Y :=
  ⟨fun h => by rw [← ofInt_intOf sg X, h, ofInt_intOf], fun h => h ▸ rfl⟩

theorem intOf_eq_zero : intOf sg X = 0 ↔ X = 0 := by
  have hzero : intOf sg (0 : BitVec w) = 0 := by cases sg <;> simp [intOf]
  rw [← hzero, intOf_inj]

theorem decide_intOf_lt : decide (intOf sg X < intOf sg Y) = if sg then X.slt Y else X.ult Y := by
  cases sg
  · simp [intOf, BitVec.ult_eq_decide]
  · simp [intOf, BitVec.slt_eq_decide]

theorem decide_intOf_le : decide (intOf sg X ≤ intOf sg Y) = if sg then X.sle Y else X.ule Y := by
  cases sg
  · simp [intOf, BitVec.ule_eq_decide]
  · simp [intOf, BitVec.sle_eq_decide]

/-! Arithmetic on the integers of patterns (R115, R116). -/

theorem ofInt_min_intOf : BitVec.ofInt w (min (intOf sg X) (intOf sg Y))
    = if (if sg then X.sle Y else X.ule Y) then X else Y := by
  rw [← decide_intOf_le]
  by_cases h : intOf sg X ≤ intOf sg Y
  · rw [min_eq_left h, decide_eq_true h, if_pos rfl, ofInt_intOf]
  · rw [min_eq_right (le_of_not_ge h), decide_eq_false h, if_neg Bool.false_ne_true, ofInt_intOf]

theorem ofInt_max_intOf : BitVec.ofInt w (max (intOf sg X) (intOf sg Y))
    = if (if sg then X.sle Y else X.ule Y) then Y else X := by
  rw [← decide_intOf_le]
  by_cases h : intOf sg X ≤ intOf sg Y
  · rw [max_eq_right h, decide_eq_true h, if_pos rfl, ofInt_intOf]
  · rw [max_eq_left (le_of_not_ge h), decide_eq_false h, if_neg Bool.false_ne_true, ofInt_intOf]

theorem ofInt_natAbs_toInt : BitVec.ofInt w X.toInt.natAbs = X.abs := by
  have hneg : X.msb = decide (X.toInt < 0) := BitVec.msb_eq_toInt
  rw [BitVec.abs_eq, hneg]
  by_cases h : X.toInt < 0
  · rw [Int.ofNat_natAbs_of_nonpos h.le, BitVec.ofInt_neg, BitVec.ofInt_toInt, decide_eq_true h, if_pos rfl]
  · rw [Int.natAbs_of_nonneg (not_lt.mp h), BitVec.ofInt_toInt, decide_eq_false h, if_neg Bool.false_ne_true]

theorem ofInt_two_pow_sub_one : BitVec.ofInt w ((2 ^ w : Nat) - 1) = BitVec.allOnes w := by
  rw [← Nat.cast_pred (Nat.two_pow_pos w), BitVec.ofInt_natCast]
  apply BitVec.eq_of_toNat_eq
  rw [BitVec.toNat_ofNat, BitVec.toNat_allOnes, Nat.mod_eq_of_lt (Nat.sub_one_lt (Nat.two_pow_pos w).ne')]

/-- The upper half of a pattern of twice the width is the quotient by `2 ^ w`. -/
theorem extractLsb'_ofInt_double (v : Int) :
    (BitVec.ofInt (2 * w) v).extractLsb' w w = BitVec.ofInt w (v / (2 ^ w : Nat)) := by
  apply BitVec.eq_of_toNat_eq
  rw [BitVec.extractLsb'_toNat, BitVec.toNat_ofInt, BitVec.toNat_ofInt, Nat.shiftRight_eq_div_pow, two_mul, pow_add]
  have hpos : (0 : Int) < (2 ^ w : Nat) := by positivity
  generalize 2 ^ w = W at *
  have hdiv : v % (W * W : Nat) / W = v / W % W := by
    rw [Int.emod_def, Int.emod_def, Nat.cast_mul, ← Int.ediv_ediv_of_nonneg hpos.le, mul_assoc,
      Int.sub_mul_ediv_left _ _ hpos.ne']
  rw [← Int.toNat_natCast (_ % W), Int.natCast_emod, Int.natCast_ediv,
    Int.toNat_of_nonneg (Int.emod_nonneg _ (by push_cast; positivity)), hdiv, Int.emod_emod]

/-- The high half of a product of integers is that of the product of the extended patterns. -/
theorem ofInt_mul_intOf_div : BitVec.ofInt w (intOf sg X * intOf sg Y / (2 ^ w : Nat)) =
    if sg then (X.signExtend (2 * w) * Y.signExtend (2 * w)).extractLsb' w w
    else (X.setWidth (2 * w) * Y.setWidth (2 * w)).extractLsb' w w := by
  rw [← extractLsb'_ofInt_double, BitVec.ofInt_mul, ofInt_intOf_extended, ofInt_intOf_extended]
  split <;> rfl

theorem ofInt_tdiv_intOf : BitVec.ofInt w ((intOf sg X).tdiv (intOf sg Y)) = if sg then X.sdiv Y else X / Y := by
  cases sg
  · refine BitVec.eq_of_toNat_eq ?_
    simp only [intOf, Bool.false_eq_true, if_false, ← Int.ofNat_tdiv, BitVec.ofInt_natCast, ← BitVec.toNat_udiv]
    rw [BitVec.ofNat_toNat, BitVec.setWidth_eq]
  · exact BitVec.eq_of_toInt_eq (by rw [BitVec.toInt_ofInt, if_pos rfl, BitVec.toInt_sdiv]; rfl)

theorem ofInt_tmod_intOf : BitVec.ofInt w ((intOf sg X).tmod (intOf sg Y)) = if sg then X.srem Y else X % Y := by
  cases sg
  · simp only [intOf, Bool.false_eq_true, if_false, ← Int.ofNat_tmod, BitVec.ofInt_natCast, ← BitVec.toNat_umod]
    rw [BitVec.ofNat_toNat, BitVec.setWidth_eq]
  · rw [if_pos rfl, ← BitVec.ofInt_toInt (x := X.srem Y), BitVec.toInt_srem]
    rfl

/-! Shifts of a pattern (R117). -/

variable (c : Nat)

theorem ofNat_shlPat : BitVec.ofNat w (shlPat w X.toNat c) = X <<< c := by
  apply BitVec.eq_of_toNat_eq
  rw [shlPat, BitVec.toNat_ofNat, BitVec.toNat_shiftLeft, Nat.shiftLeft_eq]
  split
  next h => rw [Nat.mod_mod]
  next h =>
    rw [Nat.zero_mod, ← Nat.add_sub_of_le (not_lt.mp h), pow_add, ← mul_assoc, mul_comm, ← mul_assoc,
      Nat.mul_mod_left]

theorem ofNat_shrPat : BitVec.ofNat w (shrPat w X.toNat c) = X >>> c := by
  apply BitVec.eq_of_toNat_eq
  rw [shrPat, BitVec.toNat_ofNat, BitVec.toNat_ushiftRight, Nat.shiftRight_eq_div_pow]
  split
  next h => exact Nat.mod_eq_of_lt ((Nat.div_le_self _ _).trans_lt X.isLt)
  next h =>
    rw [Nat.zero_mod, Nat.div_eq_of_lt (X.isLt.trans_le (Nat.pow_le_pow_right two_pos (not_lt.mp h)))]

/-- A shift by the width less one keeps only the sign, as every longer one does. -/
theorem toInt_div_two_pow_min : X.toInt / (2 ^ Nat.min c (w - 1) : Nat) = X.toInt / (2 ^ c : Nat) := by
  obtain hc | hc := le_total c (w - 1)
  · rw [show c.min (w - 1) = c from min_eq_left hc]
  · have hpow : (2 ^ (w - 1) : Nat) ≤ 2 ^ c := Nat.pow_le_pow_right two_pos hc
    have hlow : -((2 ^ (w - 1) : Nat) : Int) ≤ X.toInt := by exact_mod_cast X.le_toInt
    have hhigh : X.toInt < (2 ^ (w - 1) : Nat) := by exact_mod_cast BitVec.toInt_lt
    rw [show c.min (w - 1) = w - 1 from min_eq_right hc]
    by_cases hneg : X.toInt < 0
    · rw [Int.ediv_eq_neg_one_of_neg_of_le hneg (by omega), Int.ediv_eq_neg_one_of_neg_of_le hneg (by omega)]
    · rw [Int.ediv_eq_zero_of_lt (by omega) (by omega), Int.ediv_eq_zero_of_lt (by omega) (by omega)]

theorem ofNat_sarPat : BitVec.ofNat w (sarPat w X.toNat c) = X.sshiftRight c := by
  rw [sarPat, ofNat_toNat_emod, intVal_toNat, intOf, if_pos rfl, toInt_div_two_pow_min, ← Int.shiftRight_eq_div_pow,
    ← BitVec.toInt_sshiftRight, BitVec.ofInt_toInt]

theorem ofNat_rolPat : BitVec.ofNat w (rolPat w X.toNat c) = X.rotateLeft c := by
  obtain rfl | hw := Nat.eq_zero_or_pos w
  · exact Subsingleton.elim _ _
  suffices h : rolPat w X.toNat c = (X.rotateLeft c).toNat by rw [h, BitVec.ofNat_toNat, BitVec.setWidth_eq]
  have hk : c % w < w := Nat.mod_lt c hw
  rw [rolPat, BitVec.toNat_rotateLeft, Nat.shiftLeft_eq, Nat.shiftRight_eq_div_pow]
  generalize c % w = k at *
  have hsplit : 2 ^ w = 2 ^ k * 2 ^ (w - k) := by rw [← pow_add, Nat.add_sub_of_le hk.le]
  have hlow : X.toNat / 2 ^ (w - k) < 2 ^ k := Nat.div_lt_of_lt_mul (by rw [mul_comm, ← hsplit]; exact X.isLt)
  rw [hsplit, mul_comm X.toNat, Nat.mul_mod_mul_left, Nat.two_pow_add_eq_or_of_lt hlow]

/-! Counting and reversing the bits of a pattern (R119). -/

theorem toNat_lt_of_lt_width {n : BitVec w} (h : n < (w : BitVec w)) : n.toNat < w := by
  have h := BitVec.lt_def.mp h
  rwa [BitVec.natCast_eq_ofNat, BitVec.toNat_ofNat, Nat.mod_eq_of_lt Nat.lt_two_pow_self] at h

theorem ofNat_clzPat : BitVec.ofNat w (clzPat w X.toNat) = X.clz := by
  by_cases hX : X = 0#w
  · rw [BitVec.clz_eq_iff_eq_zero.mpr hX, hX, BitVec.toNat_ofNat, Nat.zero_mod]
    rfl
  · have hlt : X.clz.toNat < w := toNat_lt_of_lt_width (BitVec.clz_lt_iff_ne_zero.mpr hX)
    have hne : X.toNat ≠ 0 := fun h => hX (BitVec.eq_of_toNat_eq (by simpa using h))
    have hlog : X.toNat.log2 = w - 1 - X.clz.toNat := (Nat.log2_eq_iff hne).mpr
      ⟨BitVec.two_pow_sub_clz_le_toNat_of_ne_zero (by omega) hX, by
        rw [show w - 1 - X.clz.toNat + 1 = w - X.clz.toNat by omega]
        exact BitVec.toNat_lt_two_pow_sub_clz⟩
    rw [clzPat, bitLen, if_neg hne, hlog, show w - (w - 1 - X.clz.toNat + 1) = X.clz.toNat by omega, BitVec.ofNat_toNat,
      BitVec.setWidth_eq]

theorem ofNat_ctzPat : BitVec.ofNat w (ctzPat w X.toNat) = X.ctz := by
  by_cases hX : X = 0#w
  · have hctz : X.ctz = w := by
      rw [BitVec.ctz_eq_reverse_clz, BitVec.clz_eq_iff_eq_zero, BitVec.reverse_eq_zero_iff, hX]
    have hnone : (List.range w).find? (fun i => X.toNat.testBit i) = none := by simp [hX]
    rw [ctzPat, hnone, hctz]
    rfl
  · have hlt : X.ctz.toNat < w := toNat_lt_of_lt_width (BitVec.ctz_lt_iff_ne_zero.mpr hX)
    have hfind : (List.range w).find? (fun i => X.toNat.testBit i) = some X.ctz.toNat :=
      List.find?_range_eq_some.mpr ⟨BitVec.getLsbD_true_ctz_of_ne_zero hX, List.mem_range.mpr hlt,
        fun j hj => by simpa [BitVec.getLsbD] using BitVec.getLsbD_false_of_lt_ctz hj⟩
    rw [ctzPat, hfind, Option.getD_some, BitVec.ofNat_toNat, BitVec.setWidth_eq]

theorem length_filter_testBit (n : Nat) :
    ((List.range n).filter (fun i => X.toNat.testBit i)).length = X.cpopNatRec n 0 := by
  induction n with
  | zero => rfl
  | succ n ih =>
    rw [List.range_succ, List.filter_append, List.length_append, ih, BitVec.cpopNatRec_succ, Nat.zero_add,
      BitVec.cpopNatRec_eq (acc := (X.getLsbD n).toNat)]
    congr 1
    rw [BitVec.getLsbD, List.filter_singleton]
    cases X.toNat.testBit n <;> rfl

theorem ofNat_popcPat : BitVec.ofNat w (popcPat w X.toNat) = X.cpop := by
  rw [popcPat, length_filter_testBit, BitVec.cpop]

theorem brevPat_succ (n x : Nat) : brevPat (n + 1) x = brevPat n x * 2 + (x.testBit n).toNat := by
  rw [brevPat, brevPat, List.range_succ, List.map_append, List.sum_append, ← List.sum_map_mul_right]
  congr 1
  · congr 1
    refine List.map_congr_left fun i hi => ?_
    have hi' : n + 1 - 1 - i = n - 1 - i + 1 := by have := List.mem_range.mp hi; omega
    rw [hi', pow_succ, ite_mul, zero_mul]
  · cases h : x.testBit n <;> simp [h]

theorem brevPat_mod (n x : Nat) : brevPat n (x % 2 ^ n) = brevPat n x := by
  rw [brevPat, brevPat]
  congr 1
  refine List.map_congr_left fun i hi => ?_
  rw [Nat.testBit_mod_two_pow, decide_eq_true (List.mem_range.mp hi), Bool.true_and]

theorem toNat_reverse : X.reverse.toNat = brevPat w X.toNat := by
  induction w with
  | zero => rw [BitVec.toNat_of_zero_length rfl]; rfl
  | succ n ih =>
    rw [BitVec.reverse, BitVec.toNat_concat, ih, brevPat_succ, BitVec.toNat_setWidth, brevPat_mod,
      BitVec.msb_eq_getLsbD_last]
    rfl

theorem ofNat_brevPat : BitVec.ofNat w (brevPat w X.toNat) = X.reverse := by
  rw [← toNat_reverse, BitVec.ofNat_toNat, BitVec.setWidth_eq]

end Patterns

section Operations

variable (ty : IntTy) (x y : Word)

/-! Put (R110). -/

theorem valTy_eq_intOf : valTy ty x = intOf ty.signed (x.setWidth ty.width) := by
  rw [valTy, intVal_eq_intOf, BitVec.ofNat_toNat]

theorem patTy_eq_toNat : patTy ty x = (x.setWidth ty.width).toNat := (BitVec.toNat_setWidth _ x).symm

/-- Put keeps the pattern of an integer and extends it by the type. -/
theorem putTy_eq_putBv {v : Int} {V : BitVec ty.width} (h : BitVec.ofInt ty.width v = V) : putTy ty v = putBv ty V := by
  rw [putTy, ofInt_intVal_emod, h, putBv]

theorem putTy_natCast {n : Nat} {V : BitVec ty.width} (h : BitVec.ofNat ty.width n = V) : putTy ty n = putBv ty V :=
  putTy_eq_putBv ty ((BitVec.ofInt_natCast _ n).trans h)

theorem intTy_width_le : ty.width ≤ 64 := by cases ty <;> decide

/-! The operations by their operands' patterns. -/

theorem addOp_eq : addOp ty x y = putBv ty (x.setWidth ty.width + y.setWidth ty.width) := by
  refine putTy_eq_putBv ty ?_
  simp only [valTy_eq_intOf, BitVec.ofInt_add, ofInt_intOf]

theorem subOp_eq : subOp ty x y = putBv ty (x.setWidth ty.width - y.setWidth ty.width) := by
  refine putTy_eq_putBv ty ?_
  simp only [valTy_eq_intOf, Int.sub_eq_add_neg, BitVec.ofInt_add, BitVec.ofInt_neg, ofInt_intOf, BitVec.sub_eq_add_neg]

theorem mulOp_eq : mulOp ty x y = putBv ty (x.setWidth ty.width * y.setWidth ty.width) := by
  refine putTy_eq_putBv ty ?_
  simp only [valTy_eq_intOf, BitVec.ofInt_mul, ofInt_intOf]

theorem mulhOp_eq : mulhOp ty x y = putBv ty (
    if ty.signed then ((x.setWidth ty.width).signExtend (2 * ty.width)
      * (y.setWidth ty.width).signExtend (2 * ty.width)).extractLsb' ty.width ty.width
    else ((x.setWidth ty.width).setWidth (2 * ty.width)
      * (y.setWidth ty.width).setWidth (2 * ty.width)).extractLsb' ty.width ty.width) := by
  rw [mulhOp, valTy_eq_intOf, valTy_eq_intOf]
  exact putTy_eq_putBv ty (ofInt_mul_intOf_div _ _ _)

theorem divOp_eq : divOp ty x y = putBv ty (if y.setWidth ty.width = 0 then BitVec.allOnes ty.width
    else if ty.signed then (x.setWidth ty.width).sdiv (y.setWidth ty.width)
    else x.setWidth ty.width / y.setWidth ty.width) := by
  simp only [divOp, valTy_eq_intOf, intOf_eq_zero]
  split
  · exact putTy_eq_putBv ty ofInt_two_pow_sub_one
  · exact putTy_eq_putBv ty (ofInt_tdiv_intOf _ _ _)

theorem remOp_eq : remOp ty x y = putBv ty (if y.setWidth ty.width = 0 then x.setWidth ty.width
    else if ty.signed then (x.setWidth ty.width).srem (y.setWidth ty.width)
    else x.setWidth ty.width % y.setWidth ty.width) := by
  simp only [remOp, valTy_eq_intOf, intOf_eq_zero, mul_comm (Int.tdiv _ _), ← Int.tmod_def]
  split
  · exact putTy_eq_putBv ty (ofInt_intOf _ _)
  · exact putTy_eq_putBv ty (ofInt_tmod_intOf _ _ _)

theorem andOp_eq : andOp ty x y = putBv ty (x.setWidth ty.width &&& y.setWidth ty.width) :=
  putTy_natCast ty (by rw [BitVec.ofNat_toNat, BitVec.setWidth_and])

theorem orOp_eq : orOp ty x y = putBv ty (x.setWidth ty.width ||| y.setWidth ty.width) :=
  putTy_natCast ty (by rw [BitVec.ofNat_toNat, BitVec.setWidth_or])

theorem xorOp_eq : xorOp ty x y = putBv ty (x.setWidth ty.width ^^^ y.setWidth ty.width) :=
  putTy_natCast ty (by rw [BitVec.ofNat_toNat, BitVec.setWidth_xor])

theorem andnOp_eq : andnOp ty x y = putBv ty (x.setWidth ty.width &&& ~~~y.setWidth ty.width) :=
  putTy_natCast ty (by rw [BitVec.ofNat_toNat, BitVec.setWidth_and, BitVec.setWidth_not (intTy_width_le ty)])

theorem minOp_eq : minOp ty x y = putBv ty (if (if ty.signed then (x.setWidth ty.width).sle (y.setWidth ty.width)
    else (x.setWidth ty.width).ule (y.setWidth ty.width)) then x.setWidth ty.width else y.setWidth ty.width) := by
  rw [minOp, valTy_eq_intOf, valTy_eq_intOf]
  exact putTy_eq_putBv ty (ofInt_min_intOf _ _ _)

theorem maxOp_eq : maxOp ty x y = putBv ty (if (if ty.signed then (x.setWidth ty.width).sle (y.setWidth ty.width)
    else (x.setWidth ty.width).ule (y.setWidth ty.width)) then y.setWidth ty.width else x.setWidth ty.width) := by
  rw [maxOp, valTy_eq_intOf, valTy_eq_intOf]
  exact putTy_eq_putBv ty (ofInt_max_intOf _ _ _)

theorem absOp_eq (h : ty.signed = true) : absOp ty x = putBv ty (x.setWidth ty.width).abs := by
  rw [absOp, valTy_eq_intOf, h]
  exact putTy_eq_putBv ty (ofInt_natAbs_toInt _)

theorem negOp_eq : negOp ty x = putBv ty (-x.setWidth ty.width) := by
  refine putTy_eq_putBv ty ?_
  rw [valTy_eq_intOf, BitVec.ofInt_neg, ofInt_intOf]

theorem extOp_eq : extOp ty x = putBv ty (x.setWidth ty.width) := by
  rw [extOp, valTy_eq_intOf]
  exact putTy_eq_putBv ty (ofInt_intOf _ _)

theorem shlOp_eq : shlOp ty x y = putBv ty (x.setWidth ty.width <<< y.toNat) := by
  rw [shlOp, patTy_eq_toNat]
  exact putTy_natCast ty (ofNat_shlPat _ _)

theorem shrOp_eq : shrOp ty x y = putBv ty (x.setWidth ty.width >>> y.toNat) := by
  rw [shrOp, patTy_eq_toNat]
  exact putTy_natCast ty (ofNat_shrPat _ _)

theorem sarOp_eq : sarOp ty x y = putBv ty ((x.setWidth ty.width).sshiftRight y.toNat) := by
  rw [sarOp, patTy_eq_toNat]
  exact putTy_natCast ty (ofNat_sarPat _ _)

theorem rolOp_eq : rolOp ty x y = putBv ty ((x.setWidth ty.width).rotateLeft y.toNat) := by
  rw [rolOp, patTy_eq_toNat]
  exact putTy_natCast ty (ofNat_rolPat _ _)

theorem clzOp_eq : clzOp ty x = putBv ty (x.setWidth ty.width).clz := by
  rw [clzOp, patTy_eq_toNat]
  exact putTy_natCast ty (ofNat_clzPat _)

theorem ctzOp_eq : ctzOp ty x = putBv ty (x.setWidth ty.width).ctz := by
  rw [ctzOp, patTy_eq_toNat]
  exact putTy_natCast ty (ofNat_ctzPat _)

theorem popcOp_eq : popcOp ty x = putBv ty (x.setWidth ty.width).cpop := by
  rw [popcOp, patTy_eq_toNat]
  exact putTy_natCast ty (ofNat_popcPat _)

theorem brevOp_eq : brevOp ty x = putBv ty (x.setWidth ty.width).reverse := by
  rw [brevOp, patTy_eq_toNat]
  exact putTy_natCast ty (ofNat_brevPat _)

/-! Immediates (R70, R111, R117). -/

variable (imm : BitVec 28)

theorem toNat_immLogic : (immLogic ty imm).toNat = imm.toNat % 2 ^ ty.width := by
  rw [immLogic, BitVec.toNat_ofNat, Nat.mod_eq_of_lt]
  exact (Nat.mod_le _ _).trans_lt (imm.isLt.trans (by decide))

theorem setWidth_immLogic : (immLogic ty imm).setWidth ty.width = (imm.setWidth 64 : Word).setWidth ty.width := by
  apply BitVec.eq_of_toNat_eq
  rw [BitVec.toNat_setWidth, toNat_immLogic, Nat.mod_mod, BitVec.toNat_setWidth,
    BitVec.toNat_setWidth_of_le (by decide : 28 ≤ 64)]

/-! Comparisons (R118). -/

theorem cmpOp_eq (cc : ICond) : cmpOp ty cc x y = condBv ty cc (x.setWidth ty.width) (y.setWidth ty.width) := by
  have heq : (valTy ty x == valTy ty y) = (x.setWidth ty.width == y.setWidth ty.width) := by
    rw [valTy_eq_intOf, valTy_eq_intOf, Bool.eq_iff_iff, beq_iff_eq, beq_iff_eq, intOf_inj]
  have htst : (patTy ty x &&& patTy ty y == 0) = (x.setWidth ty.width &&& y.setWidth ty.width == 0) := by
    rw [patTy_eq_toNat, patTy_eq_toNat, ← BitVec.toNat_and, Bool.eq_iff_iff, beq_iff_eq, beq_iff_eq, BitVec.toNat_eq]
    rfl
  cases cc with
  | eq => exact heq
  | ne => exact congrArg (!·) heq
  | lt | le | gt | ge => simp only [cmpOp, condInt, condBv, valTy_eq_intOf, decide_intOf_lt, decide_intOf_le]
  | tst => exact congrArg (!·) htst
  | ntst => exact htst

end Operations

/-! Fields (R120). -/

theorem bfxOp_eq (sg : Bool) (pos lm1 : BitVec 6) (x : Word) : bfxOp sg pos lm1 x =
    if sg then (x.extractLsb' pos.toNat (lm1.toNat + 1)).signExtend 64
    else (x.extractLsb' pos.toNat (lm1.toNat + 1)).setWidth 64 := by
  have hfield : BitVec.ofNat (lm1.toNat + 1) (bits x.toNat pos.toNat (lm1.toNat + 1))
      = x.extractLsb' pos.toNat (lm1.toNat + 1) :=
    BitVec.eq_of_toNat_eq (by
      rw [BitVec.toNat_ofNat, bits, Nat.mod_mod, BitVec.extractLsb'_toNat, Nat.shiftRight_eq_div_pow])
  rw [bfxOp, intVal_eq_intOf, hfield, ofInt_intOf_extended]

theorem ofNat_shiftLeft_eq_ofNat_mul {w : Nat} (n c : Nat) : BitVec.ofNat w n <<< c = BitVec.ofNat w (n * 2 ^ c) := by
  apply BitVec.eq_of_toNat_eq
  rw [BitVec.toNat_shiftLeft, BitVec.toNat_ofNat, BitVec.toNat_ofNat, Nat.shiftLeft_eq, Nat.mod_mul_mod]

theorem bfiMask_eq (pos lm1 : BitVec 6) : bfiMask pos lm1 = (((1 : Word) <<< (lm1.toNat + 1)) - 1) <<< pos.toNat := by
  have hones : (1 : Word) <<< (lm1.toNat + 1) - 1 = BitVec.ofNat 64 (2 ^ (lm1.toNat + 1) - 1) := by
    rw [show (1 : Word) = BitVec.ofNat 64 1 from rfl, ofNat_shiftLeft_eq_ofNat_mul, one_mul, sub_eq_iff_eq_add,
      ← BitVec.ofNat_add, Nat.sub_add_cancel Nat.one_le_two_pow]
  rw [hones, bfiMask, ofNat_shiftLeft_eq_ofNat_mul]

/-! Predicates (R84). -/

section Predicates

variable (u : State) (n : BitVec 3) (b : Bool)

theorem readP_writeP (h : n ≠ 0) : (u.writeP n b).readP n = b := by
  rw [State.writeP, if_neg h, State.readP, beq_eq_false_iff_ne.mpr h, Bool.false_or, State.me_setMe,
    getLsbD_bitPut _ _ _ _ n.isLt, if_pos rfl]

theorem writeP_lat : (u.writeP n b).me.r.lat = u.me.r.lat ∧ (u.writeP n b).me.r.vlat = u.me.r.vlat := by
  rw [State.writeP]
  split
  · exact ⟨rfl, rfl⟩
  · rw [State.me_setMe]
    exact ⟨rfl, rfl⟩

end Predicates

/-! The shapes of the scalar integer instructions. -/

section Shapes

variable {g : Guard} {len : Nat} {s s1 s2 : State} {d : SDst} {a b : SSrc} {x y v : Word}

theorem runInstr_op1 {op : State → Word → Word} (hg : s.guard g = true) (ha : s.readS a = .ok (x, s1)) (hv : op s x = v) :
    ∀ t, s1.writeS d v = .ok t → runInstr g len s (fun s => s.op1 d a (op s)) = .next (t.flow len) :=
  runInstr_delivers hg (by simp only [State.op1, ha, hv, bind, Except.bind])

theorem runInstr_op2 {op : State → Word → Word → Word} (hg : s.guard g = true) (ha : s.readS a = .ok (x, s1))
    (hb : s1.readS b = .ok (y, s2)) (hv : op s x y = v) :
    ∀ t, s2.writeS d v = .ok t → runInstr g len s (fun s => s.op2 d a b (op s)) = .next (t.flow len) :=
  runInstr_delivers hg (by simp only [State.op2, ha, hb, hv, bind, Except.bind])

end Shapes

end Sys2Proof.Machine

namespace Sys2Proof.Cube

open Sys2Proof.Machine

/-- Settles O1: each operation's result is Put of an integer, whose pattern is the operation on the operands' patterns. -/
theorem integerFormsActOnTheirPattern : Obligations.IntegerFormsActOnTheirPattern := by
  unfold Obligations.IntegerFormsActOnTheirPattern
  refine ⟨fun g ty d a b imm s s1 s2 x y hg ha hb => ?arith, fun g ty d a b s s1 s2 x y hg ha hb => ?quotients,
    fun g ty d a b imm s s1 s2 x y hg ha hb => ?shifts, fun g ty d a s s1 x hg ha => ?counts⟩
  case arith =>
    intro w X Y it V K N
    dsimp only [Delivers, exec]
    have hN : (immLogic it imm).setWidth it.width = N := setWidth_immLogic it imm
    exact ⟨runInstr_op2 hg ha hb (addOp_eq ty x y), runInstr_op2 hg ha hb (subOp_eq ty x y),
      runInstr_op2 hg ha hb (mulOp_eq ty x y), runInstr_op2 hg ha hb (mulhOp_eq ty x y),
      runInstr_op2 hg ha hb (andOp_eq ty x y), runInstr_op2 hg ha hb (orOp_eq ty x y),
      runInstr_op2 hg ha hb (xorOp_eq ty x y), runInstr_op2 hg ha hb (andnOp_eq ty x y),
      runInstr_op2 hg ha hb (minOp_eq ty x y), runInstr_op2 hg ha hb (maxOp_eq ty x y),
      fun h => runInstr_op1 hg ha (absOp_eq ty x h), runInstr_op1 hg ha (negOp_eq ty x),
      runInstr_op1 hg ha (extOp_eq ty x), runInstr_op1 hg ha (addOp_eq it x (immArith it imm)),
      runInstr_op1 hg ha (mulOp_eq it x (immArith it imm)), runInstr_op1 hg ha (hN ▸ andOp_eq it x (immLogic it imm)),
      runInstr_op1 hg ha (hN ▸ orOp_eq it x (immLogic it imm)), runInstr_op1 hg ha (hN ▸ xorOp_eq it x (immLogic it imm))⟩
  case quotients =>
    dsimp only [Delivers, exec]
    exact ⟨runInstr_op2 hg ha hb (divOp_eq ty x y), runInstr_op2 hg ha hb (remOp_eq ty x y)⟩
  case shifts =>
    intro w X it V k
    dsimp only [Delivers, exec]
    have hk : (immLogic it imm).toNat = k := toNat_immLogic it imm
    exact ⟨runInstr_op2 hg ha hb (shlOp_eq ty x y), runInstr_op2 hg ha hb (shrOp_eq ty x y),
      runInstr_op2 hg ha hb (sarOp_eq ty x y), runInstr_op2 hg ha hb (rolOp_eq ty x y),
      runInstr_op1 hg ha (hk ▸ shlOp_eq it x (immLogic it imm)), runInstr_op1 hg ha (hk ▸ shrOp_eq it x (immLogic it imm)),
      runInstr_op1 hg ha (hk ▸ sarOp_eq it x (immLogic it imm)), runInstr_op1 hg ha (hk ▸ rolOp_eq it x (immLogic it imm))⟩
  case counts =>
    dsimp only [Delivers, exec]
    exact ⟨runInstr_op1 hg ha (clzOp_eq ty x), runInstr_op1 hg ha (ctzOp_eq ty x), runInstr_op1 hg ha (popcOp_eq ty x),
      runInstr_op1 hg ha (brevOp_eq ty x)⟩

/-- Settles O2: a comparison's body writes a predicate, and each move's body one destination. -/
theorem comparisonsAndMoves : Obligations.ComparisonsAndMoves := by
  unfold Obligations.ComparisonsAndMoves
  refine ⟨fun g ty cc pd a b imm s s1 s2 x y hg ha hb => ?comparisons,
    fun g n sg d a b pos lm1 scl disp imm s s1 s2 x y hg ha hb hpos => ?moves⟩
  case comparisons =>
    intro r ri
    dsimp only [Completes, exec]
    refine ⟨runInstr_flow hg ?cmp, runInstr_flow hg ?cmpi, fun h u => readP_writeP u pd r h,
      fun u => ⟨writeP_zero u r, rfl⟩, fun u => writeP_lat u pd r⟩
    case cmp => simp only [State.test2, ha, hb, bind, Except.bind, cmpOp_eq, r]
    case cmpi => simp only [ha, Except.map, cmpOp_eq]; rfl
  case moves =>
    dsimp only [Delivers, exec]
    exact ⟨runInstr_delivers hg rfl, runInstr_op1 hg ha rfl, runInstr_op2 hg ha hb rfl,
      runInstr_op1 hg ha (bfxOp_eq sg pos lm1 x), runInstr_op2 hg ha hb (bfiMask_eq pos lm1 ▸ rfl),
      runInstr_op2 hg ha hb rfl⟩

end Sys2Proof.Cube

/-! Scalar floating point (O3 to O5; R122 to R127): a form's body once its operands are read, and the exact numbers and
digits that the operations round. -/

namespace Sys2Proof.Machine

/-! A destination's readiness does not depend on the sources read before it (R35, R265): no agent pops a queue that it
pushes. -/

section Ready

variable {s s1 t : State} {d : SDst} {a : SSrc} {x v : Word} {fl : Flags}

theorem Ctx.queue_setQueue_other (c : Ctx) {n k : BitVec 3} (q : Queue) (h : n ≠ k) :
    (c.setQueue k q).queue n = c.queue n := by
  have hne : k.toNat ≠ n.toNat := fun e => h (BitVec.eq_of_toNat_eq e).symm
  simp [Ctx.setQueue, Ctx.queue, hne]

theorem State.popItem_me (s : State) (k : BitVec 3) (rest : List Word) :
    (s.popItem k rest).me.handler = s.me.handler ∧ ∀ n, n ≠ k → (s.popItem k rest).me.queue n = s.me.queue n := by
  have hother (n : BitVec 3) (h : n ≠ k) (q : Queue) := s.me.queue_setQueue_other q h
  simp only [State.popItem]
  split
  all_goals rw [State.me_setMe]
  all_goals exact ⟨rfl, fun n h => hother n h _⟩

theorem mayPop_of_popQ {k : BitVec 3} (h : s.popQ k = .ok (x, s1)) : s.mayPop k = true := by
  simp only [State.popQ] at h
  split at h
  next => cases h
  next hp =>
    by_contra hm
    exact hp (by simp [hm])

theorem not_mayPush_of_mayPop {k : BitVec 3} (h : s.mayPop k = true) : s.mayPush k = false := by
  unfold State.mayPop State.mayPush at *
  cases hp : s.inProg with
  | false =>
    have hk : 2 ≤ k.toNat := by simpa [hp] using h
    rw [if_neg Bool.false_ne_true]
    exact decide_eq_false (not_lt.mpr hk)
  | true =>
    have hk : k.toNat < 2 := by simpa [hp] using h
    rw [if_pos rfl, Bool.or_eq_false_iff, beq_eq_false_iff_ne, beq_eq_false_iff_ne]
    exact ⟨fun e => absurd (e ▸ hk) (by decide), fun e => absurd (e ▸ hk) (by decide)⟩

/-- A queue is ready for a push by an agent that may push it, is no handler context, and finds room. -/
theorem dstReady_q_iff {n : BitVec 3} : s.dstReady (.q n) = .ok () ↔
    (s.inProg = false → s.me.handler = false) ∧ s.mayPush n = true ∧ (s.me.queue n).hasRoom = true := by
  simp only [State.dstReady, ready]
  split
  next hbad =>
    refine iff_of_false nofun fun ⟨hcontext, hpush, _⟩ => ?_
    obtain ⟨hprog, hhandler⟩ : s.inProg = false ∧ s.me.handler = true := by simpa [hpush] using hbad
    simp [hcontext hprog] at hhandler
  next hgood =>
    obtain ⟨hcontext, hpush⟩ : (s.inProg = false → s.me.handler = false) ∧ s.mayPush n = true := by simpa using hgood
    split
    next hroom => exact iff_of_true rfl ⟨hcontext, hpush, hroom⟩
    next hroom => exact iff_of_false nofun fun ⟨_, _, h⟩ => hroom h

theorem dstReady_of_readS (ha : s.readS a = .ok (x, s1)) (h : s1.dstReady d = .ok ()) : s.dstReady d = .ok () := by
  cases d with
  | q n =>
    by_cases hq : ∃ k, a = .q k
    · obtain ⟨k, rfl⟩ := hq
      have hprog : s1.inProg = s.inProg := readS_inProg ha
      have hmay : s1.mayPush n = s.mayPush n := by rw [State.mayPush, State.mayPush, hprog]
      obtain ⟨hcontext, hpush, hroom⟩ := dstReady_q_iff.mp h
      rw [hprog] at hcontext
      rw [hmay] at hpush
      have hne : n ≠ k := by
        rintro rfl
        exact absurd hpush (by rw [not_mayPush_of_mayPop (mayPop_of_popQ ha)]; exact Bool.false_ne_true)
      obtain ⟨rest, -, rfl⟩ := popQ_ok s s1 k x ha
      obtain ⟨hhandler, hqueue⟩ := s.popItem_me k rest
      exact dstReady_q_iff.mpr ⟨hhandler ▸ hcontext, hpush, hqueue n hne ▸ hroom⟩
    · exact readS_keeps_state s s1 a x (not_exists.mp hq) ha ▸ h
  | _ => rfl

theorem dstReady_orFlags : (s.orFlags fl).dstReady d = s.dstReady d := by
  cases d <;> simp [State.dstReady, State.orFlags, State.mayPush, Ctx.queue]

theorem dstReady_of_writeS (h : s.writeS d v = .ok t) : s.dstReady d = .ok () := by
  cases d with
  | q n =>
    cases hp : s.pushQ n v with
    | ok u => exact (pushQ_ok s u n v hp).1
    | error e => rw [State.writeS, hp] at h; cases h
  | _ => rfl

end Ready

/-! The shapes of the scalar floating-point instructions. -/

section Shapes

variable {g : Guard} {len : Nat} {s s1 s2 s3 u : State} {d : SDst} {a b c : SSrc} {x y z : Word} {r : Nat × Flags}

/-- What a form does whose result is known: with no raised flag enabled, it delivers the result with the flags ORed. -/
def FpDelivers (u : State) (d : SDst) (r : Nat × Flags) (o : Except Stop State) : Prop :=
  u.fpTraps r.2 = false → ∀ t, (u.orFlags r.2).writeS d (BitVec.ofNat 64 r.1) = .ok t → o = .ok t

theorem fpDone_of_quiet {fl : Flags} (write : State → Except Stop State) (h : u.fpTraps fl = false) :
    u.fpDone fl write = write (u.orFlags fl) := by
  rw [State.fpDone, h, if_neg Bool.false_ne_true]

theorem runInstr_fp {body : State → Except Stop State} (hg : s.guard g = true) (h : FpDelivers u d r (body s))
    (hq : u.fpTraps r.2 = false) (t : State) (ht : (u.orFlags r.2).writeS d (BitVec.ofNat 64 r.1) = .ok t) :
    runInstr g len s body = .next (t.flow len) :=
  runInstr_flow hg (h hq t ht)

theorem fop1_fpDelivers {op : Word → Word × Flags} (ha : s.readS a = .ok (x, s1)) (hr : op x = fpWord r) :
    FpDelivers s1 d r (s.fop1 d a op) := by
  intro hq t ht
  have hd : s.dstReady d = .ok () := dstReady_of_readS ha (dstReady_orFlags.symm.trans (dstReady_of_writeS ht))
  simp only [State.fop1, hd, ha, hr, bind, Except.bind]
  exact (fpDone_of_quiet _ hq).trans ht

theorem fop2_fpDelivers {op : Word → Word → Word × Flags} (ha : s.readS a = .ok (x, s1)) (hb : s1.readS b = .ok (y, s2))
    (hr : op x y = fpWord r) : FpDelivers s2 d r (s.fop2 d a b op) := by
  intro hq t ht
  have hd : s.dstReady d = .ok () :=
    dstReady_of_readS ha (dstReady_of_readS hb (dstReady_orFlags.symm.trans (dstReady_of_writeS ht)))
  simp only [State.fop2, hd, ha, hb, hr, bind, Except.bind]
  exact (fpDone_of_quiet _ hq).trans ht

theorem fop3_fpDelivers {op : Word → Word → Word → Word × Flags} (ha : s.readS a = .ok (x, s1))
    (hb : s1.readS b = .ok (y, s2)) (hc : s2.readS c = .ok (z, s3)) (hr : op x y z = fpWord r) :
    FpDelivers s3 d r (s.fop3 d a b c op) := by
  intro hq t ht
  have hd : s.dstReady d = .ok () := dstReady_of_readS ha (dstReady_of_readS hb (dstReady_of_readS hc
    (dstReady_orFlags.symm.trans (dstReady_of_writeS ht))))
  simp only [State.fop3, hd, ha, hb, hc, hr, bind, Except.bind]
  exact (fpDone_of_quiet _ hq).trans ht

end Shapes

/-! NaN operands (R58, R66). -/

section Nan

variable (f : Fmt) (m : RMode) (t : Nat) {x y z : FVal}

theorem addVal_of_nan (h : x.isNan = true ∨ y.isNan = true) : addVal f m t x y = f.nanRes (x.isSig || y.isSig) := by
  cases x with
  | nan a => rfl
  | inf _ | fin _ _ _ =>
    cases y with
    | nan b => simp [addVal, FVal.isSig]
    | _ => exact h.elim nofun nofun

theorem mulVal_of_nan (h : x.isNan = true ∨ y.isNan = true) : mulVal f m t x y = f.nanRes (x.isSig || y.isSig) :=
  if_pos ((Bool.or_eq_true _ _).mpr h)

theorem divVal_of_nan (h : x.isNan = true ∨ y.isNan = true) : divVal f m t x y = f.nanRes (x.isSig || y.isSig) := by
  cases x with
  | nan a => rfl
  | inf _ | fin _ _ _ =>
    cases y with
    | nan b => simp [divVal, FVal.isSig]
    | _ => exact h.elim nofun nofun

theorem fmaVal_of_nan_factor (h : x.isNan = true ∨ y.isNan = true) : (fmaVal f m t x y z).1 = f.nan := by
  rw [fmaVal, if_pos ((Bool.or_eq_true _ _).mpr h)]
  rfl

theorem fmaVal_of_nan_addend (h : z.isNan = true) : (fmaVal f m t x y z).1 = f.nan := by
  unfold fmaVal
  split
  · rfl
  · split
    · rfl
    · rw [addVal_of_nan f m t (.inr h)]
      rfl

theorem sqrtVal_of_nan (h : x.isNan = true) : sqrtVal f m t x = f.nanRes x.isSig := by
  cases x with
  | nan a => rfl
  | _ => cases h

theorem rsqVal_of_nan (h : x.isNan = true) : rsqVal f m t x = f.nanRes x.isSig := by
  cases x with
  | nan a => rfl
  | _ => cases h

end Nan

/-! Exact sums and products (R122, R63). -/

section Exact

variable (f : Fmt) (m : RMode) (t : Nat) (n1 n2 n3 : Bool) (k1 k2 k3 : Nat) (e1 e2 e3 : Int)

theorem realOf_mul : realOf n1 k1 e1 * realOf n2 k2 e2 = realOf (n1 != n2) (k1 * k2) (e1 + e2) := by
  have hpow : (2 : Rat) ^ (e1 + e2) = 2 ^ e1 * 2 ^ e2 := zpow_add₀ two_ne_zero _ _
  cases n1 <;> cases n2 <;> simp [realOf, hpow] <;> ring

/-- A number at a lower exponent. -/
theorem realOf_eq_intCast_mul {e : Int} (h : e ≤ e1) : realOf n1 k1 e1
    = ((if n1 then -((k1 * 2 ^ (e1 - e).toNat : Nat) : Int) else (k1 * 2 ^ (e1 - e).toNat : Nat) : Int) : Rat) * 2 ^ e := by
  have hpow : (2 : Rat) ^ e1 = 2 ^ (e1 - e).toNat * 2 ^ e := by
    rw [← zpow_natCast, ← zpow_add₀ two_ne_zero]
    congr 1
    omega
  cases n1 <;> simp [realOf, hpow, mul_assoc]

theorem realOf_add : realOf n1 k1 e1 + realOf n2 k2 e2
    = ((exactSum n1 k1 e1 n2 k2 e2).1 : Rat) * 2 ^ (exactSum n1 k1 e1 n2 k2 e2).2 := by
  rw [realOf_eq_intCast_mul n1 k1 e1 (min_le_left e1 e2), realOf_eq_intCast_mul n2 k2 e2 (min_le_right e1 e2), ← add_mul,
    ← Int.cast_add]
  rfl

theorem realOf_natAbs (v e : Int) : realOf (decide (v < 0)) v.natAbs e = v * 2 ^ e := by
  rw [realOf, Nat.cast_natAbs]
  by_cases h : v < 0
  · simp [h, abs_of_neg]
  · simp [h, abs_of_nonneg (not_lt.mp h)]

/-- A sum is the rounding of the exact number `q`, and a sum of exactly zero takes the sign `zero`. -/
def RoundsSum (q : Rat) (zero : Bool) (r : Nat × Flags) : Prop :=
  (q ≠ 0 → ∃ (k : Nat) (e : Int), realOf (decide (q < 0)) k e = q ∧ r = f.round m t false (decide (q < 0)) k e false)
    ∧ (q = 0 → r = (f.signed zero 0, 0))

theorem addVal_roundsSum : RoundsSum f m t (realOf n1 k1 e1 + realOf n2 k2 e2)
    (if n1 = n2 ∧ k1 = 0 ∧ k2 = 0 then n1 else m == .rdn) (addVal f m t (.fin n1 k1 e1) (.fin n2 k2 e2)) := by
  rw [realOf_add]
  simp only [addVal]
  generalize exactSum n1 k1 e1 n2 k2 e2 = p
  obtain ⟨v, e⟩ := p
  have hpos : (0 : Rat) < 2 ^ e := by positivity
  have hzero : (v : Rat) * 2 ^ e = 0 ↔ v = 0 := by simp [hpos.ne']
  have hneg : (v : Rat) * 2 ^ e < 0 ↔ v < 0 := by simp [mul_neg_iff, hpos, hpos.not_gt]
  simp only [RoundsSum, hzero, hneg, ne_eq]
  exact ⟨fun h => ⟨v.natAbs, e, realOf_natAbs v e, if_neg h⟩, fun h => if_pos h⟩

theorem fmaVal_roundsSum : RoundsSum f m t (realOf n1 k1 e1 * realOf n2 k2 e2 + realOf n3 k3 e3)
    (if (n1 != n2) = n3 ∧ k1 * k2 = 0 ∧ k3 = 0 then n3 else m == .rdn)
    (fmaVal f m t (.fin n1 k1 e1) (.fin n2 k2 e2) (.fin n3 k3 e3)) := by
  have hsign : (if (n1 != n2) = n3 ∧ k1 * k2 = 0 ∧ k3 = 0 then n3 else m == .rdn)
      = if (n1 != n2) = n3 ∧ k1 * k2 = 0 ∧ k3 = 0 then n1 != n2 else m == .rdn :=
    ite_congr rfl (fun h => h.1.symm) fun _ => rfl
  rw [realOf_mul, hsign]
  exact addVal_roundsSum f m t (n1 != n2) n3 (k1 * k2) k3 (e1 + e2) e3

end Exact

/-! Quotients and roots (R122): their digits with a sticky bit. -/

section Root

theorem isqrtAux_eq_sqrt {x : Nat} (b r : Nat) (hle : r * r ≤ x) (hlt : x < (r + 2 ^ b) * (r + 2 ^ b)) :
    isqrtAux x b r = x.sqrt := by
  induction b generalizing r with
  | zero => exact Nat.eq_sqrt.mpr ⟨hle, hlt⟩
  | succ b ih =>
    rw [isqrtAux]
    split
    next h => exact ih _ h (by rwa [add_assoc, ← two_mul, ← pow_succ'])
    next h => exact ih _ hle (not_le.mp h)

theorem isqrt_eq_sqrt (x : Nat) : isqrt x = x.sqrt := by
  refine isqrtAux_eq_sqrt _ 0 (Nat.zero_le _) ?_
  rw [Nat.zero_add, ← pow_add]
  exact Nat.lt_log2_self.trans_le (Nat.pow_le_pow_right two_pos (by omega))

/-- A number by the digits `k` at the exponent `e`: the last number with such digits that is not above it, with two bits more
than the format keeps; `under` says which numbers are not above it. -/
def Digits (f : Fmt) (under : Rat → Bool) (k : Nat) (e : Int) : Prop :=
  under (realOf false k e) = true ∧ under (realOf false (k + 1) e) = false ∧ 2 ^ (f.mb + 2) ≤ k

variable {f : Fmt} (hf : f.mb + 3 ≤ guardBits) (m : RMode) (t : Nat)

theorem digits_of_le_iff {under : Rat → Bool} {k : Nat} {e : Int} (h : ∀ r, under (realOf false r e) = true ↔ r ≤ k)
    (hk : 2 ^ (f.mb + 2) ≤ k) : Digits f under k e :=
  ⟨(h k).mpr le_rfl, Bool.eq_false_iff.mpr fun hu => absurd ((h _).mp hu) (Nat.not_succ_le_self k), hk⟩

theorem abs_div_realOf (n1 n2 : Bool) (k1 k2 : Nat) (e1 e2 : Int) (g : Nat) :
    |realOf n1 k1 e1 / realOf n2 k2 e2| = ((k1 * 2 ^ g : Nat) : Rat) / k2 * 2 ^ (e1 - e2 - g) := by
  have hpow : (2 : Rat) ^ e1 = 2 ^ g * 2 ^ (e1 - e2 - g) * 2 ^ e2 := by
    rw [← zpow_natCast, ← zpow_add₀ two_ne_zero, ← zpow_add₀ two_ne_zero]
    congr 1
    omega
  have hpos : (0 : Rat) < 2 ^ e2 := by positivity
  rw [abs_div, abs_realOf, abs_realOf, hpow]
  push_cast
  field_simp

include hf in
/-- A quotient is the rounding of its digits. -/
theorem divVal_digits (n1 n2 : Bool) {k1 k2 : Nat} (e1 e2 : Int) (h1 : k1 ≠ 0) (h2 : k2 ≠ 0) :
    ∃ (k : Nat) (e : Int), Digits f (fun r => decide (r ≤ |realOf n1 k1 e1 / realOf n2 k2 e2|)) k e
      ∧ divVal f m t (.fin n1 k1 e1) (.fin n2 k2 e2)
        = f.round m t false (n1 != n2) k e (decide (realOf false k e ≠ |realOf n1 k1 e1 / realOf n2 k2 e2|)) := by
  obtain ⟨g, hg⟩ : ∃ g, g = guardBits + Nat.log2 k2 := ⟨_, rfl⟩
  have hdiv := abs_div_realOf n1 n2 k1 k2 e1 e2 g
  have hpow : (0 : Rat) < 2 ^ (e1 - e2 - g) := by positivity
  have hk2 : (0 : Rat) < k2 := by exact_mod_cast Nat.pos_of_ne_zero h2
  have hunder (r : Nat) : realOf false r (e1 - e2 - g) ≤ |realOf n1 k1 e1 / realOf n2 k2 e2| ↔ r ≤ k1 * 2 ^ g / k2 := by
    rw [hdiv, realOf_false, mul_le_mul_iff_left₀ hpow, le_div_iff₀ hk2, Nat.le_div_iff_mul_le (Nat.pos_of_ne_zero h2)]
    exact_mod_cast Iff.rfl
  have hexact : realOf false (k1 * 2 ^ g / k2) (e1 - e2 - g) = |realOf n1 k1 e1 / realOf n2 k2 e2|
      ↔ k1 * 2 ^ g % k2 = 0 := by
    rw [hdiv, realOf_false, mul_left_inj' hpow.ne', eq_div_iff hk2.ne', ← Nat.dvd_iff_mod_eq_zero, Nat.dvd_iff_div_mul_eq]
    exact_mod_cast Iff.rfl
  have hlen : 2 ^ (f.mb + 2) ≤ k1 * 2 ^ g / k2 := by
    rw [Nat.le_div_iff_mul_le (Nat.pos_of_ne_zero h2)]
    calc 2 ^ (f.mb + 2) * k2 ≤ 2 ^ (f.mb + 2) * 2 ^ (Nat.log2 k2 + 1) := Nat.mul_le_mul_left _ Nat.lt_log2_self.le
      _ ≤ 2 ^ g := by rw [← pow_add]; exact Nat.pow_le_pow_right two_pos (by omega)
      _ ≤ k1 * 2 ^ g := Nat.le_mul_of_pos_left _ (Nat.pos_of_ne_zero h1)
  refine ⟨k1 * 2 ^ g / k2, e1 - e2 - g, digits_of_le_iff (fun r => by rw [decide_eq_true_iff, hunder]) hlen, ?_⟩
  have hsticky : decide (realOf false (k1 * 2 ^ g / k2) (e1 - e2 - g) ≠ |realOf n1 k1 e1 / realOf n2 k2 e2|)
      = (k1 * 2 ^ g % k2 != 0) := by
    rw [Bool.eq_iff_iff, decide_eq_true_iff, bne_iff_ne, ne_eq, hexact]
  rw [hsticky, hg]
  simp only [divVal, if_neg h1, if_neg h2]

theorem toNat_emod_two_add_half (e : Int) : ((e % 2).toNat : Int) + 2 * ((e - (e % 2).toNat) / 2) = e := by omega

theorem zpow_mul_self (e : Int) : (2 : Rat) ^ e * 2 ^ e = 2 ^ (2 * e) := by
  rw [← zpow_add₀ two_ne_zero, two_mul]

/-- A number with an exponent made even, in the square of the unit of its root's digits. -/
theorem realOf_eq_mul_sq (k g : Nat) (e : Int) : realOf false k e = ((k * 2 ^ ((e % 2).toNat + 2 * g) : Nat) : Rat)
    * (2 ^ ((e - (e % 2).toNat) / 2 - g) * 2 ^ ((e - (e % 2).toNat) / 2 - g)) := by
  rw [realOf_false, zpow_mul_self]
  push_cast
  rw [mul_assoc, ← zpow_natCast, ← zpow_add₀ two_ne_zero]
  congr 2
  push_cast
  have := toNat_emod_two_add_half e
  omega

include hf in
/-- A square root is the rounding of its digits. -/
theorem sqrtVal_digits {k1 : Nat} (e1 : Int) (h1 : k1 ≠ 0) :
    ∃ (k : Nat) (e : Int), Digits f (fun r => decide (r * r ≤ realOf false k1 e1)) k e
      ∧ sqrtVal f m t (.fin false k1 e1)
        = f.round m t false false k e (decide (realOf false k e * realOf false k e ≠ realOf false k1 e1)) := by
  obtain ⟨g, hg⟩ : ∃ g, g = guardBits := ⟨_, rfl⟩
  have hreal := realOf_eq_mul_sq k1 g e1
  have hpos : (0 : Rat) < 2 ^ ((e1 - (e1 % 2).toNat) / 2 - g) := by positivity
  have hlen : 2 ^ (f.mb + 2) ≤ (k1 * 2 ^ ((e1 % 2).toNat + 2 * g)).sqrt := by
    rw [Nat.le_sqrt, ← pow_add]
    exact (Nat.pow_le_pow_right two_pos (by omega)).trans (Nat.le_mul_of_pos_left _ (Nat.pos_of_ne_zero h1))
  refine ⟨_, (e1 - (e1 % 2).toNat) / 2 - g, digits_of_le_iff (fun r => ?under) hlen, ?value⟩
  case under =>
    rw [decide_eq_true_iff, hreal, realOf_false, mul_mul_mul_comm, mul_le_mul_iff_left₀ (mul_pos hpos hpos), Nat.le_sqrt]
    exact_mod_cast Iff.rfl
  case value =>
    simp only [sqrtVal, if_neg h1, Bool.false_eq_true, if_false, isqrt_eq_sqrt, ← hg]
    congr 1
    rw [Bool.eq_iff_iff, decide_eq_true_iff, bne_iff_ne, hreal, realOf_false, mul_mul_mul_comm, ne_eq, ne_eq,
      mul_left_inj' (mul_pos hpos hpos).ne']
    exact_mod_cast Iff.rfl

/-- The square of a root's digits against the reciprocal, in whole numbers. -/
theorem sq_mul_realOf (r k g : Nat) (e : Int) :
    realOf false r (-((e - (e % 2).toNat) / 2) - g) * realOf false r (-((e - (e % 2).toNat) / 2) - g) * realOf false k e
      = ((r * r * (k * 2 ^ (e % 2).toNat) : Nat) : Rat) / (2 ^ (2 * g) : Nat) := by
  have hpow : (2 : Rat) ^ (2 * (-((e - (e % 2).toNat) / 2) - g) : Int) * 2 ^ e = 2 ^ (e % 2).toNat / 2 ^ (2 * g) := by
    rw [← zpow_add₀ two_ne_zero, div_eq_mul_inv, ← zpow_natCast, ← zpow_natCast, ← zpow_neg, ← zpow_add₀ two_ne_zero]
    congr 1
    push_cast
    have := toNat_emod_two_add_half e
    omega
  rw [realOf_false, realOf_false, mul_mul_mul_comm (r : Rat) _ r, zpow_mul_self, mul_mul_mul_comm, hpow]
  push_cast
  ring

include hf in
/-- A reciprocal square root is the rounding of its digits. -/
theorem rsqVal_digits {k1 : Nat} (e1 : Int) (h1 : k1 ≠ 0) :
    ∃ (k : Nat) (e : Int), Digits f (fun r => decide (r * r * realOf false k1 e1 ≤ 1)) k e
      ∧ rsqVal f m t (.fin false k1 e1)
        = f.round m t false false k e (decide (realOf false k e * realOf false k e * realOf false k1 e1 ≠ 1)) := by
  obtain ⟨M, hM⟩ : ∃ M, M = k1 * 2 ^ (e1 % 2).toNat := ⟨_, rfl⟩
  obtain ⟨g, hg⟩ : ∃ g, g = guardBits + Nat.log2 M := ⟨_, rfl⟩
  have hMpos : 0 < M := hM ▸ Nat.mul_pos (Nat.pos_of_ne_zero h1) (Nat.two_pow_pos _)
  have hpow : (0 : Rat) < (2 ^ (2 * g) : Nat) := by positivity
  have hlen : 2 ^ (f.mb + 2) ≤ (2 ^ (2 * g) / M).sqrt := by
    rw [Nat.le_sqrt, Nat.le_div_iff_mul_le hMpos]
    calc 2 ^ (f.mb + 2) * 2 ^ (f.mb + 2) * M ≤ 2 ^ (f.mb + 2) * 2 ^ (f.mb + 2) * 2 ^ (Nat.log2 M + 1) :=
          Nat.mul_le_mul_left _ Nat.lt_log2_self.le
      _ ≤ 2 ^ (2 * g) := by rw [← pow_add, ← pow_add]; exact Nat.pow_le_pow_right two_pos (by omega)
  refine ⟨_, -((e1 - (e1 % 2).toNat) / 2) - g, digits_of_le_iff (fun r => ?under) hlen, ?value⟩
  case under =>
    rw [decide_eq_true_iff, sq_mul_realOf, ← hM, div_le_one hpow, Nat.cast_le, Nat.le_sqrt, Nat.le_div_iff_mul_le hMpos]
  case value =>
    simp only [rsqVal, if_neg h1, Bool.false_eq_true, if_false, isqrt_eq_sqrt, ← hM, ← hg]
    congr 1
    rw [Bool.eq_iff_iff, decide_eq_true_iff, bne_iff_ne, sq_mul_realOf, ← hM, ne_eq, ne_eq, div_eq_one_iff_eq hpow.ne',
      Nat.cast_inj]

end Root

end Sys2Proof.Machine

/-! Arithmetic forms (O3). -/

namespace Sys2Proof.Machine

theorem t00_eq_zero : t00 = 0 := rfl

theorem fmtTy_mb_le_guardBits (ty : FTy) : (fmtTy ty).mb + 3 ≤ guardBits := by cases ty <;> decide

theorem nan_f32 : (fmtTy .f32).nan = 0x7FC00000 := by decide

theorem nan_f64 : (fmtTy .f64).nan = 0x7FF8000000000000 := by decide

section Convert

variable (m : RMode) (fz8 : Bool) (x : Word)

theorem fcvtOp_fp {a b : FpTy} (h : a ≠ b) :
    fcvtOp (.fp a) (.fp b) m fz8 x = fpWord ((fmtOf b).deliver m 0 fz8 ((fmtOf a).val x.toNat)) := by
  simp only [fcvtOp, convert, if_neg h]
  rfl

theorem fcvtOp_fp_self (a : FpTy) : fcvtOp (.fp a) (.fp a) m fz8 x = fpWord (
    match (fmtOf a).val x.toNat with
    | .nan sig => ((fmtOf a).nan, if sig then fNV else 0)
    | _ => (x.toNat % 2 ^ a.width, 0)) := by
  simp only [fcvtOp, convert, if_pos]
  cases (fmtOf a).val x.toNat <;> rfl

end Convert

end Sys2Proof.Machine

namespace Sys2Proof.Cube

open Sys2Proof.Machine

/-- Settles O3: each form delivers its operation's result; a sum or product rounds the exact number, a quotient or root its
digits, and each operation looks for a NaN first. -/
theorem fpArithmeticRoundsOnceAndNanIsCanonical : Obligations.FpArithmeticRoundsOnceAndNanIsCanonical := by
  unfold Obligations.FpArithmeticRoundsOnceAndNanIsCanonical
  refine ⟨fun g ty ety dty rm d a b c imm s s1 s2 s3 x y z hg ha hb hc => ?forms,
    fun ty m t n1 n2 n3 k1 k2 k3 e1 e2 e3 => ?rounded, fun ty m t x y z => ?nans⟩
  case forms =>
    intro f m X Y Z fi mi
    have one {op : State → Word → Word × Flags} {r : Nat × Flags} (h : op s x = fpWord r) :=
      runInstr_fp (len := 8) (body := fun s => s.fop1 d a (op s)) hg (fop1_fpDelivers ha h)
    have two {op : State → Word → Word → Word × Flags} {r : Nat × Flags} (h : op s x y = fpWord r) :=
      runInstr_fp (len := 8) (body := fun s => s.fop2 d a b (op s)) hg (fop2_fpDelivers ha hb h)
    have three {op : State → Word → Word → Word → Word × Flags} {r : Nat × Flags} (h : op s x y z = fpWord r) :=
      runInstr_fp (len := 8) (body := fun s => s.fop3 d a b c (op s)) hg (fop3_fpDelivers ha hb hc h)
    dsimp only [DeliversFp, Delivers, exec]
    refine ⟨two rfl, two rfl, two rfl, three rfl, two rfl, one rfl, one rfl, one rfl, one rfl, one rfl,
      fun h => one (fcvtOp_fp m _ x h), one (fcvtOp_fp_self m _ x ety)⟩
  case rounded =>
    intro f X Y Z x y z ofSum floor
    have hf := fmtTy_mb_le_guardBits ty
    refine ⟨addVal_roundsSum f m t n1 n2 k1 k2 e1 e2, ⟨k1 * k2, e1 + e2, (realOf_mul ..).symm, rfl⟩,
      fmaVal_roundsSum f m t n1 n2 n3 k1 k2 k3 e1 e2 e3, fun h1 h2 => divVal_digits hf m t n1 n2 e1 e2 h1 h2,
      fun h1 hn => ?sqrt, fun h1 hn => ?rsq⟩
    case sqrt => subst hn; exact sqrtVal_digits hf m t e1 h1
    case rsq => subst hn; exact rsqVal_digits hf m t e1 h1
  case nans =>
    intro f can nv1 nv2
    have hcan : f.nan = can := by
      cases ty with
      | f32 => exact nan_f32
      | f64 => exact nan_f64
    have hres (b : Bool) : f.nanRes b = (can, if b then fNV else 0) := by rw [Fmt.nanRes, hcan]
    refine ⟨fun h => ⟨?_, ?_, ?_, ?_⟩, fun h => ?_, fun h => ⟨?_, ?_⟩⟩
    · rw [addVal_of_nan f m t h, hres]
    · rw [mulVal_of_nan f m t h, hres]
    · rw [divVal_of_nan f m t h, hres]
    · rw [fmaVal_of_nan_factor f m t h, hcan]
    · rw [fmaVal_of_nan_addend f m t h, hcan]
    · rw [sqrtVal_of_nan f m t h, hres]
    · rw [rsqVal_of_nan f m t h, hres]

end Sys2Proof.Cube

/-! Conversions with integers (O4; R69, R110, R126). -/

namespace Sys2Proof.Machine

section Integers

variable (m : RMode) (t : Nat) (fz8 : Bool) {a : FpTy} {d ty : ElemTy} {x : Nat}

theorem convert_nan_int (hd : d.isInt = true) {sig : Bool} (hx : (fmtOf a).val x = .nan sig) :
    convert (.fp a) d m t fz8 x = (0, fNV) := by
  cases d with
  | fp b => cases hd
  | _ => simp only [convert, hx]

theorem convert_inf_int (hd : d.isInt = true) {n : Bool} (hx : (fmtOf a).val x = .inf n) :
    convert (.fp a) d m t fz8 x = (((if n then elemLo d else elemHi d) % (2 ^ d.width : Nat)).toNat, fNV) := by
  cases d with
  | fp b => cases hd
  | _ => simp only [convert, hx]

/-- The integer that a rounded number saturates to, with the flags of the conversion (R69). -/
def saturate (d : ElemTy) (r : Int × Bool) : Int × Flags :=
  if r.1 < elemLo d then (elemLo d, fNV) else if elemHi d < r.1 then (elemHi d, fNV) else (r.1, if r.2 then fNX else 0)

theorem convert_fin_int (hd : d.isInt = true) {n : Bool} {k : Nat} {e : Int} (hx : (fmtOf a).val x = .fin n k e) :
    convert (.fp a) d m t fz8 x = (((saturate d (roundToInt m t n k e)).1 % (2 ^ d.width : Nat)).toNat,
      (saturate d (roundToInt m t n k e)).2) := by
  cases d with
  | fp b => cases hd
  | _ =>
    simp only [convert, hx, saturate]
    split_ifs <;> rfl

theorem convert_int_int (hty : ty.isInt = true) (hd : d.isInt = true) :
    convert ty d m t fz8 x = ((intVal (elemSigned ty) ty.width x % (2 ^ d.width : Nat)).toNat, 0) := by
  cases ty with
  | fp a => cases hty
  | _ =>
    cases d with
    | fp b => cases hd
    | _ => rfl

theorem convert_int_fp (hty : ty.isInt = true) : convert ty (.fp a) m t fz8 x =
    (fmtOf a).round m t fz8 (decide (intVal (elemSigned ty) ty.width x < 0)) (intVal (elemSigned ty) ty.width x).natAbs 0
      false := by
  cases ty with
  | fp b => cases hty
  | _ => rfl

/-- The extension of an integer's pattern by its type (R110). -/
def extended (d : ElemTy) (v : Int) : Word :=
  if elemSigned d then (BitVec.ofInt d.width v).signExtend 64 else (BitVec.ofInt d.width v).setWidth 64

theorem fcvtOp_int (hd : d.isInt = true) {v : Int} {fl : Flags} {y : Word}
    (h : convert ty d m 0 fz8 y.toNat = ((v % (2 ^ d.width : Nat)).toNat, fl)) :
    fcvtOp ty d m fz8 y = (extended d v, fl) := by
  simp only [fcvtOp, t00_eq_zero, h, if_pos hd]
  rw [ofInt_intVal_emod, extended]

theorem extended_zero : extended d 0 = 0 := by simp [extended, BitVec.signExtend]

end Integers

end Sys2Proof.Machine

namespace Sys2Proof.Cube

open Sys2Proof.Machine

/-- Settles O4: a conversion to an integer type extends the pattern of the integer that it saturates to, and one from an
integer type takes the integer of the pattern. -/
theorem fpIntegerConversionsSaturate : Obligations.FpIntegerConversionsSaturate := by
  unfold Obligations.FpIntegerConversionsSaturate
  intro g fty it jt rm d a s s1 x hg ha hit hjt m signed put lo hi p v
  have hsigned (t : ElemTy) : signed t = elemSigned t := by cases t <;> rfl
  have hput (t : ElemTy) (v : Int) (fl : Flags) : (extended t v, fl) = fpWord (put t v, fl) := by
    simp only [put, hsigned, fpWord, BitVec.ofNat_toNat, BitVec.setWidth_eq, extended]
  have hlo : elemLo it = lo := by simp only [lo, hsigned, elemLo]
  have hhi : elemHi it = hi := by simp only [hi, hsigned, elemHi]
  have hv : intVal (elemSigned it) it.width x.toNat = v := by
    rw [intVal_eq_intOf, BitVec.ofNat_toNat, intOf, ← hsigned]
  have converts {ty dty : ElemTy} {r : Nat × Flags} (h : fcvtOp ty dty m (fpcsFz8 s.me.csr.fpcs) x = fpWord r) :=
    runInstr_fp (len := 8) (body := fun s => s.fop1 d a (fcvtOp ty dty (s.rmOf rm) (fpcsFz8 s.me.csr.fpcs))) hg
      (fop1_fpDelivers ha h)
  dsimp only [DeliversFp, Delivers, exec]
  refine ⟨converts ?toInt, converts (r := (put jt v, 0)) ?between, converts ?toFp⟩
  case toInt =>
    cases hx : (fmtOf fty).val x.toNat with
    | nan sig =>
      rw [fcvtOp_int m _ hit (v := 0) (convert_nan_int m 0 _ hit hx), extended_zero]
      rfl
    | inf n =>
      rw [fcvtOp_int m _ hit (convert_inf_int m 0 _ hit hx), hput, hlo, hhi]
    | fin n k e =>
      rw [fcvtOp_int m _ hit (convert_fin_int m 0 _ hit hx), hput, saturate, hlo, hhi]
      dsimp only
      split_ifs <;> rfl
  case between => rw [fcvtOp_int m _ hjt (convert_int_int m 0 _ hit hjt), hv, hput]
  case toFp =>
    rw [← hv]
    simp only [fcvtOp, t00_eq_zero, convert_int_fp m 0 _ hit]
    rfl

end Sys2Proof.Cube

/-! Selections, comparisons and signs (O5; R123 to R125). -/

namespace Sys2Proof.Machine

/-! The order of values (R124). -/

theorem finLt_iff (n1 n2 : Bool) (k1 k2 : Nat) (e1 e2 : Int) :
    finLt n1 k1 e1 n2 k2 e2 = true ↔ realOf n1 k1 e1 < realOf n2 k2 e2 := by
  have hneg : realOf (!n2) k2 e2 = -realOf n2 k2 e2 := by cases n2 <;> simp [realOf]
  have hpos : (0 : Rat) < 2 ^ (exactSum n1 k1 e1 (!n2) k2 e2).2 := by positivity
  rw [finLt, decide_eq_true_iff, ← sub_neg (a := realOf n1 k1 e1), sub_eq_add_neg, ← hneg, realOf_add]
  simp [mul_neg_iff, hpos, hpos.not_gt]

theorem FVal.lt_asymm : ∀ {x y : FVal}, x.lt y = true → y.lt x = false
  | .fin n1 k1 e1, .fin n2 k2 e2, h => by
    rw [FVal.lt, finLt_iff] at h
    rw [FVal.lt, Bool.eq_false_iff, ne_eq, finLt_iff]
    exact h.not_gt
  | .inf true, .nan _, _ | .inf true, .inf false, _ | .inf true, .fin .., _ | .nan _, .inf false, _
  | .fin .., .inf false, _ => rfl
  | .inf true, .inf true, h | .inf false, .nan _, h | .inf false, .inf true, h | .inf false, .inf false, h
  | .inf false, .fin .., h | .nan _, .nan _, h | .nan _, .inf true, h | .nan _, .fin .., h | .fin .., .nan _, h
  | .fin .., .inf true, h => nomatch h

/-- Of two values, one is not above the other when it is below it or they are alike. -/
theorem FVal.not_lt_eq (x y : FVal) : (!y.lt x) = (x.lt y || (!x.lt y && !y.lt x)) := by
  cases h : x.lt y with
  | true => rw [FVal.lt_asymm h]; rfl
  | false => simp

/-! Encodings without what stands above their format (R112). -/

section Fields

variable {f : Fmt} {w : Nat} (hw : f.eb + f.mb + 1 = w) (x : Nat)
include hw

theorem Fmt.val_mod : f.val (x % 2 ^ w) = f.val x := by
  subst hw
  have hfrac : x % 2 ^ (f.eb + f.mb + 1) % 2 ^ f.mb = x % 2 ^ f.mb :=
    Nat.mod_mod_of_dvd _ (pow_dvd_pow 2 (by omega))
  have hex : x % 2 ^ (f.eb + f.mb + 1) / 2 ^ f.mb % 2 ^ f.eb = x / 2 ^ f.mb % 2 ^ f.eb := by
    rw [show f.eb + f.mb + 1 = f.mb + (f.eb + 1) by omega, pow_add, Nat.mod_mul_right_div_self,
      Nat.mod_mod_of_dvd _ (pow_dvd_pow 2 (Nat.le_succ _))]
  have hsign : f.sign (x % 2 ^ (f.eb + f.mb + 1)) = f.sign x := by
    rw [Fmt.sign, Fmt.sign, pow_succ, Nat.mod_mul_right_div_self, Nat.mod_mod]
  rw [Fmt.val, Fmt.val, hfrac, hex, hsign]

theorem minMaxVal_eq (isMax : Bool) (a b : Nat) : minMaxVal f isMax a b =
    (if (f.val a).isNan && (f.val b).isNan then f.nan else if (f.val a).isNan then b % 2 ^ w
      else if (f.val b).isNan then a % 2 ^ w
      else if ((f.val a).lt (f.val b) || (!(f.val b).lt (f.val a) && (f.val a).neg && !(f.val b).neg)) = !isMax
      then a % 2 ^ w else b % 2 ^ w, if (f.val a).isSig || (f.val b).isSig then fNV else 0) := by
  have hpick (less : Bool) (p q : Nat) : (if less != isMax then p else q) = if less = !isMax then p else q := by
    cases less <;> cases isMax <;> rfl
  simp only [minMaxVal, hw, Fmt.val_mod hw, hpick]
  split_ifs <;> rfl

end Fields

theorem fmtOf_width (ty : FpTy) : (fmtOf ty).eb + (fmtOf ty).mb + 1 = ty.width := by cases ty <;> rfl

/-! The sign bit (R125). -/

section Sign

variable {w : Nat} (X : BitVec w)

theorem getLsbD_one_shiftLeft (k i : Nat) : (1#w <<< k).getLsbD i = (decide (k < w) && decide (k = i)) := by
  rw [← BitVec.twoPow_eq, BitVec.getLsbD_twoPow]

/-- Without its top bit a pattern keeps the bits below it. -/
theorem ofNat_mod_two_pow_pred :
    BitVec.ofNat 64 (X.toNat % 2 ^ (w - 1)) = (X &&& ~~~(1#w <<< (w - 1))).setWidth 64 := by
  apply BitVec.eq_of_getLsbD_eq
  intro i hi
  have hbit : X.toNat.testBit i = X.getLsbD i := rfl
  rw [BitVec.getLsbD_ofNat, Nat.testBit_mod_two_pow, BitVec.getLsbD_setWidth, BitVec.getLsbD_and, BitVec.getLsbD_not,
    getLsbD_one_shiftLeft, hbit]
  by_cases hw : i < w
  · have htop : decide (i < w - 1) = !(decide (w - 1 < w) && decide (w - 1 = i)) := by
      rw [decide_eq_true (by omega : w - 1 < w), Bool.true_and, ← decide_not, decide_eq_decide]
      omega
    rw [htop, decide_eq_true hw, Bool.true_and, Bool.and_comm (X.getLsbD i)]
  · rw [BitVec.getLsbD_of_ge X i (not_lt.mp hw), Bool.and_false, Bool.false_and]

/-- Adding the top bit turns it and no other. -/
theorem add_top_eq_xor : X + 1#w <<< (w - 1) = X ^^^ 1#w <<< (w - 1) := by
  apply BitVec.eq_of_getLsbD_eq
  intro i hi
  have hlow : (1#w <<< (w - 1)).toNat % 2 ^ i = 0 := by
    rw [← BitVec.twoPow_eq, BitVec.toNat_twoPow_of_lt (by omega)]
    exact Nat.mod_eq_zero_of_dvd (pow_dvd_pow 2 (by omega))
  have hcarry : BitVec.carry i X (1#w <<< (w - 1)) false = false := by
    rw [BitVec.carry, hlow, decide_eq_false_iff_not]
    exact not_le.mpr (Nat.mod_lt _ (Nat.two_pow_pos i))
  rw [BitVec.getLsbD_add hi, hcarry, Bool.xor_false, BitVec.getLsbD_xor]

end Sign

theorem fabsOp_eq (ty : FpTy) (x : Word) :
    fabsOp ty x = (x.setWidth ty.width &&& ~~~(1#ty.width <<< (ty.width - 1))).setWidth 64 := by
  rw [← ofNat_mod_two_pow_pred, fabsOp, BitVec.toNat_setWidth, Nat.mod_mod_of_dvd _ (pow_dvd_pow 2 (Nat.sub_le _ _))]

theorem fpTy_width_pos (ty : FpTy) : 0 < ty.width := by cases ty <;> decide

theorem fnegOp_eq (ty : FpTy) (x : Word) :
    fnegOp ty x = (x.setWidth ty.width ^^^ 1#ty.width <<< (ty.width - 1)).setWidth 64 := by
  have htop : (1#ty.width <<< (ty.width - 1)).toNat = 2 ^ (ty.width - 1) := by
    rw [← BitVec.twoPow_eq, BitVec.toNat_twoPow_of_lt (Nat.sub_one_lt (fpTy_width_pos ty).ne')]
  rw [← add_top_eq_xor, ← BitVec.ofNat_toNat, BitVec.toNat_add, htop, BitVec.toNat_setWidth]
  rfl

/-! Classes (R125). -/

/-- The class of an encoding by its fields; E4M3 has no infinity and one NaN. -/
def classBit (ty : FpTy) (y : Nat) : Nat :=
  let f := fmtOf ty
  let frac := y % 2 ^ f.mb
  let ex := y / 2 ^ f.mb % 2 ^ f.eb
  let top := ex = 2 ^ f.eb - 1
  if ty = .e4m3 ∧ top ∧ frac = 2 ^ f.mb - 1 then 9
  else if ty ≠ .e4m3 ∧ top ∧ frac ≠ 0 then (if frac < 2 ^ (f.mb - 1) then 8 else 9)
  else if ty ≠ .e4m3 ∧ top then (if f.sign y then 0 else 7)
  else if ex = 0 ∧ frac = 0 then (if f.sign y then 3 else 4)
  else if ex = 0 then (if f.sign y then 2 else 5)
  else if f.sign y then 1 else 6

theorem fmtOf_hasInf (ty : FpTy) : (fmtOf ty).hasInf = decide (ty ≠ .e4m3) := by cases ty <;> rfl

theorem fclassVal_eq (ty : FpTy) (y : Nat) : fclassVal (fmtOf ty) y = 2 ^ classBit ty y := by
  have hi := fmtOf_hasInf ty
  simp only [fclassVal, classBit, Fmt.val]
  generalize fmtOf ty = f at *
  have hfrac : y % 2 ^ f.mb < 2 ^ f.mb := Nat.mod_lt _ (Nat.two_pow_pos _)
  generalize y % 2 ^ f.mb = frac at *
  generalize y / 2 ^ f.mb % 2 ^ f.eb = ex
  generalize f.sign y = sign
  by_cases hinf : ty ≠ .e4m3 ∧ ex = 2 ^ f.eb - 1
  · obtain ⟨hty, htop⟩ := hinf
    by_cases hz : frac = 0
    · cases sign <;> simp [hi, hty, htop, hz]
    · by_cases hs : frac < 2 ^ (f.mb - 1) <;> simp [hi, hty, htop, hz, hs]
  by_cases hnan : ty = .e4m3 ∧ ex = 2 ^ f.eb - 1 ∧ frac = 2 ^ f.mb - 1
  · obtain ⟨hty, htop, hf⟩ := hnan
    simp [hi, hty, htop, hf]
  have hinf' : (f.hasInf && ex == 2 ^ f.eb - 1) = false := by simpa [hi] using hinf
  have hnan' : (!f.hasInf && ex == 2 ^ f.eb - 1 && frac == 2 ^ f.mb - 1) = false := by simpa [hi] using hnan
  have hsig : ¬(ty ≠ .e4m3 ∧ ex = 2 ^ f.eb - 1 ∧ frac ≠ 0) := fun h => hinf ⟨h.1, h.2.1⟩
  rw [hinf', hnan', if_neg Bool.false_ne_true, if_neg Bool.false_ne_true, if_neg hnan, if_neg hsig, if_neg hinf]
  by_cases hex : ex = 0
  · by_cases hz : frac = 0
    · cases sign <;> simp [hex, hz]
    · cases sign <;> simp [hex, hz, hfrac]
  · cases sign <;> simp [hex]

theorem sign_toNat (ty : FpTy) (X : BitVec ty.width) : (fmtOf ty).sign X.toNat = X.getLsbD (ty.width - 1) := by
  have hw : ty.width - 1 = (fmtOf ty).eb + (fmtOf ty).mb := by rw [← fmtOf_width, Nat.add_sub_cancel]
  rw [Fmt.sign, hw, BitVec.getLsbD, Nat.testBit_eq_decide_div_mod_eq]
  rfl

theorem fclassOp_eq (ty : FpTy) (x : Word) : fclassOp ty x = 1#64 <<< classBit ty (x.setWidth ty.width).toNat := by
  rw [fclassOp, ← BitVec.toNat_setWidth, fclassVal_eq, ofNat_shiftLeft_eq_ofNat_mul, one_mul]

end Sys2Proof.Machine

namespace Sys2Proof.Cube

open Sys2Proof.Machine

/-- Settles O5: a selection picks by the order of the values, a comparison is decided by the order and by NaNs, and the sign
forms act on one bit of the pattern. -/
theorem fpSelectionsComparisonsAndSigns : Obligations.FpSelectionsComparisonsAndSigns := by
  unfold Obligations.FpSelectionsComparisonsAndSigns
  refine ⟨fun g ty d a b s s1 s2 x y hg ha hb => ?select, fun g ty cc pd a b s s1 s2 x y hg ha hb => ?compare,
    fun g ty d a s s1 x hg ha => ?signs⟩
  case select =>
    intro f w X Y px py fl below pick
    have two {op : Word → Word → Word × Flags} {r : Nat × Flags} (h : op x y = fpWord r) :=
      runInstr_fp (len := 8) (body := fun s => s.fop2 d a b op) hg (fop2_fpDelivers ha hb h)
    have hval (isMax : Bool) : minMaxVal f isMax x.toNat y.toNat = (pick (!isMax), fl) :=
      minMaxVal_eq (fmtOf_width (ftyFp ty)) isMax x.toNat y.toNat
    dsimp only [DeliversFp, Delivers, exec]
    exact ⟨two (r := (pick true, fl)) (congrArg fpWord (hval false)),
      two (r := (pick false, fl)) (congrArg fpWord (hval true))⟩
  case compare =>
    intro X Y un same r nv fl
    have hval : fcmpVal cc X Y = (r, fl) := by
      cases cc with
      | le => exact Prod.ext (congrArg (!un && ·) (X.not_lt_eq Y)) rfl
      | ge =>
        refine Prod.ext (congrArg (!un && ·) ((Y.not_lt_eq X).trans ?_)) rfl
        rw [Bool.and_comm]
      | _ => rfl
    refine ⟨fun hq => ?_, fun u => ⟨writeP_zero u r, writeP_lat u pd r⟩⟩
    dsimp only [Completes, exec]
    refine runInstr_flow hg ?_
    have hcmp : fcmpVal cc (fpVal ty x) (fpVal ty y) = (r, fl) := hval
    simp only [ha, hb, hcmp, bind, Except.bind]
    exact fpDone_of_quiet _ hq
  case signs =>
    intro f w X sign frac ex top cls
    have hclass : fclassOp ty x = 1#64 <<< cls := by
      rw [fclassOp_eq, classBit, sign_toNat]
    dsimp only [Delivers, exec]
    exact ⟨runInstr_op1 hg ha (fabsOp_eq ty x), runInstr_op1 hg ha (fnegOp_eq ty x), runInstr_op1 hg ha hclass⟩

end Sys2Proof.Cube

/-! Vector lanes (O8 to O12; R128 to R147): the elements of a vector built from its elements, and of a masked one. -/

namespace Sys2Proof.Machine

section Elements

variable {w : Nat} {m : BitVec 32} {zm : Bool} {old x : VWord}

/-- Element `j` of numbers packed at a width is the number there. -/
theorem packElems_div_mod (w : Nat) : ∀ (l : List Nat) (j : Nat), packElems w l / 2 ^ (w * j) % 2 ^ w = l.getD j 0 % 2 ^ w
  | [], j => by simp [packElems]
  | y :: t, 0 => by simp [packElems]
  | y :: t, j + 1 => by
    have hlow : y % 2 ^ w < 2 ^ w := Nat.mod_lt _ (Nat.two_pow_pos w)
    rw [packElems, mul_add_one, add_comm (w * j), pow_add, ← Nat.div_div_eq_div_mul,
      Nat.add_mul_div_left _ _ (Nat.two_pow_pos w), Nat.div_eq_of_lt hlow, zero_add, packElems_div_mod w t j]
    rfl

/-- An element that lies within the vector reads as the number that it was built from. -/
theorem vecElem_vecOf {l : List Nat} {j : Nat} (h : w * j + w ≤ 1024) :
    vecElem (vecOf w l) w j = BitVec.ofNat w (l.getD j 0) := by
  apply BitVec.eq_of_toNat_eq
  have hv : (vecOf w l).toNat % 2 ^ (w * j + w) = packElems w l % 2 ^ (w * j + w) := by
    rw [← BitVec.toNat_setWidth, vecOf, BitVec.setWidth_ofNat_of_le h, BitVec.toNat_ofNat]
  rw [toNat_vecElem, elem, bits, BitVec.toNat_ofNat, ← packElems_div_mod w l j, ← Nat.mod_mul_right_div_self, ← pow_add,
    hv, pow_add, Nat.mod_mul_right_div_self]

theorem vecElem_vecOf_map_range {f : Nat → Nat} {n j : Nat} (h : w * j + w ≤ 1024) (hj : j < n) :
    vecElem (vecOf w ((List.range n).map f)) w j = BitVec.ofNat w (f j) := by
  rw [vecElem_vecOf h, List.getD_eq_getElem _ _ (by simpa using hj), List.getElem_map, List.getElem_range]

theorem ofNat_elem (w j : Nat) : BitVec.ofNat w (elem x w j) = vecElem x w j := by
  rw [← toNat_vecElem, BitVec.ofNat_toNat, BitVec.setWidth_eq]

/-- An element that begins within the vector lies within it, at a width that divides the vector's. -/
theorem elem_fits (hw : w ∣ 1024) {j : Nat} (h : w * j < 1024) : w * j + w ≤ 1024 ∧ j < 1024 / w := by
  obtain ⟨n, hn⟩ := hw
  rw [hn] at h ⊢
  have hpos : 0 < w := Nat.pos_of_ne_zero fun e => by simp [e] at h
  have hlt : j < n := Nat.lt_of_mul_lt_mul_left h
  exact ⟨by rw [← mul_add_one]; exact Nat.mul_le_mul_left w hlt, by rwa [Nat.mul_div_cancel_left n hpos]⟩

theorem elem_lt_end {j : Nat} (h : j < 1024 / w) : w * j + w ≤ 1024 :=
  (Nat.mul_succ w j).symm.le.trans ((Nat.mul_le_mul_left w h).trans (Nat.mul_div_le 1024 w))

/-- A vector of masked elements is the masked vector of their patterns (R129). -/
theorem maskedVec_vecOf {f : Nat → Nat} {F : Nat → BitVec w} (hw : w ∣ 1024)
    (hf : ∀ j < 1024 / w, BitVec.ofNat w (f j)
      = if activeElem m w j then F j else if zm then 0 else vecElem old w j) :
    MaskedVec w m zm old (vecOf w ((List.range (1024 / w)).map f)) F := by
  intro j hj
  obtain ⟨hend, hlt⟩ := elem_fits hw hj
  rw [vecElem_vecOf_map_range hend hlt, hf j hlt]
  rfl

theorem maskedVec_masked {f : Nat → Nat} {F : Nat → BitVec w} (hw : w ∣ 1024) (hf : ∀ j, BitVec.ofNat w (f j) = F j) :
    MaskedVec w m zm old (masked w m zm old f) F := by
  refine maskedVec_vecOf hw fun j _ => ?_
  split
  · exact hf j
  · split
    · rfl
    · exact ofNat_elem w j

theorem intTy_width_dvd (ty : IntTy) : ty.width ∣ 1024 := by cases ty <;> decide

theorem fpTy_width_dvd (ty : FpTy) : ty.width ∣ 1024 := by cases ty <;> decide

end Elements

end Sys2Proof.Machine

/-! Vector integers, permutes and moves (O8; R129, R133, R135, R138, R139). -/

namespace Sys2Proof.Machine

/-! Element operations by their operands' patterns (R135). -/

/-- The smaller of two patterns under a type. -/
def minBv (ty : IntTy) (X Y : BitVec ty.width) : BitVec ty.width := if (if ty.signed then X.sle Y else X.ule Y) then X else Y

/-- The larger of two patterns under a type. -/
def maxBv (ty : IntTy) (X Y : BitVec ty.width) : BitVec ty.width := if (if ty.signed then X.sle Y else X.ule Y) then Y else X

section Operations

variable (ty : IntTy) {X Y : BitVec ty.width} (a b : Nat)

theorem valE_eq_intOf : valE ty a = intOf ty.signed (BitVec.ofNat ty.width a) := intVal_eq_intOf _ a

theorem valE_toNat (X : BitVec ty.width) : valE ty X.toNat = intOf ty.signed X := intVal_toNat _ X

theorem ofNat_wrapTo (w : Nat) (v : Int) : BitVec.ofNat w (wrapTo w v) = BitVec.ofInt w v := ofNat_toNat_emod v

theorem ofNat_eAdd : BitVec.ofNat ty.width (eAdd ty a b) = BitVec.ofNat ty.width a + BitVec.ofNat ty.width b := by
  rw [eAdd, ofNat_wrapTo, valE_eq_intOf, valE_eq_intOf, BitVec.ofInt_add, ofInt_intOf, ofInt_intOf]

theorem ofNat_eSub : BitVec.ofNat ty.width (eSub ty a b) = BitVec.ofNat ty.width a - BitVec.ofNat ty.width b := by
  rw [eSub, ofNat_wrapTo, valE_eq_intOf, valE_eq_intOf, Int.sub_eq_add_neg, BitVec.ofInt_add, BitVec.ofInt_neg,
    ofInt_intOf, ofInt_intOf, BitVec.sub_eq_add_neg]

theorem ofNat_eMul : BitVec.ofNat ty.width (eMul ty a b) = BitVec.ofNat ty.width a * BitVec.ofNat ty.width b := by
  rw [eMul, ofNat_wrapTo, valE_eq_intOf, valE_eq_intOf, BitVec.ofInt_mul, ofInt_intOf, ofInt_intOf]

theorem ofNat_eNeg : BitVec.ofNat ty.width (eNeg ty a) = -BitVec.ofNat ty.width a := by
  rw [eNeg, ofNat_wrapTo, valE_eq_intOf, BitVec.ofInt_neg, ofInt_intOf]

theorem ofNat_eMin {a b : Nat} (h : BitVec.ofNat ty.width a = X) (h' : BitVec.ofNat ty.width b = Y) :
    BitVec.ofNat ty.width (eMin ty a b) = minBv ty X Y := by
  rw [eMin, ofNat_wrapTo, valE_eq_intOf, valE_eq_intOf, h, h', ofInt_min_intOf, minBv]

theorem ofNat_eMax {a b : Nat} (h : BitVec.ofNat ty.width a = X) (h' : BitVec.ofNat ty.width b = Y) :
    BitVec.ofNat ty.width (eMax ty a b) = maxBv ty X Y := by
  rw [eMax, ofNat_wrapTo, valE_eq_intOf, valE_eq_intOf, h, h', ofInt_max_intOf, maxBv]

theorem ofNat_eAbs (X : BitVec ty.width) (h : ty.signed = true) : BitVec.ofNat ty.width (eAbs ty X.toNat) = X.abs := by
  rw [eAbs, ofNat_wrapTo, valE_toNat, intOf, if_pos h, ofInt_natAbs_toInt]

end Operations

section BitwiseOperations

variable {w : Nat} (X Y : BitVec w)

theorem ofNat_toNat_self : BitVec.ofNat w X.toNat = X := by
  rw [BitVec.ofNat_toNat, BitVec.setWidth_eq]

theorem ofNat_toNat_and : BitVec.ofNat w (X.toNat &&& Y.toNat) = X &&& Y := by
  rw [← BitVec.toNat_and, ofNat_toNat_self]

theorem ofNat_toNat_or : BitVec.ofNat w (X.toNat ||| Y.toNat) = X ||| Y := by
  rw [← BitVec.toNat_or, ofNat_toNat_self]

theorem ofNat_toNat_xor : BitVec.ofNat w (X.toNat ^^^ Y.toNat) = X ^^^ Y := by
  rw [← BitVec.toNat_xor, ofNat_toNat_self]

end BitwiseOperations

/-! The shapes of the vector forms. -/

section Shapes

variable {g : Guard} {w : Nat} {s s1 u : State} {c : VCtl} {d : VDst} {a b : VSrc} {q : SSrc} {x : Word}
  {body : State → Except Stop State} {F : Nat → BitVec w}

theorem readS_leaves (h : s.readS q = .ok (x, s1)) : Leaves id s s1 := by
  have hleaves := (Leaves.refl (π := id) s).readS q
  rwa [h] at hleaves

/-- Reading a scalar source leaves every register. -/
theorem readS_regs (h : s.readS q = .ok (x, s1)) : s1.me.r = s.me.r := (readS_leaves h).regs

theorem readM_readS (h : s.readS q = .ok (x, s1)) (n : BitVec 3) : s1.readM n = s.readM n := by
  rw [State.readM, readS_regs h, State.readM]

theorem readVD_readS (h : s.readS q = .ok (x, s1)) (d : VDst) : s1.readVD d = s.readVD d := by
  simp only [State.readVD, readS_regs h]

/-- A body that writes a masked vector delivers the vector of its elements' patterns. -/
theorem runInstr_maskedFor (hg : s.guard g = true) (hw : w ∣ 1024) {f : Nat → Nat}
    (hb : body s = .ok (u.writeV d (s.maskedFor w c d f))) (hf : ∀ j, BitVec.ofNat w (f j) = F j) :
    ∃ v, MaskedVec w (s.readM c.mask) c.zm (s.readVD d) v F ∧ runInstr g 8 s body = .next ((u.writeV d v).flow 8) :=
  ⟨_, maskedVec_masked hw hf, runInstr_flow hg hb⟩

theorem runInstr_vop1 (hg : s.guard g = true) (hw : w ∣ 1024) {op : Nat → Nat}
    (hop : ∀ j, BitVec.ofNat w (op (vecElem (s.readV a) w j).toNat) = F j) :
    ∃ v, MaskedVec w (s.readM c.mask) c.zm (s.readVD d) v F
      ∧ runInstr g 8 s (fun s => .ok (s.vop1 w c d a op)) = .next ((s.writeV d v).flow 8) :=
  runInstr_maskedFor hg hw rfl fun j => by rw [← toNat_vecElem, hop]

theorem runInstr_vop2 (hg : s.guard g = true) (hw : w ∣ 1024) {op : Nat → Nat → Nat}
    (hop : ∀ j, BitVec.ofNat w (op (vecElem (s.readV a) w j).toNat (vecElem (s.readV b) w j).toNat) = F j) :
    ∃ v, MaskedVec w (s.readM c.mask) c.zm (s.readVD d) v F
      ∧ runInstr g 8 s (fun s => .ok (s.vop2 w c d a b op)) = .next ((s.writeV d v).flow 8) :=
  runInstr_maskedFor hg hw rfl fun j => by rw [← toNat_vecElem, ← toNat_vecElem, hop]

end Shapes

/-! Elements of the unmasked forms (R135, R138). -/

theorem vecElem_vecOf_map_elems {w : Nat} {x : VWord} {f : Nat → Nat} {j : Nat} (h : j < 1024 / w) :
    vecElem (vecOf w ((elems x w).map f)) w j = BitVec.ofNat w (f (elem x w j)) := by
  rw [elems, List.map_map, vecElem_vecOf_map_range (elem_lt_end h) h]
  rfl

/-- A vector with one element replaced (R138). -/
theorem vecElem_vecOf_set {w : Nat} {x : VWord} (i y : Nat) {j : Nat} (h : j < 1024 / w) :
    vecElem (vecOf w ((elems x w).set i y)) w j = if j = i then BitVec.ofNat w y else vecElem x w j := by
  have hj : j < ((elems x w).set i y).length := by simpa [elems] using h
  rw [vecElem_vecOf (elem_lt_end h), List.getD_eq_getElem _ _ hj, List.getElem_set]
  by_cases e : i = j
  · rw [if_pos e, if_pos e.symm]
  · rw [if_neg e, if_neg (Ne.symm e), ← ofNat_elem]
    simp [elems]

/-! The indexed moves (R139). -/

section Index

variable {s s1 : State} {q : SSrc} {x : Word}

theorem vIndex_of_lt (hq : s.readS q = .ok (x, s1)) (h : x.toNat < s.me.allot) (h32 : x.toNat < 32) :
    s.vIndex q = .ok (x.setWidth 5, s1) := by
  have hlt : x.toNat < Nat.min 32 s.me.allot := Nat.lt_min.mpr ⟨h32, h⟩
  simp only [State.vIndex, hq, bind, Except.bind, if_pos hlt, BitVec.ofNat_toNat]

theorem vIndex_of_le (hq : s.readS q = .ok (x, s1)) (h : s.me.allot ≤ x.toNat) :
    s.vIndex q = .error (.trapIn s1 .vallot x) := by
  have hge : ¬x.toNat < Nat.min 32 s.me.allot := fun hlt => absurd (Nat.lt_min.mp hlt).2 (not_lt.mpr h)
  simp only [State.vIndex, hq, bind, Except.bind, if_neg hge]

/-- A VALLOT trap after the sources are read keeps what they popped. -/
theorem runInstr_vallot {g : Guard} {body : State → Except Stop State} (hg : s.guard g = true) (hwide : s.wideBusy = false)
    (hb : body s = .error (.trapIn s1 .vallot x)) : runInstr g 8 s body = .next (s1.raise .vallot s.me.r.pc x) := by
  rw [runInstr_error g 8 s _ body hg hb]
  simp [State.stopped, hwide, TrapCode.resumesNext]

end Index

end Sys2Proof.Machine

namespace Sys2Proof.Cube

open Sys2Proof.Machine

/-- Settles O8: each form writes a vector built element by element, and each element's pattern is the operation's. -/
theorem vectorIntegersPermutesAndMoves : Obligations.VectorIntegersPermutesAndMoves := by
  unfold Obligations.VectorIntegersPermutesAndMoves
  refine ⟨fun g ty c d a b e imm s hg => ?arith, fun g ty c d e a b f p q s s1 s2 x i hg hp hq => ?moves⟩
  case arith =>
    intro w X Y Z le it
    have hw : w ∣ 1024 := intTy_width_dvd ty
    dsimp only [DeliversVec, DeliversVecL, Completes, exec]
    refine ⟨runInstr_vop2 hg hw fun j => ?add, runInstr_vop2 hg hw fun j => ?sub, runInstr_vop2 hg hw fun j => ?mul,
      runInstr_maskedFor hg hw rfl fun j => ?mad,
      runInstr_vop2 hg hw fun j => ofNat_eMin ty (ofNat_toNat_self _) (ofNat_toNat_self _),
      runInstr_vop2 hg hw fun j => ofNat_eMax ty (ofNat_toNat_self _) (ofNat_toNat_self _),
      fun h => runInstr_vop1 hg hw fun j => ofNat_eAbs ty _ h, runInstr_vop1 hg hw fun j => ?neg,
      runInstr_vop2 hg hw fun j => ofNat_toNat_and _ _,
      runInstr_vop2 hg hw fun j => ofNat_toNat_or _ _, runInstr_vop2 hg hw fun j => ofNat_toNat_xor _ _,
      runInstr_vop2 hg hw fun j => ofNat_shlPat _ _, runInstr_vop2 hg hw fun j => ofNat_shrPat _ _,
      runInstr_vop2 hg hw fun j => ofNat_sarPat _ _, ?addi⟩
    case add => rw [ofNat_eAdd, ofNat_toNat_self, ofNat_toNat_self]
    case sub => rw [ofNat_eSub, ofNat_toNat_self, ofNat_toNat_self]
    case mul => rw [ofNat_eMul, ofNat_toNat_self, ofNat_toNat_self]
    case mad => rw [ofNat_eAdd, ofNat_eMul, ofNat_elem, ofNat_elem, ofNat_elem]
    case neg => rw [ofNat_eNeg, ofNat_toNat_self]
    case addi =>
      have hty : vaddiTy s.immTy = it := rfl
      refine ⟨_, fun j hj => ?_, runInstr_flow hg rfl⟩
      have himm : BitVec.ofNat it.width (patTy it (immArith it imm)) = immBv it imm := by
        rw [patTy_eq_toNat, ofNat_toNat_self]
        rfl
      rw [hty, vecElem_vecOf_map_elems (elem_fits (intTy_width_dvd it) hj).2, ofNat_eAdd, ofNat_elem, himm]
  case moves =>
    intro w n V
    have hw : w ∣ 1024 := intTy_width_dvd ty
    dsimp only [DeliversVec, DeliversVecL, Delivers, Completes, exec]
    refine ⟨runInstr_maskedFor hg hw rfl fun j => ?perm, runInstr_maskedFor (f := fun _ => patTy ty x) hg hw ?bcast
      fun j => ?pattern, runInstr_delivers hg ?extr,
      ⟨vecOf w ((elems (s.readVD d) w).set (i.toNat % n) (patTy ty x)), runInstr_flow hg ?ins, fun j hj => ?inserted⟩,
      runInstr_vop1 hg (by decide) fun j => ofNat_toNat_self _,
      fun h h32 => ⟨runInstr_flow hg ?read, runInstr_flow hg ?write⟩,
      fun h hwide => ⟨runInstr_vallot hg hwide ?readTrap, runInstr_vallot hg hwide ?writeTrap⟩⟩
    case perm =>
      dsimp only
      rw [← toNat_vecElem, apply_ite (BitVec.ofNat w), ofNat_elem, ofNat_elem]
    case bcast =>
      simp only [hp, Except.map, State.maskedFor, readM_readS hp, readVD_readS hp]
      rfl
    case pattern => rw [patTy_eq_toNat, ofNat_toNat_self]
    case extr =>
      have hput : putTy ty (elem (s.readV a) w (x.toNat % n)) = putBv ty (V a (x.toNat % n)) :=
        putTy_natCast ty (ofNat_elem w _)
      simp only [hp, bind, Except.bind, ← hput]
      rfl
    case ins =>
      simp only [hp, hq, bind, Except.bind]
      rfl
    case inserted => rw [vecElem_vecOf_set _ _ hj, patTy_eq_toNat, ofNat_toNat_self]
    case read => simp only [vIndex_of_lt hp h h32, Except.map]; rfl
    case write => simp only [vIndex_of_lt hp h h32, Except.map]
    case readTrap => simp only [vIndex_of_le hp h, Except.map]
    case writeTrap => simp only [vIndex_of_le hp h, Except.map]

end Sys2Proof.Cube

/-! Masks, reductions and scans (O9; R136, R137, R140, R141). -/

namespace Sys2Proof.Machine

/-! Masks (R136, R140, R141). -/

section Masks

theorem testBit_sum_two_pow (f : Nat → Bool) (n : Nat) : ((List.range n).map (fun i => if f i then 2 ^ i else 0)).sum < 2 ^ n
    ∧ ∀ l < n, ((List.range n).map (fun i => if f i then 2 ^ i else 0)).sum.testBit l = f l := by
  induction n with
  | zero => simp
  | succ n ih =>
    obtain ⟨hlt, hbit⟩ := ih
    rw [List.range_succ, List.map_append, List.sum_append, List.map_singleton, List.sum_singleton, pow_succ]
    generalize ((List.range n).map (fun i => if f i then 2 ^ i else 0)).sum = S at *
    refine ⟨by split <;> omega, fun l hl => ?_⟩
    rw [add_comm]
    obtain rfl | hl := Nat.eq_or_lt_of_le (Nat.le_of_lt_succ hl)
    · cases f l
      · simpa using Nat.testBit_lt_two_pow hlt
      · simp [Nat.testBit_two_pow_add_eq, Nat.testBit_lt_two_pow hlt]
    · cases f n
      · simpa using hbit l hl
      · simpa [Nat.testBit_two_pow_add_gt hl] using hbit l hl

theorem getLsbD_maskOf (f : Nat → Bool) {l : Nat} (h : l < 32) : (maskOf f).getLsbD l = f l := by
  rw [maskOf, BitVec.getLsbD_ofNat, (testBit_sum_two_pow f 32).2 l h, decide_eq_true h, Bool.true_and]

/-- A mask register's write leaves both latches (R82, R136). -/
theorem writeM_lat (s : State) (n : BitVec 3) (v : BitVec 32) :
    (s.writeM n v).me.r.vlat = s.me.r.vlat ∧ (s.writeM n v).me.r.lat = s.me.r.lat := by
  rw [State.writeM, State.me_setMe]
  exact ⟨rfl, rfl⟩

theorem setWidth_ofNat_of_lt {w n : Nat} (v : Nat) (h : n < 2 ^ w) : (BitVec.ofNat w n).setWidth v = BitVec.ofNat v n := by
  rw [← BitVec.ofNat_toNat, BitVec.toNat_ofNat, Nat.mod_eq_of_lt h]

theorem popcPat_le (w x : Nat) : popcPat w x ≤ w :=
  (List.length_filter_le _ _).trans_eq List.length_range

theorem ctzPat_le (w x : Nat) : ctzPat w x ≤ w := by
  rw [ctzPat]
  cases h : (List.range w).find? (fun i => x.testBit i) with
  | none => exact le_rfl
  | some i => exact (List.mem_range.mp (List.mem_of_find?_eq_some h)).le

theorem ofNat_popcPat_extended {w : Nat} (v : Nat) (X : BitVec w) : BitVec.ofNat v (popcPat w X.toNat) = X.cpop.setWidth v := by
  rw [← ofNat_popcPat, setWidth_ofNat_of_lt v ((popcPat_le w _).trans_lt Nat.lt_two_pow_self)]

theorem ofNat_ctzPat_extended {w : Nat} (v : Nat) (X : BitVec w) : BitVec.ofNat v (ctzPat w X.toNat) = X.ctz.setWidth v := by
  rw [← ofNat_ctzPat, setWidth_ofNat_of_lt v ((ctzPat_le w _).trans_lt Nat.lt_two_pow_self)]

/-- A condition on the integers of two patterns is the condition on the patterns (R118). -/
theorem condInt_intVal (ty : IntTy) (cc : ICond) (X Y : BitVec ty.width) :
    condInt cc (intVal ty.signed ty.width X.toNat) (intVal ty.signed ty.width Y.toNat) X.toNat Y.toNat = condBv ty cc X Y := by
  have h64 (Z : BitVec ty.width) : (Z.setWidth 64).setWidth ty.width = Z :=
    BitVec.setWidth_setWidth_of_le Z (intTy_width_le ty) |>.trans (BitVec.setWidth_eq Z)
  have hint (Z : BitVec ty.width) : valTy ty (Z.setWidth 64) = intVal ty.signed ty.width Z.toNat := by
    rw [valTy_eq_intOf, h64, intVal_toNat]
  have hpat (Z : BitVec ty.width) : patTy ty (Z.setWidth 64) = Z.toNat := by
    rw [patTy_eq_toNat, h64]
  have hop := cmpOp_eq ty (X.setWidth 64) (Y.setWidth 64) cc
  rwa [h64, h64, cmpOp, hint, hint, hpat, hpat] at hop

end Masks

/-! Reductions (R137). -/

/-- The greatest pattern of a type. -/
def hiBv (ty : IntTy) : BitVec ty.width := if ty.signed then BitVec.intMax ty.width else BitVec.allOnes ty.width

/-- The least pattern of a type. -/
def loBv (ty : IntTy) : BitVec ty.width := if ty.signed then BitVec.intMin ty.width else 0

section Reductions

variable (ty : IntTy) (L : List (BitVec ty.width))

theorem activeElems_eq (m : BitVec 32) (v : VWord) (w : Nat) :
    activeElems m v w = (((List.range (1024 / w)).filter (activeElem m w)).map (vecElem v w)).map BitVec.toNat := by
  rw [activeElems, List.map_map]
  exact List.map_congr_left fun j _ => (toNat_vecElem v w j).symm

/-- Put of the integer of a pattern. -/
theorem ofInt_intOf_eq_putBv (X : BitVec ty.width) : BitVec.ofInt 64 (intOf ty.signed X) = putBv ty X :=
  ofInt_intOf_extended _ X 64

/-- The integers of patterns fold as the patterns do. -/
theorem foldl_valE {op : Int → Int → Int} {f : BitVec ty.width → BitVec ty.width → BitVec ty.width} (z : BitVec ty.width)
    (h : ∀ X Y, op (intOf ty.signed X) (intOf ty.signed Y) = intOf ty.signed (f X Y)) :
    ((L.map BitVec.toNat).map (valE ty)).foldl op (intOf ty.signed z) = intOf ty.signed (L.foldl f z) := by
  rw [List.foldl_map, List.foldl_map]
  exact List.foldl_hom _ fun X Y => by rw [valE_toNat, h]

theorem foldl_toNat {op : Nat → Nat → Nat} {w : Nat} {f : BitVec w → BitVec w → BitVec w} (L : List (BitVec w))
    (z : BitVec w) (h : ∀ X Y, op X.toNat Y.toNat = (f X Y).toNat) :
    (L.map BitVec.toNat).foldl op z.toNat = (L.foldl f z).toNat := by
  rw [List.foldl_map]
  exact List.foldl_hom _ fun X Y => h X Y

theorem min_intOf (X Y : BitVec ty.width) :
    min (intOf ty.signed X) (intOf ty.signed Y) = intOf ty.signed (minBv ty X Y) := by
  rw [minBv, ← decide_intOf_le, apply_ite (intOf ty.signed), min_def]
  exact if_congr (decide_eq_true_iff).symm rfl rfl

theorem max_intOf (X Y : BitVec ty.width) :
    max (intOf ty.signed X) (intOf ty.signed Y) = intOf ty.signed (maxBv ty X Y) := by
  rw [maxBv, ← decide_intOf_le, apply_ite (intOf ty.signed), max_def]
  exact if_congr (decide_eq_true_iff).symm rfl rfl

theorem intOf_le_intHi (X : BitVec ty.width) : intOf ty.signed X ≤ intHi ty := by
  have hsigned : X.toInt < (2 ^ (ty.width - 1) : Nat) := by exact_mod_cast BitVec.toInt_lt
  have hunsigned : X.toNat < 2 ^ ty.width := X.isLt
  have hhi : intHi ty = if ty.signed then ((2 ^ (ty.width - 1) : Nat) : Int) - 1 else ((2 ^ ty.width : Nat) : Int) - 1 := rfl
  rw [hhi, intOf]
  split <;> omega

theorem intLo_le_intOf (X : BitVec ty.width) : intLo ty ≤ intOf ty.signed X := by
  have hsigned : -((2 ^ (ty.width - 1) : Nat) : Int) ≤ X.toInt := by exact_mod_cast X.le_toInt
  have hlo : intLo ty = if ty.signed then -((2 ^ (ty.width - 1) : Nat) : Int) else 0 := rfl
  rw [hlo, intOf]
  split <;> omega

theorem intHi_eq_intOf : intHi ty = intOf ty.signed (hiBv ty) := by
  cases ty <;> decide

theorem intLo_eq_intOf : intLo ty = intOf ty.signed (loBv ty) := by
  cases ty <;> decide

/-- The greatest pattern of a type is the identity of the smaller of two. -/
theorem minBv_hiBv (X : BitVec ty.width) : minBv ty (hiBv ty) X = X := by
  rw [← intOf_inj ty.signed, ← min_intOf, ← intHi_eq_intOf]
  exact min_eq_right (intOf_le_intHi ty X)

/-- The least pattern of a type is the identity of the larger of two. -/
theorem maxBv_loBv (X : BitVec ty.width) : maxBv ty (loBv ty) X = X := by
  rw [← intOf_inj ty.signed, ← max_intOf, ← intLo_eq_intOf]
  exact max_eq_right (intLo_le_intOf ty X)

theorem vredVal_add : vredVal ty .add (L.map BitVec.toNat) = (L.map (putBv ty)).foldl (· + ·) 0 := by
  rw [vredVal, List.sum_eq_foldl, List.foldl_map, List.foldl_map, List.foldl_map]
  refine (List.foldl_hom (BitVec.ofInt 64) fun n X => ?_).symm
  rw [valE_toNat, BitVec.ofInt_add, ofInt_intOf_eq_putBv]

theorem vredVal_min : vredVal ty .min (L.map BitVec.toNat) = putBv ty (L.foldl (minBv ty) (hiBv ty)) := by
  rw [vredVal, intHi_eq_intOf, foldl_valE ty L _ (min_intOf ty), ofInt_intOf_eq_putBv]

theorem vredVal_max : vredVal ty .max (L.map BitVec.toNat) = putBv ty (L.foldl (maxBv ty) (loBv ty)) := by
  rw [vredVal, intLo_eq_intOf, foldl_valE ty L _ (max_intOf ty), ofInt_intOf_eq_putBv]

theorem vredVal_and : vredVal ty .and (L.map BitVec.toNat) = putBv ty (L.foldl (· &&& ·) (BitVec.allOnes ty.width)) := by
  rw [vredVal, ← BitVec.toNat_allOnes, foldl_toNat L _ fun X Y => (BitVec.toNat_and X Y).symm]
  exact putTy_natCast ty (ofNat_toNat_self _)

theorem vredVal_or : vredVal ty .or (L.map BitVec.toNat) = putBv ty (L.foldl (· ||| ·) 0) := by
  have h := foldl_toNat L 0 fun X Y => (BitVec.toNat_or X Y).symm
  exact putTy_natCast ty (h ▸ ofNat_toNat_self _)

theorem vredVal_xor : vredVal ty .xor (L.map BitVec.toNat) = putBv ty (L.foldl (· ^^^ ·) 0) := by
  have h := foldl_toNat L 0 fun X Y => (BitVec.toNat_xor X Y).symm
  exact putTy_natCast ty (h ▸ ofNat_toNat_self _)

end Reductions

/-! Scans (R137). -/

section Scans

variable {ty : IntTy} {op : RedOp} {m : BitVec 32} {zm : Bool} {old v : VWord}
  {f : BitVec ty.width → BitVec ty.width → BitVec ty.width} {z : BitVec ty.width}

/-- The pattern of a scan's running value, `z` before the first active element. -/
def scanAcc (w : Nat) (z : BitVec w) (acc : Option Nat) : BitVec w := (acc.map (BitVec.ofNat w)).getD z

/-- A scan's running value after an active element `x`. -/
def scanStep (ty : IntTy) (op : RedOp) (x : Nat) (acc : Option Nat) : Nat := acc.elim x (fun y => scanOp ty op y x)

theorem scanElems_succ (n j : Nat) (acc : Option Nat) : scanElems ty op m zm old v (n + 1) j acc =
    if activeElem m ty.width j then scanStep ty op (elem v ty.width j) acc
        :: scanElems ty op m zm old v n (j + 1) (some (scanStep ty op (elem v ty.width j) acc))
      else (if zm then 0 else elem old ty.width j) :: scanElems ty op m zm old v n (j + 1) acc := by
  cases acc <;> rfl

/-- Element `i` of a scan from element `j` on: the active elements there folded behind the running value. -/
theorem scanElems_getD (hz : ∀ X, f z X = X) (hop : ∀ x y, BitVec.ofNat ty.width (scanOp ty op x y)
      = f (BitVec.ofNat ty.width x) (BitVec.ofNat ty.width y)) :
    ∀ (n i j : Nat) (acc : Option Nat), i < n →
      BitVec.ofNat ty.width ((scanElems ty op m zm old v n j acc).getD i 0)
        = if activeElem m ty.width (j + i) then
            (((List.range' j (i + 1)).filter (activeElem m ty.width)).map (vecElem v ty.width)).foldl f
              (scanAcc ty.width z acc)
          else if zm then 0 else vecElem old ty.width (j + i) := by
  intro n
  induction n with
  | zero => exact fun _ _ _ h => absurd h (Nat.not_lt_zero _)
  | succ n ih =>
    intro i j acc hi
    have hhead : BitVec.ofNat ty.width (scanStep ty op (elem v ty.width j) acc)
        = f (scanAcc ty.width z acc) (vecElem v ty.width j) := by
      cases acc with
      | none => exact (ofNat_elem _ _).trans (hz _).symm
      | some y => exact (hop _ _).trans (by rw [ofNat_elem]; rfl)
    rw [scanElems_succ, List.range'_succ]
    cases i with
    | zero =>
      by_cases ha : activeElem m ty.width j = true
      · simpa [ha] using hhead
      · cases zm <;> simp [ha, ofNat_elem]
    | succ i =>
      have hi' : i < n := Nat.lt_of_succ_lt_succ hi
      rw [show j + (i + 1) = j + 1 + i by omega]
      by_cases ha : activeElem m ty.width j = true
      · rw [if_pos ha, List.getD_cons_succ, ih i (j + 1) _ hi', List.filter_cons_of_pos ha, List.map_cons, List.foldl_cons,
          ← hhead]
        rfl
      · rw [if_neg ha, List.getD_cons_succ, ih i (j + 1) _ hi', List.filter_cons_of_neg ha]

theorem filter_le_range {n k : Nat} (h : k < n) : (List.range n).filter (fun j => decide (j ≤ k)) = List.range (k + 1) := by
  obtain ⟨r, rfl⟩ := Nat.exists_eq_add_of_le (Nat.succ_le_of_lt h)
  rw [List.range_add, List.filter_append, List.filter_eq_self.mpr, List.filter_eq_nil_iff.mpr, List.append_nil]
  · simp only [List.mem_map, decide_eq_true_eq]
    omega
  · simp only [List.mem_range, decide_eq_true_eq]
    omega

/-- A scan gives each active element the fold of the active elements up to it (R137). -/
theorem maskedVec_scan (hz : ∀ X, f z X = X) (hop : ∀ x y, BitVec.ofNat ty.width (scanOp ty op x y)
      = f (BitVec.ofNat ty.width x) (BitVec.ofNat ty.width y)) :
    MaskedVec ty.width m zm old (vecOf ty.width (scanElems ty op m zm old v (1024 / ty.width) 0 none)) (fun k =>
      ((((List.range (1024 / ty.width)).filter (activeElem m ty.width)).filter (fun j => decide (j ≤ k))).map
        (vecElem v ty.width)).foldl f z) := by
  intro k hk
  obtain ⟨hend, hlt⟩ := elem_fits (intTy_width_dvd ty) hk
  rw [vecElem_vecOf hend, scanElems_getD hz hop _ _ _ _ hlt, Nat.zero_add]
  dsimp only
  rw [List.filter_comm, filter_le_range hlt, List.range_eq_range']
  rfl

end Scans

end Sys2Proof.Machine

namespace Sys2Proof.Cube

open Sys2Proof.Machine

/-- Settles O9: a mask is built bit by bit, and reductions and scans fold patterns as the integers of them fold. -/
theorem masksAndReductionsTakeTheActiveElements : Obligations.MasksAndReductionsTakeTheActiveElements := by
  unfold Obligations.MasksAndReductionsTakeTheActiveElements
  refine ⟨fun g sg c cc md mk ma mb tt d e a b s hg => ?masks, fun g ty c d e a s hg => ?reductions⟩
  case masks =>
    intro ty x y
    dsimp only [Delivers, Completes, exec]
    refine ⟨⟨_, runInstr_flow hg rfl, fun l hl => ?cmp⟩, ⟨_, runInstr_flow hg rfl, fun l hl => ?sel⟩,
      ⟨_, runInstr_flow hg rfl, fun l hl => ?log⟩, runInstr_delivers hg ?count, runInstr_delivers hg ?first,
      writeM_lat s md⟩
    case cmp =>
      have hcond : condInt cc (intVal sg 32 (elem (s.readV a) 32 l)) (intVal sg 32 (elem (s.readV b) 32 l))
          (elem (s.readV a) 32 l) (elem (s.readV b) 32 l) = condBv ty cc (x l) (y l) := by
        rw [← condInt_intVal, toNat_vecElem, toNat_vecElem]
        cases sg <;> rfl
      rw [cmpMask, getLsbD_maskOf _ hl, hcond]
      rfl
    case sel =>
      rw [vecElem_vecOf_map_range (by omega) hl, apply_ite (BitVec.ofNat 32), ofNat_elem, ofNat_elem]
      split <;> rfl
    case log => exact (getLsbD_maskOf _ hl).trans (truth_eq_getLsbD tt _ _)
    case count => exact congrArg (s.writeS e) (ofNat_popcPat_extended 64 _)
    case first => exact congrArg (s.writeS e) (ofNat_ctzPat_extended 64 _)
  case reductions =>
    intro w on X js le small big hi lo run
    dsimp only [DeliversVec, DeliversVecL, Delivers, Completes, exec]
    have red {rop : RedOp} {r : Word} (h : vredVal ty rop ((js.map X).map BitVec.toNat) = r) :
        s.writeS d (vredVal ty rop (activeElems (s.readM c.mask) (s.readV a) w)) = s.writeS d r := by
      rw [activeElems_eq]
      exact congrArg (s.writeS d) h
    have hsum : js.map (fun j => putBv ty (X j)) = (js.map X).map (putBv ty) := by rw [List.map_map]; rfl
    have hadd : vredVal ty .add ((js.map X).map BitVec.toNat) = (js.map (fun j => putBv ty (X j))).foldl (· + ·) 0 := by
      rw [hsum, vredVal_add]
    refine ⟨runInstr_delivers hg (red hadd), runInstr_delivers hg (red (vredVal_min ty _)),
      runInstr_delivers hg (red (vredVal_max ty _)), runInstr_delivers hg (red (vredVal_and ty _)),
      runInstr_delivers hg (red (vredVal_or ty _)), runInstr_delivers hg (red (vredVal_xor ty _)),
      ⟨_, maskedVec_scan (op := .add) BitVec.zero_add (ofNat_eAdd ty), runInstr_flow hg rfl⟩,
      ⟨_, maskedVec_scan (op := .min) (minBv_hiBv ty) fun _ _ => ofNat_eMin ty rfl rfl, runInstr_flow hg rfl⟩,
      ⟨_, maskedVec_scan (op := .max) (maxBv_loBv ty) fun _ _ => ofNat_eMax ty rfl rfl, runInstr_flow hg rfl⟩⟩

end Sys2Proof.Cube

/-! Draws (O10; R73, R147). -/

namespace Sys2Proof.Machine

theorem rotL64_eq_rotateLeft (x : BitVec 64) {n : Nat} (h : n < 64) : rotL64 x n = x.rotateLeft n := by
  rw [rotL64, BitVec.rotateLeft_def, Nat.mod_eq_of_lt h]

/-- One round of R73: the number so far and the key. -/
def rngRound (p : Word × Word) : Word × Word :=
  (((p.1 + p.2) ^^^ ((p.1 + p.2) >>> 31)) * 0xA3C59AC2F1E87D35, p.2.rotateLeft 19 ^^^ 0x5B2E71C40D96A38F)

/-- The rounds of R73 apply one round as often as there are rounds. -/
theorem rngRounds_eq_iterate (n : Nat) (x y : Word) : rngRounds n x y = (rngRound^[n] (x, y)).1 := by
  induction n generalizing x y with
  | zero => rfl
  | succ n ih =>
    rw [Function.iterate_succ_apply, rngRound, ← rotL64_eq_rotateLeft _ (by decide), ← ih]
    rfl

/-- The key of a lane: the seed with the lane, the stream and the core (R73). -/
def rngKey (seed rngs : Word) (lc lane : Nat) : Word :=
  seed ^^^ BitVec.ofNat 64 lane ^^^ ((rngs &&& 0xFFFF) <<< 5) ^^^ (BitVec.ofNat 64 lc <<< 21)

theorem and_low16 (x : Word) : x &&& 0xFFFF = BitVec.ofNat 64 (bits x.toNat 0 16) := by
  apply BitVec.eq_of_toNat_eq
  have hmask : (0xFFFF : Word).toNat = 2 ^ 16 - 1 := rfl
  rw [BitVec.toNat_and, hmask, Nat.and_two_pow_sub_one_eq_mod, BitVec.toNat_ofNat, bits]
  omega

theorem rngLane_eq (seed rngc rngs : Word) (lc lane : Nat) : BitVec.ofNat 32 (rngLane seed rngc rngs lc lane)
    = ((rngRound^[4] (rngc ^^^ (rngKey seed rngs lc lane).rotateLeft 23, rngKey seed rngs lc lane)).1).extractLsb' 32 32 := by
  have hkey : rngKey seed rngs lc lane = seed ^^^ BitVec.ofNat 64 lane ^^^ BitVec.ofNat 64 (bits rngs.toNat 0 16 * 2 ^ 5)
      ^^^ BitVec.ofNat 64 (lc * 2 ^ 21) := by
    rw [rngKey, and_low16, ofNat_shiftLeft_eq_ofNat_mul, ofNat_shiftLeft_eq_ofNat_mul]
  rw [rngLane, ← hkey, rngRounds_eq_iterate, rotL64_eq_rotateLeft _ (by decide)]
  apply BitVec.eq_of_toNat_eq
  rw [BitVec.toNat_ofNat, bits, Nat.mod_mod, BitVec.extractLsb'_toNat, Nat.shiftRight_eq_div_pow]

end Sys2Proof.Machine

namespace Sys2Proof.Cube

open Sys2Proof.Machine

/-- Settles O10: the lanes take the four rounds over their keys, and a count at its end stops the draw before it steps. -/
theorem drawsAreKeyedByLaneStreamAndCore : Obligations.DrawsAreKeyedByLaneStreamAndCore := by
  unfold Obligations.DrawsAreKeyedByLaneStreamAndCore
  intro g c d s hg m key round out u
  dsimp only [DeliversVec, DeliversVecL, Completes, exec]
  refine ⟨fun hcount => ?draw, fun hcount hwide => ?wrap⟩
  case draw => exact runInstr_maskedFor hg (by decide) (if_neg hcount) fun l => rngLane_eq _ _ _ _ l
  case wrap =>
    refine (runInstr_error g 8 s _ _ hg (if_pos hcount)).trans ?_
    simp [State.stopped, hwide, TrapCode.resumesNext, m]

end Sys2Proof.Cube

/-! Vector floating point (O11; R136, R143 to R145). -/

namespace Sys2Proof.Machine

/-! Masked results with flags (R133). -/

section Shapes

variable {g : Guard} {w : Nat} {s : State} {c : VCtl} {d : VDst} {a b : VSrc} {m : BitVec 32} {zm : Bool} {old : VWord}
  {body : State → Except Stop State} {f : Nat → Nat × Flags}

theorem maskedVec_fmasked (hw : w ∣ 1024) :
    MaskedVec w m zm old (fmasked w m zm old f).1 (fun j => BitVec.ofNat w (f j).1) := by
  rw [fmasked, List.map_map]
  refine maskedVec_vecOf hw fun j _ => ?_
  simp only [Function.comp_apply, apply_ite Prod.fst, apply_ite (BitVec.ofNat w), ofNat_elem]
  rfl

/-- A form whose masked result comes with flags delivers it with the flags of its active elements ORed (R66, R133). -/
theorem runInstr_vfDone (hg : s.guard g = true) (hw : w ∣ 1024)
    (hb : body s = s.vfDone d (fmasked w (s.readM c.mask) c.zm (s.readVD d) f))
    (hq : s.fpTraps (activeFlags w (s.readM c.mask) f) = false) :
    ∃ v, MaskedVec w (s.readM c.mask) c.zm (s.readVD d) v (fun j => BitVec.ofNat w (f j).1)
      ∧ runInstr g 8 s body = .next (((s.orFlags (activeFlags w (s.readM c.mask) f)).writeV d v).flow 8) := by
  refine ⟨_, maskedVec_fmasked hw, runInstr_flow hg ?_⟩
  rw [hb, State.vfDone, fmasked_flags, fpDone_of_quiet _ hq]

end Shapes

/-- OR of flags over a range, where only some elements raise any. -/
theorem foldl_flags_eq_filter {n : Nat} {p : Nat → Bool} {f r : Nat → Flags} (hr : ∀ j, r j = if p j then f j else 0) :
    ((List.range n).map r).foldl (· ||| ·) 0 = ((List.range n).filter p).foldl (fun z j => z ||| f j) 0 := by
  rw [List.foldl_map, List.foldl_filter]
  congr 1
  funext z j
  rw [hr]
  split <;> simp

/-! Sign forms (R125, R144). -/

theorem ofNat_mod_two_pow_pred_self {w : Nat} (hw : w ≤ 64) (X : BitVec w) :
    BitVec.ofNat w (X.toNat % 2 ^ (w - 1)) = X &&& ~~~(1#w <<< (w - 1)) := by
  rw [← BitVec.setWidth_ofNat_of_le hw, ofNat_mod_two_pow_pred, BitVec.setWidth_setWidth_of_le _ hw, BitVec.setWidth_eq]

theorem ofNat_flipSign {w : Nat} (X : BitVec w) : BitVec.ofNat w (flipSign w X.toNat) = X ^^^ 1#w <<< (w - 1) := by
  have htop : 1#w <<< (w - 1) = BitVec.ofNat w (2 ^ (w - 1)) := by
    rw [ofNat_shiftLeft_eq_ofNat_mul, one_mul]
  have hmod : BitVec.ofNat w ((X.toNat + 2 ^ (w - 1)) % 2 ^ w) = BitVec.ofNat w (X.toNat + 2 ^ (w - 1)) :=
    BitVec.eq_of_toNat_eq (by rw [BitVec.toNat_ofNat, BitVec.toNat_ofNat, Nat.mod_mod])
  rw [← add_top_eq_xor, htop, flipSign, hmod, BitVec.ofNat_add, ofNat_toNat_self]

theorem fpTy_width_le (ty : FpTy) : ty.width ≤ 64 := by cases ty <;> decide

/-! The part-by-part conversion (R145). -/

section Convert

variable (ty dty : ElemTy) (part : Nat) (rm : RMode) (fz8 : Bool) (row : Nat) (m : BitVec 32)
  (zm : Bool) (old x : VWord) (k : Nat)

/-- The source element of element `k` of a conversion. -/
def cvtSrc : Nat := if dty.width ≤ ty.width then k - part * (1024 / ty.width) else part * (1024 / dty.width) + k

/-- Whether element `k` of a conversion is active: by the narrower count of elements. -/
def cvtOn : Bool :=
  if dty.width ≤ ty.width then activeElem m ty.width (cvtSrc ty dty part k) else activeElem m dty.width k

/-- Whether element `k` lies in the part that a conversion writes. -/
def cvtIn : Bool := decide (ty.width < dty.width)
  || (decide (part * (1024 / ty.width) ≤ k) && decide (k < part * (1024 / ty.width) + 1024 / ty.width))

/-- The value that an active element of the part takes, and its flags. -/
def cvtVal : Nat × Flags := convert ty dty rm (dither row k) fz8 (elem x ty.width (cvtSrc ty dty part k))

/-- Element `k` of a conversion with its flags. -/
def cvtElem : Nat × Flags :=
  if cvtIn ty dty part k && cvtOn ty dty part m k then cvtVal ty dty part rm fz8 row x k
  else (if cvtIn ty dty part k && zm then 0 else elem old dty.width k, 0)

variable {ty dty part rm fz8 row m zm old x k}

/-- A conversion's vector and flags are those of its elements. -/
theorem vfcvtVal_eq : vfcvtVal ty dty part rm fz8 row m zm old x =
    (vecOf dty.width (((List.range (1024 / dty.width)).map (cvtElem ty dty part rm fz8 row m zm old x)).map Prod.fst),
      (((List.range (1024 / dty.width)).map (cvtElem ty dty part rm fz8 row m zm old x)).map Prod.snd).foldl (· ||| ·) 0) := by
  refine congrArg (fun l : List (Nat × Flags) => (vecOf dty.width (l.map Prod.fst), (l.map Prod.snd).foldl (· ||| ·) 0))
    (List.map_congr_left fun k _ => ?_)
  by_cases hnarrow : dty.width ≤ ty.width
  · by_cases hin : part * (1024 / ty.width) ≤ k ∧ k < part * (1024 / ty.width) + 1024 / ty.width
    · simp [cvtElem, cvtIn, cvtOn, cvtVal, cvtSrc, hnarrow, hin]
    · have hout : cvtIn ty dty part k = false := by
        rw [cvtIn, decide_eq_false (not_lt.mpr hnarrow), Bool.false_or, ← Bool.decide_and, decide_eq_false hin]
      simp [cvtElem, hnarrow, hin, hout]
  · simp [cvtElem, cvtIn, cvtOn, cvtVal, cvtSrc, hnarrow, not_le.mp hnarrow]

theorem vfcvtVal_elem {j : Nat} (hj : j < 1024 / dty.width) :
    vecElem (vfcvtVal ty dty part rm fz8 row m zm old x).1 dty.width j =
      if cvtIn ty dty part j && cvtOn ty dty part m j then BitVec.ofNat dty.width (cvtVal ty dty part rm fz8 row x j).1
      else if cvtIn ty dty part j && zm then 0 else vecElem old dty.width j := by
  rw [vfcvtVal_eq, List.map_map, vecElem_vecOf_map_range (elem_lt_end hj) hj]
  simp only [Function.comp_apply, cvtElem, apply_ite Prod.fst, apply_ite (BitVec.ofNat dty.width), ofNat_elem]
  rfl

theorem vfcvtVal_flags : (vfcvtVal ty dty part rm fz8 row m zm old x).2 =
    ((List.range (1024 / dty.width)).filter (fun j => cvtIn ty dty part j && cvtOn ty dty part m j)).foldl
      (fun z j => z ||| (cvtVal ty dty part rm fz8 row x j).2) 0 := by
  rw [vfcvtVal_eq, List.map_map (f := cvtElem ty dty part rm fz8 row m zm old x) (g := Prod.snd)]
  refine foldl_flags_eq_filter fun j => ?_
  simp only [Function.comp_apply, cvtElem, apply_ite Prod.snd]

end Convert

end Sys2Proof.Machine

namespace Sys2Proof.Cube

open Sys2Proof.Machine

/-- Settles O11: each form's result is a masked vector with the flags of its active elements, or a mask built bit by bit. -/
theorem vectorFpActsElementByElement : Obligations.VectorFpActsElementByElement := by
  unfold Obligations.VectorFpActsElementByElement
  refine ⟨fun g ty rm c d a b e s hg => ?arith, fun g ety ty sty dty rm c cc md part d a b q s s1 row hg hq => ?others⟩
  case arith =>
    intro w f h m P X Y Z S t
    have hw : w ∣ 1024 := fpTy_width_dvd (ftyFp ty)
    have h32 : 32 ∣ 1024 := by decide
    have helem (v : VSrc) (j : Nat) : P v j = elem (s.readV v) w j := toNat_vecElem _ _ _
    have helem32 (j : Nat) : S j = h.val (elem (s.readV a) 32 j) := congrArg h.val (toNat_vecElem _ _ _)
    simp only [DeliversVecFp, DeliversVec, DeliversVecL, Completes, exec, X, Y, Z, helem, helem32]
    exact ⟨runInstr_vfDone hg hw rfl, runInstr_vfDone hg hw rfl, runInstr_vfDone hg hw rfl, runInstr_vfDone hg hw rfl,
      runInstr_vfDone hg hw rfl, runInstr_vfDone hg hw rfl, runInstr_vfDone hg h32 rfl, runInstr_vfDone hg h32 rfl,
      runInstr_vfDone hg h32 rfl, runInstr_vfDone hg h32 rfl⟩
  case others =>
    simp -zeta only [toNat_vecElem]
    intro mk sign f w k r fl ws wd ns nd src on inPart conv cf
    have hw : ety.width ∣ 1024 := fpTy_width_dvd ety
    dsimp only [DeliversVec, DeliversVecL, Completes, exec]
    refine ⟨runInstr_vop1 hg hw fun j => ofNat_mod_two_pow_pred_self (fpTy_width_le ety) _,
      runInstr_vop1 hg hw fun j => ofNat_flipSign _,
      fun hquiet => ⟨cmpMask mk (s.readM md) c.zm (fun l => l / k * k) (fun l => (r (l / k)).1), runInstr_flow hg ?cmp,
        fun l hl => getLsbD_maskOf _ hl⟩,
      fun hquiet => ⟨(vfcvtVal sty dty part.toNat (s.rmOf rm) (s.me.csr.fpcs.getLsbD 16) (row.toNat % 32) mk c.zm
        (s.readVD d) (s.readV a)).1, runInstr_flow hg ?cvt, fun j hj => ?cvtElem⟩⟩
    case cmp =>
      have hfl : ((List.range (1024 / w)).map (fun j => if activeElem mk w j then (r j).2 else 0)).foldl (· ||| ·) 0 = fl :=
        foldl_flags_eq_activeFlags fun j => rfl
      exact (congrArg (fun x => s.fpDone x _) hfl).trans (fpDone_of_quiet _ hquiet)
    case cvt =>
      have hfl : (vfcvtVal sty dty part.toNat (s.rmOf rm) (s.me.csr.fpcs.getLsbD 16) (row.toNat % 32) mk c.zm
        (s.readVD d) (s.readV a)).2 = cf := vfcvtVal_flags
      have hrow : bits row.toNat 0 5 = row.toNat % 32 := by rw [bits, pow_zero, Nat.div_one]; rfl
      simp only [hq, bind, Except.bind, hrow]
      exact (congrArg (fun x => s1.fpDone x _) hfl).trans (fpDone_of_quiet _ hquiet)
    case cvtElem => exact vfcvtVal_elem hj

end Sys2Proof.Cube

/-! Vector floating-point reductions (O12; R146): a level of the tree on the list of a row's entries, and the whole tree. -/

namespace Sys2Proof.Machine

section Tree

variable (f : Fmt) (op : FRedOp) (rm : RMode) (t0 : Nat → Option (Nat × Flags))

/-- A node of the tree with the flags of what it joins. -/
def fredJoin (k i : Nat) (x y : Nat × Flags) : Nat × Flags :=
  ((fredNode f op rm (dither k i) x.1 y.1).1, (fredNode f op rm (dither k i) x.1 y.1).2 ||| x.2 ||| y.2)

/-- What two entries come to: an absent one leaves the other unchanged. -/
def fredMeet (k i : Nat) : Option (Nat × Flags) → Option (Nat × Flags) → Option (Nat × Flags)
  | some x, some y => some (fredJoin f op rm k i x y)
  | some x, none => some x
  | none, y => y

/-- Entry `i` of level `k` with the flags raised below it. -/
def fredEntry (k i : Nat) : Option (Nat × Flags) := treeLevel (fredJoin f op rm) t0 k i

theorem fredEntry_succ (k i : Nat) : fredEntry f op rm t0 (k + 1) i
    = fredMeet f op rm k i (fredEntry f op rm t0 k (2 * i)) (fredEntry f op rm t0 k (2 * i + 1)) := by
  rw [fredEntry, treeLevel, fredEntry, fredEntry]
  cases treeLevel (fredJoin f op rm) t0 k (2 * i) <;> cases treeLevel (fredJoin f op rm) t0 k (2 * i + 1) <;> rfl

/-- The flags of an entry; an absent one has none. -/
def entryFlags (x : Option (Nat × Flags)) : Flags := (x.map Prod.snd).getD 0

/-- The values of the entries of level `k` at the places listed. -/
def fredRow (k : Nat) (l : List Nat) : List (Option Nat) := l.map (fun i => (fredEntry f op rm t0 k i).map Prod.fst)

/-- The flags of the entries of level `k` at the places listed. -/
def rowFlags (k : Nat) : List Nat → Flags
  | [] => 0
  | i :: t => entryFlags (fredEntry f op rm t0 k i) ||| rowFlags k t

/-- A level joins the first two entries of its list and goes on behind them. -/
theorem fredLevel_cons (k i : Nat) (x y : Option (Nat × Flags)) (t : List (Option Nat)) :
    ∃ fl : Flags, fl ||| (entryFlags x ||| entryFlags y) = entryFlags (fredMeet f op rm k i x y)
      ∧ fredLevel f op rm k i (x.map Prod.fst :: y.map Prod.fst :: t)
        = ((fredMeet f op rm k i x y).map Prod.fst :: (fredLevel f op rm k (i + 1) t).1,
          fl ||| (fredLevel f op rm k (i + 1) t).2) := by
  cases x with
  | none => exact ⟨0, by simp [entryFlags, fredMeet], by simp [fredLevel, fredMeet]⟩
  | some x =>
    cases y with
    | none => exact ⟨0, by simp [entryFlags, fredMeet], by simp [fredLevel, fredMeet]⟩
    | some y => exact ⟨(fredNode f op rm (dither k i) x.1 y.1).2, (BitVec.or_assoc _ _ _).symm, rfl⟩

/-- A level makes the next row of its row; with the flags of its row it makes those of the next. -/
theorem fredLevel_row (k n : Nat) : ∀ i, ∃ fl : Flags,
    fredLevel f op rm k i (fredRow f op rm t0 k (List.range' (2 * i) (2 * n)))
        = (fredRow f op rm t0 (k + 1) (List.range' i n), fl)
      ∧ fl ||| rowFlags f op rm t0 k (List.range' (2 * i) (2 * n)) = rowFlags f op rm t0 (k + 1) (List.range' i n) := by
  induction n with
  | zero => exact fun i => ⟨0, rfl, BitVec.zero_or⟩
  | succ n ih =>
    intro i
    obtain ⟨rest, hrow, hrest⟩ := ih (i + 1)
    obtain ⟨fl, hfl, hlevel⟩ := fredLevel_cons f op rm k i (fredEntry f op rm t0 k (2 * i))
      (fredEntry f op rm t0 k (2 * i + 1)) (fredRow f op rm t0 k (List.range' (2 * (i + 1)) (2 * n)))
    rw [← fredEntry_succ] at hfl hlevel
    rw [hrow] at hlevel
    have hpair : List.range' (2 * i) (2 * (n + 1)) = 2 * i :: (2 * i + 1) :: List.range' (2 * (i + 1)) (2 * n) := rfl
    rw [hpair, List.range'_succ]
    refine ⟨fl ||| rest, hlevel, ?_⟩
    simp only [rowFlags, ← hfl, ← hrest]
    ac_rfl

/-- The tree over a row of `2 ^ n` entries comes to entry 0 of the level `n` above, with the flags of what it joins. -/
theorem fredTree_row (n : Nat) : ∀ k, ∃ fl : Flags,
    fredTree f op rm n k (fredRow f op rm t0 k (List.range' 0 (2 ^ n))) = ((fredEntry f op rm t0 (k + n) 0).map Prod.fst, fl)
      ∧ fl ||| rowFlags f op rm t0 k (List.range' 0 (2 ^ n)) = entryFlags (fredEntry f op rm t0 (k + n) 0) := by
  induction n with
  | zero => exact fun k => ⟨0, rfl, by simp [rowFlags]⟩
  | succ n ih =>
    intro k
    obtain ⟨low, hrow, hlow⟩ := fredLevel_row f op rm t0 k (2 ^ n) 0
    obtain ⟨high, htree, hhigh⟩ := ih (k + 1)
    rw [Nat.mul_zero] at hrow hlow
    have hlevel : k + (n + 1) = k + 1 + n := by omega
    rw [pow_succ', hlevel]
    refine ⟨low ||| high, by rw [fredTree, hrow, htree], ?_⟩
    rw [← hhigh, ← hlow]
    ac_rfl

theorem rowFlags_zero (h : ∀ i, entryFlags (t0 i) = 0) (l : List Nat) : rowFlags f op rm t0 0 l = 0 := by
  induction l with
  | nil => rfl
  | cons i t ih =>
    rw [rowFlags, ih, fredEntry, treeLevel, h]
    rfl

end Tree

/-- The leaves of a reduction: the active elements, which raise nothing. -/
def fredLeaf (m : BitVec 32) (v : VWord) (w j : Nat) : Option (Nat × Flags) :=
  if j < 1024 / w ∧ m.getLsbD (w * j / 32) = true then some ((vecElem v w j).toNat, 0) else none

theorem entryFlags_fredLeaf (m : BitVec 32) (v : VWord) (w j : Nat) : entryFlags (fredLeaf m v w j) = 0 := by
  rw [fredLeaf]
  split <;> rfl

/-- The number of levels of the tree. -/
def fredLevels (ty : FTy) : Nat := if ty = .f32 then 5 else 4

theorem elems_eq_two_pow_levels (ty : FTy) : 1024 / ftyWidth ty = 2 ^ fredLevels ty := by cases ty <;> rfl

/-- A reduction is the root of its tree over the active elements (R146). -/
theorem vfredVal_eq (ty : FTy) (op : FRedOp) (rm : RMode) (m : BitVec 32) (v : VWord) : vfredVal ty op rm m v =
    (treeLevel (fredJoin (fmtTy ty) op rm) (fredLeaf m v (ftyWidth ty)) (fredLevels ty) 0).getD
      (if op = .add then 0 else (fmtTy ty).nan, 0) := by
  obtain ⟨fl, htree, hflags⟩ := fredTree_row (fmtTy ty) op rm (fredLeaf m v (ftyWidth ty)) (fredLevels ty) 0
  have hnone : fl ||| 0 = fl := BitVec.or_zero
  rw [rowFlags_zero _ _ _ _ (entryFlags_fredLeaf m v (ftyWidth ty)), hnone, Nat.zero_add] at hflags
  rw [← elems_eq_two_pow_levels, ← List.range_eq_range', Nat.zero_add, hflags] at htree
  have hleaves : (List.range (1024 / ftyWidth ty)).map
      (fun j => if activeElem m (ftyWidth ty) j then some (elem v (ftyWidth ty) j) else none)
      = fredRow (fmtTy ty) op rm (fredLeaf m v (ftyWidth ty)) 0 (List.range (1024 / ftyWidth ty)) := by
    refine List.map_congr_left fun j hj => ?_
    rw [fredEntry, treeLevel, fredLeaf, toNat_vecElem, activeElem]
    simp only [List.mem_range.mp hj, true_and, apply_ite (Option.map Prod.fst), Option.map_some, Option.map_none]
  have hlog : Nat.log2 (1024 / ftyWidth ty) = fredLevels ty := by
    rw [elems_eq_two_pow_levels, Nat.log2_two_pow]
  dsimp only [vfredVal]
  rw [hleaves, hlog, htree, fredEntry]
  cases treeLevel (fredJoin (fmtTy ty) op rm) (fredLeaf m v (ftyWidth ty)) (fredLevels ty) 0 <;> rfl

end Sys2Proof.Machine

namespace Sys2Proof.Cube

open Sys2Proof.Machine

/-- Settles O12: the levels of the model's lists are the levels of the tree, and the flags of its nodes come together. -/
theorem vectorFpReductionIsAFixedTree : Obligations.VectorFpReductionIsAFixedTree := by
  unfold Obligations.VectorFpReductionIsAFixedTree
  intro g ty op rm c d a s hg f w node t0 levels
  have hnode : fredJoin f op (s.rmOf rm) = node := by
    funext k i x y
    cases op <;> rfl
  have hval : vfredVal ty op (s.rmOf rm) (s.readM c.mask) (s.readV a)
      = (treeLevel node t0 levels 0).getD (if op = .add then 0 else f.nan, 0) := by
    rw [vfredVal_eq, ← hnode]
    rfl
  dsimp only [DeliversFp, Delivers, exec]
  refine runInstr_fp hg fun hquiet t ht => ?_
  have hd : s.dstReady d = .ok () := dstReady_orFlags.symm.trans (dstReady_of_writeS ht)
  simp only [hd, hval, bind, Except.bind]
  exact (fpDone_of_quiet _ hquiet).trans ht

end Sys2Proof.Cube

/-! Wide accumulators (O13; R148 to R153, R386): the events that a context sends, and what the tile atomic unit does. -/

namespace Sys2Proof.Machine

/-! What a source that is read leaves of the executing context. -/

section Source

variable {α : Type} {s s1 : State} {q : SSrc} {x : Word}

/-- A popped queue changes nothing of the context but its queues, their dirty bit, its view and its program. -/
theorem popItem_keeps (f : Ctx → α) (hf : ∀ (c : Ctx) q dirty view prog, f { c with q, dirty, view, prog } = f c)
    (n : BitVec 3) (rest : List Word) : f (s.popItem n rest).me = f s.me := by
  simp only [State.popItem]
  split
  · rw [State.me_setMe]
    exact hf s.me _ _ _ _
  · rw [State.me_setMe]
    exact hf s.me _ _ s.me.view s.me.prog

theorem readS_keeps (f : Ctx → α) (hf : ∀ (c : Ctx) q dirty view prog, f { c with q, dirty, view, prog } = f c)
    (h : s.readS q = .ok (x, s1)) : f s1.me = f s.me := by
  by_cases hq : ∃ n, q = .q n
  · obtain ⟨n, rfl⟩ := hq
    obtain ⟨rest, -, rfl⟩ := popQ_ok s s1 n x h
    exact popItem_keeps f hf n rest
  · rw [readS_keeps_state s s1 q x (not_exists.mp hq) h]

theorem readS_jtile (h : s.readS q = .ok (x, s1)) : s1.me.jtile = s.me.jtile :=
  readS_keeps Ctx.jtile (fun _ _ _ _ _ => rfl) h

theorem readS_fpcs (h : s.readS q = .ok (x, s1)) : s1.me.csr.fpcs = s.me.csr.fpcs :=
  readS_keeps (fun c => c.csr.fpcs) (fun _ _ _ _ _ => rfl) h

theorem rmOf_readS (h : s.readS q = .ok (x, s1)) (m : RMode) : s1.rmOf m = s.rmOf m := by
  cases m <;> simp only [State.rmOf, readS_fpcs h]

theorem readS_cur (h : s.readS q = .ok (x, s1)) : s1.cur = s.cur := (readS_leaves h).cur

theorem readS_record (h : s.readS q = .ok (x, s1)) : s1.record = s.record := (readS_leaves h).own.1.2.1

/-- An address is read from its base and then its index. -/
theorem memEa_inv {m : MemOp} (h : s.memEa m = .ok (x, s1)) :
    ∃ b u i, s.readS m.base = .ok (b, u) ∧ u.readS m.index = .ok (i, s1) := by
  obtain ⟨⟨b, u⟩, hbase, h⟩ := bind_ok_inv h
  obtain ⟨⟨i, v⟩, hindex, h⟩ := bind_ok_inv h
  cases h
  exact ⟨b, u, i, hbase, hindex⟩

theorem memEa_jtile {m : MemOp} (h : s.memEa m = .ok (x, s1)) : s1.me.jtile = s.me.jtile := by
  obtain ⟨b, u, i, hbase, hindex⟩ := memEa_inv h
  rw [readS_jtile hindex, readS_jtile hbase]

end Source

/-! Sending an event (R148 to R151). -/

section Send

variable {s : State} {ea : Word}

/-- An aligned object of the own tile that passes the checks of an access (R148, R180). -/
theorem wideObject_of_own {locs : List Loc} (hwindow : ea.toNat / 2 ^ 32 = 7 * 2 ^ 20) (halign : ea.toNat % 128 = 0)
    (htile : ea.toNat / 2 ^ 21 % 2 ^ 11 = 2047 ∨ ea.toNat / 2 ^ 21 % 2 ^ 11 = s.me.jtile)
    (hloc : s.locate s.agent true false 1 (span ea 80) = .ok locs) : s.wideObject ea = .ok (ea.toNat % 2 ^ 21) := by
  have hregion : regionOf ea.toNat = 7 := by
    simp only [regionOf, bits]
    omega
  have hstep : step1 ea.toNat = true := by
    simp only [step1, hregion, Bool.and_eq_true, beq_iff_eq, bne_iff_ne]
    omega
  have hzero : bits ea.toNat 32 20 = 0 := by
    rw [bits, hwindow]
    rfl
  have hown : (bits ea.toNat 21 11 == 2047 || bits ea.toNat 21 11 == s.me.jtile) = true := by
    simpa only [Bool.or_eq_true, beq_iff_eq, bits] using htile
  have hofs : bits ea.toNat 0 21 = ea.toNat % 2 ^ 21 := by rw [bits, pow_zero, Nat.div_one]
  simp only [State.wideObject, need, aligned, hstep, hregion, hzero, hown, halign, hloc, hofs, bind, Except.bind,
    beq_self_eq_true, Bool.and_self, if_true]

/-- The state in which an event has joined those of the tile atomic unit. -/
def State.wideSent (s : State) (ofs : Nat) (add : Option Int) : State :=
  { (s.setTile s.cur.tile { s.myTile with wide := s.myTile.wide ++ [⟨s.cur, s.nextId, ofs, add⟩] }) with
    nextId := s.nextId + 1 }

theorem sendWide_of_free (h : s.widePending ea = false) (ofs : Nat) (add : Option Int) :
    s.sendWide ea ofs add = .ok (s.wideSent ofs add) := by
  simp only [State.sendWide, h, ready, bind, Except.bind, Bool.not_false, if_true]
  rfl

theorem myTile_setMe (x : Ctx) :
    (s.setMe x).myTile = s.myTile.setCore s.cur.core ((s.myTile.core s.cur.core).setCtx s.cur.ctx x) :=
  State.tile_setTile_same _ _ _

theorem widePending_orFlags (fl : Flags) : (s.orFlags fl).widePending ea = s.widePending ea := by
  simp only [State.widePending, State.ownPosted, State.orFlags, State.agent, myTile_setMe, State.me_setMe, State.setMe_cur]
  rfl

end Send

/-! Reading an object (R153). -/

section Read

variable {s : State} {ofs : Nat}

/-- A read of an object in a scratchpad passes through no slice. -/
theorem touchReads_wideLocs (tile : Nat) : s.touchReads (wideLocs tile ofs) = s := by
  have h : ∀ f : Loc → Option (Nat × Nat), (∀ t a, f (.spad t a) = none) → (wideLocs tile ofs).filterMap f = [] := by
    intro f hf
    simp [wideLocs, List.filterMap_map, hf]
  unfold State.touchReads
  dsimp only
  rw [h _ (fun _ _ => rfl)]
  rfl

theorem leNat_map_memGet (m : Memory) (n : Nat) :
    ∀ a, leNat ((List.range n).map (fun i => memGet m (a + i))) = memNat m a n := by
  induction n with
  | zero => exact fun _ => rfl
  | succ n ih =>
    intro a
    rw [List.range_succ_eq_map, List.map_cons, List.map_map, leNat, memNat, ← ih]
    simp [Function.comp_def, Nat.add_comm 1, Nat.add_assoc]

theorem leNat_wideLocs (tile : Nat) :
    leNat ((wideLocs tile ofs).map s.readLoc) = memNat (s.tile tile).spad ofs 80 := by
  rw [← leNat_map_memGet, wideLocs, List.map_map]
  rfl

/-- Where no record is kept, the atomic read of an object returns its number and changes nothing. -/
theorem rmwAs_wideLocs (hk : s.record.keep = false) (tile : Nat) (a : Attr) (v : Seen) (pass : Passing) :
    (s.rmwAs false a v pass (wideLocs tile ofs) (fun _ => none)).old = memNat (s.tile tile).spad ofs 80
      ∧ (s.rmwAs false a v pass (wideLocs tile ofs) (fun _ => none)).after = s := by
  rw [rmwAs_old_inOrder _ _ _ _ _ _ hk, leNat_wideLocs, rmwAs_after_of_none (f := fun _ => none) _ _ _ _ _ hk rfl,
    touchReads_wideLocs]
  exact ⟨rfl, rfl⟩

/-- Two objects of 80 bytes that share no byte share neither end of the one. -/
theorem ownWide_ends (h : s.myTile.wide.any (fun w => w.owner == s.cur && decide (w.ofs < ofs + 80)
    && decide (ofs < w.ofs + 80)) = false) : (s.ownWide ofs || s.ownWide (ofs + 79)) = false := by
  rw [List.any_eq_false] at h
  rw [Bool.or_eq_false_iff, State.ownWide, State.ownWide, List.any_eq_false, List.any_eq_false]
  refine ⟨fun w hw => ?_, fun w hw => ?_⟩
  all_goals
    have hno := h w hw
    simp only [Bool.and_eq_true, decide_eq_true_eq, not_and] at hno ⊢
    rintro ⟨howner, hlow⟩ hhigh
    exact hno ⟨howner, by omega⟩ (by omega)

theorem intVal_true_eq_toInt (w n : Nat) : intVal true w n = (BitVec.ofNat w n).toInt :=
  (intVal_eq_intOf true n).trans (if_pos rfl)

/-- The value of an object is its number rounded once (R153). -/
theorem wideValue_eq (ty : FTy) (m : RMode) (n : Nat) : wideValue ty m n
    = (fmtTy ty).round m 0 false (decide ((BitVec.ofNat 640 n).toInt < 0)) (BitVec.ofNat 640 n).toInt.natAbs (-320) false := by
  rw [wideValue, intVal_true_eq_toInt]
  rfl

end Read

/-! Performing an event (R150 to R152). -/

section Tiles

variable {α : Type} (f : Tile → α)

theorem tile_setCtx (hcores : ∀ (t : Tile) cores, f { t with cores } = f t) (s : State) (i : CtxId) (x : Ctx) (n : Nat) :
    f ((s.setCtx i x).tile n) = f (s.tile n) := by
  by_cases h : n = i.tile
  · subst h
    exact (congrArg f (State.tile_setTile_same _ _ _)).trans (hcores _ _)
  · exact congrArg f (State.tile_setTile_other _ _ _ _ h)

/-- Comparing the watches changes of a tile only the watches and the contexts that waited. -/
theorem tile_respond (hcores : ∀ (t : Tile) cores, f { t with cores } = f t)
    (hwatches : ∀ (t : Tile) watches, f { t with watches } = f t) (s : State) (n : Nat) :
    f (s.respond.tile n) = f (s.tile n) := by
  unfold State.respond
  refine (foldl_keeps (fun u : State => f (u.tile n)) _ (fun u _ => tile_setCtx f hcores u _ _ n) _ _).trans ?_
  have h := aget_map_snd (fun t : Tile => { t with watches := t.watches.filter (fun w => (s.watchReached w).isNone) }) s.tiles n
  simp only [State.tile, h]
  cases aget s.tiles n with
  | none => rfl
  | some t => exact hwatches t _

end Tiles

section Bytes

variable (s : State) (n : Nat)

/-- Bytes written to a scratchpad leave the events at the tile's atomic unit. -/
theorem writeLocs_spad (l : List (Nat × Byte)) : ∀ s : State,
    ((s.writeLocs (l.map (fun c => (Loc.spad n c.1, c.2)))).tile n).spad = setCells (s.tile n).spad l
      ∧ ((s.writeLocs (l.map (fun c => (Loc.spad n c.1, c.2)))).tile n).wide = (s.tile n).wide := by
  induction l with
  | nil => exact fun s => ⟨rfl, rfl⟩
  | cons c t ih =>
    intro s
    have htile : (s.writeLoc (.spad n c.1) c.2).tile n = { s.tile n with
        spad := memSet (s.tile n).spad c.1 c.2, granules := sinsert (s.tile n).granules (c.1 / 256) } :=
      State.tile_setTile_same _ _ _
    obtain ⟨hspad, hwide⟩ := ih (s.writeLoc (.spad n c.1) c.2)
    rw [htile] at hspad hwide
    exact ⟨hspad, hwide⟩

theorem store_spad (l : List (Nat × Byte)) :
    ((s.store (l.map (fun c => (Loc.spad n c.1, c.2)))).tile n).spad = setCells (s.tile n).spad l
      ∧ ((s.store (l.map (fun c => (Loc.spad n c.1, c.2)))).tile n).wide = (s.tile n).wide := by
  obtain ⟨hspad, hwide⟩ := writeLocs_spad n l s
  exact ⟨(tile_respond Tile.spad (fun _ _ => rfl) (fun _ _ => rfl) _ n).trans hspad,
    (tile_respond Tile.wide (fun _ _ => rfl) (fun _ _ => rfl) _ n).trans hwide⟩

/-- Bytes that are those of a number read as the number. -/
theorem memNat_of_bytes {m : Memory} (k : Nat) : ∀ {a v : Nat},
    (∀ i < k, memGet m (a + i) = BitVec.ofNat 8 (v / 2 ^ (8 * i))) → memNat m a k = v % 2 ^ (8 * k) := by
  induction k with
  | zero => intro a v _; simp [memNat, Nat.mod_one]
  | succ k ih =>
    intro a v h
    have hrest : memNat m (a + 1) k = v / 2 ^ 8 % 2 ^ (8 * k) := ih fun i hi => by
      rw [Nat.add_assoc, Nat.add_comm 1, h (i + 1) (Nat.succ_lt_succ hi), Nat.div_div_eq_div_mul, ← pow_add, Nat.mul_succ,
        Nat.add_comm 8]
    have hfirst : (memGet m a).toNat = v % 2 ^ 8 := by
      have h0 := h 0 (Nat.succ_pos k)
      rw [Nat.add_zero, Nat.mul_zero, pow_zero, Nat.div_one] at h0
      rw [h0, BitVec.toNat_ofNat]
    rw [memNat, hrest, hfirst, Nat.mul_succ, Nat.add_comm (8 * k), pow_add, Nat.mod_mul]
    rfl

end Bytes

/-! The bytes that an event writes (R150, R151). -/

section Cells

variable (tile ofs old new : Nat) (all : Bool)

/-- Whether an event writes the byte at a place of the scratchpad: the word that holds it changes, or all are written. -/
def wideMay (x : Nat) : Bool :=
  all || bits old ((x - ofs) / 8 * 64) 64 != bits new ((x - ofs) / 8 * 64) 64

theorem ofNat_bits_byte (x k : Nat) : BitVec.ofNat 8 (bits x k 8) = BitVec.ofNat 8 (x / 2 ^ k) :=
  BitVec.eq_of_toNat_eq (by rw [BitVec.toNat_ofNat, BitVec.toNat_ofNat, bits, Nat.mod_mod])

/-- An event writes those bytes of the new number that it may. -/
theorem wideCells_eq : wideCells tile ofs old new all
    = ((cellsFrom ofs (bytesOf 80 new)).filter (fun c => wideMay ofs old new all c.1)).map
        (fun c => (Loc.spad tile c.1, c.2)) := by
  have hlen : (bytesOf 80 new).length = 80 := by simp [bytesOf]
  have hcells : cellsFrom ofs (bytesOf 80 new)
      = (List.range 80).map (fun i => (ofs + i, BitVec.ofNat 8 (bits new (8 * i) 8))) := by
    simp only [ofNat_bits_byte]
    rw [cellsFrom, hlen, bytesOf, List.zip_map']
  rw [hcells, List.filter_map, List.map_map, ← List.filterMap_eq_map, List.filterMap_filter, wideCells]
  simp only [Function.comp_apply, wideMay, Nat.add_sub_cancel_left]

/-- Numbers that agree in a word agree in its bytes. -/
theorem byte_eq_of_word_eq {i : Nat} (h : bits old (i / 8 * 64) 64 = bits new (i / 8 * 64) 64) :
    BitVec.ofNat 8 (old / 2 ^ (8 * i)) = BitVec.ofNat 8 (new / 2 ^ (8 * i)) := by
  apply BitVec.eq_of_getLsbD_eq
  intro j hj
  have hbit := congrArg (fun x => x.testBit (8 * (i % 8) + j)) h
  have hplace : 8 * (i % 8) + j + i / 8 * 64 = j + 8 * i := by omega
  have hin : 8 * (i % 8) + j < 64 := by omega
  simpa only [bits, Nat.testBit_mod_two_pow, Nat.testBit_div_two_pow, BitVec.getLsbD_ofNat, hin, hj, hplace, decide_true,
    Bool.true_and] using hbit

/-- Every byte of the object is that of the new number, written or not, and every other byte is as before. -/
theorem memGet_wideCells (m : Memory) (hold : ∀ i < 80, memGet m (ofs + i) = BitVec.ofNat 8 (old / 2 ^ (8 * i))) (x : Nat) :
    memGet (setCells m ((cellsFrom ofs (bytesOf 80 new)).filter (fun c => wideMay ofs old new all c.1))) x
      = if ofs ≤ x ∧ x < ofs + 80 then BitVec.ofNat 8 (new / 2 ^ (8 * (x - ofs))) else memGet m x := by
  have hlen : (bytesOf 80 new).length = 80 := by simp [bytesOf]
  rw [memGet_setCells_cellsFrom, hlen]
  by_cases hin : ofs ≤ x ∧ x < ofs + 80
  · obtain ⟨hlow, hhigh⟩ := hin
    cases hmay : wideMay ofs old new all x with
    | true => rw [if_pos ⟨hlow, hhigh, rfl⟩, if_pos ⟨hlow, hhigh⟩, getD_bytesOf _ _ _ (by omega)]
    | false =>
      obtain ⟨-, hsame⟩ : all = false ∧ bits old ((x - ofs) / 8 * 64) 64 = bits new ((x - ofs) / 8 * 64) 64 := by
        simpa [wideMay] using hmay
      have hx := hold (x - ofs) (by omega)
      rw [Nat.add_sub_of_le hlow] at hx
      rw [if_neg (by simp), if_pos ⟨hlow, hhigh⟩, hx, byte_eq_of_word_eq _ _ hsame]
  · rw [if_neg (fun h => hin ⟨h.1, h.2.1⟩), if_neg hin]

end Cells

/-! The tile atomic unit (R152, R386). -/

section Event

variable {s : State} {n : Nat} {u : WideUpd}

theorem wideEvent_inOrder (hk : s.record.keep = false) : s.wideEvent n u = s.store (wideCells n u.ofs
    (memNat (s.tile n).spad u.ofs 80) (wideAfter (memNat (s.tile n).spad u.ofs 80) u.add) u.add.isNone) := by
  simp [State.wideEvent, writeAs_inOrder _ _ _ _ _ _ _ hk, hk]

/-- An event leaves its object's bytes those of the number after it, every other byte as it was, and the events behind it. -/
theorem wideEvent_effect (hk : s.record.keep = false) :
    ((s.wideEvent n u).tile n).wide = (s.tile n).wide
      ∧ memNat ((s.wideEvent n u).tile n).spad u.ofs 80 = wideAfter (memNat (s.tile n).spad u.ofs 80) u.add % 2 ^ (8 * 80)
      ∧ ∀ i, i < u.ofs ∨ u.ofs + 80 ≤ i → memGet ((s.wideEvent n u).tile n).spad i = memGet (s.tile n).spad i := by
  rw [wideEvent_inOrder hk, wideCells_eq]
  generalize hold : memNat (s.tile n).spad u.ofs 80 = old
  generalize wideAfter old u.add = new
  obtain ⟨hspad, hwide⟩ := store_spad s n
    ((cellsFrom u.ofs (bytesOf 80 new)).filter (fun c => wideMay u.ofs old new u.add.isNone c.1))
  have hget := memGet_wideCells u.ofs old new u.add.isNone (s.tile n).spad
    fun i hi => hold ▸ (ofNat_memNat_div _ _ _ _ hi).symm
  rw [hspad]
  refine ⟨hwide, memNat_of_bytes 80 fun i hi => ?_, fun i hi => ?_⟩
  · rw [hget, if_pos (by omega), Nat.add_sub_cancel_left]
  · rw [hget, if_neg (by omega)]

/-- The state in which the events `rest` wait at a tile's atomic unit. -/
def State.wideLeft (s : State) (n : Nat) (rest : List WideUpd) : State := s.setTile n { s.tile n with wide := rest }

theorem wideLeft_tile (s : State) (n : Nat) (rest : List WideUpd) :
    (s.wideLeft n rest).tile n = { s.tile n with wide := rest } :=
  State.tile_setTile_same _ _ _

theorem wideLeft_ctx (s : State) (n : Nat) (rest : List WideUpd) (i : CtxId) : (s.wideLeft n rest).ctx i = s.ctx i :=
  State.ctx_setTile_of_cores _ _ _ (by rfl) i

/-- The trap that an event posts which finds an uncorrectable word (R386). -/
def wideLost (ofs : Nat) : Pending := ⟨TrapCode.memLost.num, 3, BitVec.ofNat 64 (7 * 2 ^ 52 + 2047 * 2 ^ 21 + ofs)⟩

/-- The oldest event performs once its plate is free, and one that meets a lost granule posts a trap to its context. -/
theorem exec_wideUpdate_of_oldest {rest : List WideUpd} (hw : (s.tile n).wide = u :: rest)
    (hbusy : s.plateBusy n u.ofs = false) :
    exec (.wideUpdate n) s = .next (
      if (s.tile n).bad.contains (u.ofs / 256) then (s.wideLeft n rest).postTrap u.owner (wideLost u.ofs)
      else (s.wideLeft n rest).wideEvent n u) := by
  dsimp only [exec, execWideUpdate]
  rw [hw]
  simp only [hbusy, Bool.false_eq_true, if_false]
  split <;> rfl

/-- A trap posted to a context stands behind those that it had, and no tile changes but in its contexts. -/
theorem postTrap_effect (i : CtxId) (p : Pending) :
    ((s.postTrap i p).ctx i).pend = (s.ctx i).pend ++ [p] ∧ ((s.postTrap i p).tile n).wide = (s.tile n).wide
      ∧ ((s.postTrap i p).tile n).spad = (s.tile n).spad := by
  refine ⟨?_, tile_setCtx Tile.wide (fun _ _ => rfl) s i _ n, tile_setCtx Tile.spad (fun _ _ => rfl) s i _ n⟩
  rw [State.postTrap, State.ctx_setCtx_same]

end Event

/-! Additions in any order (R152). -/

theorem ofNat_mod_two_pow (w n : Nat) : BitVec.ofNat w (n % 2 ^ w) = BitVec.ofNat w n :=
  BitVec.eq_of_toNat_eq (by rw [BitVec.toNat_ofNat, BitVec.toNat_ofNat, Nat.mod_mod])

/-- The pattern of a number after an addition is the sum of the patterns. -/
theorem ofNat_wideAfter_some (n : Nat) (v : Int) :
    BitVec.ofNat 640 (wideAfter n (some v)) = BitVec.ofNat 640 n + BitVec.ofInt 640 v := by
  rw [wideAfter, ofNat_toNat_emod, BitVec.ofInt_add, BitVec.ofInt_natCast]

theorem toNat_emod_add_emod {m : Nat} (hm : 0 < m) (x a b : Int) :
    ((((x + a) % m).toNat : Int) + b) % m = (x + (a + b)) % m := by
  rw [Int.toNat_of_nonneg (Int.emod_nonneg _ (Int.natCast_ne_zero.mpr hm.ne')), Int.emod_add_emod, Int.add_assoc]

/-- An addition is one modulo a fixed number. -/
theorem wideAfter_some : ∃ m : Nat, 0 < m ∧ ∀ (n : Nat) (v : Int), wideAfter n (some v) = (((n : Int) + v) % m).toNat :=
  ⟨2 ^ 640, Nat.two_pow_pos 640, fun _ _ => by rw [wideAfter]⟩

theorem wideAfter_wideAfter (n : Nat) (a b : Int) :
    wideAfter (wideAfter n (some a)) (some b) = wideAfter n (some (a + b)) := by
  obtain ⟨m, hm, hsome⟩ := wideAfter_some
  rw [hsome, hsome, hsome, toNat_emod_add_emod hm]

theorem foldl_wideAfter_perm (n : Nat) {l1 l2 : List Int} (h : l1.Perm l2) :
    l1.foldl (fun x v => wideAfter x (some v)) n = l2.foldl (fun x v => wideAfter x (some v)) n :=
  h.foldl_eq' (fun a _ b _ x => by rw [wideAfter_wideAfter, wideAfter_wideAfter, Int.add_comm]) n

end Sys2Proof.Machine

namespace Sys2Proof.Cube

open Sys2Proof.Machine

/-- Settles O13: the forms send one event or read one number once their object is free, and the atomic unit performs the
oldest event byte by byte. -/
theorem wideObjectsTakeTheirUpdatesInAnyOrder : Obligations.WideObjectsTakeTheirUpdatesInAnyOrder := by
  unfold Obligations.WideObjectsTakeTheirUpdatesInAnyOrder
  refine ⟨fun g ty rm p q m d s s1 u1 u2 ea x locs hg hin hp hm hq hwindow halign htile hloc1 hloc2 hfree1 hfree2 => ?issue,
    fun n s u rest hw hbusy => ?perform, fun w l1 l2 h => foldl_wideAfter_perm w h⟩
  case issue =>
    intro ofs sent r
    have hobject1 : s1.wideObject ea = .ok ofs := wideObject_of_own hwindow halign (readS_jtile hp ▸ htile) hloc1
    have hobject2 : u2.wideObject ea = .ok ofs :=
      wideObject_of_own hwindow halign (((readS_jtile hq).trans (memEa_jtile hm)).symm ▸ htile) hloc2
    dsimp only [Completes, DeliversFp, Delivers, exec]
    refine ⟨runInstr_flow hg ?clear, fun hquiet => runInstr_flow hg ?add, fun hwide => ?read⟩
    case clear =>
      simp only [hp, hobject1, bind, Except.bind]
      exact sendWide_of_free hfree1 ofs none
    case add =>
      have hfree (fl : Flags) : (u2.orFlags fl).widePending ea = false := (widePending_orFlags fl).trans hfree2
      simp only [hm, hq, hobject2, bind, Except.bind]
      refine (fpDone_of_quiet _ hquiet).trans ?_
      have hr : wideAddend (fpVal ty x) = r := rfl
      rw [hr]
      cases r.1 with
      | none => rfl
      | some v => exact sendWide_of_free (hfree r.2) ofs (some v)
    case read =>
      rw [← wideValue_eq]
      intro hquiet t ht
      have hd : s.dstReady d = .ok () := dstReady_of_readS hp (dstReady_orFlags.symm.trans (dstReady_of_writeS ht))
      have hkeep : s1.record.keep = false := (congrArg Record.keep (readS_record hp)).trans hin.1
      have hends : (s1.ownWide ofs || s1.ownWide (ofs + 79)) = false := ownWide_ends (by rwa [readS_cur hp])
      obtain ⟨hold, hafter⟩ : _ = memNat s1.myTile.spad ofs 80 ∧ _ :=
        rmwAs_wideLocs hkeep s1.cur.tile (s1.attr .plain 1) s1.me.view.own s1.passing
      have hlearn (a : Attr) (accs : List (List Loc)) (got : Seen) : s1.learnRead a accs got = s1 := by
        simp [State.learnRead, hkeep]
      refine runInstr_flow hg ?_
      simp only [hd, hp, hobject1, hfree1, hends, ready, hold, hafter, hlearn, rmOf_readS hp, bind, Except.bind,
        Bool.not_false, Bool.and_self, if_true]
      generalize wideValue ty (s.rmOf rm) (memNat s1.myTile.spad ofs 80) = v at hquiet ht ⊢
      exact (fpDone_of_quiet _ hquiet).trans ht
  case perform =>
    intro old
    refine ⟨fun hbad => ?_, fun hin hgood => ?_⟩
    · obtain ⟨hpend, hwide, hspad⟩ := postTrap_effect (s := s.wideLeft n rest) (n := n) u.owner (wideLost u.ofs)
      rw [wideLeft_tile] at hwide hspad
      rw [wideLeft_ctx] at hpend
      exact ⟨_, (exec_wideUpdate_of_oldest hw hbusy).trans (congrArg _ (if_pos hbad)), hwide, hspad, _, hpend, rfl, rfl⟩
    · obtain ⟨hwide, hnum, hbytes⟩ := wideEvent_effect (s := s.wideLeft n rest) (n := n) (u := u) hin.1
      rw [wideLeft_tile] at hwide hnum hbytes
      refine ⟨_, (exec_wideUpdate_of_oldest hw hbusy).trans (congrArg _ (if_neg (ne_true_of_eq_false hgood))), hwide, ?_,
        hbytes⟩
      rw [hnum, ofNat_mod_two_pow]
      cases u.add with
      | none => rfl
      | some v => exact ofNat_wideAfter_some _ v

end Sys2Proof.Cube

/-! Views of a plate and of a sector (O23; R156, R166). -/

namespace Sys2Proof.Machine

/-- A byte of a view has a column `c`, a row `r` and a place `k` in its element. -/
theorem exists_column_row_byte {e : Nat} (he : 0 < e) (a : Nat) :
    ∃ c r k, r < 32 ∧ k < e ∧ a = e * (32 * c + r) + k :=
  ⟨a / e / 32, a / e % 32, a % e, Nat.mod_lt _ (by decide), Nat.mod_lt _ he, by
    rw [Nat.div_add_mod, Nat.div_add_mod]⟩

section

variable {e c r k : Nat} (hr : r < 32) (hk : k < e)

include hr hk

/-- The element of a byte, its row and its column. -/
theorem element_row_column :
    (e * (32 * c + r) + k) / e = 32 * c + r ∧ (e * (32 * c + r) + k) / e % 32 = r
      ∧ (e * (32 * c + r) + k) / (32 * e) = c ∧ (e * (32 * c + r) + k) % e = k := by
  have hq : (e * (32 * c + r) + k) / e = 32 * c + r := by
    rw [Nat.mul_add_div (by omega), Nat.div_eq_of_lt hk, Nat.add_zero]
  refine ⟨hq, by omega, ?_, by rw [Nat.mul_add_mod, Nat.mod_eq_of_lt hk]⟩
  rw [Nat.mul_comm 32 e, ← Nat.div_div_eq_div_mul, hq]
  omega

/-- The column view lays rows of 128 bytes (R156). -/
theorem colPlate_column_row : colPlate (e * (32 * c + r) + k) e = 128 * r + e * c + k := by
  obtain ⟨-, hrow, hcol, hbyte⟩ := element_row_column (c := c) hr hk
  rw [colPlate, hrow, hcol, hbyte]

/-- The sector view lays rows of 32 bytes (R166). -/
theorem colSector_column_row : colSector (e * (32 * c + r) + k) e = 32 * r + e * c + k := by
  obtain ⟨-, hrow, hcol, hbyte⟩ := element_row_column (c := c) hr hk
  rw [colSector, hrow, hcol, hbyte]

end

/-- The column view stays within the plate. -/
theorem colPlate_lt {e a : Nat} (he : e ∈ [1, 2, 4]) (ha : a < 4096) : colPlate a e < 4096 := by
  simp only [List.mem_cons, List.not_mem_nil, or_false] at he
  obtain ⟨c, r, k, hr, hk, rfl⟩ := exists_column_row_byte (e := e) (by omega) a
  rw [colPlate_column_row hr hk]
  obtain rfl | rfl | rfl := he <;> omega

/-- The sector view stays within the sector. -/
theorem colSector_lt {e a : Nat} (he : e ∈ [1, 2, 4]) (ha : a < 1024) : colSector a e < 1024 := by
  simp only [List.mem_cons, List.not_mem_nil, or_false] at he
  obtain ⟨c, r, k, hr, hk, rfl⟩ := exists_column_row_byte (e := e) (by omega) a
  rw [colSector_column_row hr hk]
  obtain rfl | rfl | rfl := he <;> omega

end Sys2Proof.Machine

namespace Sys2Proof.Cube

open Sys2Proof.Machine

/-- Settles O23: with row, column and byte of an element as digits, each view is a change of the digits' order. -/
theorem columnViewsArePermutations : Obligations.ColumnViewsArePermutations := by
  unfold Obligations.ColumnViewsArePermutations
  intro e he
  refine ⟨fun a ha => colPlate_lt he ha, fun a ha b hb h => ?plate, fun a ha => colSector_lt he ha,
    fun a ha b hb h => ?sector, fun r c hr _ k hk => ?place⟩
  case place => rw [← colPlate_column_row hr hk]; congr 1; ring
  all_goals
    simp only [List.mem_cons, List.not_mem_nil, or_false] at he
    obtain ⟨c, r, k, hr, hk, rfl⟩ := exists_column_row_byte (e := e) (by omega) a
    obtain ⟨c', r', k', hr', hk', rfl⟩ := exists_column_row_byte (e := e) (by omega) b
  case plate =>
    rw [colPlate_column_row hr hk, colPlate_column_row hr' hk'] at h
    obtain rfl | rfl | rfl := he <;> omega
  case sector =>
    rw [colSector_column_row hr hk, colSector_column_row hr' hk'] at h
    obtain rfl | rfl | rfl := he <;> omega

end Sys2Proof.Cube

/-! A tensor identifier and a queue that may not be pushed (O25; R79, R188). -/

namespace Sys2Proof.Machine

section

variable {s : State} {code : TrapCode} {src : Nat} {resume val : Word}

/-- A trap of a context without a handler goes to its slot's trap log (R372). -/
theorem traps_takeTrap_of_no_handler (h : s.me.tvecOfs = 0) :
    ((s.takeTrap code src resume val).slot s.me.slot).traps.map TrapEntry.tval
      = s.mySlot.traps.map TrapEntry.tval ++ [val] := by
  have hend : s.takeTrap code src resume val = s.trapEnding code.num src resume val := by simp [State.takeTrap, h]
  rw [hend, State.trapEnding, State.slot_setMe, State.slot_setSlot_same]
  exact List.map_append

end

/-- The part after reset, where a register of the executing context, of a handler, holds a number past the tensor table. -/
def pastTable : State := State.reset.setMe { Ctx.reset with r := Regs.start.setG 1 256 }

theorem pastTable_me : pastTable.me = { Ctx.reset with r := Regs.start.setG 1 256 } := State.me_setMe _ _

/-- A push by a handler traps QUEUE before the identifier is looked at (R79). -/
theorem exec_tget_pastTable : exec (.tget ⟨0, false⟩ 0 (.q 0) (.g 1)) pastTable
    = .next (pastTable.takeTrap .queue 0 pastTable.me.r.pc 0x50) := by
  have hready : pastTable.dstReady (.q 0) = .error (.trap .queue 0x50) := by
    have hhandler : (!pastTable.inProg && pastTable.me.handler) = true := by rw [pastTable_me]; rfl
    simp [State.dstReady, hhandler]
  dsimp only [exec, execTget]
  rw [runInstr_error _ _ _ (.trap .queue 0x50) _ rfl (by rw [hready]; rfl)]
  rfl

end Sys2Proof.Machine

namespace Sys2Proof.Cube

open Sys2Proof.Machine

/-- Refutes O25: its last part lets `tget` with an identifier above 255 name any destination, and into a queue that its context
may not push it traps QUEUE with the queue's number before the identifier is looked at, not TENSOR with the identifier. -/
theorem not_tensorAccessesUseTheirEntries : ¬ Obligations.TensorAccessesUseTheirEntries := by
  unfold Obligations.TensorAccessesUseTheirEntries
  rintro ⟨-, -, -, htable⟩
  have hread : pastTable.readS (.g 1) = .ok (256, pastTable) := by
    simp [State.readS, pastTable_me]
  obtain ⟨-, htrap, -⟩ := htable ⟨0, false⟩ 0 0 (.q 0) (.g 1) (.g 1) pastTable pastTable pastTable 256 256 rfl hread hread
  have hsame := (htrap (by decide) rfl rfl).symm.trans exec_tget_pastTable
  have hval := congrArg (fun u : State => (u.slot pastTable.me.slot).traps.map TrapEntry.tval) (Host.Outcome.next.inj hsame)
  have hno : pastTable.me.tvecOfs = 0 := by rw [pastTable_me]; rfl
  simp only [traps_takeTrap_of_no_handler hno, List.append_cancel_left_eq] at hval
  exact absurd hval (by decide)

end Sys2Proof.Cube

/-! Stage governors (O42; R175, R282, R283). -/

namespace Sys2Proof.Machine

/-- What a governor check learns of a stage: its ring's entry and occupancy, where the stage is valid and both are read. -/
def State.stageOccupancy (s : State) (ag : Agent) (v : Governor) (n : Nat) : Option (Tensor × Nat) :=
  if govV (v.stage n) then s.occupancy ag (govRid (v.stage n)) else none

/-- Whether a stage stands at HIGH or above. -/
def State.stageHigh (s : State) (ag : Agent) (v : Governor) (n : Nat) : Bool :=
  match s.stageOccupancy ag v n with
  | some (t, o) => decide (ringHigh t ≤ o)
  | none => false

/-- Whether a stage stands at LOW or below and has two groups. -/
def State.stageLow (s : State) (ag : Agent) (v : Governor) (n : Nat) : Bool :=
  match s.stageOccupancy ag v n with
  | some (t, o) => decide (o ≤ ringLow t) && decide (2 ≤ (grpBits (govGrp (v.stage n))).length)
  | none => false

/-- A word of a ring read through its claim point. -/
def State.ringWord (s : State) (ag : Agent) (va : Word) (x : Nat) : Prop :=
  ∃ l, s.locate ag false false 1 (span va 8) = .ok l ∧ s.loadNat l = x

section

variable {s : State} {ag : Agent} {v : Governor} {w : Word} {tile slot jt rid n a b g : Nat} {t : Tensor} {o : Nat}

/-- A ring's occupancy is the distance of its tail from its head (R175). -/
theorem occupancy_eq_some_iff : s.occupancy ag rid = some (t, o) ↔
    (s.slot ag.slot).tensor rid = t ∧ tValid t = true ∧ tKind t = some .ring
      ∧ ∃ head tail, s.ringWord ag t[4] head ∧ s.ringWord ag t[5] tail ∧ o = (tail + 2 ^ 64 - head) % 2 ^ 64 := by
  unfold State.occupancy State.ringWord
  generalize (s.slot ag.slot).tensor rid = r
  by_cases hr : tValid r = true ∧ tKind r = some .ring
  · obtain ⟨hvalid, hkind⟩ := hr
    cases hhead : s.locate ag false false 1 (span r[4] 8) <;> cases htail : s.locate ag false false 1 (span r[5] 8) <;>
      simp only [hvalid, hkind, hhead, htail, beq_self_eq_true, Bool.and_self, Bool.not_true, Bool.false_eq_true, if_false]
    case ok.ok lh lt =>
      constructor
      · rintro ⟨⟩
        exact ⟨rfl, hvalid, hkind, _, _, ⟨lh, hhead, rfl⟩, ⟨lt, htail, rfl⟩, rfl⟩
      · rintro ⟨rfl, -, -, _, _, ⟨l, hl, rfl⟩, ⟨l', hl', rfl⟩, rfl⟩
        rw [hhead] at hl
        rw [htail] at hl'
        cases hl
        cases hl'
        rfl
    all_goals
      refine ⟨nofun, ?_⟩
      rintro ⟨rfl, -, -, _, _, ⟨l, hl, -⟩, ⟨l', hl', -⟩, -⟩
      simp_all
  · have hno : (tValid r && tKind r == some .ring) = false := by
      rwa [← Bool.not_eq_true, Bool.and_eq_true, beq_iff_eq]
    simp only [hno, Bool.not_false, if_true]
    exact ⟨nofun, fun ⟨ht, hvalid, hkind, _⟩ => absurd ⟨ht ▸ hvalid, ht ▸ hkind⟩ hr⟩

/-! Groups. -/

/-- A group of a stage is a bit of its register. -/
theorem testBit_govGrp (w : Word) {i : Nat} (hi : i < 4) : (govGrp w).testBit i = w.getLsbD (52 + i) := by
  rw [govGrp, hf, bits, Nat.testBit_mod_two_pow, Nat.testBit_div_two_pow, decide_eq_true hi, Bool.true_and, Nat.add_comm]
  rfl

theorem govGrp_lt (w : Word) : govGrp w < 16 := bits_lt _ _ _

/-- A stage has two groups where two bits of its register are set. -/
theorem two_le_length_grpBits_iff (w : Word) : 2 ≤ (grpBits (govGrp w)).length ↔
    ∃ i < 4, ∃ j < 4, i ≠ j ∧ w.getLsbD (52 + i) = true ∧ w.getLsbD (52 + j) = true := by
  have small : ∀ n < 16, 2 ≤ (grpBits n).length ↔
      ∃ i < 4, ∃ j < 4, i ≠ j ∧ n.testBit i = true ∧ n.testBit j = true := by decide
  rw [small _ (govGrp_lt w)]
  constructor
  · rintro ⟨i, hi, j, hj, h⟩
    exact ⟨i, hi, j, hj, by rwa [← testBit_govGrp w hi, ← testBit_govGrp w hj]⟩
  · rintro ⟨i, hi, j, hj, h⟩
    exact ⟨i, hi, j, hj, by rwa [testBit_govGrp w hi, testBit_govGrp w hj]⟩

/-- The group that a move takes is the highest. -/
theorem getLast?_grpBits (w : Word) (hg : g < 4) (h : w.getLsbD (52 + g) = true)
    (hhigh : ∀ i < 4, g < i → w.getLsbD (52 + i) = false) : (grpBits (govGrp w)).getLast? = some g := by
  rw [grpBits, List.getLast?_filter]
  change [3, 2, 1, 0].find? _ = _
  have hbits (i : Nat) (hi : i < 4) := testBit_govGrp w hi
  have hclear (i : Nat) (hi : i < 4) (hlt : g < i) : (govGrp w).testBit i = false := (hbits i hi).trans (hhigh i hi hlt)
  have hset : (govGrp w).testBit g = true := (hbits g hg).trans h
  interval_cases g <;> simp [List.find?, hclear, hset]

/-- A group given to a stage, or taken from it, is the only one that changes. -/
theorem testBit_govGrp_govPut (w : Word) (on : Bool) {i : Nat} (hi : i < 4) :
    (govGrp (govPut w g on)).testBit i = if i = g then on else (govGrp w).testBit i := by
  have hbit : (govPut w g on).getLsbD (52 + i) = (bitPut (BitVec.ofNat 4 (govGrp w)) g on).getLsbD i := by
    have hmask : (BitVec.ofNat 64 ((2 ^ 4 - 1) * 2 ^ 52)).getLsbD (52 + i) = true := by
      interval_cases i <;> rfl
    simp only [govPut, putBits, BitVec.getLsbD_or, BitVec.getLsbD_and, BitVec.getLsbD_not, hmask, Bool.not_true,
      Bool.and_false, Bool.false_or, BitVec.getLsbD_ofNat, Nat.testBit_mul_two_pow, Nat.testBit_mod_two_pow]
    simp [BitVec.getLsbD, show 52 + i < 64 by omega, hi]
  rw [testBit_govGrp _ hi, hbit, getLsbD_bitPut _ _ _ _ hi, BitVec.getLsbD_ofNat]
  simp [hi, eq_comm]

/-! The choice of a check. -/

theorem stageOccupancy_eq_some_iff : s.stageOccupancy ag v n = some (t, o) ↔
    (v.stage n).getLsbD 63 = true ∧ s.occupancy ag (govRid (v.stage n)) = some (t, o) := by
  have hvalid : govV (v.stage n) = (v.stage n).getLsbD 63 := by
    rw [govV, hf, bits, BitVec.getLsbD, Nat.testBit_eq_decide_div_mod_eq]
    rfl
  rw [State.stageOccupancy, hvalid]
  split <;> simp_all

theorem govChoice_eq : s.govChoice ag v = ((List.range 4).find? (s.stageHigh ag v)).bind fun b =>
    ((List.range 4).find? fun n => n != b && s.stageLow ag v n).bind fun a =>
      (grpBits (govGrp (v.stage a))).getLast?.map fun g => (g, a, b) := by
  change (match (List.range 4).find? (s.stageHigh ag v) with
    | none => none
    | some b => match (List.range 4).find? (fun n => n != b && s.stageLow ag v n) with
      | none => none
      | some a => (grpBits (govGrp (v.stage a))).getLast?.map fun g => (g, a, b)) = _
  cases (List.range 4).find? (s.stageHigh ag v) with
  | none => rfl
  | some b =>
    simp only [Option.bind_some]
    cases (List.range 4).find? (fun n => n != b && s.stageLow ag v n) <;> rfl

/-- Without a stage at HIGH no move becomes pending. -/
theorem govChoice_of_no_high (h : ∀ n < 4, s.stageHigh ag v n = false) : s.govChoice ag v = none := by
  have hnone : (List.range 4).find? (s.stageHigh ag v) = none := by simpa [List.find?_range_eq_none] using h
  rw [govChoice_eq, hnone, Option.bind_none]

section

variable (hb : b < 4) (hhigh : s.stageHigh ag v b = true) (hlowest : ∀ n < b, s.stageHigh ag v n = false)

include hb hhigh hlowest

theorem govChoice_of_high : s.govChoice ag v = ((List.range 4).find? fun n => n != b && s.stageLow ag v n).bind fun a =>
    (grpBits (govGrp (v.stage a))).getLast?.map fun g => (g, a, b) := by
  have hfound : (List.range 4).find? (s.stageHigh ag v) = some b := by
    rw [List.find?_range_eq_some]
    exact ⟨hhigh, List.mem_range.mpr hb, fun n hn => by simp [hlowest n hn]⟩
  rw [govChoice_eq, hfound, Option.bind_some]

/-- Without another stage at LOW with two groups no move becomes pending. -/
theorem govChoice_of_no_low (h : ∀ n < 4, n ≠ b → s.stageLow ag v n = false) : s.govChoice ag v = none := by
  have hnone : (List.range 4).find? (fun n => n != b && s.stageLow ag v n) = none := by
    rw [List.find?_range_eq_none]
    intro n hn
    by_cases hne : n = b <;> simp [hne, h n hn]
  rw [govChoice_of_high hb hhigh hlowest, hnone, Option.bind_none]

/-- The highest group of the lowest stage at LOW becomes pending for the lowest stage at HIGH. -/
theorem govChoice_of_pair (ha : a < 4) (hne : a ≠ b) (hlow : s.stageLow ag v a = true)
    (hfirst : ∀ n < a, n ≠ b → s.stageLow ag v n = false) (hg : (grpBits (govGrp (v.stage a))).getLast? = some g) :
    s.govChoice ag v = some (g, a, b) := by
  have hfound : (List.range 4).find? (fun n => n != b && s.stageLow ag v n) = some a := by
    rw [List.find?_range_eq_some]
    refine ⟨by simp [hne, hlow], List.mem_range.mpr ha, fun n hn => ?_⟩
    by_cases hnb : n = b <;> simp [hnb, hfirst n hn]
  rw [govChoice_of_high hb hhigh hlowest, hfound, Option.bind_some, hg, Option.map_some]

end

/-- A choice names two stages and a group of the one that gives. -/
theorem govChoice_valid (h : s.govChoice ag v = some (g, a, b)) :
    a ≠ b ∧ a < 4 ∧ b < 4 ∧ (govGrp (v.stage a)).testBit g = true := by
  rw [govChoice_eq] at h
  simp only [Option.bind_eq_some_iff, Option.map_eq_some_iff, List.find?_range_eq_some, List.mem_range] at h
  obtain ⟨_, ⟨-, hb, -⟩, _, ⟨hlow, ha, -⟩, _, hlast, hsame⟩ := h
  cases hsame
  refine ⟨?_, ha, hb, (List.mem_filter.mp (List.mem_of_getLast? hlast)).2⟩
  rintro rfl
  simp at hlow

/-! A stage's ring. -/

/-- The occupancy that the claim point of a valid stage's ring holds. -/
def State.StageOccupied (s : State) (ag : Agent) (v : Governor) (n o : Nat) : Prop :=
  let ring := (s.slot ag.slot).tensor (govRid (v.stage n))
  (v.stage n).getLsbD 63 = true ∧ tValid ring = true ∧ tKind ring = some .ring
    ∧ ∃ head tail, s.ringWord ag ring[4] head ∧ s.ringWord ag ring[5] tail ∧ o = (tail + 2 ^ 64 - head) % 2 ^ 64

theorem stageOccupancy_eq_some_iff_occupied : s.stageOccupancy ag v n = some (t, o) ↔
    (s.slot ag.slot).tensor (govRid (v.stage n)) = t ∧ s.StageOccupied ag v n o := by
  rw [stageOccupancy_eq_some_iff, occupancy_eq_some_iff, State.StageOccupied]
  constructor
  · rintro ⟨hvalid, rfl, hring⟩
    exact ⟨rfl, hvalid, hring⟩
  · rintro ⟨rfl, hvalid, hring⟩
    exact ⟨hvalid, rfl, hring⟩

theorem stageHigh_iff : s.stageHigh ag v n = true ↔ ∃ o, s.StageOccupied ag v n o
    ∧ ringHigh ((s.slot ag.slot).tensor (govRid (v.stage n))) ≤ o := by
  unfold State.stageHigh
  constructor
  · intro h
    split at h
    next t o ho =>
      obtain ⟨rfl, hocc⟩ := stageOccupancy_eq_some_iff_occupied.mp ho
      exact ⟨o, hocc, of_decide_eq_true h⟩
    next => cases h
  · rintro ⟨o, hocc, hle⟩
    rw [stageOccupancy_eq_some_iff_occupied.mpr ⟨rfl, hocc⟩]
    exact decide_eq_true hle

theorem stageLow_iff : s.stageLow ag v n = true ↔ (∃ o, s.StageOccupied ag v n o
    ∧ o ≤ ringLow ((s.slot ag.slot).tensor (govRid (v.stage n)))) ∧ 2 ≤ (grpBits (govGrp (v.stage n))).length := by
  unfold State.stageLow
  constructor
  · intro h
    split at h
    next t o ho =>
      obtain ⟨rfl, hocc⟩ := stageOccupancy_eq_some_iff_occupied.mp ho
      obtain ⟨hle, htwo⟩ : _ ∧ _ := by simpa only [Bool.and_eq_true, decide_eq_true_eq] using h
      exact ⟨⟨o, hocc, hle⟩, htwo⟩
    next => cases h
  · rintro ⟨⟨o, hocc, hle⟩, htwo⟩
    rw [stageOccupancy_eq_some_iff_occupied.mpr ⟨rfl, hocc⟩]
    simp [hle, htwo]

/-! The two events. -/

theorem forRunning_of_one {f : Nat → Nat → Option State} (h : (s.tile tile).running = [(slot, jt)]) :
    s.forRunning tile f = f slot jt := by
  rw [State.forRunning, h]
  cases hf : f slot jt <;> simp [firstSome, hf]

theorem exec_governorCheck_of_due (h : (s.tile tile).running = [(slot, jt)]) (hv : s.govOf tile slot jt = v)
    (henabled : v.c.getLsbD 5 = true) (hmove : v.move = none) (hdue : v.nextCheck ≤ s.time) :
    exec (.governorCheck tile) s = .next (s.setGov tile slot jt
      { v with move := s.govChoice ⟨slot, jt, tile, 0, []⟩ v, nextCheck := s.time + 2 ^ (v.c.toNat % 2 ^ 5) }) := by
  have hen : v.enabled = true := by
    rw [Governor.enabled, hf, bits, ← henabled, BitVec.getLsbD, Nat.testBit_eq_decide_div_mod_eq]
    rfl
  have hperiod : v.period = 2 ^ (v.c.toNat % 2 ^ 5) := by simp [Governor.period, hf, bits]
  change execGovernorCheck tile s = _
  simp only [execGovernorCheck, forRunning_of_one h, hv, hen, hmove, hperiod, Nat.not_lt.mpr hdue, Bool.not_true,
    Option.isSome_none, decide_false, Bool.or_self, Bool.false_eq_true, if_false]
  rfl

/-- A stage register below 4 is the entry of its vector. -/
theorem stage_of_lt (v : Governor) (hn : n < 4) : v.stage n = v.st[n] := by simp [Governor.stage, Vector.getD, hn]

/-- A stage register once a move is carried out. -/
def Governor.movedStage (v : Governor) (g a b : Nat) (n : Nat) : Word :=
  if n = a then govPut (v.stage n) g false else if n = b then govPut (v.stage n) g true else v.stage n

/-- The governor once a move is carried out. -/
def Governor.moved (v : Governor) (g a b time : Nat) : Governor :=
  { v with st := Vector.ofFn (fun n : Fin 4 => v.movedStage g a b n.val), move := none,
           nextCheck := time + 2 ^ (v.c.toNat % 2 ^ 5) }

theorem stage_moved (v : Governor) (time : Nat) (hn : n < 4) : (v.moved g a b time).stage n = v.movedStage g a b n := by
  rw [stage_of_lt _ hn]
  simp [Governor.moved]

theorem exec_governorMove_of_drained (h : (s.tile tile).running = [(slot, jt)]) (hv : s.govOf tile slot jt = v)
    (hmove : v.move = some (g, a, b)) (hdrained : s.stageBusy tile slot g a = false) :
    exec (.governorMove tile) s = .next (s.setGov tile slot jt (v.moved g a b s.time)) := by
  have hperiod : v.period = 2 ^ (v.c.toNat % 2 ^ 5) := by simp [Governor.period, hf, bits]
  change execGovernorMove tile s = _
  simp only [execGovernorMove, forRunning_of_one h, hv, hmove, hdrained, hperiod, Bool.false_eq_true, if_false]
  refine congrArg (fun st : Vector Word 4 => Host.Outcome.next (s.setGov tile slot jt
    { v with st := st, move := none, nextCheck := s.time + 2 ^ (v.c.toNat % 2 ^ 5) })) (Vector.ext fun n hn => ?_)
  simp [Governor.movedStage, stage_of_lt v hn]

end

end Sys2Proof.Machine

namespace Sys2Proof.Cube

open Sys2Proof.Machine

/-- Settles O42: a check reads each stage's ring and takes the pair that R283 names, and a move changes one group's bit in
two registers. -/
theorem governorsMoveGroups : Obligations.GovernorsMoveGroups := by
  unfold Obligations.GovernorsMoveGroups
  intro tile slot jt s hrun v period grp ring reads occ high low checked
  have hhigh (n : Nat) : high n ↔ s.stageHigh ⟨slot, jt, tile, 0, []⟩ v n = true := by
    simp only [stageHigh_iff, State.StageOccupied, State.ringWord, ringHigh, govRid, hf, bits, high, occ, ring, reads]
  have hlow (n : Nat) : low n ↔ s.stageLow ⟨slot, jt, tile, 0, []⟩ v n = true := by
    simp only [stageLow_iff, two_le_length_grpBits_iff, State.StageOccupied, State.ringWord, ringLow, govRid, hf, bits,
      Nat.pow_zero, Nat.div_one, low, occ, ring, reads, grp]
  simp only [hhigh, hlow, Bool.not_eq_true]
  refine ⟨fun hen hmove hdue => ?check, fun g a b hmove hdrained ha hb hne => ?move, fun g a b => govChoice_valid⟩
  case check =>
    have hcheck := exec_governorCheck_of_due hrun rfl hen hmove hdue
    have hchecked (m : Option (Nat × Nat × Nat)) (h : s.govChoice ⟨slot, jt, tile, 0, []⟩ v = m) : checked m := by
      rw [← h]
      exact hcheck
    refine ⟨⟨_, hcheck⟩, fun b hb hbhigh hlowest => ⟨fun a ha hne halow hfirst g hg hgrp hlast => hchecked _ ?_,
      fun hno => hchecked _ (govChoice_of_no_low hb hbhigh hlowest hno)⟩, fun hno => hchecked _ (govChoice_of_no_high hno)⟩
    exact govChoice_of_pair hb hbhigh hlowest ha hne halow hfirst (getLast?_grpBits _ hg hgrp hlast)
  case move =>
    refine ⟨_, exec_governorMove_of_drained hrun rfl hmove hdrained, rfl, rfl, rfl, rfl, fun n hn hna hnb => ?other,
      fun _ i hi => ⟨?taken, ?given⟩⟩
    case other =>
      rw [stage_moved _ _ hn, Governor.movedStage, if_neg hna, if_neg hnb]
    case taken =>
      rw [stage_moved _ _ ha, Governor.movedStage, if_pos rfl, testBit_govGrp_govPut _ _ hi]
    case given =>
      rw [stage_moved _ _ hb, Governor.movedStage, if_neg hne.symm, if_pos rfl, testBit_govGrp_govPut _ _ hi]

end Sys2Proof.Cube

/-! The checks of an access (O22; R180, R193, R311). -/

namespace Sys2Proof.Machine

/-! What a source that is read leaves of the slots and of the executing agent. -/

section Source

variable {s s1 : State} {q : SSrc} {m : MemOp} {x : Word}

theorem readS_slot (h : s.readS q = .ok (x, s1)) (n : Nat) : s1.slot n = s.slot n := by
  by_cases hq : ∃ n, q = .q n
  · obtain ⟨k, rfl⟩ := hq
    obtain ⟨rest, -, rfl⟩ := popQ_ok s s1 k x h
    simp only [State.popItem]
    split <;> rfl
  · rw [readS_keeps_state s s1 q x (not_exists.mp hq) h]

theorem readS_agent (h : s.readS q = .ok (x, s1)) : s1.agent = s.agent := by
  have hslot : s1.me.slot = s.me.slot := readS_keeps Ctx.slot (fun _ _ _ _ _ => rfl) h
  have hwaited : s1.me.waited = s.me.waited := readS_keeps Ctx.waited (fun _ _ _ _ _ => rfl) h
  rw [State.agent, State.agent, hslot, hwaited, readS_jtile h, readS_cur h]

theorem scopeHas_readS (h : s.readS q = .ok (x, s1)) (n : Nat) : s1.scopeHas s1.agent n = s.scopeHas s.agent n := by
  rw [readS_agent h]
  simp only [State.scopeHas, readS_slot h]

end Source

/-! Traps of an instruction. -/

/-- A trap of an instruction of a context, once no wide update of the context waits (R131). -/
theorem stopped_trap {s : State} (hwide : s.wideBusy = false) (hprog : s.inProg = false) (len : Nat) (code : TrapCode)
    (hcode : code.resumesNext = false) (v : Word) : s.stopped len (.trap code v) = s.takeTrap code 0 s.me.r.pc v := by
  simp [State.stopped, State.raise, hwide, hprog, hcode]

/-! Checks over a list of addresses. -/

section Checks

variable {p : Nat → Bool} {code : TrapCode} {l : List Nat} {a : Nat} {ea : Word} {o : Bool} {al : Except Stop Unit}

theorem checkAll_of_forall (h : ∀ a ∈ l, p a = true) : checkAll l p code = .ok () := by
  have hnone : l.find? (fun a => !p a) = none := List.find?_eq_none.mpr fun a ha => by simp [h a ha]
  rw [checkAll, hnone]

theorem checkAll_of_head (h : p ea.toNat = false) : checkAll (ea.toNat :: l) p code = .error (.trap code ea) := by
  simp [checkAll, h]

/-- The bytes of an access begin at its address. -/
theorem span_eq_cons {n : Nat} (hn : 0 < n) (ea : Word) : ∃ l, span ea n = ea.toNat :: l := by
  obtain ⟨k, rfl⟩ : ∃ k, n = k + 1 := ⟨n - 1, by omega⟩
  exact ⟨_, by rw [span, List.range_succ_eq_map, List.map_cons, BitVec.add_zero]⟩

theorem preCheck_of_bad_head (h : step1 ea.toNat = false) : preCheck o (ea.toNat :: l) al = .error (.trap .addr ea) := by
  rw [preCheck, checkAll_of_head h]
  rfl

/-- Addresses that steps 1 and 2 of R180 let pass leave the alignment check. -/
theorem preCheck_of_good (h : ∀ a ∈ l, step1 a = true ∧ step2 o a = true) : preCheck o l al = al := by
  rw [preCheck, checkAll_of_forall fun a ha => (h a ha).1, checkAll_of_forall fun a ha => (h a ha).2]
  rfl

theorem step1_eq_true_iff : step1 a = true ↔ a / 2 ^ 55 = 0 ∧ regionOf a ≠ 4 := by
  simp [step1]

theorem step1_eq_false_iff : step1 a = false ↔ a / 2 ^ 55 ≠ 0 ∨ regionOf a = 4 := by
  rw [← Bool.not_eq_true, step1_eq_true_iff, not_and_or, not_not]

theorem step2_false (a : Nat) : step2 false a = true := rfl

theorem step2_eq_true (h : o = true → regionOf a ≠ 5 ∧ regionOf a ≠ 6) : step2 o a = true := by
  cases o with
  | false => rfl
  | true => simp [step2, h rfl]

end Checks

theorem aligned_of_mod {ea : Word} {n : Nat} (h : ea.toNat % n = 0) : aligned ea n = .ok () := by simp [aligned, need, h]

theorem aligned_of_mod_ne {ea : Word} {n : Nat} (h : ea.toNat % n ≠ 0) : aligned ea n = .error (.trap .align ea) := by
  simp [aligned, need, h]

theorem alignOrd_of_imp {b : Bool} {ea : Word} {n : Nat} (h : b = true → ea.toNat % n = 0) : alignOrd b ea n = .ok () := by
  cases b with
  | false => rfl
  | true => exact aligned_of_mod (h rfl)

/-- The scope check passes where the entry holds the core and host memory is accessed at scope 3 alone (R207). -/
theorem scopeCheck_of_holds {s : State} {sync host : Bool} {n : Nat} (hhas : s.scopeHas s.agent n = true)
    (hhost : sync = true → host = true → n = 3) : s.scopeCheck sync n host = .ok () := by
  have hthree : (!(sync && host && n != 3)) = true := by
    cases sync <;> cases host <;> simp
    exact hhost rfl rfl
  rw [State.scopeCheck, hhas, hthree]
  rfl

theorem ordered_eq_decide (ord : MemOrd) : ordered ord = decide (ord ≠ .plain) := by cases ord <;> rfl

@[simp] theorem cellsOf_map_fst (l : List Nat) (v : Nat) : (cellsOf l v).map Prod.fst = l :=
  List.map_fst_zip (by rw [length_bytesOf])

/-! The instructions, as far as their checks. -/

section Forms

variable {g : Guard} {sz : Size} {ord : MemOrd} {rep sx o acq : Bool} {scope : BitVec 5} {d : SDst} {m : MemOp} {c : SSrc}
  {mk : VCtl} {vm : BitVec 3} {vd : VDst} {va : VSrc} {s s1 s2 : State} {ea x v : Word} {e : Stop}

theorem access_of_preCheck {ag : Agent} {w : Bool} {n : Nat} {pre l : List Nat} {al : Except Stop Unit}
    (h : preCheck o pre al = .error e) : s.access ag w o n pre l al = .error e := by
  rw [State.access, h]
  rfl

theorem storeChecked_of_preCheck {n unit acc : Nat} {strong : Bool} {pre : List Nat} {al : Except Stop Unit}
    {cells : List Host.Cell} (h : preCheck o pre al = .error e) :
    s.storeChecked o n unit acc ord strong scope ea pre al cells = .error e := by
  rw [State.storeChecked, h]
  rfl

variable (hg : s.guard g = true) (hm : s.memEa m = .ok (ea, s1))

include hg hm

theorem exec_ld_of_preCheck (hd : s.dstReady d = .ok ())
    (hscope : s1.scopeCheck (ordered ord) scope.toNat (atHost ea) = .ok ())
    (h : preCheck o (span ea sz.bytes) (alignOrd (ordered ord) ea sz.bytes) = .error e) :
    exec (.ld g sz o ord rep scope sx d m) s = .next (s.stopped 12 e) := by
  dsimp only [exec, execLd]
  refine runInstr_error _ _ _ _ _ hg ?_
  simp only [hd, hm, hscope, access_of_preCheck h, bind, Except.bind]

theorem exec_vld_of_preCheck (hscope : s1.scopeCheck acq scope.toNat (atHost ea) = .ok ())
    (h : preCheck o (ea.toNat :: byteAddrs ea (activeBytes (s1.readM mk.mask) (8 * sz.bytes))) (aligned ea 128) = .error e) :
    exec (.vld g sz o acq rep scope mk vd m) s = .next (s.stopped 12 e) := by
  dsimp only [exec, execVld]
  refine runInstr_error _ _ _ _ _ hg ?_
  simp only [hm, hscope, access_of_preCheck h, bind, Except.bind]

theorem exec_vst_of_preCheck (hscope : s1.scopeCheck acq scope.toNat (atHost ea) = .ok ())
    (h : preCheck o (ea.toNat :: byteAddrs ea (activeBytes (s1.readM vm) (8 * sz.bytes))) (aligned ea 128) = .error e) :
    exec (.vst g sz o acq scope vm m va) s = .next (s.stopped 12 e) := by
  dsimp only [exec, execVst]
  refine runInstr_error _ _ _ _ _ hg ?_
  simp only [hm, hscope, storeChecked_of_preCheck h, bind, Except.bind]

variable (hc : s1.readS c = .ok (x, s2)) (hscope : s2.scopeCheck (ordered ord) scope.toNat (atHost ea) = .ok ())

include hc hscope

theorem exec_st_of_preCheck (h : preCheck o (span ea sz.bytes) (alignOrd (ordered ord) ea sz.bytes) = .error e) :
    exec (.st g sz o ord scope m c) s = .next (s.stopped 12 e) := by
  dsimp only [exec, execSt]
  refine runInstr_error _ _ _ _ _ hg ?_
  simp only [hm, hc, hscope, storeChecked_of_preCheck h, bind, Except.bind]

/-- A store to the weight store traps WS_WRITE once its alignment is checked (R311). -/
theorem exec_st_of_weights (h : preCheck o (span ea sz.bytes) (alignOrd (ordered ord) ea sz.bytes) = .ok ())
    (hregion : regionOf ea.toNat = 6) : exec (.st g sz o ord scope m c) s = .next (s.stopped 12 (.trap .wsWrite ea)) := by
  have hwrite : checkAll (span ea sz.bytes) (stepW true) .wsWrite = .error (.trap .wsWrite ea) := by
    obtain ⟨l, hl⟩ := span_eq_cons (n := sz.bytes) (by cases sz <;> decide) ea
    rw [hl]
    exact checkAll_of_head (by simp [stepW, hregion])
  dsimp only [exec, execSt]
  refine runInstr_error _ _ _ _ _ hg ?_
  simp only [hm, hc, hscope, State.storeChecked, h, cellsOf_map_fst, hwrite, bind, Except.bind]

end Forms

end Sys2Proof.Machine

namespace Sys2Proof.Cube

open Sys2Proof.Machine

/-- Settles O22: the checks come before every effect, on the lowest address first, and each names the access's address. -/
theorem accessChecksTrapInOrder : Obligations.AccessChecksTrapInOrder := by
  unfold Obligations.AccessChecksTrapInOrder
  intro g sz ord rep sx scope d m c mk o acq vm vd va s s1 s2 ea x hg hm hc hwide hprog hhas hd n pc bad fine sync hhost
  have htrap (code : TrapCode) (hcode : code.resumesNext = false) :
      s.stopped 12 (.trap code ea) = s.takeTrap code 0 pc ea := stopped_trap hwide hprog 12 code hcode ea
  have hhas2 : s2.scopeHas s2.agent scope.toNat = true := (scopeHas_readS hc _).trans hhas
  have hord : ordered ord = sync := ordered_eq_decide ord
  have hat (h : atHost ea = true) : regionOf ea.toNat = 5 := by simpa [atHost] using h
  have hthree (h : ordered ord = true) (hhere : atHost ea = true) : scope.toNat = 3 :=
    congrArg BitVec.toNat (hhost (hord ▸ h) (hat hhere))
  have hscope1 := scopeCheck_of_holds hhas hthree
  have hscope2 := scopeCheck_of_holds hhas2 hthree
  have hspanGood (h : fine) : ∀ a ∈ span ea n, step1 a = true ∧ step2 false a = true := fun a ha => by
    obtain ⟨i, hi, rfl⟩ := List.mem_map.mp ha
    exact ⟨step1_eq_true_iff.mpr (h i (List.mem_range.mp hi)), step2_false _⟩
  obtain ⟨l, hspan⟩ := span_eq_cons (n := n) (by cases sz <;> decide) ea
  refine ⟨fun hbad => ?bad, fun hfine hsync halign => ?align, fun hfine halign hregion => ?weights,
    fun hfine hacq halign => ?vector⟩
  case bad =>
    have hstep : step1 ea.toNat = false := step1_eq_false_iff.mpr hbad
    rw [← htrap .addr rfl]
    refine ⟨exec_ld_of_preCheck hg hm hd hscope1 ?_, exec_st_of_preCheck hg hm hc hscope2 ?_,
      exec_vld_of_preCheck hg hm (scopeCheck_of_holds hhas nofun) (preCheck_of_bad_head hstep)⟩
    all_goals
      change preCheck false (span ea n) _ = _
      rw [hspan]
      exact preCheck_of_bad_head hstep
  case align =>
    have hpre : preCheck false (span ea n) (alignOrd (ordered ord) ea n) = .error (.trap .align ea) := by
      rw [preCheck_of_good (hspanGood hfine), hord, hsync]
      exact aligned_of_mod_ne halign
    rw [← htrap .align rfl]
    exact ⟨exec_ld_of_preCheck hg hm hd hscope1 hpre, exec_st_of_preCheck hg hm hc hscope2 hpre⟩
  case weights =>
    rw [← htrap .wsWrite rfl]
    refine exec_st_of_weights hg hm hc hscope2 ?_ hregion
    rw [hord, preCheck_of_good (hspanGood hfine)]
    exact alignOrd_of_imp halign
  case vector =>
    have hgood (a : Nat) (ha : a ∈ (List.range 128).map fun i => (ea + BitVec.ofNat 64 i).toNat) :
        step1 a = true ∧ step2 o a = true := by
      obtain ⟨i, hi, rfl⟩ := List.mem_map.mp ha
      obtain ⟨hlow, hregion, hview⟩ := hfine i (List.mem_range.mp hi)
      exact ⟨step1_eq_true_iff.mpr ⟨hlow, hregion⟩, step2_eq_true hview⟩
    have hpre (mask : BitVec 32) : preCheck o (ea.toNat :: byteAddrs ea (activeBytes mask (8 * sz.bytes))) (aligned ea 128)
        = .error (.trap .align ea) := by
      rw [preCheck_of_good fun a ha => hgood a ?_]
      · exact aligned_of_mod_ne halign
      · rcases List.mem_cons.mp ha with rfl | ha
        · exact List.mem_map.mpr ⟨0, by decide, by rw [BitVec.add_zero]⟩
        · exact List.map_subset _ List.filter_sublist.subset ha
    have hscope := scopeCheck_of_holds hhas fun h hhere => congrArg BitVec.toNat (hacq h (hat hhere))
    rw [← htrap .align rfl]
    exact ⟨exec_vld_of_preCheck hg hm hscope (hpre _), exec_vst_of_preCheck hg hm hscope (hpre _)⟩

end Sys2Proof.Cube

/-! What a load reads (O19, O26; R180, R195, R215, R319, R391). -/

namespace Sys2Proof.Machine

/-! States that differ in the sectors that their slices hold. -/

/-- `t` is `s` but for the sectors that the slices of its tiles hold. -/
structure SliceOnly (s t : State) : Prop where
  cur : t.cur = s.cur
  ctx : ∀ i, t.ctx i = s.ctx i
  slots : t.slots = s.slots
  record : t.record = s.record
  inProg : t.inProg = s.inProg

namespace SliceOnly

variable {s t u : State}

theorem refl (s : State) : SliceOnly s s := ⟨rfl, fun _ => rfl, rfl, rfl, rfl⟩

theorem trans (h : SliceOnly s t) (h' : SliceOnly t u) : SliceOnly s u :=
  ⟨h'.cur.trans h.cur, fun i => (h'.ctx i).trans (h.ctx i), h'.slots.trans h.slots, h'.record.trans h.record,
    h'.inProg.trans h.inProg⟩

theorem setSlice (h : SliceOnly s t) (n : Nat) (l : List SecFrame) :
    SliceOnly s (t.setTile n { t.tile n with slice := l }) :=
  h.trans ⟨rfl, fun i => State.ctx_setTile_of_cores t n { t.tile n with slice := l } rfl i, rfl, rfl, rfl⟩

theorem touchReads (h : SliceOnly s t) (locs : List Loc) : SliceOnly s (t.touchReads locs) := by
  unfold State.touchReads
  dsimp only
  generalize List.eraseDups (α := Nat × Nat) _ = secs
  induction secs generalizing t with
  | nil => exact h
  | cons p secs ih => exact ih (h.setSlice _ _)

theorem fillReplica (h : SliceOnly s t) (va : Nat) : SliceOnly s (t.fillReplica va) := by
  simp only [State.fillReplica]
  split
  · exact h.setSlice _ _
  · exact h.setSlice _ _

theorem replicaBytes (use : Nat → Bool) (l : List Nat) (h : SliceOnly s t) : SliceOnly s (t.replicaBytes use l).2 := by
  induction l generalizing t with
  | nil => exact h
  | cons a l ih =>
    rw [State.replicaBytes]
    split
    · exact ih (h.fillReplica a)
    · exact ih h

theorem me (h : SliceOnly s t) : t.me = s.me := by rw [State.me, State.me, h.cur, h.ctx]

theorem slot (h : SliceOnly s t) (n : Nat) : t.slot n = s.slot n := by rw [State.slot, State.slot, h.slots]

theorem mySlot (h : SliceOnly s t) : t.mySlot = s.mySlot := by rw [State.mySlot, State.mySlot, h.me, h.slot]

end SliceOnly

/-- What a load leaves of the part. -/
theorem sliceOnly_seen (s : State) (rep plain o : Bool) (e : Nat) (l : List Nat) (locs : List Loc) :
    SliceOnly s (s.seen rep plain o e l locs).1 :=
  ((SliceOnly.refl s).touchReads _).replicaBytes _ _

/-! Views leave an address in its region. -/

theorem regionOf_of_div {a b : Nat} (h : a / 4096 = b / 4096) : regionOf a = regionOf b := by
  simp only [regionOf, bits]
  omega

/-- The view elements of scalar accesses and of lanes (R157). -/
theorem regionOf_physVa {o : Bool} {e : Nat} (he : e ∈ [1, 2, 4]) (va : Nat) : regionOf (physVa o e va) = regionOf va := by
  apply regionOf_of_div
  have hplate := colPlate_lt he (Nat.mod_lt va (show 4096 > 0 by decide))
  have hsector := colSector_lt he (Nat.mod_lt va (show 1024 > 0 by decide))
  unfold physVa
  split
  · rfl
  · split <;> omega

/-! The bytes of a load. -/

section Units

variable {α β : Type} {p : α → Bool} {q : α × β → Bool}

/-- Choosing among pairs by their first parts chooses among the first parts. -/
theorem map_fst_filter_zip {l : List α} {r : List β} (hlen : r.length = l.length)
    (h : ∀ x ∈ l.zip r, q x = p x.1) : ((l.zip r).filter q).map Prod.fst = l.filter p := by
  have hfst : (l.zip r).map Prod.fst = l := List.map_fst_zip hlen.ge
  rw [List.filter_congr h, ← Function.comp_def p, ← List.filter_map, hfst]

end Units

/-- The units of a read are its bytes but those that are skipped (R196, R197). -/
theorem flatten_ownUnits (acc unit : Nat) (skip : Nat × Loc → Bool) (l : List (Nat × Loc)) :
    (ownUnits acc unit skip l).flatten.flatten = (l.filter (fun p => !p.2.atHost && !skip p)).map Prod.snd := by
  have h (cs : List (List (Nat × Loc))) :
      (cs.map (fun x => (unitsOf unit x).map (fun u => (u.filter (fun p => !p.2.atHost && !skip p)).map Prod.snd))).flatten.flatten
        = (cs.flatten.filter (fun p => !p.2.atHost && !skip p)).map Prod.snd := by
    induction cs with
    | nil => rfl
    | cons x t ih =>
      have hunits : ((unitsOf unit x).map (fun u => (u.filter (fun p => !p.2.atHost && !skip p)).map Prod.snd)).flatten
          = (x.filter (fun p => !p.2.atHost && !skip p)).map Prod.snd := by
        conv_rhs => rw [← flatten_unitsOf unit x]
        rw [List.filter_flatten, List.map_flatten, List.map_map]
        rfl
      rw [List.map_cons, List.flatten_cons, List.flatten_append, ih, hunits, List.flatten_cons, List.filter_append,
        List.map_append]
  rw [ownUnits, h, flatten_chunks]

/-- Bytes from elsewhere, put among those given, take the places that are open. -/
theorem weave_open {α : Type} (f : α → Option Byte) (g : α → Byte) (l : List α) :
    weave (l.map f) ((l.filter (fun x => (f x).isNone)).map g) = l.map (fun x => (f x).getD (g x)) := by
  induction l with
  | nil => rfl
  | cons x t ih =>
    cases h : f x <;> simp [weave, h, ih]

/-- A byte comes from a replica where the read takes one. -/
theorem isSome_replicaBytes (use : Nat → Bool) (s : State) (l : List Nat) :
    (s.replicaBytes use l).1.map Option.isSome = l.map use := by
  induction l generalizing s with
  | nil => rfl
  | cons a t ih =>
    rw [State.replicaBytes]
    cases h : use a <;> simp [h, ih]

/-- Host memory passes through no slice. -/
theorem touchReads_filter_host (s : State) (l : List (Nat × Loc)) (p : Nat × Loc → Bool) :
    s.touchReads ((l.filter (fun x => !x.2.atHost && p x)).map Prod.snd) = s.touchReads ((l.filter p).map Prod.snd) := by
  have hsame (f : Loc → Option (Nat × Nat)) (hf : ∀ h, f (.host h) = none) :
      ((l.filter (fun x => !x.2.atHost && p x)).map Prod.snd).filterMap f = ((l.filter p).map Prod.snd).filterMap f := by
    rw [List.filterMap_map, List.filterMap_map, List.filterMap_filter, List.filterMap_filter]
    refine List.filterMap_congr fun x _ => ?_
    cases hx : x.2 <;> simp [Loc.atHost, hx, hf]
  unfold State.touchReads
  dsimp only
  rw [hsame _ fun _ => rfl]

/-- A byte of a read: host memory's as the host answered, another from its replica, or where it lies. -/
theorem weave_replicas (use : Nat → Bool) (answer : Nat → Byte) (read : Loc → Byte) {l : List (Nat × Loc)}
    {rs : List (Option Byte)} (hrs : rs.map Option.isSome = l.map (fun p => use p.1)) :
    weave ((l.zip rs).map (fun q => if q.1.2.atHost then some (answer q.1.1) else q.2))
        (((l.filter (fun p => !p.2.atHost && !use p.1)).map Prod.snd).map read)
      = (rs.zip l).map (fun p => if p.2.2.atHost then answer p.2.1 else p.1.getD (read p.2.2)) := by
  have hlen : rs.length = l.length := by simpa using congrArg List.length hrs
  have huse (x : (Nat × Loc) × Option Byte) (hx : x ∈ l.zip rs) : x.2.isSome = use x.1.1 := by
    obtain ⟨i, hi, rfl⟩ := List.mem_iff_getElem.mp hx
    have hat := List.getElem_of_eq hrs (i := i) (by simp at hi ⊢; omega)
    simpa only [List.getElem_map, List.getElem_zip] using hat
  have hopen : l.filter (fun p => !p.2.atHost && !use p.1) = ((l.zip rs).filter (fun q =>
      (if q.1.2.atHost then some (answer q.1.1) else q.2).isNone)).map Prod.fst := by
    refine (map_fst_filter_zip hlen fun x hx => ?_).symm
    rw [← huse x hx]
    cases x.1.2.atHost <;> simp
  rw [hopen, List.map_map, List.map_map, weave_open, ← List.zip_swap rs l, List.map_map]
  refine List.map_congr_left fun p _ => ?_
  dsimp only [Function.comp_apply, Prod.swap]
  split <;> rfl

section LoadBytes

variable {s : State} {a : Attr} {rep plain o : Bool} {e acc unit : Nat} {l : List Nat} {locs : List Loc}
  (hblocked : s.blocked o e l = false) (hstrong : s.strongPending = false) (hroom : s.replicaRoom rep plain l)

include hblocked hstrong hroom

/-- Bytes of host memory that are not answered are asked for (R391). -/
theorem loadBytes_asks {va h n : Nat} (hhost : hostNeed s.answers (l.zip locs) = some (va, h, n))
    (hasking : s.asking = false) : s.loadBytes a rep plain o e acc unit l locs = .error (.ask va h (.read n)) := by
  have hplace : (!l.any fun a => s.usesReplica rep plain a && s.roomBusy s.cur.tile s.mySlot.asid (sectorOf a)) = true := by
    simpa [State.replicaRoom] using hroom
  simp only [State.loadBytes, hblocked, hstrong, hplace, hhost, State.askHost, hasking, ready, bind, Except.bind,
    Bool.not_false, Bool.and_self, if_true, Bool.false_eq_true, if_false]

/-- A load reads what `seen` says (R180, R215). -/
theorem loadBytes_seen (hin : s.InOrder) (hlen : locs.length = l.length)
    (hview : ∀ a ∈ l, regionOf (physVa o e a) = regionOf a) (hhost : hostNeed s.answers (l.zip locs) = none) :
    s.loadBytes a rep plain o e acc unit l locs
      = .ok ((s.seen rep plain o e l locs).2, (s.seen rep plain o e l locs).1) := by
  obtain ⟨hkeep, htrace⟩ := hin
  have hplace : (!l.any fun a => s.usesReplica rep plain a && s.roomBusy s.cur.tile s.mySlot.asid (sectorOf a)) = true := by
    simpa [State.replicaRoom] using hroom
  have hused : (l.map (physVa o e)).map (s.usesReplica rep plain) = l.map (s.usesReplica rep plain) := by
    rw [List.map_map]
    refine List.map_congr_left fun a ha => ?_
    simp only [Function.comp_apply, State.usesReplica, hview a ha]
  have hfst : (l.zip locs).map (fun p => s.usesReplica rep plain p.1) = l.map (s.usesReplica rep plain) := by
    rw [← Function.comp_def (s.usesReplica rep plain), ← List.map_map, List.map_fst_zip hlen.ge]
  have htraced (b : Bool) (ks : List Nat) : s.traced b ks = s := by rw [State.traced, htrace]
  simp only [State.loadBytes, hblocked, hstrong, hplace, hhost, htraced, readAs_inOrder _ _ _ _ hkeep, ready, bind,
    Except.bind, Bool.not_false, Bool.and_self, if_true, flatten_ownUnits, touchReads_filter_host]
  have hlearn (u : State) (hu : u.record = s.record) (accs : List (List Loc)) (got : Seen) : u.learnRead a accs got = u := by
    simp [State.learnRead, hu, hkeep]
  simp only [hlearn _ (touchReads_record _ _)]
  have hrs := (isSome_replicaBytes (s.usesReplica rep plain)
    (s.touchReads (((l.zip locs).filter (fun p => !s.usesReplica rep plain p.1)).map Prod.snd)) (l.map (physVa o e))).trans
    (hused.trans hfst.symm)
  rw [weave_replicas (s.usesReplica rep plain) (fun a => (answerByte s.answers a).getD 0) s.readLoc hrs]
  rfl

end LoadBytes

/-! Accesses that reach their bytes. -/

section Reach

variable {s s1 : State} {q : SSrc} {x : Word} {a : Attr} {rep plain o : Bool} {e acc unit : Nat} {pre l : List Nat}
  {al : Except Stop Unit} {locs : List Loc}

theorem inOrder_of_record (h : s1.record = s.record) (hin : s.InOrder) : s1.InOrder := by
  rwa [State.InOrder, h]

theorem inOrder_readS (h : s.readS q = .ok (x, s1)) (hin : s.InOrder) : s1.InOrder :=
  inOrder_of_record (readS_record h) hin

theorem inOrder_memEa {m : MemOp} (h : s.memEa m = .ok (x, s1)) (hin : s.InOrder) : s1.InOrder := by
  obtain ⟨b, u, i, hbase, hindex⟩ := memEa_inv h
  exact inOrder_readS hindex (inOrder_readS hbase hin)

theorem length_of_access {ag : Agent} {w : Bool} (h : s.access ag w o e pre l al = .ok locs) : locs.length = l.length := by
  obtain ⟨-, -, h⟩ := bind_ok_inv h
  obtain ⟨-, -, h⟩ := bind_ok_inv h
  exact length_of_locate h

/-- Bytes that a read reaches, answered where they are host memory, are those of `seen`. -/
theorem loadBytes_of_reaches (hin : s.InOrder) (h : s.Reaches o e pre l al locs)
    (hhost : hostNeed s.answers (l.zip locs) = none) (hroom : s.replicaRoom rep plain l)
    (hview : ∀ a ∈ l, regionOf (physVa o e a) = regionOf a) :
    s.loadBytes a rep plain o e acc unit l locs
      = .ok ((s.seen rep plain o e l locs).2, (s.seen rep plain o e l locs).1) := by
  obtain ⟨haccess, hblocked, hstrong⟩ := h
  exact loadBytes_seen hblocked hstrong hroom hin (length_of_access haccess) hview hhost

end Reach

end Sys2Proof.Machine

/-! Tensor definitions (O26; R186). -/

namespace Sys2Proof.Machine

/-- The oldest definition enters the table, and its context goes on. -/
theorem exec_tdefBroadcast_of_oldest {n id : Nat} {s : State} {who : CtxId} {t : Tensor} {rest : List (CtxId × Nat × Tensor)}
    (h : (s.slot n).tdefs = (who, id, t) :: rest) (hwait : (s.ctx who).wait = .tdef) :
    exec (.tdefBroadcast n) s = .next (State.flow
      { (s.setSlot n { s.slot n with tensors := aset (s.slot n).tensors id t, tdefs := rest }) with
        cur := who, inProg := false } 16) := by
  have hme : (State.me { (s.setSlot n { s.slot n with tensors := aset (s.slot n).tensors id t, tdefs := rest }) with
      cur := who, inProg := false }).wait = .tdef := hwait
  change execTdefBroadcast n s = _
  simp only [execTdefBroadcast, h, hme, if_true]
  rfl

theorem tensor_aset (j : Slot) (id k : Nat) (t : Tensor) (rest : List (CtxId × Nat × Tensor)) :
    ({ j with tensors := aset j.tensors id t, tdefs := rest } : Slot).tensor k = if k = id then t else j.tensor k := by
  unfold Slot.tensor
  split
  next h => rw [h, aget_aset_same]; rfl
  next h => rw [aget_aset_other _ _ _ _ h]

end Sys2Proof.Machine

namespace Sys2Proof.Cube

open Sys2Proof.Machine

/-- Settles O26: the entry's 64 bytes are read as those of a load and queued in the slot; the broadcast takes the oldest. -/
theorem tensorDefinitionsReachTheTable : Obligations.TensorDefinitionsReachTheTable := by
  unfold Obligations.TensorDefinitionsReachTheTable
  refine ⟨?define, ?broadcast⟩
  case define =>
    intro g a b s s1 s2 ea id locs hg hin ha hb hid hwait l hreads horder bytes t j haccepts u
    obtain ⟨hreach, hhost⟩ := hreads
    have ⟨haccess, _, _⟩ := hreach
    have hin2 : s2.InOrder := inOrder_readS hb (inOrder_readS ha hin)
    have hseen := sliceOnly_seen s2 false true false 1 l locs
    have hload (at_ : Attr) : s2.loadBytes at_ false true false 1 64 8 l locs = .ok (bytes, _) :=
      loadBytes_of_reaches hin2 hreach hhost (fun _ _ => nofun) fun _ _ => rfl
    have hready : ready (s.me.wait != .tdef) = .ok () := by simp [ready, hwait]
    dsimp only [exec, execTdef]
    refine (runInstr_error g 16 s (.wait (u.setMe { u.me with wait := .tdef })) _ hg ?_).trans rfl
    have htensor : tensorOf bytes = t := rfl
    have htaken : s2.mySlot.accepts t = true := haccepts
    have hspan : span ea 64 = l := rfl
    simp only [hready, ha, hb, need, decide_eq_true hid, if_true, bind, Except.bind, hspan, haccess, horder, hload, htensor,
      hseen.mySlot, hseen.me, hseen.cur, htaken]
    rfl
  case broadcast =>
    intro n s who id t rest hfirst
    exact ⟨exec_tdefBroadcast_of_oldest hfirst, fun k =>
      (congrArg (fun x : Slot => x.tensor k) (State.slot_setSlot_same _ _ _)).trans (tensor_aset _ _ _ _ _)⟩

end Sys2Proof.Cube

/-! Loads (O19; R129, R157, R180 to R183, R391). -/

namespace Sys2Proof.Machine

/-! A context written twice. -/

theorem aset_aset {α : Type} (m : Assoc α) (k : Nat) (v w : α) : aset (aset m k v) k w = aset m k w := by
  induction m with
  | nil => simp [aset]
  | cons p t ih =>
    obtain ⟨i, x⟩ := p
    by_cases h : k < i
    · simp [aset, h]
    · by_cases e : i = k <;> simp [aset, h, e, ih]

theorem setCore_setCore (s : State) (t c : Nat) (a b : Core) : (s.setCore t c a).setCore t c b = s.setCore t c b := by
  have hcores : (((s.tile t).setCore c a).setCore c b) = (s.tile t).setCore c b := by
    simp only [Tile.setCore, aset_aset]
  rw [State.setCore, State.setCore, State.tile_setTile_same, hcores]
  simp only [State.setTile, State.setCore, aset_aset]

theorem setMe_setMe (s : State) (x y : Ctx) : (s.setMe x).setMe y = s.setMe y := by
  have hctx : ((s.core s.cur.tile s.cur.core).setCtx s.cur.ctx x).setCtx s.cur.ctx y
      = (s.core s.cur.tile s.cur.core).setCtx s.cur.ctx y := by
    simp only [Core.setCtx, aset_aset]
  change (s.setCore s.cur.tile s.cur.core _).setCore s.cur.tile s.cur.core
    (((s.setCore s.cur.tile s.cur.core _).core s.cur.tile s.cur.core).setCtx s.cur.ctx y) = _
  rw [State.core_setCore_same, setCore_setCore, hctx]
  rfl

/-! Values of loads. -/

theorem leNat_drop (n : Nat) (bs : List Byte) : leNat (bs.drop n) = leNat bs / 256 ^ n := by
  induction n generalizing bs with
  | zero => simp
  | succ n ih =>
    cases bs with
    | nil => simp [leNat]
    | cons b bs =>
      rw [List.drop_succ_cons, ih, leNat, Nat.pow_succ', ← Nat.div_div_eq_div_mul, Nat.add_mul_div_left _ _ (by decide),
        Nat.div_eq_of_lt b.isLt, Nat.zero_add]

theorem ofInt_intVal_true (w m x : Nat) : BitVec.ofInt m (intVal true w x) = (BitVec.ofNat w x).signExtend m := by
  rw [intVal_true_eq_toInt, BitVec.signExtend]

theorem loadValue_eq (sx : Bool) (n : Nat) (bs : List Byte) :
    loadValue sx n bs = if sx then (BitVec.ofNat (8 * n) (leNat bs)).signExtend 64 else BitVec.ofNat 64 (leNat bs) := by
  rw [loadValue, ofInt_intVal_true]

/-- A pair's low half is the number's low word, its high half the rest (R181). -/
theorem writePair_g (s : State) (r : BitVec 6) (bs : List Byte) :
    let lo : Word := BitVec.ofNat 64 (leNat bs)
    s.writePair (.g r) (BitVec.ofNat 64 (leNat (bs.take 8))) (BitVec.ofNat 64 (leNat (bs.drop 8)))
      = .ok (s.setMe (((s.me.putG (r + 1) (BitVec.ofNat 64 (leNat bs / 2 ^ 64))).putG r lo).setLat lo)) := by
  intro lo
  have hlo : BitVec.ofNat 64 (leNat (bs.take 8)) = lo := by
    rw [leNat_take]
    exact ofNat_mod_two_pow 64 _
  have hhi : leNat (bs.drop 8) = leNat bs / 2 ^ 64 := leNat_drop 8 bs
  rw [hlo, hhi, State.writePair, writeS_g, State.me_setMe, setMe_setMe]

/-- The address of a lane (R183). -/
theorem laneEa_eq (b : Word) (idx : VWord) (scl : BitVec 2) (disp : BitVec 32) (j : Nat) :
    laneEa b idx scl disp j = b + ((vecElem idx 32 j).signExtend 64) <<< scl.toNat + disp.signExtend 64 := by
  rw [laneEa, ofInt_intVal_true, ofNat_elem]

/-! What an address and the registers leave. -/

section Address

variable {s s1 t : State} {m : MemOp} {ea : Word} {d : SDst}

theorem readM_congr (h : t.me.r = s.me.r) (n : BitVec 3) : t.readM n = s.readM n := by rw [State.readM, h, State.readM]

theorem readV_congr (h : t.me.r = s.me.r) (v : VSrc) : t.readV v = s.readV v := by simp only [State.readV, h]

theorem readVD_congr (h : t.me.r = s.me.r) (d : VDst) : t.readVD d = s.readVD d := by simp only [State.readVD, h]

theorem memEa_regs (h : s.memEa m = .ok (ea, s1)) : s1.me.r = s.me.r := by
  obtain ⟨b, u, i, hbase, hindex⟩ := memEa_inv h
  rw [readS_regs hindex, readS_regs hbase]

theorem dstReady_of_memEa (h : s.memEa m = .ok (ea, s1)) (hd : s1.dstReady d = .ok ()) : s.dstReady d = .ok () := by
  obtain ⟨b, u, i, hbase, hindex⟩ := memEa_inv h
  exact dstReady_of_readS hbase (dstReady_of_readS hindex hd)

theorem dstReady_sliceOnly (h : SliceOnly s t) : t.dstReady d = s.dstReady d := by
  cases d with
  | q n =>
    have hpush : t.mayPush n = s.mayPush n := by rw [State.mayPush, State.mayPush, h.inProg]
    simp only [State.dstReady, hpush, h.me, h.inProg]
  | _ => rfl

theorem order_of_region (hstrong : s.strongPending = false) (scope : BitVec 5) (hregion : regionOf ea.toNat ≠ 0) :
    s.order false scope ea = .ok () := by
  simp [State.order, hstrong, hregion, ready, bind, Except.bind]

/-- The first lane lies outside region 0 where all do; without lanes the address named is in no region of memory. -/
theorem regionOf_headD {l : List Nat} {f : Nat → Word} (h : ∀ j ∈ l, regionOf (f j).toNat ≠ 0) :
    regionOf ((l.map f).headD (BitVec.allOnes 64)).toNat ≠ 0 := by
  cases l with
  | nil => exact (by decide : regionOf (BitVec.allOnes 64).toNat ≠ 0)
  | cons j t => exact h j List.mem_cons_self

end Address

theorem viewSize_mem (sz : Size) : viewSize sz ∈ [1, 2, 4] := by cases sz <;> decide

theorem bytes_mem_of_le {sz : Size} (h : sz.bytes ≤ 4) : sz.bytes ∈ [1, 2, 4] := by cases sz <;> revert h <;> decide

theorem width_dvd (sz : Size) : 8 * sz.bytes ∣ 1024 := by cases sz <;> decide

/-! The loads, once their checks have passed. -/

section Ld

variable {g : Guard} {sz : Size} {o rep sx : Bool} {ord : MemOrd} {scope : BitVec 5} {d : SDst} {m : MemOp}
  {s s1 s2 t : State} {ea : Word} {locs : List Loc} {bs : List Byte} {e : Stop}
  (hg : s.guard g = true) (hd : s.dstReady d = .ok ()) (hm : s.memEa m = .ok (ea, s1))
  (hscope : s1.scopeCheck (ordered ord) scope.toNat (atHost ea) = .ok ())
  (haccess : s1.access s1.agent false o (viewSize sz) (span ea sz.bytes) (span ea sz.bytes)
    (alignOrd (ordered ord) ea sz.bytes) = .ok locs)
  (horder : s1.order (ord == .sc) scope ea = .ok ())

include hg hd hm hscope haccess horder

theorem exec_ld_of_stop (hload : s1.loadBytes (s1.attr ord scope.toNat) rep (!ordered ord) o (viewSize sz) sz.bytes
      (unitSize o (viewSize sz) sz.bytes ea.toNat) (span ea sz.bytes) locs = .error e) :
    exec (.ld g sz o ord rep scope sx d m) s = .next (s.stopped 12 e) := by
  dsimp only [exec, execLd]
  refine runInstr_error _ _ _ _ _ hg ?_
  simp only [hd, hm, hscope, haccess, horder, hload, bind, Except.bind]

variable (hload : s1.loadBytes (s1.attr ord scope.toNat) rep (!ordered ord) o (viewSize sz) sz.bytes
  (unitSize o (viewSize sz) sz.bytes ea.toNat) (span ea sz.bytes) locs = .ok (bs, s2))

include hload

theorem exec_ld_of_bytes (hsz : sz ≠ .q) (ht : s2.writeS d (loadValue sx sz.bytes bs) = .ok t) :
    exec (.ld g sz o ord rep scope sx d m) s = .next (t.flow 12) := by
  dsimp only [exec, execLd]
  refine runInstr_flow hg ?_
  simp only [hd, hm, hscope, haccess, horder, hload, bind, Except.bind]
  cases sz with
  | q => exact absurd rfl hsz
  | _ => exact ht

theorem exec_ld_pair_of_bytes (hsz : sz = .q)
    (ht : s2.writePair d (BitVec.ofNat 64 (leNat (bs.take 8))) (BitVec.ofNat 64 (leNat (bs.drop 8))) = .ok t) :
    exec (.ld g sz o ord rep scope sx d m) s = .next (t.flow 12) := by
  subst hsz
  dsimp only [exec, execLd]
  refine runInstr_flow hg ?_
  simp only [hd, hm, hscope, haccess, horder, hload, bind, Except.bind]
  exact ht

end Ld

section Vld

variable {g : Guard} {sz : Size} {o acq rep : Bool} {scope : BitVec 5} {c : VCtl} {d : VDst} {m : MemOp}
  {s s1 s2 : State} {ea : Word} {locs : List Loc} {bs : List Byte} {e : Stop}
  (hg : s.guard g = true) (hm : s.memEa m = .ok (ea, s1))
  (hscope : s1.scopeCheck acq scope.toNat (atHost ea) = .ok ())
  (haccess : s1.access s1.agent false o (viewSize sz)
    (ea.toNat :: byteAddrs ea (activeBytes (s.readM c.mask) (8 * sz.bytes)))
    (byteAddrs ea (activeBytes (s.readM c.mask) (8 * sz.bytes))) (aligned ea 128) = .ok locs)
  (horder : s1.order false scope ea = .ok ())

include hg hm hscope haccess horder

theorem exec_vld_of_stop (hload : s1.loadBytes (s1.attr (acqOrd acq) scope.toNat) rep (!acq) o (viewSize sz) 128
      (if o then viewSize sz else 4) (byteAddrs ea (activeBytes (s.readM c.mask) (8 * sz.bytes))) locs = .error e) :
    exec (.vld g sz o acq rep scope c d m) s = .next (s.stopped 12 e) := by
  have hmask := readM_congr (memEa_regs hm) c.mask
  dsimp only [exec, execVld]
  refine runInstr_error _ _ _ _ _ hg ?_
  simp only [hm, hscope, hmask, haccess, horder, hload, bind, Except.bind]

/-- The elements that `vld` brings in are the numbers in their bytes (R182). -/
theorem exec_vld_of_bytes (hload : s1.loadBytes (s1.attr (acqOrd acq) scope.toNat) rep (!acq) o (viewSize sz) 128
      (if o then viewSize sz else 4) (byteAddrs ea (activeBytes (s.readM c.mask) (8 * sz.bytes))) locs = .ok (bs, s2))
    (hslice : SliceOnly s1 s2) :
    DeliversVecL (.vld g sz o acq rep scope c d m) s s2 c d (8 * sz.bytes) (fun j => BitVec.ofNat (8 * sz.bytes)
      (bytesFrom (activeBytes (s.readM c.mask) (8 * sz.bytes)) bs (sz.bytes * j) sz.bytes)) 12 := by
  have hregs : s2.me.r = s.me.r := (congrArg Ctx.r hslice.me).trans (memEa_regs hm)
  have hold := readVD_congr hregs d
  refine ⟨_, maskedVec_masked (width_dvd sz) fun j => rfl, ?_⟩
  dsimp only [Completes, exec, execVld]
  refine runInstr_flow hg ?_
  simp only [hm, hscope, readM_congr (memEa_regs hm), haccess, horder, hload, State.maskedFor, readM_congr hregs, hold, bind,
    Except.bind]
  rfl

end Vld

/-- The value of a lane from the number in its bytes (R183). -/
theorem ofNat_laneValue (sx : Bool) (n x : Nat) : BitVec.ofNat 32 (if sx then wrapTo 32 (intVal true (8 * n) x) else x)
    = if sx then (BitVec.ofNat (8 * n) x).signExtend 32 else BitVec.ofNat 32 x := by
  cases sx with
  | false => rfl
  | true => exact (ofNat_wrapTo 32 _).trans (ofInt_intVal_true _ _ _)

section Vldx

variable {g : Guard} {sz : Size} {o acq rep sx : Bool} {scope : BitVec 5} {c : VCtl} {d : VDst} {p : SSrc} {idx : VSrc}
  {scl : BitVec 2} {disp : BitVec 32} {s s1 s2 : State} {b : Word} {locs : List Loc} {bs : List Byte} {e : Stop}

/-- The lanes that `vldx` brings in are the numbers in their bytes (R183). -/
theorem exec_vldx_of_bytes (hg : s.guard g = true) (hp : s.readS p = .ok (b, s1)) :
    let lanes := activeLanes (s.readM c.mask)
    let lane (j : Nat) : Word := laneEa b (s.readV idx) scl disp j
    let l := lanes.flatMap (fun j => span (lane j) sz.bytes)
    let places := lanes.flatMap (fun i => (List.range sz.bytes).map (fun k => sz.bytes * i + k))
    (hscope : s1.scopeCheck acq scope.toNat (lanes.any (fun j => atHost (lane j))) = .ok ()) →
    (haccess : s1.access s1.agent false o sz.bytes l l (.ok ()) = .ok locs) →
    (hstrong : s1.strongPending = false) →
    (hregion : ∀ j ∈ lanes, regionOf (lane j).toNat ≠ 0) → (halign : ∀ j ∈ lanes, (lane j).toNat % sz.bytes = 0) →
    (hload : s1.loadBytes (s1.attr (acqOrd acq) scope.toNat) rep (!acq) o sz.bytes sz.bytes sz.bytes l locs = .ok (bs, s2)) →
    (hslice : SliceOnly s1 s2) →
    DeliversVecL (.vldx g sz o acq rep scope sx c d p idx scl disp) s s2 c d 32 (fun j =>
      let v := bytesFrom places bs (sz.bytes * j) sz.bytes
      if sx then (BitVec.ofNat (8 * sz.bytes) v).signExtend 32 else BitVec.ofNat 32 v) 12 := by
  intro lanes lane l places hscope haccess hstrong hregion halign hload hslice
  have hregs : s2.me.r = s.me.r := (congrArg Ctx.r hslice.me).trans (readS_regs hp)
  have hold := readVD_congr hregs d
  have hidx := readV_congr (readS_regs hp) idx
  have hbytes : (lanes.map lane).flatMap (fun a => span a sz.bytes) = l := List.flatMap_map ..
  have hany : (lanes.map lane).any atHost = lanes.any (fun j => atHost (lane j)) := List.any_map
  have hcheck : checkAll ((lanes.map lane).map BitVec.toNat) (fun a => a % sz.bytes == 0) .align = .ok () :=
    checkAll_of_forall fun a ha => by
      simp only [List.map_map, List.mem_map] at ha
      obtain ⟨j, hj, rfl⟩ := ha
      exact beq_iff_eq.mpr (halign j hj)
  have hplain : (lanes.map lane).any (fun a => regionOf a.toNat == 0) = false := by
    simpa using hregion
  have horder := order_of_region hstrong scope (regionOf_headD hregion)
  refine ⟨_, maskedVec_masked (by decide) fun j => ofNat_laneValue sx sz.bytes (gatherElem (places.zip bs) sz.bytes j), ?_⟩
  dsimp only [Completes, exec, execVldx]
  refine runInstr_flow hg ?_
  have hlane : lanes.map (laneEa b (s.readV idx) scl disp) = lanes.map lane := rfl
  have hlanes : activeLanes (s.readM c.mask) = lanes := rfl
  simp only [hp, readM_congr (readS_regs hp), hidx, hlanes, hlane, hany, hscope, hbytes, hcheck, haccess, hplain, horder, hload,
    State.maskedFor, readM_congr hregs, hold, bind, Except.bind]
  rfl

end Vldx

end Sys2Proof.Machine

namespace Sys2Proof.Cube

open Sys2Proof.Machine

/-- Settles O19: each load reads its bytes as `seen` does or asks the host, and delivers the numbers that lie in them. -/
theorem loadsDeliverTheirBytes : Obligations.LoadsDeliverTheirBytes := by
  unfold Obligations.LoadsDeliverTheirBytes
  refine ⟨?scalar, ?vector⟩
  case scalar =>
    intro g sz o rep sx ord scope d r m s s1 ea locs hg hin hm n e l sync hscope hreach hroom horder
    have hord : ordered ord = sync := ordered_eq_decide ord
    have horder' : s1.order (ord == .sc) scope ea = .ok () := by rwa [← beq_eq_decide] at horder
    have hscope' : s1.scopeCheck (ordered ord) scope.toNat (atHost ea) = .ok () := hord ▸ hscope
    have haccess : s1.access s1.agent false o (viewSize sz) (span ea sz.bytes) (span ea sz.bytes)
        (alignOrd (ordered ord) ea sz.bytes) = .ok locs := hord ▸ hreach.left
    refine ⟨fun va h k hhost hasking hd => ?ask, fun hhost => ?answered⟩
    case ask =>
      obtain ⟨-, hblocked, hstrong⟩ := hreach
      rw [← hord] at hroom
      exact exec_ld_of_stop hg hd hm hscope' haccess horder' (loadBytes_asks hblocked hstrong hroom hhost hasking)
    case answered =>
      intro u v
      have hslice : SliceOnly s1 u := sliceOnly_seen s1 rep (!sync) o e l locs
      have hload (at_ : Attr) (unit : Nat) : s1.loadBytes at_ rep (!ordered ord) o (viewSize sz) sz.bytes unit l locs
          = .ok ((s1.seen rep (!sync) o e l locs).2, u) := by
        rw [hord]
        exact loadBytes_of_reaches (inOrder_memEa hm hin) hreach hhost hroom fun a _ => regionOf_physVa (viewSize_mem sz) a
      refine ⟨fun hsz t ht => ?_, fun hsz => ?_⟩
      · have hd : s.dstReady d = .ok () :=
          dstReady_of_memEa hm ((dstReady_sliceOnly hslice).symm.trans (dstReady_of_writeS ht))
        exact exec_ld_of_bytes hg hd hm hscope' haccess horder' (hload _ _) hsz ((loadValue_eq ..).symm ▸ ht)
      · exact exec_ld_pair_of_bytes hg rfl hm hscope' haccess horder' (hload _ _) hsz (writePair_g u r _)
  case vector =>
    intro g sz o acq rep sx scope c d m p idx scl disp s s1 t1 ea b locs locx hg hin hm hp hsz n w e mk ts l lane lanes lx kx
    refine ⟨fun hscope horder hreach hroom => ⟨fun va h k hhost hasking => ?ask, fun hhost => ?answered⟩,
      fun hn hscope hregion halign hreads hroom => ?lanes⟩
    case ask =>
      obtain ⟨haccess, hblocked, hstrong⟩ := hreach
      exact exec_vld_of_stop hg hm hscope haccess horder (loadBytes_asks hblocked hstrong hroom hhost hasking)
    case answered =>
      exact exec_vld_of_bytes hg hm hscope hreach.left horder (loadBytes_of_reaches (inOrder_memEa hm hin) hreach hhost hroom
        fun a _ => regionOf_physVa (viewSize_mem sz) a) (sliceOnly_seen ..)
    case lanes =>
      obtain ⟨hreach, hhost⟩ := hreads
      have ⟨haccess, _, hstrong⟩ := hreach
      have hlane : lane = fun j => laneEa b (s.readV idx) scl disp j := funext fun j => (laneEa_eq ..).symm
      clear_value lane
      subst hlane
      exact exec_vldx_of_bytes hg hp hscope haccess hstrong hregion halign (loadBytes_of_reaches (inOrder_readS hp hin)
        hreach hhost hroom fun a _ => regionOf_physVa (bytes_mem_of_le hn) a) (sliceOnly_seen ..)

end Sys2Proof.Cube

/-! What a store leaves (O20, O21; R157, R181, R220). -/

namespace Sys2Proof.Machine

section Keep

variable {α : Type} (f : Tile → α) (s : State) (n d : Nat) (t : Tile)

/-- A tile replaced by one that reads alike. -/
theorem tile_setTile_keeps (h : f t = f (s.tile n)) : f ((s.setTile n t).tile d) = f (s.tile d) := by
  by_cases e : d = n
  · rw [e, State.tile_setTile_same, h]
  · rw [State.tile_setTile_other _ _ _ _ e]

end Keep

/-! One byte. -/

/-- A byte written reads back (R157); host memory is written elsewhere. -/
theorem readLoc_writeLoc_same (s : State) {l k : Loc} (b : Byte) (h : l.same k = true) (hhost : ∀ a, k ≠ .host a) :
    (s.writeLoc l b).readLoc k = b := by
  cases l <;> cases k
  case spad.spad t ofs t' ofs' =>
    obtain ⟨rfl, rfl⟩ : t = t' ∧ ofs = ofs' := by simpa [Loc.same] using h
    simp [State.writeLoc, State.readLoc]
  case image.image j jt ofs j' jt' ofs' =>
    obtain ⟨rfl, rfl, rfl⟩ : j = j' ∧ jt = jt' ∧ ofs = ofs' := by simpa [Loc.same] using h
    simp [State.writeLoc, State.readLoc, Slot.image, aget_aset_same]
  case ws.ws t ofs t' ofs' =>
    obtain ⟨rfl, rfl⟩ : t = t' ∧ ofs = ofs' := by simpa [Loc.same] using h
    simp [State.writeLoc, State.readLoc]
  case dev.dev | dev.raw | raw.dev | raw.raw =>
    obtain rfl := by simpa [Loc.same] using h
    simp [State.writeLoc, State.readLoc]
  case host.host a => exact absurd rfl (hhost _)
  all_goals simp [Loc.same] at h

/-- Every other byte reads as before (R157). -/
theorem readLoc_writeLoc_other (s : State) {l k : Loc} (b : Byte) (h : l.same k = false) :
    (s.writeLoc l b).readLoc k = s.readLoc k := by
  have hspad (n t : Nat) (x : Tile) (hx : x.spad = (s.tile n).spad) :=
    tile_setTile_keeps Tile.spad s n t x hx
  have hws (n t : Nat) (x : Tile) (hx : x.ws = (s.tile n).ws) := tile_setTile_keeps Tile.ws s n t x hx
  cases l with
  | spad t ofs =>
    cases k with
    | spad t' ofs' =>
      by_cases ht : t' = t
      · subst ht
        have hne : ofs' ≠ ofs := by rintro rfl; simp [Loc.same] at h
        simp [State.writeLoc, State.readLoc, memGet_memSet_other _ _ _ _ hne]
      · simp only [State.writeLoc, State.readLoc, State.tile_setTile_other _ _ _ _ ht]
    | ws t' ofs' => exact congrArg (fun m => memGet m ofs') (hws _ _ _ rfl)
    | _ => rfl
  | image j jt ofs =>
    cases k with
    | image j' jt' ofs' =>
      by_cases hj : j' = j
      · subst hj
        by_cases hjt : jt' = jt
        · subst hjt
          have hne : ofs' ≠ ofs := by rintro rfl; simp [Loc.same] at h
          simp [State.writeLoc, State.readLoc, Slot.image, aget_aset_same, memGet_memSet_other _ _ _ _ hne]
        · simp [State.writeLoc, State.readLoc, Slot.image, aget_aset_other _ _ _ _ hjt]
      · simp only [State.writeLoc, State.readLoc, State.slot_setSlot_other _ _ _ _ hj]
    | _ => rfl
  | ws t ofs =>
    cases k with
    | ws t' ofs' =>
      by_cases ht : t' = t
      · subst ht
        have hne : ofs' ≠ ofs := by rintro rfl; simp [Loc.same] at h
        simp [State.writeLoc, State.readLoc, memGet_memSet_other _ _ _ _ hne]
      · simp only [State.writeLoc, State.readLoc, State.tile_setTile_other _ _ _ _ ht]
    | spad t' ofs' => exact congrArg (fun m => memGet m ofs') (hspad _ _ _ rfl)
    | _ => rfl
  | dev p asid va =>
    cases k with
    | spad t' ofs' =>
      exact congrArg (fun m => memGet m ofs') (tile_setTile_keeps Tile.spad { s with mem := memSet s.mem p b } _ _ _ rfl)
    | ws t' ofs' =>
      exact congrArg (fun m => memGet m ofs') (tile_setTile_keeps Tile.ws { s with mem := memSet s.mem p b } _ _ _ rfl)
    | dev q _ _ | raw q =>
      have hne : q ≠ p := by rintro rfl; simp [Loc.same] at h
      exact memGet_memSet_other _ _ _ _ hne
    | _ => rfl
  | raw p =>
    cases k with
    | dev q _ _ | raw q =>
      have hne : q ≠ p := by rintro rfl; simp [Loc.same] at h
      exact memGet_memSet_other _ _ _ _ hne
    | _ => rfl
  | host a => rfl

/-! A list of bytes, and the watches. -/

theorem writeLocs_append (s : State) (l r : List (Loc × Byte)) : s.writeLocs (l ++ r) = (s.writeLocs l).writeLocs r := by
  induction l generalizing s with
  | nil => rfl
  | cons p t ih => exact ih _

theorem readLoc_writeLocs_other (s : State) {l : List (Loc × Byte)} {k : Loc} (h : ∀ p ∈ l, p.1.same k = false) :
    (s.writeLocs l).readLoc k = s.readLoc k := by
  induction l generalizing s with
  | nil => rfl
  | cons p t ih =>
    obtain ⟨hp, ht⟩ := List.forall_mem_cons.mp h
    exact (ih (s.writeLoc p.1 p.2) ht).trans (readLoc_writeLoc_other s p.2 hp)

/-- What a location holds depends on its tile's memories, its slot and device memory. -/
theorem readLoc_congr {s t : State} (hspad : ∀ n, (t.tile n).spad = (s.tile n).spad) (hws : ∀ n, (t.tile n).ws = (s.tile n).ws)
    (hslots : t.slots = s.slots) (hmem : t.mem = s.mem) (k : Loc) : t.readLoc k = s.readLoc k := by
  cases k <;> simp only [State.readLoc, State.slot, hspad, hws, hslots, hmem]

/-- A store changes of the part only its tiles, its slots and device memory. -/
theorem writeLocs_fields (s : State) (l : List (Loc × Byte)) :
    ∃ tiles slots mem, s.writeLocs l = { s with tiles := tiles, slots := slots, mem := mem } := by
  induction l generalizing s with
  | nil => exact ⟨s.tiles, s.slots, s.mem, rfl⟩
  | cons p t ih =>
    obtain ⟨tiles, slots, mem, h⟩ := ih (s.writeLoc p.1 p.2)
    have hone : ∃ tiles slots mem, s.writeLoc p.1 p.2 = { s with tiles := tiles, slots := slots, mem := mem } := by
      unfold State.writeLoc
      split
      all_goals exact ⟨_, _, _, rfl⟩
    obtain ⟨tiles', slots', mem', h'⟩ := hone
    exact ⟨tiles, slots, mem, by rw [State.writeLocs, h, h']⟩

theorem respond_fields (s : State) : ∃ tiles, s.respond = { s with tiles := tiles } := by
  unfold State.respond
  dsimp only
  generalize (s.tiles.flatMap _).filterMap _ = done
  generalize s.tiles.map _ = tiles
  induction done generalizing tiles with
  | nil => exact ⟨tiles, rfl⟩
  | cons d t ih => exact ih _

theorem store_fields (s : State) (l : List (Loc × Byte)) :
    ∃ tiles slots mem, s.store l = { s with tiles := tiles, slots := slots, mem := mem } := by
  obtain ⟨tiles, slots, mem, h⟩ := writeLocs_fields s l
  obtain ⟨tiles', h'⟩ := respond_fields (s.writeLocs l)
  exact ⟨tiles', slots, mem, by rw [State.store, h', h]⟩

theorem readLoc_respond (s : State) (k : Loc) : s.respond.readLoc k = s.readLoc k := by
  obtain ⟨tiles, h⟩ := respond_fields s
  refine readLoc_congr (tile_respond Tile.spad (fun _ _ => rfl) (fun _ _ => rfl) s)
    (tile_respond Tile.ws (fun _ _ => rfl) (fun _ _ => rfl) s) ?_ ?_ k
  all_goals rw [h]

theorem readLoc_store_other (s : State) {l : List (Loc × Byte)} {k : Loc} (h : ∀ p ∈ l, p.1.same k = false) :
    (s.store l).readLoc k = s.readLoc k :=
  (readLoc_respond _ k).trans (readLoc_writeLocs_other s h)

theorem same_self (k : Loc) : k.same k = true := by cases k <;> simp [Loc.same]

/-- The byte written last reads as written. -/
theorem readLoc_store_last (s : State) (l : List (Loc × Byte)) {k : Loc} (b : Byte) (h : ∀ a, k ≠ .host a) :
    (s.store (l ++ [(k, b)])).readLoc k = b := by
  rw [State.store, readLoc_respond, writeLocs_append]
  exact readLoc_writeLoc_same _ b (same_self k) h

/-! Contexts. -/

theorem ctx_writeLoc (s : State) (l : Loc) (b : Byte) (i : CtxId) : (s.writeLoc l b).ctx i = s.ctx i := by
  cases l with
  | spad | ws =>
    apply State.ctx_setTile_of_cores
    rfl
  | dev p asid va =>
    apply State.ctx_setTile_of_cores (s := { s with mem := memSet s.mem p b })
    rfl
  | _ => rfl

theorem ctx_writeLocs (s : State) (l : List (Loc × Byte)) (i : CtxId) : (s.writeLocs l).ctx i = s.ctx i := by
  induction l generalizing s with
  | nil => rfl
  | cons p t ih => exact (ih _).trans (ctx_writeLoc s p.1 p.2 i)

/-- A tile keeps a watch of the context. -/
def State.watched (s : State) (i : CtxId) : Prop := ∃ p ∈ s.tiles, ∃ w ∈ p.2.watches, w.owner = i

theorem tile_watches_mem {s : State} {n : Nat} {w : Watch} (h : w ∈ (s.tile n).watches) :
    ∃ p ∈ s.tiles, w ∈ p.2.watches := by
  unfold State.tile at h
  cases ht : aget s.tiles n with
  | none => rw [ht] at h; cases h
  | some t => exact ⟨_, mem_of_aget ht, by rwa [ht] at h⟩

theorem watched_of_setTile {s : State} {n : Nat} {t : Tile} {i : CtxId} (ht : t.watches = (s.tile n).watches)
    (h : (s.setTile n t).watched i) : s.watched i := by
  obtain ⟨p, hp, w, hw, howner⟩ := h
  rcases mem_aset _ _ _ _ hp with rfl | hp
  · obtain ⟨q, hq, hw⟩ := tile_watches_mem (ht ▸ hw)
    exact ⟨q, hq, w, hw, howner⟩
  · exact ⟨p, hp, w, hw, howner⟩

theorem watched_of_writeLoc {s : State} {l : Loc} {b : Byte} {i : CtxId} (h : (s.writeLoc l b).watched i) : s.watched i := by
  cases l with
  | spad | ws => exact watched_of_setTile (by rfl) h
  | dev p asid va => exact watched_of_setTile (s := { s with mem := memSet s.mem p b }) (by rfl) h
  | _ => exact h

theorem watched_of_writeLocs {s : State} {l : List (Loc × Byte)} {i : CtxId} (h : (s.writeLocs l).watched i) : s.watched i := by
  induction l generalizing s with
  | nil => exact h
  | cons p t ih => exact watched_of_writeLoc (ih h)

/-- The wait of a watch's owner ends with its answer. -/
def State.withAnswer (t : State) (d : CtxId × Word × Seen) : State :=
  t.setCtx d.1 { t.ctx d.1 with wait := .answered d.2.1 d.2.2 }

/-- The part without the watches that have been reached. -/
def State.withoutReached (s : State) : State :=
  { s with tiles := s.tiles.map (fun p =>
    (p.1, { p.2 with watches := p.2.watches.filter (fun w => (s.watchReached w).isNone) })) }

theorem respond_eq (s : State) : s.respond = ((s.tiles.flatMap (fun p => p.2.watches)).filterMap
    (fun w => (s.watchReached w).map (fun a => (w.owner, a)))).foldl State.withAnswer s.withoutReached := rfl

theorem ctx_withoutReached (s : State) (i : CtxId) : s.withoutReached.ctx i = s.ctx i := by
  have h := aget_map_snd (fun t : Tile => { t with watches := t.watches.filter (fun w => (s.watchReached w).isNone) })
    s.tiles i.tile
  simp only [State.withoutReached, State.ctx, State.core, State.tile, h]
  cases aget s.tiles i.tile <;> rfl

/-- Answers end waits, and those of their owners alone. -/
theorem ctx_foldl_withAnswer (done : List (CtxId × Word × Seen)) (u : State) (i : CtxId) :
    (∃ w, (done.foldl State.withAnswer u).ctx i = { u.ctx i with wait := w })
    ∧ ((∀ d ∈ done, d.1 ≠ i) → (done.foldl State.withAnswer u).ctx i = u.ctx i) := by
  induction done generalizing u with
  | nil => exact ⟨⟨_, rfl⟩, fun _ => rfl⟩
  | cons d t ih =>
    obtain ⟨⟨w, hw⟩, hkeep⟩ := ih (u.withAnswer d)
    refine ⟨⟨w, ?_⟩, fun h => ?_⟩
    · rw [List.foldl_cons, hw, State.withAnswer]
      by_cases hd : i = d.1
      · rw [hd, State.ctx_setCtx_same]
      · rw [State.ctx_setCtx_other _ _ _ _ hd]
    · obtain ⟨hd, ht⟩ := List.forall_mem_cons.mp h
      rw [List.foldl_cons, hkeep ht, State.withAnswer, State.ctx_setCtx_other _ _ _ _ (Ne.symm hd)]

/-- Comparing the watches keeps all of a context but its wait, and that where it has no watch (R220). -/
theorem ctx_respond (s : State) (i : CtxId) :
    (∃ w, s.respond.ctx i = { s.ctx i with wait := w }) ∧ (¬ s.watched i → s.respond.ctx i = s.ctx i) := by
  rw [respond_eq, ← ctx_withoutReached s i]
  obtain ⟨hwait, hkeep⟩ := ctx_foldl_withAnswer ((s.tiles.flatMap (fun p => p.2.watches)).filterMap
    (fun w => (s.watchReached w).map (fun a => (w.owner, a)))) s.withoutReached i
  refine ⟨hwait, fun hno => hkeep fun d hd howner => hno ?_⟩
  obtain ⟨w, hw, hreached⟩ := List.mem_filterMap.mp hd
  obtain ⟨p, hp, hw⟩ := List.mem_flatMap.mp hw
  obtain ⟨a, -, rfl⟩ := Option.map_eq_some_iff.mp hreached
  exact ⟨p, hp, w, hw, howner⟩

theorem ctx_store (s : State) (l : List (Loc × Byte)) (i : CtxId) :
    (∃ w, (s.store l).ctx i = { s.ctx i with wait := w }) ∧ (¬ s.watched i → (s.store l).ctx i = s.ctx i) := by
  obtain ⟨hwait, hkeep⟩ := ctx_respond (s.writeLocs l) i
  rw [ctx_writeLocs] at hwait hkeep
  exact ⟨hwait, fun h => hkeep fun hw => h (watched_of_writeLocs hw)⟩

end Sys2Proof.Machine

/-! Stores (O20; R180 to R183, R214, R391). -/

namespace Sys2Proof.Machine

/-! Writes of host memory. -/

section Host

variable {s : State} {cells : List ((Nat × Loc) × Byte)} {own p q : Attr × Passing}

/-- While no record is kept, what a write carries is not asked. -/
theorem hostStores_inOrder (hk : s.record.keep = false) : s.hostStores (some p) cells = s.hostStores (some q) cells := by
  simp only [State.hostStores, hk, Bool.false_eq_true, if_false]

theorem readLoc_setMe (x : Ctx) (k : Loc) : (s.setMe x).readLoc k = s.readLoc k :=
  readLoc_congr (tile_setCtx Tile.spad (fun _ _ => rfl) s _ x) (tile_setCtx Tile.ws (fun _ _ => rfl) s _ x) rfl rfl k

/-- A request to the host writes no byte of the part. -/
theorem readLoc_hostStores (k : Loc) : (s.hostStores (some own) cells).readLoc k = s.readLoc k := by
  unfold State.hostStores
  refine foldl_keeps (fun u : State => u.readLoc k) _ (fun u b => ?_) _ _
  dsimp only
  split
  · rfl
  · exact readLoc_setMe _ _

theorem regs_hostStores : (s.hostStores (some own) cells).me.r = s.me.r := by
  unfold State.hostStores
  refine foldl_keeps (fun u : State => u.me.r) _ (fun u b => ?_) _ _
  dsimp only
  split
  · rfl
  · rw [State.me_setMe]
    rfl

/-- A byte of host memory with its address and its host address. -/
def hostCell (p : (Nat × Loc) × Byte) : Option (Nat × Nat × Byte) :=
  match p.1.2 with
  | .host h => some (p.1.1, h, p.2)
  | _ => none

/-- The request for those bytes of a write that lie in one block of 128 (R391), while no record is kept. -/
def State.hostBlock (hs : List (Nat × Nat × Byte)) (u : State) (b : Nat) : State :=
  match hs.filter (fun p => p.1 / 128 == b) with
  | [] => u
  | (a, h, x) :: part =>
    let v := u.hostSend (u.requestOf a h (.write ((h, x) :: part.map Prod.snd)) true)
    v.setMe { v.me with hostWrote := true }

theorem hostStores_eq_foldl (hk : s.record.keep = false) : s.hostStores (some own) cells
    = ((cells.filterMap hostCell).map (fun p => p.1 / 128)).eraseDups.foldl
      (fun u b => u.hostBlock (cells.filterMap hostCell) b) s := by
  unfold State.hostStores
  rw [hk]
  rfl

/-- Without bytes of host memory nothing is sent. -/
theorem hostStores_of_no_host (hk : s.record.keep = false) (h : ∀ c ∈ cells, c.1.2.atHost = false) :
    s.hostStores (some own) cells = s := by
  have hnone : cells.filterMap hostCell = [] := by
    refine List.filterMap_eq_nil_iff.mpr fun c hc => ?_
    have hc := h c hc
    unfold hostCell
    split
    next a ha => rw [ha] at hc; cases hc
    next => rfl
  rw [hostStores_eq_foldl hk, hnone]
  rfl

theorem filterMap_hostCell (l hs : List Nat) (bytes : List Byte) :
    ((l.zip (hs.map Loc.host)).zip bytes).filterMap hostCell = l.zip (hs.zip bytes) := by
  induction l generalizing hs bytes with
  | nil => rfl
  | cons a l ih =>
    cases hs with
    | nil => rfl
    | cons h hs =>
      cases bytes with
      | nil => rfl
      | cons x bytes => exact congrArg ((a, h, x) :: ·) (ih hs bytes)

/-- Bytes of one block are one request, which the context waits for at its next release at scope 3 (R391). -/
theorem hostStores_of_block (hk : s.record.keep = false) {a : Nat} {l hs : List Nat} {bytes : List Byte}
    (hhs : hs.length = (a :: l).length) (hbytes : bytes.length = (a :: l).length) (hblock : ∀ x ∈ l, x / 128 = a / 128) :
    let t := s.hostStores (some own) (((a :: l).zip (hs.map Loc.host)).zip bytes)
    t.hostReqs = s.hostReqs ++ [s.requestOf a (hs.headD 0) (.write (hs.zip bytes)) true] ∧ t.me.hostWrote = true := by
  obtain ⟨h, hs, rfl⟩ := List.exists_cons_of_length_eq_add_one hhs
  obtain ⟨x, bytes, rfl⟩ := List.exists_cons_of_length_eq_add_one hbytes
  have hpart : ∀ p ∈ l.zip (hs.zip bytes), p.1 / 128 = a / 128 := fun p hp => hblock _ (List.of_mem_zip hp).1
  have hall : ((a, h, x) :: l.zip (hs.zip bytes)).filter (fun p => p.1 / 128 == a / 128) = (a, h, x) :: l.zip (hs.zip bytes) :=
    List.filter_eq_self.mpr fun p hp => by
      rcases List.mem_cons.mp hp with rfl | hp
      · simp
      · simpa using hpart p hp
  have hsnd : (l.zip (hs.zip bytes)).map Prod.snd = hs.zip bytes :=
    List.map_snd_zip (by simp at hhs hbytes ⊢; omega)
  have hone : (((a, h, x) :: l.zip (hs.zip bytes)).map (fun p => p.1 / 128)).eraseDups = [a / 128] := by
    have hrest : ((l.zip (hs.zip bytes)).map (fun p => p.1 / 128)).filter (fun b => !b == a / 128) = [] := by
      refine List.filter_eq_nil_iff.mpr fun b hb => ?_
      obtain ⟨p, hp, rfl⟩ := List.mem_map.mp hb
      simp [hpart p hp]
    rw [List.map_cons, List.eraseDups_cons, hrest]
    rfl
  have hdone : s.hostStores (some own) (((a :: l).zip ((h :: hs).map Loc.host)).zip (x :: bytes))
      = s.hostBlock ((a, h, x) :: l.zip (hs.zip bytes)) (a / 128) := by
    rw [hostStores_eq_foldl hk, filterMap_hostCell]
    simp only [List.zip_cons_cons, hone]
    rfl
  intro t
  have ht : t = s.hostBlock ((a, h, x) :: l.zip (hs.zip bytes)) (a / 128) := hdone
  rw [ht, State.hostBlock, hall]
  dsimp only
  rw [hsnd]
  exact ⟨rfl, by rw [State.me_setMe]⟩

end Host

/-! A store of the executing context. -/

section Store

variable {s : State} {o : Bool} {e unit acc : Nat} {ord : MemOrd} {scope : Nat} {l : List Nat} {locs : List Loc}
  {bytes : List Byte} {u : Update} {t : State}

/-- An update that meets none of the context's own is done as it performs (R214, R391). -/
theorem storeUpdate_of_unclashed (h : s.Unclashed u) (ht : s.perform (s.postOf ord scope s.nextId u) = .ok t) :
    s.storeUpdate ord scope u = .ok t := by
  obtain ⟨hfree, hwide, hstrong, hlate⟩ := h
  have hclash (qs : List Posted) (hqs : qs ⊆ s.myTile.sideLog ++ s.myTile.posted) :
      (qs.any fun q => q.owner == s.cur && ((q.keys.any fun k => (s.postOf ord scope s.nextId u).keys.contains k)
        || (q.upd.toHost && u.toHost))) = false := by
    refine List.any_eq_false.mpr fun q hq => ?_
    by_cases howner : q.owner = s.cur
    · obtain ⟨hkeys, hhost⟩ := hfree q (hqs hq) howner
      have hnone : ∀ k ∈ q.keys, k ∉ (s.postOf ord scope s.nextId u).keys := hkeys
      simpa [hhost] using fun _ => hnone
    · simp [howner]
  have hlog := hclash _ (List.subset_append_left ..)
  have hposted := hclash _ (List.subset_append_right ..)
  have hwide' : s.onOwnWide (s.postOf ord scope s.nextId u) = false := hwide
  have hlate' : s.onLate (s.postOf ord scope s.nextId u).keys = false := hlate
  simp only [State.storeUpdate, hstrong, hwide', hlate', ht, hlog, hposted, Bool.or_self, Bool.false_eq_true, if_false]

/-- A store writes its bytes where they lie and sends those of host memory there (R180, R391). -/
theorem storeBytes_stored (hk : s.record.keep = false) (hlen : bytes.length = l.length)
    (hloc : s.locate s.agent true o e l = .ok locs) (h : s.Unclashed (.store o e unit acc (l.zip bytes))) :
    s.storeBytes o e unit acc ord scope (l.zip bytes) = .ok (s.stored l locs bytes) := by
  have hfst : (l.zip bytes).map Prod.fst = l := List.map_fst_zip hlen.ge
  have hsnd : (l.zip bytes).map Prod.snd = bytes := List.map_snd_zip hlen.le
  have hkeep : (s.store (locs.zip bytes)).record.keep = false := by rw [store_record, hk]
  refine storeUpdate_of_unclashed h ?_
  rw [perform_store_inOrder hk rfl (l := locs) (by rw [hfst]; exact hloc), hfst, hsnd, State.stored, hostStores_inOrder hkeep]

/-- A store that passes its checks. -/
theorem storeChecked_stored {strong : Bool} {sc : BitVec 5} {ea : Word} {pre : List Nat} {al : Except Stop Unit}
    (hk : s.record.keep = false) (hlen : bytes.length = l.length) (hw : s.WritesAt o e pre l al locs)
    (horder : s.order (releases ord || strong) sc ea = .ok ()) (h : s.Unclashed (.store o e unit acc (l.zip bytes))) :
    s.storeChecked o e unit acc ord strong sc ea pre al (l.zip bytes) = .ok (s.stored l locs bytes) := by
  obtain ⟨hpre, hweights, hloc⟩ := hw
  have hfst : (l.zip bytes).map Prod.fst = l := List.map_fst_zip hlen.ge
  simp only [State.storeChecked, hpre, hfst, hweights, horder, storeBytes_stored hk hlen hloc h, bind, Except.bind]

theorem order_of_release {sc : BitVec 5} {ea : Word} (hstrong : s.strongPending = false)
    (h : s.release sc.toNat ea = .ok ()) : s.order true sc ea = .ok () := by
  simp [State.order, hstrong, h, ready, bind, Except.bind]

theorem releases_eq_decide (ord : MemOrd) : releases ord = decide (ord = .rel ∨ ord = .sc) := by cases ord <;> rfl

theorem releases_relOrd (rel : Bool) : releases (relOrd rel) = rel := by cases rel <;> rfl

end Store

/-! What stored bytes leave. -/

section Stored

variable {s : State} {l : List Nat} {locs : List Loc} {bytes : List Byte}

/-- Every byte at no location of a store reads as before. -/
theorem readLoc_stored {k : Loc} (h : ∀ q ∈ locs, q.same k = false) : (s.stored l locs bytes).readLoc k = s.readLoc k := by
  rw [State.stored, readLoc_hostStores]
  exact readLoc_store_other s fun p hp => h _ (List.of_mem_zip hp).1

theorem regs_stored : (s.stored l locs bytes).me.r = s.me.r := by
  obtain ⟨tiles, slots, mem, hfields⟩ := store_fields s (locs.zip bytes)
  have hcur : (s.store (locs.zip bytes)).cur = s.cur := by rw [hfields]
  obtain ⟨⟨w, hctx⟩, -⟩ := ctx_store s (locs.zip bytes) s.cur
  rw [State.stored, regs_hostStores, State.me, hcur, hctx]
  rfl

theorem stored_of_no_host (hk : s.record.keep = false) (h : ∀ q ∈ locs, q.atHost = false) :
    s.stored l locs bytes = s.store (locs.zip bytes) :=
  hostStores_of_no_host (by rw [store_record, hk]) fun _ hc => h _ (List.of_mem_zip (List.of_mem_zip hc).1).2

/-- A store to one block of host memory is one request (R391). -/
theorem stored_host (hk : s.record.keep = false) {a : Nat} {l hs : List Nat}
    (hhs : hs.length = (a :: l).length) (hbytes : bytes.length = (a :: l).length) (hblock : ∀ x ∈ l, x / 128 = a / 128) :
    let t := s.stored (a :: l) (hs.map Loc.host) bytes
    t.hostReqs = s.hostReqs ++ [s.requestOf a (hs.headD 0) (.write (hs.zip bytes)) true] ∧ t.me.hostWrote = true := by
  intro t
  obtain ⟨tiles, slots, mem, hfields⟩ := store_fields s ((hs.map Loc.host).zip bytes)
  have hkeep : (s.store ((hs.map Loc.host).zip bytes)).record.keep = false := by rw [store_record, hk]
  have hreq : (s.store ((hs.map Loc.host).zip bytes)).requestOf a (hs.headD 0) (.write (hs.zip bytes)) true
      = s.requestOf a (hs.headD 0) (.write (hs.zip bytes)) true := by
    obtain ⟨⟨w, hctx⟩, -⟩ := ctx_store s ((hs.map Loc.host).zip bytes) s.cur
    have hcur : (s.store ((hs.map Loc.host).zip bytes)).cur = s.cur := by rw [hfields]
    have hvia : (s.store ((hs.map Loc.host).zip bytes)).via = s.via := by rw [hfields]; rfl
    have htime : (s.store ((hs.map Loc.host).zip bytes)).wstime = s.wstime := by rw [hfields]; rfl
    rw [State.requestOf, State.me, hcur, hctx, hvia, htime]
    rfl
  have hreqs : (s.store ((hs.map Loc.host).zip bytes)).hostReqs = s.hostReqs := by rw [hfields]
  obtain ⟨hsent, hwrote⟩ := hostStores_of_block (own := (plainAttr s.agent, s.passing)) hkeep hhs hbytes hblock
  rw [hreq, hreqs] at hsent
  exact ⟨hsent, hwrote⟩

end Stored

/-! Lists of addresses with their bytes. -/

/-- Lists of equal parts pair part by part. -/
theorem zip_flatMap {α β γ : Type} (l : List α) (f : α → List β) (g : α → List γ) (h : ∀ x ∈ l, (f x).length = (g x).length) :
    (l.flatMap f).zip (l.flatMap g) = l.flatMap (fun x => (f x).zip (g x)) := by
  induction l with
  | nil => rfl
  | cons x t ih =>
    obtain ⟨hx, ht⟩ := List.forall_mem_cons.mp h
    rw [List.flatMap_cons, List.flatMap_cons, List.flatMap_cons, List.zip_append hx, ih ht]

theorem length_span (ea : Word) (n : Nat) : (span ea n).length = n := by simp [span]

/-- The bytes of an aligned access lie in one block of 128. -/
theorem span_block {ea : Word} {sz : Size} (h : ea.toNat % sz.bytes = 0) {a : Nat} (ha : a ∈ span ea sz.bytes) :
    a / 128 = ea.toNat / 128 := by
  obtain ⟨i, hi, rfl⟩ := List.mem_map.mp ha
  have hi := List.mem_range.mp hi
  have hsize : sz.bytes ∈ [1, 2, 4, 8, 16] := by cases sz <;> decide
  generalize sz.bytes = n at h hi hsize
  simp only [List.mem_cons, List.not_mem_nil, or_false] at hsize
  obtain rfl | rfl | rfl | rfl | rfl := hsize <;> bv_omega

/-! The stores, once their checks have passed. -/

section Instructions

variable {g : Guard} {sz : Size} {o rel : Bool} {ord : MemOrd} {scope : BitVec 5} {mk : BitVec 3} {m : MemOp} {c p : SSrc}
  {v idx : VSrc} {scl : BitVec 2} {disp : BitVec 32} {s s1 s2 t : State} {ea x b : Word} {locs : List Loc}
  (hg : s.guard g = true)

include hg

theorem exec_st_of_store (hm : s.memEa m = .ok (ea, s1)) (hc : s1.readS c = .ok (x, s2))
    (hscope : s2.scopeCheck (ordered ord) scope.toNat (atHost ea) = .ok ())
    (hstore : s2.storeChecked o (viewSize sz) (unitSize o (viewSize sz) sz.bytes ea.toNat) sz.bytes ord false scope ea
      (span ea sz.bytes) (alignOrd (ordered ord) ea sz.bytes)
      ((span ea sz.bytes).zip (bytesOf sz.bytes (x.toNat + 2 ^ 64 * (s1.readHigh c).toNat))) = .ok t) :
    Completes (.st g sz o ord scope m c) s t 12 := by
  dsimp only [Completes, exec, execSt]
  refine runInstr_flow hg ?_
  simp only [hm, hc, hscope, cellsOf, length_span, hstore, bind, Except.bind]

theorem exec_vst_of_store (hm : s.memEa m = .ok (ea, s1)) (hscope : s1.scopeCheck rel scope.toNat (atHost ea) = .ok ()) :
    let ts := activeBytes (s.readM mk) (8 * sz.bytes)
    let l := byteAddrs ea ts
    (hstore : s1.storeChecked o (viewSize sz) (if o then viewSize sz else 4) 128 (relOrd rel) false scope ea (ea.toNat :: l)
      (aligned ea 128) (l.zip (ts.map (vecElem (s.readV v) 8))) = .ok t) →
    Completes (.vst g sz o rel scope mk m v) s (if ts ≠ [] then t else if regionOf ea.toNat = 0 then t.fenceFull scope.toNat
      else if rel then t.fenceReleases scope.toNat else t) 12 := by
  intro ts l hstore
  have hmask : activeBytes (s1.readM mk) (8 * sz.bytes) = ts := by rw [readM_congr (memEa_regs hm)]
  have hvec : s1.readV v = s.readV v := readV_congr (memEa_regs hm) v
  have hbytes : ts.map (fun i => BitVec.ofNat 8 (elem (s.readV v) 8 i)) = ts.map (vecElem (s.readV v) 8) :=
    List.map_congr_left fun i _ => ofNat_elem 8 i
  dsimp only [Completes, exec, execVst]
  refine runInstr_flow hg ?_
  have hl : byteAddrs ea ts = l := rfl
  simp only [hm, hscope, hmask, hvec, hbytes, hl, hstore, State.emptyVst, List.isEmpty_iff, ite_not, bind, Except.bind]

theorem exec_vstx_of_store (hp : s.readS p = .ok (b, s1)) :
    let lanes := activeLanes (s.readM mk)
    let lane (j : Nat) : Word := laneEa b (s.readV idx) scl disp j
    let l := lanes.flatMap (fun j => span (lane j) sz.bytes)
    let bytes := lanes.flatMap (fun j => bytesOf sz.bytes (vecElem (s.readV v) 32 j).toNat)
    (hscope : s1.scopeCheck rel scope.toNat (lanes.any (fun j => atHost (lane j))) = .ok ()) →
    (hregion : ∀ j ∈ lanes, regionOf (lane j).toNat ≠ 0) → (halign : ∀ j ∈ lanes, (lane j).toNat % sz.bytes = 0) →
    (hstore : s1.storeChecked o sz.bytes sz.bytes sz.bytes (relOrd rel) false scope
      ((lanes.map lane).headD (BitVec.allOnes 64)) l (.ok ()) (l.zip bytes) = .ok t) →
    Completes (.vstx g sz o rel scope mk p idx scl disp v) s t 12 := by
  intro lanes lane l bytes hscope hregion halign hstore
  have hmask : activeLanes (s1.readM mk) = lanes := by rw [readM_congr (readS_regs hp)]
  have hidx : s1.readV idx = s.readV idx := readV_congr (readS_regs hp) idx
  have hvec : s1.readV v = s.readV v := readV_congr (readS_regs hp) v
  have hcells : lanes.flatMap (fun j => cellsOf (span (lane j) sz.bytes) (elem (s.readV v) 32 j)) = l.zip bytes := by
    refine Eq.trans ?_ (zip_flatMap lanes _ _ fun j _ => by rw [length_span, length_bytesOf]).symm
    simp only [cellsOf, length_span, toNat_vecElem]
  have hfst : (l.zip bytes).map Prod.fst = l := by
    rw [← hcells, List.map_flatMap]
    simp only [cellsOf_map_fst]
    rfl
  have hcheck : checkAll (lanes.map fun j => (lane j).toNat) (fun a => a % sz.bytes == 0) .align = .ok () :=
    checkAll_of_forall fun a ha => by
      obtain ⟨j, hj, rfl⟩ := List.mem_map.mp ha
      exact beq_iff_eq.mpr (halign j hj)
  have hplain : (lanes.any fun j => regionOf (lane j).toNat == 0) = false := by simpa using hregion
  dsimp only [Completes, exec, execVstx]
  refine runInstr_flow hg ?_
  have hlane (j : Nat) : laneEa b (s.readV idx) scl disp j = lane j := rfl
  have hmap : lanes.map (laneEa b (s.readV idx) scl disp) = lanes.map lane := rfl
  simp only [hp, hmask, hidx, hvec, hlane, hmap, hscope, hplain, hcells, hfst, hcheck, hstore, bind, Except.bind]

end Instructions

end Sys2Proof.Machine

namespace Sys2Proof.Cube

open Sys2Proof.Machine

/-- Settles O20: a store that passes its checks writes its bytes at once, and the rest of the part reads as before. -/
theorem storesWriteTheirBytes : Obligations.StoresWriteTheirBytes := by
  unfold Obligations.StoresWriteTheirBytes
  refine ⟨?scalar, ?vector⟩
  case scalar =>
    intro g sz o ord scope m c s s1 s2 ea x locs hg hin hm hc n l sync bytes hscope hwrites horder hfree t
    have hord : ordered ord = sync := ordered_eq_decide ord
    have ⟨hkeep, _⟩ : s2.InOrder := inOrder_readS hc (inOrder_memEa hm hin)
    have hlen : bytes.length = l.length := by rw [length_bytesOf, ← length_span ea n]; rfl
    have hunit : unitSize o (viewSize sz) sz.bytes ea.toNat
        = if ea.toNat % n ≠ 0 then 1 else if o then Nat.min 4 n else n := by
      simp only [unitSize, bne_iff_ne, ne_eq]
      rfl
    refine ⟨?done, fun k => readLoc_stored, regs_stored, stored_of_no_host hkeep, fun hs hlocs halign => ?host⟩
    case done =>
      refine exec_st_of_store hg hm hc (hord ▸ hscope) (storeChecked_stored hkeep hlen ?_ ?_ (hunit ▸ hfree))
      · rw [hord]
        exact hwrites
      · rwa [Bool.or_false, releases_eq_decide]
    case host =>
      have ⟨_, _, hloc⟩ := hwrites
      have hhs : hs.length = l.length := by rw [← length_of_locate hloc, hlocs, List.length_map]
      obtain ⟨rest, hl⟩ := span_eq_cons (n := n) (by cases sz <;> decide) ea
      have hl : l = ea.toNat :: rest := hl
      rw [hl] at hhs hlen
      have hblock : ∀ a ∈ rest, a / 128 = ea.toNat / 128 := fun a ha =>
        span_block halign (by rw [show span ea sz.bytes = ea.toNat :: rest from hl]; exact List.mem_cons_of_mem _ ha)
      have ht : t = s2.stored (ea.toNat :: rest) (hs.map Loc.host) bytes := by rw [← hl, ← hlocs]
      rw [ht]
      exact stored_host hkeep hhs hlen hblock
  case vector =>
    intro g sz o rel scope mk m p idx c scl disp s s1 t1 ea b locs locx hg hin hm hp hsz n w e k ts l bytes lane lanes lx bx
    refine ⟨fun hscope horder hwrites hfree => ?row, fun hn hscope hregion halign hrelease hwrites hfree => ?lanes⟩
    case row =>
      have ⟨hkeep, _⟩ : s1.InOrder := inOrder_memEa hm hin
      refine exec_vst_of_store hg hm hscope (storeChecked_stored hkeep ?_ hwrites ?_ hfree)
      · rw [List.length_map, byteAddrs, List.length_map]
      · rwa [Bool.or_false, releases_relOrd]
    case lanes =>
      have ⟨hkeep, _⟩ : t1.InOrder := inOrder_readS hp hin
      have ⟨_, _, hstrong, _⟩ := hfree
      have hlane : lane = fun j => laneEa b (s.readV idx) scl disp j := funext fun j => (laneEa_eq ..).symm
      have horder : t1.order (releases (relOrd rel) || false) scope ((lanes.map lane).headD (BitVec.allOnes 64)) = .ok () := by
        rw [Bool.or_false, releases_relOrd]
        cases rel with
        | false => exact order_of_region hstrong scope (regionOf_headD hregion)
        | true => exact order_of_release hstrong (hrelease rfl)
      clear_value lane
      subst hlane
      refine exec_vstx_of_store hg hp hscope hregion halign (storeChecked_stored hkeep ?_ hwrites horder hfree)
      simp only [List.length_flatMap, length_span, length_bytesOf]

end Sys2Proof.Cube

/-! The record (O21; R191 to R211): which events a read returns, where a write stands, and what a read learns. -/

namespace Sys2Proof.Machine

/-! Events of a byte. -/

section Events

variable {e : WriteEvent} {k : Nat} {keys : List Nat} {v : Seen}

/-- An event that writes a byte writes one of the bytes around it. -/
theorem hits_of_mem (h : e.hits [k] = true) (hk : k ∈ keys) : e.hits keys = true := by
  obtain ⟨c, hc, hck⟩ := List.any_eq_true.mp h
  refine List.any_eq_true.mpr ⟨c, hc, ?_⟩
  simp only [List.contains_eq_mem, List.mem_singleton, decide_eq_true_eq] at hck ⊢
  exact hck ▸ hk

/-- An event whose byte was seen is seen at the bytes around it. -/
theorem seenAt_of_mem (h : e.hits [k] = true) (hk : k ∈ keys) (hv : (e.num, k) ∈ v) : e.seenAt v keys = true := by
  obtain ⟨c, hc, hck⟩ := List.any_eq_true.mp h
  simp only [List.contains_eq_mem, List.mem_singleton, decide_eq_true_eq] at hck
  refine List.any_eq_true.mpr ⟨c, hc, ?_⟩
  simp [hck, hk, hv]

end Events

/-! How many events an access passes over. -/

/-- The last of a list that fits, or what it began with. -/
theorem foldl_last_cases {α : Type} (p : α → Bool) (l : List α) (x : α) :
    l.foldl (fun best m => if p m then m else best) x = x
      ∨ ∃ m ∈ l, p m = true ∧ l.foldl (fun best m => if p m then m else best) x = m := by
  induction l generalizing x with
  | nil => exact .inl rfl
  | cons a t ih =>
    rw [List.foldl_cons]
    rcases ih (if p a then a else x) with h | ⟨m, hm, hp, h⟩
    · cases ha : p a with
      | true => exact .inr ⟨a, List.mem_cons_self, ha, by simpa [ha] using h⟩
      | false => exact .inl (by simpa [ha] using h)
    · exact .inr ⟨m, List.mem_cons_of_mem a hm, hp, h⟩

section Passable

variable {log : List WriteEvent} {may : WriteEvent → Bool} {fits : Nat → Bool} {n : Nat}

theorem passable_cases : passable log may fits n = 0
    ∨ passable log may fits n ≤ n ∧ (log.take (passable log may fits n)).all may = true := by
  rcases foldl_last_cases (fun m => (log.take m).all may && wholeCut log m && fits m)
    (List.range (Nat.min n log.length + 1)) 0 with h | ⟨m, hm, hp, h⟩
  · exact .inl h
  · have hpass : passable log may fits n = m := h
    have hle : m ≤ n := by
      have hlt := List.mem_range.mp hm
      exact (Nat.lt_succ_iff.mp hlt).trans (Nat.min_le_left n log.length)
    rw [hpass]
    simp only [Bool.and_eq_true] at hp
    exact .inr ⟨hle, hp.1.1⟩

/-- Every event that an access passes over may be passed over. -/
theorem may_of_passed {e : WriteEvent} (h : e ∈ log.take (passable log may fits n)) : may e = true := by
  rcases passable_cases (log := log) (may := may) (fits := fits) (n := n) with hzero | ⟨-, hall⟩
  · rw [hzero, List.take_zero] at h
    cases h
  · exact List.all_eq_true.mp hall e h

theorem passable_zero : passable log may fits 0 = 0 := by
  rcases passable_cases (log := log) (may := may) (fits := fits) (n := 0) with h | ⟨h, -⟩
  · exact h
  · exact Nat.le_zero.mp h

end Passable

/-! Reads (R195, R196, R211). -/

/-- A search by place finds nothing later than a fit. -/
theorem find?_zipIdx_le {α : Type} {l : List α} {p : α × Nat → Bool} {j : Nat} {a : α} (ha : l[j]? = some a)
    (hp : p (a, j) = true) : ∃ j' b, j' ≤ j ∧ l[j']? = some b ∧ p (b, j') = true ∧ l.zipIdx.find? p = some (b, j') := by
  obtain ⟨hj, rfl⟩ := List.getElem?_eq_some_iff.mp ha
  have hmem : (l[j], j) ∈ l.zipIdx := List.mem_zipIdx_iff_getElem?.mpr ha
  obtain ⟨q, hq⟩ := Option.isSome_iff_exists.mp (List.find?_isSome.mpr ⟨_, hmem, hp⟩)
  obtain ⟨hfit, i, hi, hat, hbefore⟩ := List.find?_eq_some_iff_getElem.mp hq
  have hlen : i < l.length := by simpa using hi
  have hq' : (l[i], i) = q := by simpa using hat
  subst hq'
  refine ⟨i, l[i], ?_, List.getElem?_eq_getElem hlen, hfit, hq⟩
  by_contra hlt
  have hno := hbefore j (by omega)
  simp [hp] at hno

section Read

variable {r : Record} {v : Seen} {may : WriteEvent → Bool} {c : Nat × Nat} {u : List Host.Cell} {i j k n : Nat} {x : Host.Cell}
  {e : WriteEvent}

theorem eventAt_no_older {log : List WriteEvent} {old : Bool} (he : log[j]? = some e) (hhits : e.hits [k] = true)
    (hold : e.kind = .engine → (e.num, k) ∈ v ∨ old = false) (hn : e.kind ≠ .engine → n ≤ j) :
    ∃ j' e', j' ≤ j ∧ log[j']? = some e' ∧ e'.hits [k] = true ∧ eventAt log v n old k = some e' := by
  have hfit : (e.hits [k] && (match e.kind with
      | .engine => v.contains (e.num, k) || !old
      | _ => decide (n ≤ j))) = true := by
    rw [hhits, Bool.true_and]
    split
    next hkind => rcases hold hkind with h | h <;> simp [h]
    next hkind => simpa using hn hkind
  obtain ⟨j', e', hle, hat, hfit', hfound⟩ := find?_zipIdx_le (p := fun p : WriteEvent × Nat => p.1.hits [k]
    && (match p.1.kind with
      | .engine => v.contains (p.1.num, k) || !old
      | _ => decide (n ≤ p.2))) he hfit
  refine ⟨j', e', hle, hat, (Bool.and_eq_true_iff.mp hfit').1, ?_⟩
  exact congrArg (Option.map Prod.fst) hfound

/-- How many of the newest events a read of one unit passes over. -/
def Record.passed (r : Record) (v : Seen) (may : WriteEvent → Bool) (choice : Nat) (u : List Host.Cell) : Nat :=
  passable r.log (fun e => !e.hits (u.map Prod.fst) || e.kind == .engine
    || (e.kind != .wide && may e && !e.seenAt v (u.map Prod.fst))) (fun _ => true) choice

theorem readUnit_getElem? : (r.readUnit v may c u)[i]? = u[i]?.map (fun x =>
    let e := eventAt r.log v (r.passed v may c.1 u) (c.2.testBit i) x.1
    (r.byteOf e x.1 x.2, e.map WriteEvent.num)) := by
  simp only [Record.readUnit, List.getElem?_map, List.getElem?_zipIdx, Option.map_map]
  rw [Nat.zero_add]
  rfl

/-- What a read returns of a byte is no older than an event that its reader has seen, and with no choice the newest. -/
theorem readUnit_no_older {b : Byte} {o : Option Nat} (hx : u[i]? = some x)
    (hr : (r.readUnit v may c u)[i]? = some (b, o)) (he : r.log[j]? = some e) (hhits : e.hits [x.1] = true)
    (hseen : (e.num, x.1) ∈ v ∨ c = (0, 0)) : ∃ j' e', j' ≤ j ∧ r.log[j']? = some e' ∧ e'.hits [x.1] = true
      ∧ o = some e'.num ∧ b = (aget e'.cells x.1).getD x.2 := by
  have hkey : x.1 ∈ u.map Prod.fst := List.mem_map_of_mem (List.mem_of_getElem? hx)
  have hold : e.kind = .engine → (e.num, x.1) ∈ v ∨ c.2.testBit i = false := fun _ => hseen.imp_right fun h => by simp [h]
  have hplace : e.kind ≠ .engine → r.passed v may c.1 u ≤ j := by
    intro hkind
    rcases hseen with hv | rfl
    · by_contra hlt
      have hmem : e ∈ r.log.take (r.passed v may c.1 u) :=
        List.mem_of_getElem? ((List.getElem?_take_of_lt (not_le.mp hlt)).trans he)
      simpa [hits_of_mem hhits hkey, seenAt_of_mem hhits hkey hv, hkind] using may_of_passed hmem
    · exact passable_zero.le.trans (Nat.zero_le j)
  obtain ⟨j', e', hle, hat, hhits', hevent⟩ := eventAt_no_older he hhits hold hplace
  rw [readUnit_getElem?, hx, Option.map_some, hevent] at hr
  cases hr
  exact ⟨j', e', hle, hat, hhits', rfl, rfl⟩

end Read

/-! Writes (R195, R196, R202). -/

/-- A first place in a list with one element put in. -/
theorem findIdx_insert_lt {α : Type} {a b : List α} {x : α} {p q : α → Bool} (hp : p x = true)
    (hq : q x = false) (hqa : ∀ y ∈ a, q y = false) : (a ++ [x] ++ b).findIdx p < (a ++ [x] ++ b).findIdx q := by
  have hat : (a ++ [x] ++ b)[a.length]? = some x := by simp
  obtain ⟨hlen, hget⟩ := List.getElem?_eq_some_iff.mp hat
  have hle : (a ++ [x] ++ b).findIdx p ≤ a.length := by
    by_contra hlt
    have hno := List.not_of_lt_findIdx (not_le.mp hlt)
    rw [hget, hp] at hno
    cases hno
  refine hle.trans_lt (List.lt_findIdx_of_not hlen fun i hi => ?_)
  rcases hi.lt_or_eq with hlt | rfl
  · have hmem : (a ++ [x] ++ b)[i] ∈ a := by
      simp [List.getElem_append_left, hlt]
    rw [hqa _ hmem]
    exact Bool.false_ne_true
  · rw [hget, hq]
    exact Bool.false_ne_true

section Write

variable {s : State} {a : Attr} {kind : EventKind} {v : Seen} {pass : Passing} {whole choice : Nat}
  {unit : List (Loc × Byte)} {k : Nat}

/-- An event all of whose bytes stand below the newest `n` is put in behind them. -/
theorem put_log {r : Record} {e : WriteEvent} {n : Nat} {now : List Host.Cell} (h : e.cells ≠ []) :
    (r.put e n (fun _ => true) now).log = r.log.take n ++ [e] ++ r.log.drop n := by
  simp [Record.put, h]

/-- A write puts its event into the record, behind newer ones that its writer has not seen. -/
theorem emit_log (hk : k ∈ unit.map (fun p => s.keyOf p.1)) : ∃ (n : Nat) (x : WriteEvent),
    (s.emit a kind v pass whole choice unit).2.record.log = s.record.log.take n ++ [x] ++ s.record.log.drop n
      ∧ x.num = s.nextId ∧ x.hits [k] = true
      ∧ ∀ f ∈ s.record.log.take n, f.hits [k] = true → (f.num, k) ∉ v := by
  have hcell : ∃ b, (k, b) ∈ unit.map (fun p => (s.keyOf p.1, p.2)) := by
    obtain ⟨p, hp, rfl⟩ := List.mem_map.mp hk
    exact ⟨p.2, List.mem_map_of_mem hp⟩
  obtain ⟨b, hcell⟩ := hcell
  refine ⟨_, _, put_log (List.ne_nil_of_mem hcell), rfl, List.any_eq_true.mpr ⟨_, hcell, by simp⟩, fun f hf hfhits hv => ?_⟩
  have hmay := may_of_passed hf
  simp [hits_of_mem hfhits hk, seenAt_of_mem hfhits hk hv] at hmay

/-- A write stands above every event of its bytes that its writer has seen (R195). -/
theorem emit_above {e : WriteEvent} (hnew : ∀ f ∈ s.record.log, f.num ≠ s.nextId) (he : e ∈ s.record.log)
    (hk : k ∈ unit.map (fun p => s.keyOf p.1)) (hv : (e.num, k) ∈ v) :
    (s.emit a kind v pass whole choice unit).2.record.log.findIdx (fun f => f.num == s.nextId && f.hits [k])
      < (s.emit a kind v pass whole choice unit).2.record.log.findIdx (fun f => f.num == e.num && f.hits [k]) := by
  obtain ⟨n, x, hlog, hnum, hhits, habove⟩ := emit_log (a := a) (kind := kind) (v := v) (pass := pass) (whole := whole)
    (choice := choice) hk
  rw [hlog]
  refine findIdx_insert_lt (by simp [hnum, hhits]) ?_ fun f hf => ?_
  · have hne : x.num ≠ e.num := hnum ▸ (hnew e he).symm
    simp [hne]
  · by_cases hnum' : f.num = e.num
    · have hmiss : f.hits [k] = false := by
        by_contra hhit
        exact habove f hf (by simpa using hhit) (hnum' ▸ hv)
      simp [hmiss]
    · simp [hnum']

end Write

/-! What a read leaves known (R195, R201, R205). -/

section Learn

variable {v : View} {q : Nat × Nat}

theorem mem_join {a b : Seen} : q ∈ Seen.join a b ↔ q ∈ a ∨ q ∈ b := by
  simp only [Seen.join, List.mem_append, List.mem_filter, List.contains_eq_mem, Bool.not_eq_true', decide_eq_false_iff_not]
  tauto

theorem mem_own_acquire {rs : List Release} : q ∈ (v.acquire rs).own ↔ q ∈ v.own ∨ ∃ r ∈ rs, q ∈ r.seen := by
  induction rs generalizing v with
  | nil => simp [View.acquire]
  | cons r t ih =>
    have hmeet : q ∈ (v.meet r.seen).own ↔ q ∈ v.own ∨ q ∈ r.seen := mem_join
    have hstep : v.acquire (r :: t) = (v.meet r.seen).acquire t := rfl
    rw [hstep, ih, hmeet]
    simp [or_assoc]

variable {s : State} {a : Attr} {accs : List (List Loc)} {got : Seen}

theorem viewRead_own_mem (h : q ∈ v.own ∨ q ∈ got) : q ∈ (s.viewRead v a accs got).own :=
  mem_own_acquire.mpr (.inl (mem_join.mpr h))

/-- An access that acquires learns what the releases that it meets pass on, where both name entries that hold the other. -/
theorem viewRead_own_of_release {acc : List Loc} {r : Release} (hacc : acc ∈ accs) :
    let keys := (acc.filter (fun l => (a.at [l]).acq)).map s.keyOf
    keys ≠ [] → r ∈ s.record.met keys (got.filter (fun p => keys.contains p.2)) → s.covers a.ag a.scope r.ag = true →
      s.covers r.ag r.scope a.ag = true → q ∈ r.seen → q ∈ (s.viewRead v a accs got).own := by
  intro keys hkeys hr hmine hits hq
  refine mem_own_acquire.mpr (.inr ⟨r, List.mem_flatMap.mpr ⟨acc, hacc, ?_⟩, hq⟩)
  have hsome : ((acc.filter (fun l => (a.at [l]).acq)).map s.keyOf).isEmpty = false := List.isEmpty_eq_false_iff.mpr hkeys
  simp only [hsome, Bool.false_eq_true, if_false]
  exact List.mem_filter.mpr ⟨hr, by rw [State.mutual, hmine, hits]; rfl⟩

theorem learnRead_view (hkeep : s.record.keep = true) :
    (s.learnRead a accs got).me.view = s.viewRead s.me.view a accs got := by
  simp [State.learnRead, hkeep]

end Learn

/-! Scopes (R205). -/

section Scopes

variable {s : State} {x y : Agent} (hx : x.slot < 64)

include hx

theorem covers_own (h : x.slot = y.slot) :
    (s.covers x 0 y = true ↔ x.jt = y.jt ∧ x.core = y.core) ∧ (s.covers x 1 y = true ↔ x.jt = y.jt)
      ∧ s.covers x 2 y = true ∧ s.covers x 3 y = true := by
  have hin : (x.slot == outside) = false := by simpa [outside] using hx.ne
  have hmine : (x.slot == y.slot) = true := by simpa using h
  simp [State.covers, hin, hmine]

theorem covers_other (hy : y.slot < 64) (h : x.slot ≠ y.slot) (n : Nat) : s.covers x n y = false := by
  have hin : (x.slot == outside) = false := by simpa [outside] using hx.ne
  have hout : (y.slot == outside) = false := by simpa [outside] using hy.ne
  have hother : (x.slot == y.slot) = false := by simpa using h
  simp only [State.covers, hin, hother, hout, Bool.false_and, Bool.false_or]
  split <;> rfl

end Scopes

end Sys2Proof.Machine

namespace Sys2Proof.Cube

open Sys2Proof.Machine

/-- Settles O21: bytes and contexts after a store, the places that a record's reads and writes may take, and what a read adds
to a view. -/
theorem storesReadBackAndTouchNothingElse : Obligations.StoresReadBackAndTouchNothingElse := by
  unfold Obligations.StoresReadBackAndTouchNothingElse
  refine ⟨?bytes, ⟨?reads, ?writes⟩, ?learns⟩
  case bytes =>
    intro s cells k b
    obtain ⟨tiles, slots, mem, hfields⟩ := store_fields s cells
    refine ⟨readLoc_store_other s, fun h => readLoc_store_last s cells b fun a => h a, fun i => (ctx_store s cells i).1,
      fun i h => (ctx_store s cells i).2 ?_, by rw [hfields], by rw [hfields], by rw [hfields]⟩
    rintro ⟨p, hp, w, hw, howner⟩
    exact h p hp w hw howner
  case reads =>
    intro r v may c u i j x b o e hx hr he hhits hseen
    exact readUnit_no_older hx hr he hhits hseen
  case writes =>
    intro s a kind v pass whole choice unit e k t newer hnew he _ hk hv
    have habove := emit_above (a := a) (kind := kind) (pass := pass) (whole := whole) (choice := choice) hnew he hk hv
    rwa [List.findIdx_eq_getD_findIdx?, List.findIdx_eq_getD_findIdx?] at habove
  case learns =>
    intro s a accs got hkeep t
    have hview : t.me.view = s.viewRead s.me.view a accs got := learnRead_view hkeep
    rw [hview]
    refine ⟨fun q hq => viewRead_own_mem (.inl hq), fun q hq => viewRead_own_mem (.inr hq), ?_, fun x y => covers_own,
      fun x y hx hy hne n _ => covers_other hx hy hne n⟩
    intro acc hacc keys hkeys r hr hmine hits q hq
    exact viewRead_own_of_release hacc hkeys hr hmine hits hq

end Sys2Proof.Cube
